-- ==== Sys2Proof/Word.lean ====
section
/-! DEFINITION. The word types of the MK9600 model: a parameter word, a payload word and a
WT32 value are 32 bits (00 R3, R8); bytes are 8 bits. -/

namespace Sys2Proof

/-- A 32-bit word: a parameter value, a payload word, a WT32 time (00 R3, R8). -/
abbrev Word := BitVec 32

/-- One byte. -/
abbrev Byte := BitVec 8

/-- One 12-bit wall-code or stored sample (03 R65, 05 R93). -/
abbrev Samp := BitVec 12

/-- A 128-bit string: a nonce, a truncated tag, a serial number (02 R32, R35; 20 R432). -/
abbrev W128 := BitVec 128

/-- A 256-bit string: a key or a full digest (02 R32; 20 R432). -/
abbrev W256 := BitVec 256

end Sys2Proof
end

