-- ==== Sys2Proof/Syntax.lean ====
section
/-! DEFINITION. The commands of the MK9600 block: one constructor of `Instr` per row of
spec/opcode_table.json, with what arrives with it (a Smiben packet, the fields of a received
message, a measured value, or the item a timer concerns). -/

namespace Sys2Proof

/-- A twin side or a rail (01 R12). -/
inductive Side where
  | A
  | B
  deriving DecidableEq, Repr

/-- How a UDP datagram reached the device (03 R54, R56; 02 R33): interface 0 to 7, the VID of its 802.1Q
tag if it has one, the address and port of the host, the address and port it was sent to, and whether it
came in IP fragments. An address below 2^32 is IPv4. -/
structure UdpIn where
  iface : Nat
  vlan : Option Nat
  addr : Nat
  port : Nat
  dst : Nat
  dport : Nat
  frag : Bool
  deriving DecidableEq, Repr

/-- How a Smiben packet reached the device (02 R33). -/
inductive Via where
  /-- A UDP datagram on a network interface. -/
  | udp (u : UdpIn)
  /-- Relayed down a chain, with the RAIL bit of its START block (02 R37). -/
  | relay (rail : Side)
  /-- The MGMT SPI port. -/
  | mgmt
  deriving DecidableEq, Repr

/-- A Smiben command packet as it arrives (02 R29, R30): the 32-byte header as one 256-bit
number whose bit 255 is the first bit on the wire, the payload words, the tag, and the number of
bytes received. The row of the table supplies the OPCODE field, so the opcode bits of `hdr` are
read by no meaning but that of UNKNOWN_OPCODE and the MGMT buffer. -/
structure Smb where
  via : Via
  hdr : BitVec 256
  payload : List Word
  tag : W128
  size : Nat
  deriving DecidableEq, Repr

/-- The CLASS, RAIL, GUEST and LEN of a START block (06 R116). -/
structure LinkStart where
  cls : Nat
  rail : Side
  guest : Bool
  len : Nat
  deriving DecidableEq, Repr

/-- The END and CRC of a TERM block (06 R116). -/
structure LinkEnd where
  endc : Byte
  crc : Word
  deriving DecidableEq, Repr

/-- How a packet ends: its TERM block, and whether another START came before it (`early`; 06 R118). -/
structure LinkTerm extends LinkEnd where
  early : Bool
  deriving DecidableEq, Repr

/-- What follows the START block of a packet: its data blocks and its end. -/
structure LinkRest extends LinkTerm where
  data : List (BitVec 64)
  deriving DecidableEq, Repr

/-- A CorsinLink packet as its blocks bring it (06 R116, R117). -/
structure LinkPkt extends LinkStart, LinkRest where
  deriving DecidableEq, Repr

/-- A packet put together from its START block, its data blocks and its end. -/
def LinkPkt.of (a : LinkStart) (data : List (BitVec 64)) (e : LinkTerm) : LinkPkt := ⟨a, ⟨e, data⟩⟩

/-- The fields of a Flume common header but its HCRC (05 R99). -/
structure FlumeHdr where
  typ : Nat
  level : Nat
  side : Side
  bcast : Bool
  frame : BitVec 16
  dna : BitVec 16
  route : BitVec 40
  length : Nat
  deriving DecidableEq, Repr

/-- One block of a region packet: its descriptor and its 1,152 bytes of block data (05 R101). -/
structure BlockIn where
  bx : Nat
  by_ : Nat
  bsig : Word
  inc : Bool
  data : List Byte
  deriving DecidableEq, Repr

/-- The region header and blocks of a region packet (05 R101). -/
structure RegionPkt where
  pidx : Nat
  repair : Bool
  full : Bool
  blocks : List BlockIn
  deriving DecidableEq, Repr

/-- One entry of a commit (05 R104). -/
structure CommitEnt where
  na : BitVec 16
  full : Bool
  npkt : Nat
  tsig : Word
  deriving DecidableEq, Repr

/-- A commit (05 R104). -/
structure CommitPkt where
  pt : Word
  epoch : Byte
  ents : List CommitEnt
  deriving DecidableEq, Repr

/-- One certificate entry (05 R109). -/
structure CertEnt where
  region : Nat
  lastf : BitVec 16
  deriving DecidableEq, Repr

/-- A certificate packet (05 R109). -/
structure CertPkt where
  issue : Word
  epoch : Byte
  ents : List CertEnt
  deriving DecidableEq, Repr

/-- A report of a tile (05 R106). KIND 1 RECEIVED, 2 APPLIED, 3 FAILED. -/
structure Report where
  kind : Nat
  late : Bool
  npkt : Nat
  tsig : Word
  edge : Word
  epoch : Byte
  frame : BitVec 16
  deriving DecidableEq, Repr

/-- One sample row data header of an RTP payload (03 R62, R63): data length in octets, field bit, line number,
continuation bit, offset in pixels. -/
structure SrdHdr where
  len : Nat
  second : Bool
  line : Nat
  cont : Bool
  offset : Nat
  deriving DecidableEq, Repr

/-- A UDP datagram with an RTP packet (03 R62 to R67): interface, VID of its tag, source, destination group
and port, the RTP header, the 16-bit extension of the sequence number, the sample row data headers and the
sample data that follows them. -/
structure RtpPkt where
  iface : Nat
  vlan : Option Nat
  src : BitVec 128
  group : BitVec 128
  udp : Nat
  version : Nat
  marker : Bool
  ptype : Nat
  seq : BitVec 16
  ts : Word
  ssrc : Word
  ext : BitVec 16
  srd : List SrdHdr
  data : List Byte
  deriving DecidableEq, Repr

/-- What an Ethernet frame carries, as the ports sort it (03 R58). -/
inductive FrameKind where
  | arp
  | nd
  | igmp
  | mld
  | echo
  | otherIcmp
  | tcp
  | udp (dst : Nat) (port : Nat) (frag : Bool)
  | pause
  | ptp
  | other
  deriving DecidableEq, Repr

/-- Where a frame came in: the interface, and the VID of its tag. -/
structure NetIn where
  iface : Nat
  vlan : Option Nat
  deriving DecidableEq, Repr

/-- Where a PTP message came in, and the domain slot it is for (11 R243). -/
structure PtpIn where
  slot : Nat
  at_ : NetIn
  deriving DecidableEq, Repr

/-- What an Announce says of its grandmaster (11 R243). -/
structure ClockSet where
  priority1 : Nat
  clockClass : Nat
  accuracy : Nat
  variance : Nat
  priority2 : Nat
  deriving DecidableEq, Repr

/-- An Ethernet frame as the MAC filter sees it (03 R58): whether its FCS is good, its destination MAC, and what it
carries. -/
structure EthFrame where
  fcsOk : Bool
  dst : BitVec 48
  kind : FrameKind
  deriving DecidableEq, Repr

/-- What a membership query asks (03 R57): its family, its group (0 for all), the older version it is of (0 for
none, 1 IGMPv1 or MLDv1, 2 IGMPv2) and the sources it names (none for all). -/
structure GroupQuery where
  v6 : Bool
  group : BitVec 128
  compat : Nat
  sources : List (BitVec 128)
  deriving DecidableEq, Repr

/-- A group and the source it is joined for. -/
structure Membership where
  group : BitVec 128
  source : BitVec 128
  deriving DecidableEq, Repr

/-- The addresses of a datagram. -/
structure Addrs where
  src : BitVec 128
  dst : BitVec 128
  deriving DecidableEq, Repr

/-- The four training words of a CorsinLink partner (06 R122). -/
structure TrainWords where
  role : Nat
  side : Side
  lanes2 : Bool
  feccap : Bool
  full : Bool
  flHigh : Nat
  flLow : Nat
  smHigh : Nat
  smLow : Nat
  place : BitVec 40
  na : BitVec 16
  nav : Bool
  deriving DecidableEq, Repr

/-- One eye scan of a CorsinLink port (06 R123): width in 1/64 UI and height in 4 mV steps. -/
structure Eye where
  w0 : Nat
  h0 : Nat
  w1 : Nat
  h1 : Nat
  deriving DecidableEq, Repr

/-- The control header and the message of a CorsinLink control packet (06 R129), with RAIL and GUEST of its
START block. -/
structure CtlPkt where
  ctype : Nat
  bcast : Bool
  upward : Bool
  cseq : BitVec 16
  route : BitVec 40
  rail : Side
  guest : Bool
  msg : List Byte
  deriving DecidableEq, Repr

/-- What a report on the latencies of a chain says of a place: its tile's UP latency, tFWD and Flume levels after a
training of its UP (06 R127; 05 R112); the part of one crossing device in the change of latency of every tile at or
below it, with the further change of the tiles beyond its DN and its BR (06 R137); or that it and the tiles below it are cut off (06 R135; 05 R108). -/
inductive LatReport where
  | hop (lat fwd flHigh flLow : Nat)
  | crossed (rail : Side) (change dn br : Int)
  | lost
  deriving DecidableEq, Repr

/-- UNCROSS as it arrives: the port whose crossing ends, which at a sender is the chain, and the place below the break
(06 R138). -/
structure UncrossIn where
  port : Nat
  below : BitVec 64
  deriving DecidableEq, Repr

/-- A port and the lanes its detector sees a signal on (06 R121). -/
structure SignalIn where
  port : Nat
  two : Bool
  deriving DecidableEq, Repr

/-- What a port measures while training words are exchanged: its eye scans in their order (06 R123) and the skew of
its lanes in blocks (06 R115). -/
structure TrainIn where
  scans : List Eye
  skew : Nat
  deriving DecidableEq, Repr

/-- A training step of a port (06 R121). -/
structure PortStep where
  port : Nat
  step : Nat
  deriving DecidableEq, Repr

/-- The partner's figures of a latency loop: the sum of its Y and their spread, in ns (06 R127). -/
structure LoopSum where
  sumY : Nat
  spreadY : Nat
  deriving DecidableEq, Repr

/-- A break of a chain of a sender: the chain and the place below it (06 R138). -/
structure ChainBreak where
  chain : Nat
  below : BitVec 64
  deriving DecidableEq, Repr

/-- An invalid sync header: port, lane, the count of the block, and whether the lane has its lock again (06 R125). -/
structure HeaderErr where
  port : Nat
  lane : Nat
  block : Nat
  regained : Bool
  deriving DecidableEq, Repr

/-- A pixel of the picture, by row and column. -/
structure PixelAt where
  row : Nat
  col : Nat
  deriving DecidableEq, Repr

/-- REGION_SET fields (10 R223). -/
structure RegionSet where
  region : Nat
  en : Bool
  stalewd : Bool
  xb : Nat
  yb : Nat
  wb : Nat
  hb : Nat
  limit : Nat
  deriving DecidableEq, Repr

/-- A PROOF message (10 R236). -/
structure ProofMsg where
  faults : Bool
  pixm : Bool
  lit : Bool
  holder : Bool
  na : BitVec 16
  frame : BitVec 16
  stale : BitVec 16
  show_ : Word
  mapsig : Word
  lsum : Word
  fsig : Word
  wdrawn : BitVec 16
  epoch : Byte
  service : Byte
  deriving DecidableEq, Repr

/-- Interpolated coefficients of one board: 3 gains and 9 cross terms (07 R157, 12 R273). -/
structure BoardCoef where
  g : List Int
  x : List Int
  deriving DecidableEq, Repr

/-- One point of a board temperature table (07 R159). -/
structure TPoint where
  t : Int
  g : List Int
  x : List Int
  deriving DecidableEq, Repr

/-- COEF (12 R273). -/
structure CoefMsg where
  edge : Word
  slg : Nat
  boards : List BoardCoef
  deriving DecidableEq, Repr

/-- CMP (12 R281). XMAPSIG is computed by each twin after both INCMAPs are held, which its sender may not yet do, so
beside the fields of the message it brings the front-map BSIGs from which XMAPSIG is then computed (log 12). -/
structure CmpMsg where
  incv : Bool
  show_ : Word
  xmapsig : Word
  bsigs : List Word
  fsig : Word
  cfgsig : Word
  corsig : Word
  incmap : List Bool
  lsig : List Word
  deriving DecidableEq, Repr

/-- HELLO (12 R273). -/
structure HelloMsg where
  side : Side
  role : Nat
  fwver : Word
  flHigh : Nat
  flLow : Nat
  smHigh : Nat
  smLow : Nat
  place : BitVec 40
  cfgsig : Word
  lock : Bool
  deriving DecidableEq, Repr

/-- HEARTBEAT (12 R273). -/
structure BeatMsg where
  held : Bool
  ownLow : Bool
  chk : BitVec 6
  mode : Nat
  lastEdge : Word
  deriving DecidableEq, Repr

/-- A change ID (12 R273). -/
abbrev ChangeId := BitVec 64

/-- One entry of the failed-lamp map as LAMPSTATE and STATE carry it: lamp index, open and short
failed bits, confirmation counts, and the proof age in ns, none when it has run out (09 R209,
R210; 12 R273, R289). -/
structure LampEnt where
  lamp : Nat
  openFail : Bool
  shortFail : Bool
  openCnt : Nat
  shortCnt : Nat
  age : Option Nat
  deriving DecidableEq, Repr

/-- One region state as STATE carries it (12 R289). -/
structure RegionSt where
  region : Nat
  stale : Bool
  deadline : Option Nat
  issue : Option Nat
  deriving DecidableEq, Repr

/-- One Badger field state as STATE carries it: number, live, expired, value state, data words of
the last applied value, deadline (12 R289). -/
structure FieldSt where
  field : Nat
  live : Bool
  expired : Bool
  vstate : Nat
  words : List Word
  deadline : Option Nat
  deriving DecidableEq, Repr

/-- A user glyph (08 R174): index, size code, coverage bytes as words. -/
structure Glyph where
  index : Nat
  size : Nat
  words : List Word
  deriving DecidableEq, Repr

/-- A change of the Badger record (08 R170, R171, R174; 14 R321). -/
inductive BdgChange where
  | params (pairs : List (Nat × Word))
  | define (field : Nat) (words : List Word)
  | remove (field : Nat)
  | glyph (g : Glyph)
  | erase (index : Nat)
  deriving DecidableEq, Repr

/-- One entry of a value packet (08 R175). -/
structure ValEnt where
  field : Nat
  vstate : Nat
  words : List Word
  deriving DecidableEq, Repr

/-- What a change that waits for a frame edge does (08 R170 to R178, R187; 09 R212, R213;
10 R228; 14 R319 to R321; 04 R80). `slg` is a raise of the Sluice factor (17 R380), `boards` the
loaded data of boards (18 R401). -/
inductive EdgeWhat where
  | params (pairs : List (Nat × Word))
  | values (at_ : Word) (ents : List ValEnt)
  | badger (c : BdgChange)
  | engine (n : Nat) (words : List Word)
  | test (words : List Word)
  | expire (field : Nat)
  | region (r : Nat) (stale : Bool)
  | policy (region : Nat) (pol : Nat)
  | fault (region : Nat) (inFault : Bool)
  | commit (late : Bool) (at_ : Nat) (sets : List (Nat × List Word))
  | layer (n : Nat) (words : List Word)
  | slg (v : Nat)
  | boards (l : List Nat)
  deriving DecidableEq, Repr

/-- The holder's STATE copy, assembled from its segments (12 R289). -/
structure StateMsg where
  lamps : List LampEnt
  fields : List FieldSt
  regions : List RegionSt
  policies : List (Nat × Nat × Bool)
  coef : CoefMsg
  staged : List (ChangeId × Word × EdgeWhat)
  edge : Word
  held : List (Nat × List Word)
  waiting : List (Word × List (Nat × List Word))
  owl : List (Nat × Nat × Bool)
  deriving DecidableEq, Repr

/-- A pick of a layer in CANVAS: layer, stream, RTP timestamp, or no source (12 R287). -/
structure Pick where
  layer : Nat
  stream : Nat
  ts : Option Word
  deriving DecidableEq, Repr

/-- What a reset release samples and the boot measures (18 R387, R388, R396, R400; 20 R437; 21 R444):
the straps, TAMPER_N, which of the two slots the ROM's verification passes, the RC count before and after
the trim, the die sensors, the failing words of the boot march as (bank, word, element), the lamp-board
headers, the sampler zeros of the lanes of the role in order, the gain error and ZERO of item 2, the
known-answer test. -/
structure BootIn where
  pers : Bool
  side : Side
  xsel : Bool
  rcvy : Bool
  tmode : Bool
  tamperLow : Bool
  slotAOk : Bool
  slotBOk : Bool
  rcCount : Nat
  rcCountTrimmed : Nat
  sensors : List Int
  marchFaults : List (Nat × Nat × Nat)
  headers : List (Nat × Option (BitVec 64 × Nat × Nat))
  laneZeros : List (Option Int)
  gainErr : Option Int
  limonZero : Nat
  katOk : Bool
  deriving DecidableEq, Repr

/-- The measurement a calibration run takes (18 R396): none when it cannot be made. -/
structure CalIn where
  lanes : List (Nat × Option Int)
  gainErr : Option Int
  zero : Nat
  rcCount : Option Nat
  rcTrimmed : Nat
  sensors : List (Option Int)
  deriving DecidableEq, Repr

/-- What the outside answers a command that a timed cycle runs (11 R262): the measurements of CAL_RUN, how
an LSB_I2C transaction ends with the bytes read, and the bytes an LSB_FLASH read returns. -/
structure FireIn where
  cal : CalIn
  i2c : Nat
  i2cBytes : List Byte
  flash : List Byte
  deriving DecidableEq, Repr

/-- A request at a port of an SRAM bank (16 R351 to R353, R358, R362): port 0 is that of the fabric and the control
cores, `secure` tells that it comes from a control core in secure mode, the SHA-256 engine or the verifier. `cycle` is
the CCLK cycle in which it is presented, counted from the event that carries it; `write` holds the first byte in the
word and the bytes, `err` what the check code of the word gives: 0 clean, 1 a single-bit error, 2 uncorrectable. -/
structure SramReq where
  port : Nat
  secure : Bool
  cycle : Nat
  bank : Nat
  word : Nat
  write : Option (Nat × List Byte)
  err : Nat
  deriving DecidableEq, Repr

/-- The commands of the block, one constructor per row of spec/opcode_table.json. -/
inductive Instr where
  -- host commands and Smiben sessions (02, 13)
  | sessionOpen (p : Smb)
  | sessionClose (p : Smb)
  | sessionIdleClose (sess : Nat)
  | sessionAnnounce (rail : Side) (sess : Nat) (keyc : Nat) (na : BitVec 16) (side : Side)
      (nh nd : W128) (withdraw : Bool)
  | ping (p : Smb)
  | claim (p : Smb)
  | release (p : Smb)
  | noticeFetch (p : Smb)
  | reset (p : Smb)
  | enrol (p : Smb)
  | unenrol (p : Smb)
  | linkRetrain (p : Smb)
  | paramRead (p : Smb)
  | paramWrite (p : Smb)
  | paramSave (p : Smb)
  | tilGeomWrite (p : Smb)
  | w1cWrite (p : Smb) (settingNow : List (Nat × Word))
  | streamDefine (p : Smb)
  | streamRemove (p : Smb)
  | streamRead (p : Smb)
  | portMode (p : Smb)
  | portRetrainComplete (port : Nat)
  | layerSet (p : Smb)
  | commitAt (p : Smb)
  | holdDiscard (p : Smb)
  | tileRect (p : Smb)
  | rectRead (p : Smb)
  | regionDefine (p : Smb)
  | regionRead (p : Smb)
  | owlWatch (p : Smb)
  | owlRead (p : Smb)
  | proofRead (p : Smb)
  | fieldDefine (p : Smb)
  | fieldRemove (p : Smb)
  | fieldRead (p : Smb)
  | badgerValues (p : Smb)
  | glyphWrite (p : Smb)
  | glyphErase (p : Smb)
  | lampDrive (p : Smb)
  | engineSet (p : Smb)
  | testPattern (p : Smb)
  | lampPolicy (p : Smb)
  | lampClear (p : Smb)
  | lampFails (p : Smb)
  | lsbI2c (p : Smb) (result : Nat) (bytes : List Byte)
  | lsbFlash (p : Smb) (read : List Byte)
  | glyphRomRead (p : Smb)
  | timeRead (p : Smb)
  | trigOutSet (p : Smb)
  | trigInRead (p : Smb)
  | cycleSet (p : Smb)
  | cmpFree (p : Smb)
  | pairHandover (p : Smb)
  | pairStatus (p : Smb)
  | pairClear (p : Smb)
  | sluiceRead (p : Smb)
  | thermalRead (p : Smb)
  | railRead (p : Smb)
  | calRun (p : Smb) (m : CalIn)
  | calRead (p : Smb)
  | matrixWrite (p : Smb)
  | matrixSave (p : Smb)
  | ttabLoad (p : Smb)
  | fwBegin (p : Smb)
  | fwBlock (p : Smb)
  | fwVerify (p : Smb)
  | fwStatus (p : Smb)
  | fwActivate (p : Smb)
  | fwConfirm (p : Smb)
  | fwAbort (p : Smb)
  | recRead (p : Smb)
  | recClear (p : Smb)
  | recSnapAt (p : Smb)
  | devInfo (p : Smb)
  | attest (p : Smb)
  | keyProvision (p : Smb)
  | lifecycleSet (p : Smb)
  | recoveryEnter (p : Smb)
  | recoveryWrite (p : Smb)
  | recoveryBoot (p : Smb)
  | unknownOpcode (p : Smb)
  | summaryGatherTimeout (gather : Nat)
  -- MGMT SPI (02 R33, R34; 21 R446)
  | mgmtWritePacket (p : Smb)
  | mgmtReadPacket
  | mgmtReadStatus
  | gpioModeSet (pin mode : Byte)
  | gpioRead (balls : BitVec 16)
  -- network ports (03)
  | netFrameDrop (at_ : NetIn) (f : EthFrame)
  | arpNdReceived (at_ : NetIn) (fam : Nat) (op : Nat) (mac : BitVec 48) (addr : BitVec 128)
  | dadTimer (iface fam : Nat) (interval : Nat)
  | igmpMldQuery (at_ : NetIn) (q : GroupQuery) (maxResp delay : Nat)
  | membershipReportTimer (iface : Nat) (m : Membership)
  | icmpEchoRequest (at_ : NetIn) (ip : Addrs) (body : List Byte)
  | pauseFrame (iface : Nat)
  | rtpPacketReceived (r : RtpPkt)
  | ssrcLockRelease (stream : Nat) (pathB : Bool)
  | pathDown (stream : Nat) (pathB : Bool)
  | mergeWindowClose (stream : Nat) (ts : Word)
  -- time (11)
  | ptpSync (rx : PtpIn) (seq : BitVec 16) (twoStep : Bool) (t1 t2 corr : Int) (logSync : Int)
  | ptpFollowUp (rx : PtpIn) (seq : BitVec 16) (t1 corr : Int)
  | ptpDelayResp (rx : PtpIn) (id : Byte) (t4 corr : Int) (logMin : Int)
  | ptpAnnounce (rx : PtpIn) (set : ClockSet) (steps : Nat) (gm : BitVec 64) (src : BitVec 80)
      (interval : Nat)
  | delayReqTimer (slot : Nat)
  | tsqEntryExpire (port : Nat) (id : Byte)
  | announceTimeout (slot : Nat)
  | quarantineEnd (slot : Nat)
  | herrLimit
  | markSendTimer
  | secondsReceived (tw : Bool) (secs : BitVec 48)
  | markReceived (tw : Bool) (epoch : Byte) (valid : Bool) (subns : Nat) (wt : Word) (rxSub : Nat)
  | markSourceLoss (tw : Bool)
  | validHoldExpire
  | trigInEdge (input : Nat) (rising : Bool) (subns : Nat)
  | comparatorFire (k : Nat) (x : FireIn)
  -- canvas and delivery at the sender (04, 05, 10)
  | canvasLatch
  | canvasFrameStart
  | canvasFrameComplete
  | deliveryStart
  | flumeEmit (chain : Nat)
  | nackReceived (chain : Nat) (start : LinkStart) (data : List (BitVec 64)) (term : LinkTerm)
  | reportReceived (chain : Nat) (start : LinkStart) (rest : LinkRest)
  | repairTimeout (chain : Nat) (na : BitVec 16)
  | deliveryEdgeReached
  | certInstant
  | resyncReqReceived (na : BitVec 16) (reason : Nat)
  | proofReceived (m : ProofMsg)
  | proofSilenceTimeout (na : BitVec 16)
  | latencyReportReceived (chain : Nat) (place : BitVec 64) (m : LatReport)
  -- Flume at the tile (05, 06, 07, 10)
  | flumePacketForward (start : LinkStart) (data : List (BitVec 64)) (term : LinkTerm)
  | upstreamFlumeForward (fromBr arrived : Bool) (start : LinkStart) (data : List (BitVec 64)) (early : Bool)
      (term : LinkEnd)
  | regionPacketReceived (start : LinkStart) (rest : LinkRest)
  | commitReceived (start : LinkStart) (rest : LinkRest)
  | certificateReceived (start : LinkStart) (rest : LinkRest)
  | deliveryIdleFail
  | frameEdge
  | correctionPassEnd
  | matrixRowReload (px : PixelAt) (crcOk : Bool)
  -- lamp port (09)
  | refreshStart (lrbLow : List (Nat × Nat))
  | keepalivePulse
  | groupRowWrite (g r : Nat)
  | showCutoff
  | showInstant
  | statusReadoutDone (g r : Nat) (short : Bool) (bits : List (List Bool))
  | proofAgeExpire (lamp : Nat)
  | sensorPoll (raws : List (Nat × Option (BitVec 16)))
  | sensorValidityExpire (k : Nat)
  | qspiFlashDone
  | qspiBusyTimeout
  -- CorsinLink (06)
  | signalDetect (x : SignalIn)
  | trainingWordExchange (port : Nat) (w : TrainWords) (m : TrainIn)
  | trainingStepTimeout (x : PortStep)
  | rateSwitch (port : Nat) (first : Option Eye) (again : List Eye) (fec2 : Bool)
  | trainingRetryTimer (port : Nat)
  | eyeScanTimer (port : Nat) (eye : Eye)
  | linkDown (port : Nat)
  | controlPacketReceived (port : Nat) (k : LinkPkt)
  | ackReceived (port : Nat) (cum sack : BitVec 16)
  | arqRetransmitTimeout (port : Nat) (cseq : BitVec 16)
  | loopReqReceived (port : Nat) (id : Byte) (residence : Nat)
  | loopRspReceived (port : Nat) (id : Byte) (residence t1 t4 : Nat) (y : LoopSum)
  | brSignalSample (port : Nat) (signal : Bool)
  | crossDownReceived (port : Nat)
  | crossUpReceived
  | crossAnswerReceived (down : Bool) (port : Nat) (grant : Bool)
  | guestPacketReceived (port : Nat) (k : LinkPkt)
  | revertStableElapsed (x : ChainBreak)
  | uncrossReceived (m : UncrossIn)
  | railYieldReceived (on : Bool)
  -- freshness (10, 08)
  | regionSetReceived (r : RegionSet)
  | regionDeadline (region : Nat)
  | fieldDeadline (field : Nat)
  | owlCheck (watch : Nat)
  | owlFreeze (watch : Nat)
  -- twin pair (12)
  | helloSend
  | helloReceived (m : HelloMsg)
  | leaseRenewal
  | heartbeatSend
  | heartbeatReceived (m : BeatMsg)
  | heartbeatLoss
  | stepHoldEnd
  | leaseExpiry
  | fatalCheckFail (bit : Nat)
  | ownNChange (high : Bool)
  | padActivity
  | guardEnd
  | claimArbitration (sampledLow : Bool)
  | acceptReceived (id : ChangeId) (tick : Word)
  | agreeTimeout (id : ChangeId)
  | edgeSetReceived (id : ChangeId) (edge : Word)
  | coefReceived (m : CoefMsg)
  | cmpReceived (m : CmpMsg)
  | cmpPartnerTimeout (shown : Word)
  | verdictReceived (code : Nat) (failed : Byte)
  | verdictTimeout
  | handoverReqReceived (b0 : Word)
  | handoverAckReceived (b0 : Word) (accept : Bool)
  | handoverAckTimeout
  | handoverBoundary
  | handoverClaimBack
  | stateReceived (m : StateMsg)
  | delivReceived (start : Word) (frame : BitVec 16)
  | delivTimeout
  | canvasMsgReceived (start : Word) (picks : List Pick) (incs : List (Nat × Nat)) (overflow : Bool)
  | canvsigReceived (start : Word) (dsigs : List (BitVec 16 × Word))
  | lampstateReceived (ents : List LampEnt)
  -- Sluice, thermal, boot, rails, clocks (17, 18)
  | sluiceGrant
  | sluiceWaitTimeout (req : Nat)
  | slgRaise
  | thermalConversion (raws : List Int)
  | throttleStepLeave
  | thermalRestart
  | powerOnResetRelease (b : BootIn)
  | boardLoadDone (board : Nat) (ok : Bool) (table : List TPoint) (tableOk : Bool)
      (matrix : List (List Int))
  | railThresholdCross (rail : Nat) (mv : Nat)
  | pfailAssert
  | nvStopLift
  | violNominalLatch (mv : Nat)
  | xinLoss (lengthNs : Nat)
  | pllLossOfLock (pll : Nat)
  | freqCheckWindow (cclk lclk tclk : Nat)
  -- DRAM (15)
  | dramTrainingStepTimeout (ch step : Nat)
  | dramTrainingDone (ch dens : Nat) (rd wr : List (List Nat))
  | dramChannelRetry (ch : Nat)
  | dqsOscRead (ch : Nat) (drift : Int)
  | mr4Read (ch : Nat) (refreshNs : Nat) (hot : Bool)
  | dramRefresh (ch bank : Nat) (postpone : Bool)
  | dramRequest (port : Nat) (addr : Nat) (write : Option (List Byte)) (len : Nat)
  | dramReadReturn (tag : Nat) (outcome : Nat)
  | selfRefreshEntry (ch : Nat)
  | scrubStep (outcome : Nat)
  | commandPathError (source ch : Nat)
  | freezeRecovery
  -- SRAM march (16)
  | marchGranuleLock (bank : Nat) (diff1 diff2 : Bool) (word element : Nat) (reqs : List SramReq)
  | marchPeriod
  -- flash and firmware (19), recorder and security (20)
  | flashOperationDone (ok : Bool)
  | downloadIdleTimeout
  | trialDeadline
  | migrationFallback
  | bootLoopClear
  | archiveCopy
  | checkpointTimer
  | tamperAssert
  | tamperRelease
  | tamperKeyReload
  | netLinkChange (iface : Nat) (link : Bool) (align : Bool)
  | powerLoss
  | railRecovery (rail : Nat) (mv : Nat)
  | syncHeaderError (x : HeaderErr)
  | resolutionChecksDone (failed : Byte)
  | lampEraseSuspendTimeout
  | marchBankDone (bank : Nat) (failed : Option (Nat × Nat))
  | healthCheckTimeout (fw : Bool)
  | pipelineKatTimer (pass : Bool)
  | otpProgramDone
  | entropyHealthChange (pass : Bool)
  | secureWipeEnd
  deriving DecidableEq, Repr

end Sys2Proof
end

