-- ==== Sys2Proof/Machine/Bits.lean ====
section
/-! DEFINITION. Bit-field, byte-order, check-word and digest helpers: fields of words (00 R2),
most significant byte first (00 R3), CRC-32C (05 R93), CRC-32 of IEEE 802.3 (18 R395), SHA-256 and
HMAC-SHA-256 (02 R32). -/

namespace Sys2Proof.Machine

/-- Bits hi to lo of a word as a number (00 R2). -/
def fld (w : Word) (hi lo : Nat) : Nat := (w.toNat >>> lo) % 2 ^ (hi + 1 - lo)

/-- Bit i of a word. -/
def bit (w : Word) (i : Nat) : Bool := w.getLsbD i

/-- Word `w` with bits hi to lo replaced by `v` (its low bits). -/
def setFld (w : Word) (hi lo v : Nat) : Word :=
  let m : Word := BitVec.ofNat 32 ((2 ^ (hi + 1 - lo) - 1) <<< lo)
  (w &&& ~~~m) ||| (BitVec.ofNat 32 (v <<< lo) &&& m)

/-- A word with one field set. -/
def mkFld (hi lo v : Nat) : Word := setFld 0 hi lo v

/-- A flag as a one-bit field. -/
def flagAt (b : Bool) (i : Nat) : Word := if b then BitVec.ofNat 32 (2 ^ i) else 0

/-- The mask of bits hi to lo. -/
def maskOf (hi lo : Nat) : Word := BitVec.ofNat 32 ((2 ^ (hi + 1 - lo) - 1) <<< lo)

/-- A number as a word. -/
abbrev w32 (n : Nat) : Word := BitVec.ofNat 32 n

/-- An integer as a two's complement word. -/
abbrev wInt (n : Int) : Word := BitVec.ofInt 32 n

/-- The low `n` bits of a number read as two's complement. -/
def signed (n v : Nat) : Int := (BitVec.ofNat n v).toInt

/-- Two's complement of an integer in `n` bits, as a number. -/
def unsigned (n : Nat) (v : Int) : Nat := (BitVec.ofInt n v).toNat

/-- An integer held within lo to hi. -/
def clampI (lo hi v : Int) : Int := if v < lo then lo else if v > hi then hi else v

/-- Floor division of an integer by a positive number. -/
def fdiv (a : Int) (b : Nat) : Int := a.fdiv (Int.ofNat b)

/-- Rounded-up division. -/
def cdiv (a b : Nat) : Nat := (a + b - 1) / b

/-- A number saturating at 0xFFFF_FFFF (14 R323). -/
def sat32 (n : Nat) : Nat := min n 0xFFFFFFFF

/-- Word `w` plus n, saturating (14 R323). -/
def satAdd (w : Word) (n : Nat) : Word := w32 (sat32 (w.toNat + n))

/-- The bytes of a bit vector, most significant first (00 R3). -/
def bytesOf {n : Nat} (k : Nat) (x : BitVec n) : List Byte :=
  (List.range k).map (fun i => BitVec.ofNat 8 (x.toNat >>> (8 * (k - 1 - i))))

/-- The number a byte list spells, most significant byte first (00 R3). -/
def natOfBytes (l : List Byte) : Nat := l.foldl (fun a b => a * 256 + b.toNat) 0

/-- The bytes of words, each most significant byte first. -/
def bytesOfWords (l : List Word) : List Byte := l.flatMap (fun w => bytesOf 4 w)

/-- The words a byte list spells, four bytes each, most significant first. -/
def wordsOfBytes : List Byte → List Word
  | a :: b :: c :: d :: r => w32 (natOfBytes [a, b, c, d]) :: wordsOfBytes r
  | [] => []
  | l => [w32 (natOfBytes (l ++ List.replicate (4 - l.length) 0))]

/-- The number the given words spell, first word most significant. -/
def natOfWords (l : List Word) : Nat := l.foldl (fun a w => a * 2 ^ 32 + w.toNat) 0

/-- The k words of a number, first word most significant. -/
def wordsOfNat (k n : Nat) : List Word :=
  (List.range k).map (fun i => w32 (n >>> (32 * (k - 1 - i))))

/-- Bytes of an ASCII label. -/
def label (l : List Nat) : List Byte := l.map (BitVec.ofNat 8)

/-! ### CRC -/

/-- One bit of a reflected 32-bit CRC with polynomial `p`. -/
def crcBit (p c : Word) : Word := if c.getLsbD 0 then (c >>> 1) ^^^ p else c >>> 1

/-- One byte of a reflected 32-bit CRC. -/
def crcByte (p c : Word) (b : Byte) : Word :=
  crcBit p (crcBit p (crcBit p (crcBit p (crcBit p (crcBit p (crcBit p (crcBit p
    (c ^^^ b.zeroExtend 32))))))))

/-- A reflected 32-bit CRC, initial value and final XOR 0xFFFF_FFFF. -/
def crcRefl (p : Word) (l : List Byte) : Word :=
  (l.foldl (crcByte p) 0xFFFFFFFF) ^^^ 0xFFFFFFFF

/-- CRC-32 of IEEE 802.3 (18 R395). -/
def crc32 (l : List Byte) : Word := crcRefl 0xEDB88320 l

/-- CRC-32C (05 R93). -/
def crc32c (l : List Byte) : Word := crcRefl 0x82F63B78 l

/-! ### Block data (05 R93) -/

/-- Samples packed as block data: sample k in bits 12k to 12k + 11 of the byte string (05 R93). -/
def packSamps : List Samp → List Byte
  | a :: b :: r =>
    let n := a.toNat + b.toNat * 4096
    BitVec.ofNat 8 n :: BitVec.ofNat 8 (n / 256) :: BitVec.ofNat 8 (n / 65536) :: packSamps r
  | [a] => [BitVec.ofNat 8 a.toNat, BitVec.ofNat 8 (a.toNat / 256)]
  | [] => []

/-- The samples of block data. -/
def unpackSamps : List Byte → List Samp
  | a :: b :: c :: r =>
    let n := a.toNat + b.toNat * 256 + c.toNat * 65536
    BitVec.ofNat 12 n :: BitVec.ofNat 12 (n / 4096) :: unpackSamps r
  | [a, b] => [BitVec.ofNat 12 (a.toNat + b.toNat * 256)]
  | _ => []

/-- CRC-32C over words, each most significant byte first. -/
def crcWords (l : List Word) : Word := crc32c (bytesOfWords l)

/-! ### SHA-256 and HMAC -/

/-- The largest `r` of `b` further bits above `r` whose power `e` is at most `n`. -/
def rootBits (e n : Nat) : Nat → Nat → Nat
  | 0, r => r
  | b + 1, r => rootBits e n b (if (r + 2 ^ b) ^ e ≤ n then r + 2 ^ b else r)

/-- The first 32 bits after the binary point of the root of order `e` of `p`, for `p` below 512. -/
def rootFrac (e p : Nat) : Word := BitVec.ofNat 32 (rootBits e (p * 2 ^ (32 * e)) 37 0)

/-- The primes up to 311, the first 64 of them all. -/
def shaPrimes : List Nat :=
  ((List.range 312).drop 2).filter (fun n => ((List.range 18).drop 2).all (fun d => n == d || n % d != 0))

/-- The constants of the rounds: the cube roots of the first 64 primes (SHA-256). -/
def shaRoundWords : List Word := shaPrimes.map (rootFrac 3)

/-- The chaining value at the start: the square roots of the first 8 primes (SHA-256). -/
def shaStart : List Word := (shaPrimes.take 8).map (rootFrac 2)

/-- The word of a chaining value or schedule at a place. -/
def at32 (l : List Word) (i : Nat) : Word := l.getD i 0

/-- The sum modulo 2 of three rotations to the right. -/
def rot3 (x : Word) (i j k : Nat) : Word := x.rotateRight i ^^^ x.rotateRight j ^^^ x.rotateRight k

/-- A schedule, newest word first, with `n` further words. -/
def shaExtend : Nat → List Word → List Word
  | 0, l => l
  | n + 1, l =>
    let near := at32 l 1
    let far := at32 l 14
    shaExtend n ((at32 l 6 + at32 l 15
      + (near.rotateRight 17 ^^^ near.rotateRight 19 ^^^ near >>> 10)
      + (far.rotateRight 7 ^^^ far.rotateRight 18 ^^^ far >>> 3)) :: l)

/-- The chaining value after a round that adds `k`, its eight words from the first to the last. -/
def shaStep (v : List Word) (k : Word) : List Word :=
  match v with
  | [a, b, c, d, e, f, g, h] =>
    let choice := g ^^^ (e &&& (f ^^^ g))
    let most := (a &&& b) ||| (c &&& (a ||| b))
    let grow := k + h + choice + rot3 e 6 11 25
    [grow + most + rot3 a 2 13 22, a, b, c, d + grow, e, f, g]
  | _ => v

/-- A block of 16 words taken into the chaining value. -/
def shaTake (v block : List Word) : List Word :=
  List.zipWith (· + ·) v
    ((List.zipWith (· + ·) (shaExtend 48 block.reverse).reverse shaRoundWords).foldl shaStep v)

/-- `n` blocks taken one after the other. -/
def shaAll : Nat → List Word → List Word → List Word
  | 0, _, v => v
  | n + 1, l, v => shaAll n (l.drop 16) (shaTake v (l.take 16))

/-- SHA-256 of a byte string as 256 bits: the bytes, a 1 bit, 0 bits to 8 bytes below a whole block, and the length in
bits. -/
def sha256 (l : List Byte) : W256 :=
  let fill := (119 - l.length % 64) % 64
  let words := wordsOfBytes (l ++ 0x80 :: (List.replicate fill 0 ++ bytesOf 8 (BitVec.ofNat 64 (8 * l.length))))
  BitVec.ofNat 256 (natOfWords (shaAll (words.length / 16) words shaStart))

/-- HMAC-SHA-256 under a 32-byte key (02 R32). -/
def hmac (key : W256) (l : List Byte) : W256 :=
  let k := bytesOf 32 key ++ List.replicate 32 0
  let inner := sha256 (k.map (· ^^^ 0x36) ++ l)
  sha256 (k.map (· ^^^ 0x5c) ++ bytesOf 32 inner)

/-- The first 16 bytes of a digest (02 R32). -/
def trunc16 (d : W256) : W128 := BitVec.ofNat 128 (d.toNat >>> 128)

/-! ### Association lists -/

/-- The value of key `k`, first entry first. -/
def look {α β : Type} [DecidableEq α] (k : α) (l : List (α × β)) : Option β :=
  (l.find? (fun e => e.1 = k)).map (·.2)

/-- The list with key `k` set to `v`. -/
def put {α β : Type} [DecidableEq α] (k : α) (v : β) (l : List (α × β)) : List (α × β) :=
  (k, v) :: l.filter (fun e => e.1 ≠ k)

/-- The list without key `k`. -/
def del {α β : Type} [DecidableEq α] (k : α) (l : List (α × β)) : List (α × β) :=
  l.filter (fun e => e.1 ≠ k)

/-- The list with the element at position `i` replaced. -/
def modAt {α : Type} (i : Nat) (f : α → α) (l : List α) : List α := l.modify i f

/-- A number inserted in a strictly rising list. -/
def insertNat (n : Nat) : List Nat → List Nat
  | [] => [n]
  | a :: r => if n < a then n :: a :: r else if n = a then a :: r else a :: insertNat n r

/-- A pair inserted by key in a list rising by key; an equal key is replaced. -/
def insertKey {β : Type} (k : Nat) (v : β) : List (Nat × β) → List (Nat × β)
  | [] => [(k, v)]
  | (a, w) :: r =>
    if k < a then (k, v) :: (a, w) :: r
    else if k = a then (k, v) :: r
    else (a, w) :: insertKey k v r

end Sys2Proof.Machine
end

