-- ==== Sys2Proof/Machine/Fixed.lean ====
section
/-! DEFINITION. Real functions in fixed point with 96 fractional bits, and the tables the manual
defines by real arithmetic: the transfer tables and wall code (04 R87, R88, R90) and the Lanczos-2
weights (04 R82). The manual computes each entry in double precision from the exact value; these
are rounded from 96-bit values (log 37). -/

namespace Sys2Proof.Machine

/-- The number of fractional bits. -/
def fxBits : Nat := 96

/-- 1. -/
def fxOne : Int := 2 ^ fxBits

/-- The fraction n / d. -/
def fxRat (n : Int) (d : Nat) : Int := n * fxOne / Int.ofNat d

def fxMul (a b : Int) : Int := a * b / fxOne

def fxDiv (a b : Int) : Int := if b = 0 then 0 else a * fxOne / b

/-- Rounded half-up to an integer. -/
def fxRound (a : Int) : Int := (2 * a + fxOne) / (2 * fxOne)

/-- Σ t·x²ᵏ / (2k + 1) with alternating signs where `alt`, from term `k` on. -/
def fxOddSum (alt : Bool) (x2 : Int) : Nat → Nat → Int → Int
  | 0, _, _ => 0
  | n + 1, k, t =>
    let u := t / Int.ofNat (2 * k + 1)
    (if alt && k % 2 == 1 then -u else u) + fxOddSum alt x2 n (k + 1) (fxMul t x2)

/-- atanh of |x| ≤ 1/3. -/
def fxAtanh (x : Int) : Int := fxOddSum false (fxMul x x) 64 0 x

/-- atan of |x| ≤ 1/5. -/
def fxAtan (x : Int) : Int := fxOddSum true (fxMul x x) 64 0 x

def fxLn2 : Int := 2 * fxAtanh (fxRat 1 3)

/-- π, by Machin's formula. -/
def fxPi : Int := 16 * fxAtan (fxRat 1 5) - 4 * fxAtan (fxRat 1 239)

/-- The natural logarithm of x > 0. -/
def fxLn (x : Int) : Int :=
  let l := Nat.log2 x.toNat
  let y : Int := if fxBits ≤ l then x / 2 ^ (l - fxBits) else x * 2 ^ (fxBits - l)
  (Int.ofNat l - Int.ofNat fxBits) * fxLn2 + 2 * fxAtanh (fxDiv (y - fxOne) (y + fxOne))

/-- Σ x^k / k! from term `k` on. -/
def fxExpSum (x : Int) : Nat → Nat → Int → Int
  | 0, _, _ => 0
  | n + 1, k, t => t + fxExpSum x n (k + 1) (fxMul t x / Int.ofNat (k + 1))

/-- e^x. -/
def fxExp (x : Int) : Int :=
  let k := x / fxLn2
  let e := fxExpSum (x - k * fxLn2) 48 0 fxOne
  if 0 ≤ k then e * 2 ^ k.toNat else e / 2 ^ (-k).toNat

/-- x^y for x ≥ 0, with 0^y = 0. -/
def fxPow (x y : Int) : Int := if x ≤ 0 then 0 else fxExp (fxMul y (fxLn x))

/-- Σ of the sine series from term `k` on. -/
def fxSinSum (x2 : Int) : Nat → Nat → Int → Int
  | 0, _, _ => 0
  | n + 1, k, t =>
    t + fxSinSum x2 n (k + 1) (-(fxMul t x2) / Int.ofNat ((2 * k + 2) * (2 * k + 3)))

/-- sin x. -/
def fxSin (x : Int) : Int :=
  let r := x - (x + fxPi) / (2 * fxPi) * (2 * fxPi)
  fxSinSum (fxMul r r) 48 0 r

/-- sin(πx) / (πx). -/
def fxSinc (x : Int) : Int :=
  if x = 0 then fxOne else fxDiv (fxSin (fxMul fxPi x)) (fxMul fxPi x)

/-! ### Transfer tables (04 R87) -/

/-- Y_PQ, the ST 2084 EOTF normalised to 1 at 10,000 cd/m². -/
def fxPq (v : Int) : Int :=
  let e := fxPow v (fxRat 32 2523)
  let n := e - fxRat 3424 4096
  if n ≤ 0 then 0
  else fxPow (fxDiv n (fxRat 2413 128 - fxMul (fxRat 2392 128) e)) (fxRat 8192 1305)

/-- LPQ[c], the linear value of wall code `c`. -/
def lpq (c : Nat) : Nat := (fxRound (16777215 * fxPq (fxRat (Int.ofNat c) 4095))).toNat

/-- The inverse HLG OETF of BT.2100. -/
def fxHlg (v : Int) : Int :=
  let a := fxRat 17883277 100000000
  let b := fxOne - 4 * a
  let c := fxOne / 2 - fxMul a (fxLn (4 * a))
  if 2 * v ≤ fxOne then fxMul v v / 3 else (fxExp (fxDiv (v - c) a) + b) / 12

/-- a / b rounded half-up, exactly. -/
def ratRound (a b : Nat) : Int := Int.ofNat ((2 * a + b) / (2 * b))

/-- The entry of code `c` in the table of TCS `t`: 0 BT.1886, 1 PQ, 2 HLG, 3 sRGB; `w` is
CMP.SDR_WHITE. Where the real value is rational, code 4,095 of an SDR curve and the straight part of sRGB, it is rounded
exactly: its half ties exist. -/
def transfer (t c w : Nat) : Int :=
  let v := fxRat (Int.ofNat c) 4095
  let sdr (x : Int) : Int := fxRound (16777215 * Int.ofNat w * x / 10000)
  if t = 1 then Int.ofNat (lpq c)
  else if t = 2 then fxRound (16777215 * fxHlg v)
  else if c = 4095 then ratRound (16777215 * w) 10000
  else if t = 0 then sdr (fxPow v (fxRat 12 5))
  else if 100000 * c ≤ 4045 * 4095 then ratRound (16777215 * w * c * 100) (10000 * 4095 * 1292)
  else sdr (fxPow ((v + fxRat 55 1000) * 1000 / 1055) (fxRat 12 5))

/-- F[k] of the HLG OOTF for CMP.HLG_PEAK `p` (04 R88). -/
def hlgF (k p : Nat) : Int :=
  let log10 := fxDiv (fxLn (fxRat (Int.ofNat p) 1000)) (fxLn (10 * fxOne))
  let g := fxRat 12 10 + 42 * log10 / 100
  fxRound (65536 * Int.ofNat p * fxPow (fxRat (2 * Int.ofNat k + 1) 8192) (g - fxOne) / 10000)

/-- Tq[c], the lowest linear value that encodes to wall code `c` (04 R90). -/
def wallThreshold (c : Nat) : Nat := if c = 0 then 0 else cdiv (lpq (c - 1) + lpq c) 2

/-- The largest code at or below `hi` whose threshold is at or below `x`, by bisection over `n` bits
from `lo`. -/
def wallSearch (x : Nat) : Nat → Nat → Nat
  | 0, lo => lo
  | n + 1, lo => if wallThreshold (lo + 2 ^ n) ≤ x then wallSearch x n (lo + 2 ^ n)
                 else wallSearch x n lo

/-- The wall code of a linear value (04 R90). -/
def wallCode (x : Int) : Nat := wallSearch x.toNat 12 0

/-! ### The scaling kernel (04 R82) -/

/-- K(x) of Lanczos-2. -/
def fxLanczos (x : Int) : Int :=
  if 2 * fxOne ≤ x ∨ x ≤ -2 * fxOne then 0 else fxMul (fxSinc x) (fxSinc (x / 2))

/-- The first tap of `n` taps: −(⌈n / 2⌉ − 1). -/
def tapLo (n : Nat) : Int := 1 - Int.ofNat (cdiv n 2)

/-- The position of the entry of largest magnitude, the lowest on a tie. -/
def maxAt : List Int → Nat
  | [] => 0
  | a :: l =>
    let m := maxAt l
    if (l.getD m 0).natAbs ≤ a.natAbs then 0 else m + 1

/-- The Q2.12 coefficients of phase `f` of 64, tap by tap, when `s` source samples make `d`
samples with `n` taps: scaled to sum to 1, rounded, and the remainder added to the tap of largest
magnitude, so that they sum to 4,096. -/
def scaleCoefs (n f s d : Nat) : List Int :=
  let dh := if s ≤ d then fxOne else fxRat (Int.ofNat s) (max 1 d)
  let raw := (List.range n).map fun i =>
    fxLanczos (fxDiv (fxRat (64 * (tapLo n + Int.ofNat i) - Int.ofNat f) 64) dh)
  let total := raw.foldl (· + ·) 0
  let q := raw.map (fun r => fxRound (fxDiv (4096 * r) total))
  q.modify (maxAt q) (fun c => c + (4096 - q.foldl (· + ·) 0))

end Sys2Proof.Machine
end

