-- ==== Sys2Proof/Config.lean ====
section
/-! DEFINITION. What one device or one implementation fixes and the manual does not state: free
values, constants without a body. Nothing can be proved of the value of one. A fresh value is
taken by applying a constant to the counter `free` of the state. -/

namespace Sys2Proof.Config

/-! ### Random and device-specific values -/

/-- A number from the random source (02 R35; 20 R432): a device nonce. -/
opaque nonce : Nat → W128

/-- A random delay below `n`, drawn for free-value number `k` (03 R56, R57; 06 R121; 11 R243). -/
opaque delay (k n : Nat) : Nat

/-- The identity a CorsinLink lane takes for a place below a tile is computed; the LOOP identity
byte is counted from this start (06 R127). -/
opaque loopStart : Nat

/-- The trigger ID of record `k` among those the manual writes without naming their trigger
(20 R425). -/
opaque trigger (k : Nat) : Nat

/-! ### States the manual does not give a value for -/

/-- The lamp credits a brightness step asks for when the brightness in effect is 0, so that the ratio
of the new to the old does not exist (17 R380). -/
opaque stepFromDark : Nat → Nat

/-- CMP.LAYER_n.STS.SRC of an enabled solid layer (04 R76). -/
opaque solidSrc : Nat

/-! ### ROM content (08 R173) -/

/-- The coverage words of a ROM glyph code, as GLYPH_ROM_READ returns them after word 0. -/
opaque romGlyph : Nat → List Word

/-! ### Cryptography (19 R405) -/

/-- FIPS 205 SLH-DSA-SHA2-128s verification of an image under the verification key, in pure mode
with an empty context string. -/
opaque slhVerify (key : W256) (image : List Word) (sig : List Word) : Bool

/-! ### Servo and measurements (11) -/

/-- The frequency correction in ppb the PI servo takes from a filtered offset and its last
correction (11 R244: bandwidth 0.05 Hz). -/
opaque servoFreq (last offset : Int) : Int

/-- The filtered offset after a new offset (11 R249). -/
opaque servoFilter (last offset : Int) : Int

/-- Whether the twin of side A that finds marks again over TW holds the epoch of side A on a clock more than 1 µs
away, so that side A steps by 0 ns (11 R253). -/
opaque twinFar (k : Nat) : Bool

/-- Whether a value packet that fails by an entry and by its time is refused for its time, for free-value number `k`
(08 R175: the manual gives the refusals no order). -/
opaque timeFirst (k : Nat) : Bool

/-! ### Hardware measured values the commands do not carry -/

/-- Bits [9:0] of the check word read with an uncorrectable unit, at system address `a`, for free-value number `k`
(15 R333, R336: the code is not given). -/
opaque checkCode (k a : Nat) : BitVec 10

/-- The stream of a packet whose words in the receiver buffers were read wrong (16 R352; the manual gives no layout of
those buffers). -/
opaque rxStream (bank word : Nat) : Nat

/-- The stream and the line of a source frame whose samples stand at a system address of the ingest pool (15 R337; the
manual gives no addresses of slots). -/
opaque fillLine (a : Nat) : Option (Nat × Nat)

/-- The shortest refresh interval that the DRAM allows, in ns (15 R341). -/
opaque fastestRefresh : Nat

/-- The crossing in which a word or event was waiting when one of its sides was reset, for free-value number `k`, if
there was one (17 R368). -/
opaque crossingLost (k : Nat) : Option Nat

/-- The transmit stamp, in ns of the device clock, of a frame sent at clock `c` (11 R245). -/
opaque txStamp (k c : Nat) : Nat

/-- The signature in the record of a watch that changes into or out of FROZEN with no checked frame to take it from, for
free-value number `k` (10 R234, R239). -/
opaque noWsig (k : Nat) : Word

/-- The clock at which the new holder drove the idle state after a handover, as it reported it, for free-value number `k`
(12 R292: no message of R273 carries it). -/
opaque drivenAt (k : Nat) : Nat

/-- Whether the four control cores have serviced their watchdogs again, for free-value number `k` (12 R271). -/
opaque coresServed (k : Nat) : Bool

/-- Whether SDA stands low before the START of a lamp service transaction, for free-value number `k` (09 R217). -/
opaque sdaLow (k : Nat) : Bool

/-- The bytes the lamp-board bus answers where no operand carries them. -/
opaque busByte : Nat → Byte

/-- The lamp supply current in mA that LIMON shows at local time `t` (18 R396). -/
opaque limonMa (t : Nat) : Nat

/-- The filtered value in mV of rail `k` at local time `t` where no crossing has reported one (17 R369). -/
opaque railMv (k t : Nat) : Nat

end Sys2Proof.Config
end

