-- ==== Sys2Proof/Machine/ParamTable.lean ====
section
/-! DEFINITION. The parameter map (14 R318, R324, R328 and the parameter tables of the chapters
named there): every assigned index with its role, its kept code and its fields, each with access
type, reset value and range. Reset entries that read "from settings", "strap", "firmware", "pool",
"boot" or "device" are 0 here and are set where the start-up takes them (14 R324). -/

namespace Sys2Proof.Machine

/-- The access type of a field (00 R5). -/
inductive Acc where
  | ro
  | rw
  | rws
  | w1c
  | saf
  deriving DecidableEq, Repr

/-- How a parameter is kept (14 R324). -/
inductive Kept where
  | no
  | settings
  | badger
  | own
  deriving DecidableEq, Repr

/-- One field of a parameter word: bits hi to lo, access, whether it is reserved, reset value,
and the values it may take (an empty list: any value of its width). -/
structure PField where
  hi : Nat
  lo : Nat
  acc : Acc
  rsv : Bool
  reset : Nat
  range : List (Nat × Nat)
  deriving DecidableEq, Repr

/-- One row of the map: `count` indices from `base` in steps of `stride`, the roles served, the
kept code and the fields. -/
structure PRow where
  base : Nat
  stride : Nat
  count : Nat
  snd : Bool
  tile : Bool
  kept : Kept
  fields : List PField
  deriving DecidableEq, Repr

/-- SYS.PGEN (R326). -/
def sysPgen : Nat := 0x0001
/-- SYS.SETTINGS (R326). -/
def sysSettings : Nat := 0x0002
/-- SYS.STAGED (R326). -/
def sysStaged : Nat := 0x0003
/-- SYS.ROLE (R12). -/
def sysRole : Nat := 0x0004
/-- SYS.NA (R19). -/
def sysNa : Nat := 0x0010
/-- SYS.PLACE_HI (R16). -/
def sysPlaceHi : Nat := 0x0012
/-- SYS.PLACE_LO (R16). -/
def sysPlaceLo : Nat := 0x0013
/-- SYS.ARB_LOSS (R28). -/
def sysArbLoss : Nat := 0x0021
/-- SYS.SMB_PORT (R51). -/
def sysSmbPort : Nat := 0x0040
/-- SYS.SMB_CFG (R51). -/
def sysSmbCfg : Nat := 0x0041
/-- SYS.SMB_GATHER (R51). -/
def sysSmbGather : Nat := 0x0042
/-- SYS.SMB_LEVEL (R51). -/
def sysSmbLevel : Nat := 0x0043
/-- SYS.OWN_WALL (R51). -/
def sysOwnWall : Nat := 0x0044
/-- SYS.OWN_SAFETY (R51). -/
def sysOwnSafety : Nat := 0x0045
/-- SYS.OWN_UPDATE (R51). -/
def sysOwnUpdate : Nat := 0x0046
/-- SYS.OWN_SESS (R51). -/
def sysOwnSess : Nat := 0x0047
/-- SYS.SMB_DROP_0 (R42). -/
def sysSmbDrop0 : Nat := 0x0048
/-- SYS.SMB_NOTIME (R51). -/
def sysSmbNotime : Nat := 0x0049
/-- SYS.SMB_DROP (R42). -/
def sysSmbDrop : Nat := 0x004A
/-- NET.PORT_STS (R327). -/
def netPortSts : Nat := 0x0400
/-- NET.MAC_HI (R54). -/
def netMacHi : Nat := 0x0404
/-- NET.MAC_LO (R54). -/
def netMacLo : Nat := 0x0405
/-- NET.IF_CTRL (R54). -/
def netIfCtrl : Nat := 0x0440
/-- NET.IF_STS (R54). -/
def netIfSts : Nat := 0x0441
/-- NET.V4_ADDR (R54). -/
def netV4Addr : Nat := 0x0442
/-- NET.V4_NET (R54). -/
def netV4Net : Nat := 0x0443
/-- NET.V4_GW (R54). -/
def netV4Gw : Nat := 0x0444
/-- NET.V6_ADDR0 (R54). -/
def netV6Addr0 : Nat := 0x0445
/-- NET.V6_ADDR1 (R54). -/
def netV6Addr1 : Nat := 0x0446
/-- NET.V6_ADDR2 (R54). -/
def netV6Addr2 : Nat := 0x0447
/-- NET.V6_ADDR3 (R54). -/
def netV6Addr3 : Nat := 0x0448
/-- NET.V6_NET (R54). -/
def netV6Net : Nat := 0x0449
/-- NET.V6_GW0 (R54). -/
def netV6Gw0 : Nat := 0x044A
/-- NET.V6_GW1 (R54). -/
def netV6Gw1 : Nat := 0x044B
/-- NET.V6_GW2 (R54). -/
def netV6Gw2 : Nat := 0x044C
/-- NET.V6_GW3 (R54). -/
def netV6Gw3 : Nat := 0x044D
/-- NET.IF_MTU (R54). -/
def netIfMtu : Nat := 0x044E
/-- NET.DROP (R58). -/
def netDrop : Nat := 0x0500
/-- ING.TIME_CFG (R67). -/
def ingTimeCfg : Nat := 0x0801
/-- ING.POOL_FREE (R67). -/
def ingPoolFree : Nat := 0x0802
/-- ING.STS (R68). -/
def ingSts : Nat := 0x0900
/-- ING.RECOV (R68). -/
def ingRecov : Nat := 0x0901
/-- ING.UNREC (R68). -/
def ingUnrec : Nat := 0x0902
/-- ING.DIFF (R68). -/
def ingDiff : Nat := 0x0903
/-- CMP.CANVAS (R69). -/
def cmpCanvas : Nat := 0x0C00
/-- CMP.RATE (R69). -/
def cmpRate : Nat := 0x0C01
/-- CMP.BG_RG (R69). -/
def cmpBgRg : Nat := 0x0C02
/-- CMP.BG_B (R69). -/
def cmpBgB : Nat := 0x0C03
/-- CMP.LATCH (R73). -/
def cmpLatch : Nat := 0x0C04
/-- CMP.SDR_WHITE (R87). -/
def cmpSdrWhite : Nat := 0x0C05
/-- CMP.HLG_PEAK (R87). -/
def cmpHlgPeak : Nat := 0x0C06
/-- CMP.FRAMES (R75). -/
def cmpFrames : Nat := 0x0C08
/-- CMP.ABANDON (R75). -/
def cmpAbandon : Nat := 0x0C09
/-- CMP.BUDGET (R84). -/
def cmpBudget : Nat := 0x0C0B
/-- CMP.BAND (R71). -/
def cmpBand : Nat := 0x0C10
/-- CMP.LBUF (R83). -/
def cmpLbuf : Nat := 0x0C14
/-- CMP.LOAD (R84). -/
def cmpLoad : Nat := 0x0C18
/-- CMP.LAYER_CTRL (R76). -/
def cmpLayerCtrl : Nat := 0x0C40
/-- CMP.LAYER_SRC_XY (R76). -/
def cmpLayerSrcXy : Nat := 0x0C41
/-- CMP.LAYER_SRC_WH (R76). -/
def cmpLayerSrcWh : Nat := 0x0C42
/-- CMP.LAYER_DST_XY (R76). -/
def cmpLayerDstXy : Nat := 0x0C43
/-- CMP.LAYER_DST_WH (R76). -/
def cmpLayerDstWh : Nat := 0x0C44
/-- CMP.LAYER_COL_RG (R76). -/
def cmpLayerColRg : Nat := 0x0C45
/-- CMP.LAYER_COL_B (R76). -/
def cmpLayerColB : Nat := 0x0C46
/-- CMP.LAYER_DELAY (R76). -/
def cmpLayerDelay : Nat := 0x0C47
/-- CMP.LAYER_STS (R76). -/
def cmpLayerSts : Nat := 0x0C48
/-- CMP.LAYER_REPEAT (R76). -/
def cmpLayerRepeat : Nat := 0x0C49
/-- FLM.PT_CFG (R113). -/
def flmPtCfg : Nat := 0x1000
/-- FLM.PT_FIXED (R113). -/
def flmPtFixed : Nat := 0x1001
/-- FLM.REPAIR (R113). -/
def flmRepair : Nat := 0x1002
/-- FLM.LEVEL (R113). -/
def flmLevel : Nat := 0x1003
/-- FLM.FRAME (R113). -/
def flmFrame : Nat := 0x1004
/-- FLM.DELIV (R113). -/
def flmDeliv : Nat := 0x1005
/-- FLM.SKIP (R113). -/
def flmSkip : Nat := 0x1006
/-- FLM.SLIP (R113). -/
def flmSlip : Nat := 0x1007
/-- FLM.CH_BW (R113). -/
def flmChBw : Nat := 0x1010
/-- FLM.CH_REPAIR (R113). -/
def flmChRepair : Nat := 0x1011
/-- FLM.CH_FAIL (R113). -/
def flmChFail : Nat := 0x1012
/-- FLM.CH_KIB (R113). -/
def flmChKib : Nat := 0x1013
/-- FLM.RX_LOST (R113). -/
def flmRxLost : Nat := 0x1040
/-- FLM.RX_BADSIG (R113). -/
def flmRxBadsig : Nat := 0x1041
/-- FLM.RX_FAIL (R113). -/
def flmRxFail : Nat := 0x1042
/-- FLM.RX_DROP (R113). -/
def flmRxDrop : Nat := 0x1043
/-- FLM.RX_LATE (R113). -/
def flmRxLate : Nat := 0x1044
/-- FLM.RX_FRAME (R113). -/
def flmRxFrame : Nat := 0x1045
/-- CLN.CFG (R139). -/
def clnCfg : Nat := 0x1400
/-- CLN.TXEQ (R139). -/
def clnTxeq : Nat := 0x1401
/-- CLN.REVERT (R139). -/
def clnRevert : Nat := 0x1402
/-- CLN.PORT_STS (R139). -/
def clnPortSts : Nat := 0x1410
/-- CLN.PORT_EYE (R139). -/
def clnPortEye : Nat := 0x1411
/-- CLN.PORT_LAT (R139). -/
def clnPortLat : Nat := 0x1412
/-- CLN.PORT_SHE (R139). -/
def clnPortShe : Nat := 0x1413
/-- CLN.PORT_CRCERR (R139). -/
def clnPortCrcerr : Nat := 0x1414
/-- CLN.PORT_RETX (R139). -/
def clnPortRetx : Nat := 0x1415
/-- CLN.PORT_RETRAINS (R139). -/
def clnPortRetrains : Nat := 0x1416
/-- WEIR.CFG (R240). -/
def weirCfg : Nat := 0x1800
/-- WEIR.SENT (R240). -/
def weirSent : Nat := 0x1801
/-- WEIR.WITHHELD (R240). -/
def weirWithheld : Nat := 0x1802
/-- WEIR.REGIONS (R240). -/
def weirRegions : Nat := 0x1803
/-- PROOF.MISMATCH (R240). -/
def proofMismatch : Nat := 0x1810
/-- PROOF.FAULT (R240). -/
def proofFault : Nat := 0x1811
/-- PROOF.UNPROVEN (R240). -/
def proofUnproven : Nat := 0x1812
/-- WEIR.MARK (R240). -/
def weirMark : Nat := 0x1840
/-- WEIR.T_STS (R240). -/
def weirTSts : Nat := 0x1841
/-- WEIR.HONOURED (R240). -/
def weirHonoured : Nat := 0x1842
/-- WEIR.REFUSED (R240). -/
def weirRefused : Nat := 0x1843
/-- WEIR.ENTRIES (R240). -/
def weirEntries : Nat := 0x1844
/-- OWL.STS (R240). -/
def owlSts : Nat := 0x1900
/-- OWL.SKIP (R240). -/
def owlSkip : Nat := 0x1A00
/-- TIL.GEOM (R165). -/
def tilGeom : Nat := 0x1C00
/-- TIL.RATE (R165). -/
def tilRate : Nat := 0x1C01
/-- TIL.EDGE (R165). -/
def tilEdge : Nat := 0x1C02
/-- TIL.PEAK (R165). -/
def tilPeak : Nat := 0x1C03
/-- TIL.QK (R165). -/
def tilQk : Nat := 0x1C04
/-- TIL.BRIGHT (R165). -/
def tilBright : Nat := 0x1C05
/-- TIL.SLG (R165). -/
def tilSlg : Nat := 0x1C06
/-- TIL.REWRITE (R165). -/
def tilRewrite : Nat := 0x1C07
/-- TIL.TCOMP (R165). -/
def tilTcomp : Nat := 0x1C08
/-- TIL.AVG_M (R165). -/
def tilAvgM : Nat := 0x1C10
/-- TIL.AVG_M_4 (R165). -/
def tilAvgM4 : Nat := 0x1C14
/-- TIL.STS (R165). -/
def tilSts : Nat := 0x1C20
/-- TIL.POOL (R165). -/
def tilPool : Nat := 0x1C21
/-- TIL.EDGES (R165). -/
def tilEdges : Nat := 0x1C22
/-- TIL.SWAPS (R165). -/
def tilSwaps : Nat := 0x1C23
/-- TIL.IMGFAULT (R165). -/
def tilImgfault : Nat := 0x1C24
/-- TIL.MFAULT (R165). -/
def tilMfault : Nat := 0x1C25
/-- TIL.OVERRUN (R165). -/
def tilOverrun : Nat := 0x1C26
/-- TIL.TFAULT (R165). -/
def tilTfault : Nat := 0x1C27
/-- TIL.BTEMP (R165). -/
def tilBtemp : Nat := 0x1C30
/-- BDG.CFG (R190). -/
def bdgCfg : Nat := 0x2000
/-- BDG.STS (R190). -/
def bdgSts : Nat := 0x2001
/-- BDG.GLYPH (R190). -/
def bdgGlyph : Nat := 0x2002
/-- BDG.VAL_LATE (R190). -/
def bdgValLate : Nat := 0x2003
/-- BDG.EXPIRE (R190). -/
def bdgExpire : Nat := 0x2004
/-- BDG.VAL_IGN (R190). -/
def bdgValIgn : Nat := 0x2005
/-- BDG.ROMSIG (R190). -/
def bdgRomsig : Nat := 0x2006
/-- BDG.PAL_RG (R190). -/
def bdgPalRg : Nat := 0x2010
/-- BDG.PAL_B (R190). -/
def bdgPalB : Nat := 0x2011
/-- BDG.FIELD (R190). -/
def bdgField : Nat := 0x2040
/-- BDG.ENG_W0 (R190). -/
def bdgEngW0 : Nat := 0x2080
/-- BDG.ENG_W1 (R190). -/
def bdgEngW1 : Nat := 0x2081
/-- BDG.ENG_W2 (R190). -/
def bdgEngW2 : Nat := 0x2082
/-- BDG.ENG_W3 (R190). -/
def bdgEngW3 : Nat := 0x2083
/-- BDG.ENG_W4 (R190). -/
def bdgEngW4 : Nat := 0x2084
/-- BDG.ENG_W5 (R190). -/
def bdgEngW5 : Nat := 0x2085
/-- BDG.ENG_STS (R190). -/
def bdgEngSts : Nat := 0x2086
/-- BDG.TEST (R190). -/
def bdgTest : Nat := 0x2100
/-- LMP.CFG (R220). -/
def lmpCfg : Nat := 0x2400
/-- LMP.DRV (R220). -/
def lmpDrv : Nat := 0x2401
/-- LMP.STS (R220). -/
def lmpSts : Nat := 0x2402
/-- LMP.SCAN_CFG (R220). -/
def lmpScanCfg : Nat := 0x2410
/-- LMP.ROWT (R220). -/
def lmpRowt : Nat := 0x2411
/-- LMP.PRE (R220). -/
def lmpPre : Nat := 0x2412
/-- LMP.SMODE (R220). -/
def lmpSmode : Nat := 0x2413
/-- LMP.SHOW (R220). -/
def lmpShow : Nat := 0x2414
/-- LMP.TIMING (R220). -/
def lmpTiming : Nat := 0x2418
/-- LMP.WFULL (R220). -/
def lmpWfull : Nat := 0x2419
/-- LMP.PROOF (R220). -/
def lmpProof : Nat := 0x2420
/-- LMP.PROOF_AGE (R220). -/
def lmpProofAge : Nat := 0x2421
/-- LMP.FAILED (R220). -/
def lmpFailed : Nat := 0x2422
/-- LMP.PDEFER (R220). -/
def lmpPdefer : Nat := 0x2423
/-- LMP.PREXT (R220). -/
def lmpPrext : Nat := 0x2424
/-- LMP.PREFAIL (R220). -/
def lmpPrefail : Nat := 0x2425
/-- LMP.SHOW_LATE (R220). -/
def lmpShowLate : Nat := 0x2426
/-- LMP.PSKIP (R220). -/
def lmpPskip : Nat := 0x2427
/-- LMP.STRICT (R220). -/
def lmpStrict : Nat := 0x2428
/-- LMP.BOARD (R220). -/
def lmpBoard : Nat := 0x2430
/-- LMP.SENS (R220). -/
def lmpSens : Nat := 0x2440
/-- LMP.STEMP (R220). -/
def lmpStemp : Nat := 0x2460
/-- LMP.SVC (R220). -/
def lmpSvc : Nat := 0x2480
/-- LMP.I2C_ERR (R220). -/
def lmpI2cErr : Nat := 0x2481
/-- LMP.QSPI_ERR (R220). -/
def lmpQspiErr : Nat := 0x2482
/-- LMP.LSIG (R220). -/
def lmpLsig : Nat := 0x2500
/-- TIM.STS (R264). -/
def timSts : Nat := 0x2800
/-- TIM.SERVO (R264). -/
def timServo : Nat := 0x2801
/-- TIM.DETECT (R264). -/
def timDetect : Nat := 0x2802
/-- TIM.HOLD (R264). -/
def timHold : Nat := 0x2803
/-- TIM.VALID (R264). -/
def timValid : Nat := 0x2804
/-- TIM.HERR (R264). -/
def timHerr : Nat := 0x2805
/-- TIM.RAIL (R264). -/
def timRail : Nat := 0x2806
/-- TIM.STEPS (R264). -/
def timSteps : Nat := 0x2807
/-- TIM.LASTSTEP (R264). -/
def timLaststep : Nat := 0x2808
/-- TIM.RAILDIFF (R264). -/
def timRaildiff : Nat := 0x2809
/-- TIM.MARKOFF (R264). -/
def timMarkoff : Nat := 0x280A
/-- TIM.REJOIN (R264). -/
def timRejoin : Nat := 0x280B
/-- TIM.DOM_CFG (R264). -/
def timDomCfg : Nat := 0x2810
/-- TIM.DOM_STS (R264). -/
def timDomSts : Nat := 0x2811
/-- TIM.DOM_OFFSET (R264). -/
def timDomOffset : Nat := 0x2812
/-- TIM.DOM_MPD (R264). -/
def timDomMpd : Nat := 0x2813
/-- TIM.DOM_GM_HI (R264). -/
def timDomGmHi : Nat := 0x2814
/-- TIM.DOM_GM_LO (R264). -/
def timDomGmLo : Nat := 0x2815
/-- TIM.DOM_DSTEPS (R264). -/
def timDomDsteps : Nat := 0x2816
/-- TIM.DOM_XFAIL (R264). -/
def timDomXfail : Nat := 0x2817
/-- TIM.TSQ (R264). -/
def timTsq : Nat := 0x2820
/-- TIM.TIN_CFG (R264). -/
def timTinCfg : Nat := 0x2828
/-- TIM.TIN (R264). -/
def timTin : Nat := 0x282C
/-- TIM.TOUT (R264). -/
def timTout : Nat := 0x2830
/-- TIM.CMP (R264). -/
def timCmp : Nat := 0x2840
/-- PAIR.CFG (R294). -/
def pairCfg : Nat := 0x2C00
/-- PAIR.AGREE (R294). -/
def pairAgree : Nat := 0x2C01
/-- PAIR.STS (R294). -/
def pairSts : Nat := 0x2C02
/-- PAIR.CHK (R294). -/
def pairChk : Nat := 0x2C03
/-- PAIR.LEASE_LEFT (R294). -/
def pairLeaseLeft : Nat := 0x2C04
/-- PAIR.CLAIMS (R294). -/
def pairClaims : Nat := 0x2C10
/-- PAIR.CLAIM_LOST (R294). -/
def pairClaimLost : Nat := 0x2C11
/-- PAIR.EXPIRED (R294). -/
def pairExpired : Nat := 0x2C12
/-- PAIR.FATAL (R294). -/
def pairFatal : Nat := 0x2C13
/-- PAIR.HANDOVERS (R294). -/
def pairHandovers : Nat := 0x2C14
/-- PAIR.HO_FAIL (R294). -/
def pairHoFail : Nat := 0x2C15
/-- PAIR.GAP (R294). -/
def pairGap : Nat := 0x2C16
/-- PAIR.COMPARED (R294). -/
def pairCompared : Nat := 0x2C17
/-- PAIR.NOCMP (R294). -/
def pairNocmp : Nat := 0x2C18
/-- PAIR.EXCLUDED (R294). -/
def pairExcluded : Nat := 0x2C19
/-- PAIR.MISMATCH (R294). -/
def pairMismatch : Nat := 0x2C1A
/-- PAIR.UNRES (R294). -/
def pairUnres : Nat := 0x2C1B
/-- PAIR.HBLOST (R294). -/
def pairHblost : Nat := 0x2C1C
/-- PAIR.EDGELATE (R294). -/
def pairEdgelate : Nat := 0x2C1D
/-- MEM.BOOTCFG (R350). -/
def memBootcfg : Nat := 0x3000
/-- MEM.STS (R350). -/
def memSts : Nat := 0x3001
/-- MEM.SR (R350). -/
def memSr : Nat := 0x3002
/-- MEM.SCHED (R350). -/
def memSched : Nat := 0x3003
/-- MEM.SCRUB (R350). -/
def memScrub : Nat := 0x3004
/-- MEM.POOL_ING (R350). -/
def memPoolIng : Nat := 0x3008
/-- MEM.POOL_CNV (R350). -/
def memPoolCnv : Nat := 0x3009
/-- MEM.POOL_TILE (R350). -/
def memPoolTile : Nat := 0x300A
/-- MEM.CE (R350). -/
def memCe : Nat := 0x3010
/-- MEM.UE (R350). -/
def memUe : Nat := 0x3011
/-- MEM.UE_ADDR_HI (R350). -/
def memUeAddrHi : Nat := 0x3012
/-- MEM.UE_ADDR_LO (R350). -/
def memUeAddrLo : Nat := 0x3013
/-- MEM.FREEZE (R350). -/
def memFreeze : Nat := 0x3014
/-- MEM.SR_ENTRY (R350). -/
def memSrEntry : Nat := 0x3015
/-- MEM.SR_CANCEL (R350). -/
def memSrCancel : Nat := 0x3016
/-- MEM.STALL (R350). -/
def memStall : Nat := 0x3017
/-- MEM.AGED (R350). -/
def memAged : Nat := 0x3018
/-- MEM.CH_STS (R350). -/
def memChSts : Nat := 0x3020
/-- MEM.CH_CE (R350). -/
def memChCe : Nat := 0x3022
/-- MEM.CH_UE (R350). -/
def memChUe : Nat := 0x3023
/-- SRM.CFG (R364). -/
def srmCfg : Nat := 0x3400
/-- SRM.MARCH (R364). -/
def srmMarch : Nat := 0x3401
/-- SRM.MARCH_MASK_HI (R364). -/
def srmMarchMaskHi : Nat := 0x3402
/-- SRM.MARCH_MASK_LO (R364). -/
def srmMarchMaskLo : Nat := 0x3403
/-- SRM.MARCH_STS (R364). -/
def srmMarchSts : Nat := 0x3404
/-- SRM.CE (R364). -/
def srmCe : Nat := 0x3410
/-- SRM.UE (R364). -/
def srmUe : Nat := 0x3411
/-- SRM.UE_ADDR (R364). -/
def srmUeAddr : Nat := 0x3412
/-- SRM.WCOLL (R364). -/
def srmWcoll : Nat := 0x3413
/-- SRM.MFAIL (R364). -/
def srmMfail : Nat := 0x3414
/-- SRM.MAXSTALL (R364). -/
def srmMaxstall : Nat := 0x3415
/-- SRM.WIPES (R364). -/
def srmWipes : Nat := 0x3416
/-- SRM.BANK (R364). -/
def srmBank : Nat := 0x3420
/-- PWR.CHIP (R385). -/
def pwrChip : Nat := 0x3800
/-- PWR.CHIP_STS (R385). -/
def pwrChipSts : Nat := 0x3801
/-- PWR.LAMP (R385). -/
def pwrLamp : Nat := 0x3802
/-- PWR.LAMP_KI_RG (R385). -/
def pwrLampKiRg : Nat := 0x3803
/-- PWR.LAMP_KI_B (R385). -/
def pwrLampKiB : Nat := 0x3804
/-- PWR.LAMP_STS (R385). -/
def pwrLampSts : Nat := 0x3805
/-- PWR.LAMP_MA (R385). -/
def pwrLampMa : Nat := 0x3806
/-- PWR.RAISE (R385). -/
def pwrRaise : Nat := 0x3807
/-- PWR.WAIT (R385). -/
def pwrWait : Nat := 0x3808
/-- PWR.STS (R385). -/
def pwrSts : Nat := 0x3809
/-- PWR.SAGS (R385). -/
def pwrSags : Nat := 0x380A
/-- PWR.NV_HELD (R385). -/
def pwrNvHeld : Nat := 0x380B
/-- PWR.REFUSED (R385). -/
def pwrRefused : Nat := 0x380C
/-- PWR.LAMP_HOLD (R385). -/
def pwrLampHold : Nat := 0x380D
/-- PWR.CDC_LOST (R385). -/
def pwrCdcLost : Nat := 0x380E
/-- PWR.RAIL (R385). -/
def pwrRail : Nat := 0x3810
/-- PWR.CLK (R385). -/
def pwrClk : Nat := 0x3820
/-- THM.CFG (R386). -/
def thmCfg : Nat := 0x3A00
/-- THM.STS (R386). -/
def thmSts : Nat := 0x3A01
/-- THM.STEPS (R386). -/
def thmSteps : Nat := 0x3A02
/-- THM.SKIPPED (R386). -/
def thmSkipped : Nat := 0x3A03
/-- THM.SENS (R386). -/
def thmSens : Nat := 0x3A10
/-- CAL.STS (R402). -/
def calSts : Nat := 0x3C00
/-- CAL.START (R402). -/
def calStart : Nat := 0x3C01
/-- CAL.REF (R402). -/
def calRef : Nat := 0x3C02
/-- CAL.RC (R402). -/
def calRc : Nat := 0x3C03
/-- CAL.LIMON (R402). -/
def calLimon : Nat := 0x3C04
/-- CAL.Q (R402). -/
def calQ : Nat := 0x3C09
/-- CAL.BOARD (R402). -/
def calBoard : Nat := 0x3C20
/-- CAL.SENSOFF (R402). -/
def calSensoff : Nat := 0x3C40
/-- CAL.LANEOFF (R402). -/
def calLaneoff : Nat := 0x3C60
/-- FWU.CFG (R424). -/
def fwuCfg : Nat := 0x4000
/-- FWU.STS (R424). -/
def fwuSts : Nat := 0x4001
/-- FWU.SLOT (R424). -/
def fwuSlot : Nat := 0x4002
/-- FWU.VER (R424). -/
def fwuVer : Nat := 0x4004
/-- FWU.CONF_LEFT (R424). -/
def fwuConfLeft : Nat := 0x4006
/-- FWU.ROLLBACK (R424). -/
def fwuRollback : Nat := 0x4007
/-- FWU.SEQ (R424). -/
def fwuSeq : Nat := 0x4008
/-- EVR.CFG (R438). -/
def evrCfg : Nat := 0x4400
/-- EVR.SNAP_IDX (R438). -/
def evrSnapIdx : Nat := 0x4401
/-- EVR.RING (R438). -/
def evrRing : Nat := 0x4410
/-- EVR.ARCH (R438). -/
def evrArch : Nat := 0x4411
/-- EVR.RSEQ (R438). -/
def evrRseq : Nat := 0x4412
/-- EVR.PCC (R438). -/
def evrPcc : Nat := 0x4413
/-- EVR.OPT_HI (R438). -/
def evrOptHi : Nat := 0x4414
/-- EVR.OPT_LO (R438). -/
def evrOptLo : Nat := 0x4415
/-- EVR.LOST (R438). -/
def evrLost : Nat := 0x4416
/-- EVR.WRITTEN (R438). -/
def evrWritten : Nat := 0x4417
/-- SEC.STS (R438). -/
def secSts : Nat := 0x4800
/-- SEC.SLOTS (R438). -/
def secSlots : Nat := 0x4801
/-- SEC.TAMPER (R438). -/
def secTamper : Nat := 0x4802
/-- SEC.TAMPERS (R438). -/
def secTampers : Nat := 0x4803
/-- SEC.SERIAL (R438). -/
def secSerial : Nat := 0x4808

/-- Rows of block SYS (14 R318). -/
def rowsB0p0 : List PRow := [
  ⟨0x0001, 1, 1, true, true, .no, [⟨31, 0, .ro, false, 0, []⟩]⟩,
  ⟨0x0002, 1, 1, true, true, .no, [⟨31, 24, .ro, false, 0, []⟩, ⟨23, 16, .ro, false, 0, []⟩, ⟨15,
    14, .ro, false, 0, []⟩, ⟨13, 13, .ro, false, 0, []⟩, ⟨12, 12, .ro, false, 0, []⟩, ⟨11, 8, .ro,
    true, 0, []⟩, ⟨7, 0, .ro, false, 255, []⟩]⟩,
  ⟨0x0003, 1, 1, true, true, .no, [⟨31, 16, .ro, true, 0, []⟩, ⟨15, 0, .ro, false, 0, []⟩]⟩,
  ⟨0x0004, 1, 1, true, true, .no, [⟨31, 0, .ro, false, 0, []⟩]⟩,
  ⟨0x0010, 1, 1, true, true, .own, [⟨31, 0, .ro, false, 0, []⟩]⟩,
  ⟨0x0012, 1, 1, true, true, .no, [⟨31, 0, .ro, false, 0, []⟩]⟩,
  ⟨0x0013, 1, 1, true, true, .no, [⟨31, 0, .ro, false, 0, []⟩]⟩,
  ⟨0x0021, 1, 7, true, true, .no, [⟨31, 0, .ro, false, 0, []⟩]⟩,
  ⟨0x0040, 1, 1, true, true, .settings, [⟨31, 16, .rw, true, 0, []⟩, ⟨15, 0, .rw, false, 47230,
    [(1024, 65535)]⟩]⟩,
  ⟨0x0041, 1, 1, true, true, .settings, [⟨31, 16, .rw, false, 60, [(5, 3600)]⟩, ⟨15, 0, .rw, false,
    1000, [(100, 10000)]⟩]⟩,
  ⟨0x0042, 1, 1, true, true, .settings, [⟨31, 16, .rw, true, 0, []⟩, ⟨15, 0, .rw, false, 20, [(1,
    1000)]⟩]⟩,
  ⟨0x0043, 1, 1, true, true, .no, [⟨31, 16, .ro, true, 0, []⟩, ⟨15, 8, .ro, false, 0, []⟩, ⟨7, 0,
    .ro, false, 0, []⟩]⟩]
/-- Rows of block SYS (14 R318). -/
def rowsB0p1 : List PRow := [
  ⟨0x0044, 1, 1, true, true, .no, [⟨31, 0, .ro, false, 0, []⟩]⟩,
  ⟨0x0045, 1, 1, true, true, .no, [⟨31, 0, .ro, false, 0, []⟩]⟩,
  ⟨0x0046, 1, 1, true, true, .no, [⟨31, 0, .ro, false, 0, []⟩]⟩,
  ⟨0x0047, 1, 1, true, true, .no, [⟨31, 12, .ro, true, 0, []⟩, ⟨11, 8, .ro, false, 15, []⟩, ⟨7, 4,
    .ro, false, 15, []⟩, ⟨3, 0, .ro, false, 15, []⟩]⟩,
  ⟨0x0048, 1, 1, true, true, .no, [⟨31, 0, .ro, false, 0, []⟩]⟩,
  ⟨0x0049, 1, 1, true, true, .no, [⟨31, 0, .ro, false, 0, []⟩]⟩,
  ⟨0x004A, 1, 4, true, true, .no, [⟨31, 0, .ro, false, 0, []⟩]⟩]
/-- The rows of block SYS. -/
def rowsB0 : List PRow := rowsB0p0 ++ rowsB0p1
/-- Rows of block NET (14 R318). -/
def rowsB1p0 : List PRow := [
  ⟨0x0400, 1, 2, true, false, .no, [⟨31, 30, .ro, false, 0, []⟩, ⟨29, 26, .ro, false, 0, []⟩, ⟨25,
    25, .ro, false, 0, []⟩, ⟨24, 22, .ro, true, 0, []⟩, ⟨21, 18, .ro, false, 0, []⟩, ⟨17, 14, .ro,
    false, 0, []⟩, ⟨13, 0, .ro, true, 0, []⟩]⟩,
  ⟨0x0404, 1, 1, true, false, .no, [⟨31, 0, .ro, false, 0, []⟩]⟩,
  ⟨0x0405, 1, 1, true, false, .no, [⟨31, 0, .ro, false, 0, []⟩]⟩,
  ⟨0x0440, 16, 8, true, false, .settings, [⟨31, 31, .rw, false, 0, []⟩, ⟨30, 30, .rw, false, 0, []⟩,
    ⟨29, 29, .rw, false, 0, []⟩, ⟨28, 16, .rw, true, 0, []⟩, ⟨15, 13, .rw, false, 5, []⟩, ⟨12, 12,
    .rw, false, 0, []⟩, ⟨11, 0, .rw, false, 0, []⟩]⟩,
  ⟨0x0441, 16, 8, true, false, .no, [⟨31, 8, .ro, true, 0, []⟩, ⟨7, 6, .ro, false, 0, []⟩, ⟨5, 4,
    .ro, false, 0, []⟩, ⟨3, 2, .ro, false, 0, []⟩, ⟨1, 1, .ro, true, 0, []⟩, ⟨0, 0, .ro, false, 0,
    []⟩]⟩,
  ⟨0x0442, 16, 8, true, false, .settings, [⟨31, 0, .rw, false, 0, []⟩]⟩,
  ⟨0x0443, 16, 8, true, false, .settings, [⟨31, 6, .rw, true, 0, []⟩, ⟨5, 0, .rw, false, 24, [(8,
    30)]⟩]⟩,
  ⟨0x0444, 16, 8, true, false, .settings, [⟨31, 0, .rw, false, 0, []⟩]⟩,
  ⟨0x0445, 16, 8, true, false, .settings, [⟨31, 0, .rw, false, 0, []⟩]⟩,
  ⟨0x0446, 16, 8, true, false, .settings, [⟨31, 0, .rw, false, 0, []⟩]⟩,
  ⟨0x0447, 16, 8, true, false, .settings, [⟨31, 0, .rw, false, 0, []⟩]⟩,
  ⟨0x0448, 16, 8, true, false, .settings, [⟨31, 0, .rw, false, 0, []⟩]⟩]
/-- Rows of block NET (14 R318). -/
def rowsB1p1 : List PRow := [
  ⟨0x0449, 16, 8, true, false, .settings, [⟨31, 7, .rw, true, 0, []⟩, ⟨6, 0, .rw, false, 64, [(16,
    127)]⟩]⟩,
  ⟨0x044A, 16, 8, true, false, .settings, [⟨31, 0, .rw, false, 0, []⟩]⟩,
  ⟨0x044B, 16, 8, true, false, .settings, [⟨31, 0, .rw, false, 0, []⟩]⟩,
  ⟨0x044C, 16, 8, true, false, .settings, [⟨31, 0, .rw, false, 0, []⟩]⟩,
  ⟨0x044D, 16, 8, true, false, .settings, [⟨31, 0, .rw, false, 0, []⟩]⟩,
  ⟨0x044E, 16, 8, true, false, .settings, [⟨31, 14, .rw, true, 0, []⟩, ⟨13, 0, .rw, false, 1500,
    [(1500, 9000)]⟩]⟩,
  ⟨0x044F, 16, 8, true, false, .settings, [⟨31, 0, .rw, true, 0, []⟩]⟩,
  ⟨0x0500, 1, 10, true, false, .no, [⟨31, 0, .ro, false, 0, []⟩]⟩]
/-- The rows of block NET. -/
def rowsB1 : List PRow := rowsB1p0 ++ rowsB1p1
/-- Rows of block ING (14 R318). -/
def rowsB2 : List PRow := [
  ⟨0x0801, 1, 1, true, false, .settings, [⟨31, 16, .rw, false, 200, [(1, 2000)]⟩, ⟨15, 0, .rw,
    false, 1000, [(0, 10000)]⟩]⟩,
  ⟨0x0802, 1, 1, true, false, .no, [⟨31, 0, .ro, false, 0, []⟩]⟩,
  ⟨0x0900, 4, 64, true, false, .no, [⟨31, 28, .ro, false, 0, []⟩, ⟨27, 27, .ro, false, 0, []⟩, ⟨26,
    26, .ro, false, 0, []⟩, ⟨25, 25, .ro, false, 0, []⟩, ⟨24, 24, .ro, false, 0, []⟩, ⟨23, 16,
    .ro, true, 0, []⟩, ⟨15, 0, .ro, false, 0, []⟩]⟩,
  ⟨0x0901, 4, 64, true, false, .no, [⟨31, 0, .ro, false, 0, []⟩]⟩,
  ⟨0x0902, 4, 64, true, false, .no, [⟨31, 0, .ro, false, 0, []⟩]⟩,
  ⟨0x0903, 4, 64, true, false, .no, [⟨31, 0, .ro, false, 0, []⟩]⟩]
/-- Rows of block CMP (14 R318). -/
def rowsB3p0 : List PRow := [
  ⟨0x0C00, 1, 1, true, false, .settings, [⟨31, 28, .rws, false, 4, [(1, 4)]⟩, ⟨27, 16, .rws, false,
    0, [(0, 2048)]⟩, ⟨15, 11, .rws, true, 0, []⟩, ⟨10, 0, .rws, false, 0, [(0, 1024)]⟩]⟩,
  ⟨0x0C01, 1, 1, true, false, .settings, [⟨31, 16, .rws, false, 60, []⟩, ⟨15, 0, .rws, false, 1,
    []⟩]⟩,
  ⟨0x0C02, 1, 1, true, false, .settings, [⟨31, 28, .rws, true, 0, []⟩, ⟨27, 16, .rws, false, 0, []⟩,
    ⟨15, 12, .rws, true, 0, []⟩, ⟨11, 0, .rws, false, 0, []⟩]⟩,
  ⟨0x0C03, 1, 1, true, false, .settings, [⟨31, 12, .rws, true, 0, []⟩, ⟨11, 0, .rws, false, 0, []⟩]⟩,
  ⟨0x0C04, 1, 1, true, false, .settings, [⟨31, 16, .rw, true, 0, []⟩, ⟨15, 0, .rw, false, 200, [(50,
    2000)]⟩]⟩,
  ⟨0x0C05, 1, 1, true, false, .settings, [⟨31, 14, .rws, true, 0, []⟩, ⟨13, 0, .rws, false, 203,
    [(1, 10000)]⟩]⟩,
  ⟨0x0C06, 1, 1, true, false, .settings, [⟨31, 14, .rws, true, 0, []⟩, ⟨13, 0, .rws, false, 1000,
    [(100, 10000)]⟩]⟩,
  ⟨0x0C08, 1, 1, true, false, .no, [⟨31, 0, .ro, false, 0, []⟩]⟩,
  ⟨0x0C09, 1, 1, true, false, .no, [⟨31, 0, .ro, false, 0, []⟩]⟩,
  ⟨0x0C0B, 1, 1, true, false, .no, [⟨31, 0, .ro, false, 0, []⟩]⟩,
  ⟨0x0C10, 1, 4, true, false, .no, [⟨31, 0, .ro, false, 0, []⟩]⟩,
  ⟨0x0C14, 1, 4, true, false, .no, [⟨31, 0, .ro, false, 0, []⟩]⟩]
/-- Rows of block CMP (14 R318). -/
def rowsB3p1 : List PRow := [
  ⟨0x0C18, 1, 4, true, false, .no, [⟨31, 0, .ro, false, 0, []⟩]⟩,
  ⟨0x0C40, 16, 32, true, false, .no, [⟨31, 31, .ro, false, 0, []⟩, ⟨30, 30, .ro, false, 0, []⟩, ⟨29,
    29, .ro, false, 0, []⟩, ⟨28, 28, .ro, false, 0, []⟩, ⟨27, 22, .ro, false, 0, []⟩, ⟨21, 13,
    .ro, false, 256, []⟩, ⟨12, 12, .ro, false, 0, []⟩, ⟨11, 0, .ro, true, 0, []⟩]⟩,
  ⟨0x0C41, 16, 32, true, false, .no, [⟨31, 16, .ro, false, 0, []⟩, ⟨15, 0, .ro, false, 0, []⟩]⟩,
  ⟨0x0C42, 16, 32, true, false, .no, [⟨31, 16, .ro, false, 0, []⟩, ⟨15, 0, .ro, false, 0, []⟩]⟩,
  ⟨0x0C43, 16, 32, true, false, .no, [⟨31, 16, .ro, false, 0, []⟩, ⟨15, 0, .ro, false, 0, []⟩]⟩,
  ⟨0x0C44, 16, 32, true, false, .no, [⟨31, 16, .ro, false, 0, []⟩, ⟨15, 0, .ro, false, 0, []⟩]⟩,
  ⟨0x0C45, 16, 32, true, false, .no, [⟨27, 16, .ro, false, 0, []⟩, ⟨11, 0, .ro, false, 0, []⟩]⟩,
  ⟨0x0C46, 16, 32, true, false, .no, [⟨11, 0, .ro, false, 0, []⟩]⟩,
  ⟨0x0C47, 16, 32, true, false, .no, [⟨19, 0, .ro, false, 0, []⟩]⟩,
  ⟨0x0C48, 16, 32, true, false, .no, [⟨31, 30, .ro, false, 0, []⟩, ⟨29, 16, .ro, true, 0, []⟩, ⟨15,
    0, .ro, false, 0, []⟩]⟩,
  ⟨0x0C49, 16, 32, true, false, .no, [⟨31, 0, .ro, false, 0, []⟩]⟩,
  ⟨0x0C4A, 16, 32, true, false, .no, [⟨31, 0, .ro, true, 0, []⟩]⟩]
/-- Rows of block CMP (14 R318). -/
def rowsB3p2 : List PRow := [
  ⟨0x0C4B, 16, 32, true, false, .no, [⟨31, 0, .ro, true, 0, []⟩]⟩,
  ⟨0x0C4C, 16, 32, true, false, .no, [⟨31, 0, .ro, true, 0, []⟩]⟩,
  ⟨0x0C4D, 16, 32, true, false, .no, [⟨31, 0, .ro, true, 0, []⟩]⟩,
  ⟨0x0C4E, 16, 32, true, false, .no, [⟨31, 0, .ro, true, 0, []⟩]⟩,
  ⟨0x0C4F, 16, 32, true, false, .no, [⟨31, 0, .ro, true, 0, []⟩]⟩]
/-- The rows of block CMP. -/
def rowsB3 : List PRow := rowsB3p0 ++ rowsB3p1 ++ rowsB3p2
/-- Rows of block FLM (14 R318). -/
def rowsB4p0 : List PRow := [
  ⟨0x1000, 1, 1, true, false, .settings, [⟨31, 17, .rw, true, 0, []⟩, ⟨16, 16, .rw, false, 0, []⟩,
    ⟨15, 0, .rw, false, 250, [(20, 5000)]⟩]⟩,
  ⟨0x1001, 1, 1, true, false, .settings, [⟨31, 24, .rw, true, 0, []⟩, ⟨23, 0, .rw, false, 0, [(0,
    0), (100, 8000000)]⟩]⟩,
  ⟨0x1002, 1, 1, true, false, .settings, [⟨31, 24, .rw, true, 0, []⟩, ⟨23, 20, .rw, false, 3, []⟩,
    ⟨19, 16, .rw, true, 0, []⟩, ⟨15, 0, .rw, false, 50, [(5, 1000)]⟩]⟩,
  ⟨0x1003, 1, 1, true, true, .no, [⟨31, 16, .ro, true, 0, []⟩, ⟨15, 8, .ro, false, 2, []⟩, ⟨7, 0,
    .ro, false, 1, []⟩]⟩,
  ⟨0x1004, 1, 1, true, false, .no, [⟨31, 16, .ro, true, 0, []⟩, ⟨15, 0, .ro, false, 0, []⟩]⟩,
  ⟨0x1005, 1, 1, true, false, .no, [⟨31, 0, .ro, false, 0, []⟩]⟩,
  ⟨0x1006, 1, 1, true, false, .no, [⟨31, 0, .ro, false, 0, []⟩]⟩,
  ⟨0x1007, 1, 1, true, false, .no, [⟨31, 0, .ro, false, 0, []⟩]⟩,
  ⟨0x1010, 4, 8, true, false, .no, [⟨31, 0, .ro, false, 0, []⟩]⟩,
  ⟨0x1011, 4, 8, true, false, .no, [⟨31, 0, .ro, false, 0, []⟩]⟩,
  ⟨0x1012, 4, 8, true, false, .no, [⟨31, 0, .ro, false, 0, []⟩]⟩,
  ⟨0x1013, 4, 8, true, false, .no, [⟨31, 0, .ro, false, 0, []⟩]⟩]
/-- Rows of block FLM (14 R318). -/
def rowsB4p1 : List PRow := [
  ⟨0x1040, 1, 1, false, true, .no, [⟨31, 0, .ro, false, 0, []⟩]⟩,
  ⟨0x1041, 1, 1, false, true, .no, [⟨31, 0, .ro, false, 0, []⟩]⟩,
  ⟨0x1042, 1, 1, false, true, .no, [⟨31, 0, .ro, false, 0, []⟩]⟩,
  ⟨0x1043, 1, 1, false, true, .no, [⟨31, 0, .ro, false, 0, []⟩]⟩,
  ⟨0x1044, 1, 1, false, true, .no, [⟨31, 0, .ro, false, 0, []⟩]⟩,
  ⟨0x1045, 1, 1, false, true, .no, [⟨31, 31, .ro, false, 0, []⟩, ⟨30, 16, .ro, true, 0, []⟩, ⟨15, 0,
    .ro, false, 0, []⟩]⟩]
/-- The rows of block FLM. -/
def rowsB4 : List PRow := rowsB4p0 ++ rowsB4p1
/-- Rows of block CLN (14 R318). -/
def rowsB5 : List PRow := [
  ⟨0x1400, 1, 1, true, true, .settings, [⟨31, 12, .rw, true, 0, []⟩, ⟨11, 10, .rw, false, 1, [(0,
    2)]⟩, ⟨9, 9, .rw, false, 1, []⟩, ⟨8, 8, .rw, false, 1, []⟩, ⟨7, 5, .rw, true, 0, []⟩, ⟨4, 4,
    .rw, false, 0, []⟩, ⟨3, 0, .rw, true, 0, []⟩]⟩,
  ⟨0x1401, 1, 1, true, true, .settings, [⟨31, 13, .rw, true, 0, []⟩, ⟨12, 8, .rw, false, 6, []⟩, ⟨7,
    4, .rw, true, 0, []⟩, ⟨3, 0, .rw, false, 2, []⟩]⟩,
  ⟨0x1402, 1, 1, true, true, .settings, [⟨31, 16, .rw, true, 0, []⟩, ⟨15, 0, .rw, false, 1000,
    [(100, 60000)]⟩]⟩,
  ⟨0x1410, 8, 9, true, true, .no, [⟨31, 28, .ro, false, 0, []⟩, ⟨27, 27, .ro, false, 0, []⟩, ⟨26,
    26, .ro, false, 0, []⟩, ⟨25, 25, .ro, false, 0, []⟩, ⟨24, 24, .ro, false, 0, []⟩, ⟨23, 16,
    .ro, false, 0, []⟩, ⟨15, 8, .ro, false, 0, []⟩, ⟨7, 0, .ro, false, 0, []⟩]⟩,
  ⟨0x1411, 8, 9, true, true, .no, [⟨31, 24, .ro, false, 0, []⟩, ⟨23, 16, .ro, false, 0, []⟩, ⟨15, 8,
    .ro, false, 0, []⟩, ⟨7, 0, .ro, false, 0, []⟩]⟩,
  ⟨0x1412, 8, 9, true, true, .no, [⟨31, 20, .ro, true, 0, []⟩, ⟨19, 0, .ro, false, 0, []⟩]⟩,
  ⟨0x1413, 8, 9, true, true, .no, [⟨31, 0, .ro, false, 0, []⟩]⟩,
  ⟨0x1414, 8, 9, true, true, .no, [⟨31, 0, .ro, false, 0, []⟩]⟩,
  ⟨0x1415, 8, 9, true, true, .no, [⟨31, 0, .ro, false, 0, []⟩]⟩,
  ⟨0x1416, 8, 9, true, true, .no, [⟨31, 0, .ro, false, 0, []⟩]⟩,
  ⟨0x1417, 8, 9, true, true, .no, [⟨31, 0, .ro, true, 0, []⟩]⟩]
/-- Rows of block WEIR, PROOF and OWL (14 R318). -/
def rowsB6p0 : List PRow := [
  ⟨0x1800, 1, 1, true, false, .settings, [⟨31, 16, .rw, true, 0, []⟩, ⟨15, 0, .rw, false, 250, [(20,
    10000)]⟩]⟩,
  ⟨0x1801, 1, 1, true, false, .no, [⟨31, 0, .ro, false, 0, []⟩]⟩,
  ⟨0x1802, 1, 1, true, false, .no, [⟨31, 0, .ro, false, 0, []⟩]⟩,
  ⟨0x1803, 1, 1, true, false, .no, [⟨31, 13, .ro, true, 0, []⟩, ⟨12, 0, .ro, false, 0, []⟩]⟩,
  ⟨0x1810, 1, 1, true, false, .no, [⟨31, 0, .ro, false, 0, []⟩]⟩,
  ⟨0x1811, 1, 1, true, false, .no, [⟨31, 0, .ro, false, 0, []⟩]⟩,
  ⟨0x1812, 1, 1, true, false, .no, [⟨31, 16, .ro, true, 0, []⟩, ⟨15, 0, .ro, false, 0, []⟩]⟩,
  ⟨0x1840, 1, 1, false, true, .badger, [⟨31, 8, .saf, true, 0, []⟩, ⟨7, 4, .saf, false, 3, []⟩, ⟨3,
    0, .saf, false, 2, []⟩]⟩,
  ⟨0x1841, 1, 1, false, true, .no, [⟨31, 16, .ro, false, 0, []⟩, ⟨15, 9, .ro, true, 0, []⟩, ⟨8, 0,
    .ro, false, 0, []⟩]⟩,
  ⟨0x1842, 1, 1, false, true, .no, [⟨31, 0, .ro, false, 0, []⟩]⟩,
  ⟨0x1843, 1, 1, false, true, .no, [⟨31, 0, .ro, false, 0, []⟩]⟩,
  ⟨0x1844, 1, 1, false, true, .no, [⟨31, 0, .ro, false, 0, []⟩]⟩]
/-- Rows of block WEIR, PROOF and OWL (14 R318). -/
def rowsB6p1 : List PRow := [
  ⟨0x1900, 1, 256, true, false, .no, [⟨31, 30, .ro, false, 0, []⟩, ⟨29, 24, .ro, true, 0, []⟩, ⟨23,
    0, .ro, false, 0, []⟩]⟩,
  ⟨0x1A00, 1, 1, true, false, .no, [⟨31, 0, .ro, false, 0, []⟩]⟩]
/-- The rows of block WEIR, PROOF and OWL. -/
def rowsB6 : List PRow := rowsB6p0 ++ rowsB6p1
/-- Rows of block TIL (14 R318). -/
def rowsB7p0 : List PRow := [
  ⟨0x1C00, 1, 1, false, true, .settings, [⟨31, 15, .rw, true, 0, []⟩, ⟨14, 8, .rw, false, 0, [(0,
    64)]⟩, ⟨7, 6, .rw, true, 0, []⟩, ⟨5, 0, .rw, false, 0, [(0, 48)]⟩]⟩,
  ⟨0x1C01, 1, 1, false, true, .settings, [⟨31, 16, .rws, false, 60, []⟩, ⟨15, 0, .rws, false, 1,
    []⟩]⟩,
  ⟨0x1C02, 1, 1, false, true, .settings, [⟨31, 16, .rw, true, 0, []⟩, ⟨15, 0, .rw, false, 20, [(5,
    500)]⟩]⟩,
  ⟨0x1C03, 1, 1, false, true, .settings, [⟨31, 14, .rws, true, 0, []⟩, ⟨13, 0, .rws, false, 1000,
    [(100, 10000)]⟩]⟩,
  ⟨0x1C04, 1, 1, false, true, .no, [⟨31, 0, .ro, false, 655350, []⟩]⟩,
  ⟨0x1C05, 1, 1, false, true, .settings, [⟨31, 16, .rws, true, 0, []⟩, ⟨15, 0, .rws, false, 32768,
    [(0, 32768)]⟩]⟩,
  ⟨0x1C06, 1, 1, false, true, .no, [⟨31, 16, .ro, true, 0, []⟩, ⟨15, 0, .ro, false, 32768, []⟩]⟩,
  ⟨0x1C07, 1, 1, false, true, .settings, [⟨31, 16, .rw, true, 0, []⟩, ⟨15, 0, .rw, false, 1000,
    [(100, 1000)]⟩]⟩,
  ⟨0x1C08, 1, 1, false, true, .settings, [⟨31, 8, .rw, true, 0, []⟩, ⟨7, 0, .rw, false, 8, [(1,
    64)]⟩]⟩,
  ⟨0x1C10, 1, 1, false, true, .settings, [⟨31, 16, .rws, false, 16384, []⟩, ⟨15, 0, .rws, false, 0,
    []⟩]⟩,
  ⟨0x1C11, 1, 1, false, true, .settings, [⟨31, 16, .rws, false, 0, []⟩, ⟨15, 0, .rws, false, 0,
    []⟩]⟩,
  ⟨0x1C12, 1, 1, false, true, .settings, [⟨31, 16, .rws, false, 16384, []⟩, ⟨15, 0, .rws, false, 0,
    []⟩]⟩]
/-- Rows of block TIL (14 R318). -/
def rowsB7p1 : List PRow := [
  ⟨0x1C13, 1, 1, false, true, .settings, [⟨31, 16, .rws, false, 0, []⟩, ⟨15, 0, .rws, false, 0,
    []⟩]⟩,
  ⟨0x1C14, 1, 1, false, true, .settings, [⟨31, 16, .rws, false, 16384, []⟩, ⟨15, 0, .rws, true, 0,
    []⟩]⟩,
  ⟨0x1C20, 1, 1, false, true, .no, [⟨31, 28, .ro, false, 0, []⟩, ⟨27, 27, .ro, false, 0, []⟩, ⟨26,
    26, .ro, false, 0, []⟩, ⟨25, 25, .ro, false, 0, []⟩, ⟨24, 16, .ro, true, 0, []⟩, ⟨15, 0, .ro,
    false, 0, []⟩]⟩,
  ⟨0x1C21, 1, 1, false, true, .no, [⟨31, 16, .ro, false, 0, []⟩, ⟨15, 0, .ro, false, 0, []⟩]⟩,
  ⟨0x1C22, 1, 1, false, true, .no, [⟨31, 0, .ro, false, 0, []⟩]⟩,
  ⟨0x1C23, 1, 1, false, true, .no, [⟨31, 0, .ro, false, 0, []⟩]⟩,
  ⟨0x1C24, 1, 1, false, true, .no, [⟨31, 0, .ro, false, 0, []⟩]⟩,
  ⟨0x1C25, 1, 1, false, true, .no, [⟨31, 0, .ro, false, 0, []⟩]⟩,
  ⟨0x1C26, 1, 1, false, true, .no, [⟨31, 0, .ro, false, 0, []⟩]⟩,
  ⟨0x1C27, 1, 1, false, true, .no, [⟨31, 16, .ro, true, 0, []⟩, ⟨15, 0, .ro, false, 0, []⟩]⟩,
  ⟨0x1C30, 1, 16, false, true, .no, [⟨31, 31, .ro, false, 0, []⟩, ⟨30, 30, .ro, false, 0, []⟩, ⟨29,
    16, .ro, true, 0, []⟩, ⟨15, 0, .ro, false, 0, []⟩]⟩]
/-- The rows of block TIL. -/
def rowsB7 : List PRow := rowsB7p0 ++ rowsB7p1
/-- Rows of block BDG (14 R318). -/
def rowsB8p0 : List PRow := [
  ⟨0x2000, 1, 1, false, true, .badger, [⟨31, 16, .saf, false, 8192, [(0, 32768)]⟩, ⟨15, 4, .saf,
    true, 0, []⟩, ⟨3, 0, .saf, false, 3, []⟩]⟩,
  ⟨0x2001, 1, 1, false, true, .no, [⟨31, 24, .ro, false, 0, []⟩, ⟨23, 16, .ro, false, 0, []⟩, ⟨15,
    8, .ro, false, 44, []⟩, ⟨7, 7, .ro, false, 0, []⟩, ⟨6, 0, .ro, true, 0, []⟩]⟩,
  ⟨0x2002, 1, 1, false, true, .no, [⟨31, 16, .ro, false, 0, []⟩, ⟨15, 0, .ro, false, 4096, []⟩]⟩,
  ⟨0x2003, 1, 1, false, true, .no, [⟨31, 0, .ro, false, 0, []⟩]⟩,
  ⟨0x2004, 1, 1, false, true, .no, [⟨31, 0, .ro, false, 0, []⟩]⟩,
  ⟨0x2005, 1, 1, false, true, .no, [⟨31, 0, .ro, false, 0, []⟩]⟩,
  ⟨0x2006, 1, 1, false, true, .no, [⟨31, 0, .ro, false, 0, []⟩]⟩,
  ⟨0x2010, 1, 1, false, true, .badger, [⟨31, 28, .saf, true, 0, []⟩, ⟨27, 16, .saf, false, 0, []⟩,
    ⟨15, 12, .saf, true, 0, []⟩, ⟨11, 0, .saf, false, 0, []⟩]⟩,
  ⟨0x2011, 1, 1, false, true, .badger, [⟨31, 12, .saf, true, 0, []⟩, ⟨11, 0, .saf, false, 0, []⟩]⟩,
  ⟨0x2012, 1, 1, false, true, .badger, [⟨31, 28, .saf, true, 0, []⟩, ⟨27, 16, .saf, false, 2378,
    []⟩, ⟨15, 12, .saf, true, 0, []⟩, ⟨11, 0, .saf, false, 2378, []⟩]⟩,
  ⟨0x2013, 1, 1, false, true, .badger, [⟨31, 12, .saf, true, 0, []⟩, ⟨11, 0, .saf, false, 2378,
    []⟩]⟩,
  ⟨0x2014, 1, 1, false, true, .badger, [⟨31, 28, .saf, true, 0, []⟩, ⟨27, 16, .saf, false, 2378,
    []⟩, ⟨15, 12, .saf, true, 0, []⟩, ⟨11, 0, .saf, false, 0, []⟩]⟩]
/-- Rows of block BDG (14 R318). -/
def rowsB8p1 : List PRow := [
  ⟨0x2015, 1, 1, false, true, .badger, [⟨31, 12, .saf, true, 0, []⟩, ⟨11, 0, .saf, false, 0, []⟩]⟩,
  ⟨0x2016, 1, 1, false, true, .badger, [⟨31, 28, .saf, true, 0, []⟩, ⟨27, 16, .saf, false, 2378,
    []⟩, ⟨15, 12, .saf, true, 0, []⟩, ⟨11, 0, .saf, false, 1900, []⟩]⟩,
  ⟨0x2017, 1, 1, false, true, .badger, [⟨31, 12, .saf, true, 0, []⟩, ⟨11, 0, .saf, false, 0, []⟩]⟩,
  ⟨0x2018, 1, 1, false, true, .badger, [⟨31, 28, .saf, true, 0, []⟩, ⟨27, 16, .saf, false, 0, []⟩,
    ⟨15, 12, .saf, true, 0, []⟩, ⟨11, 0, .saf, false, 2378, []⟩]⟩,
  ⟨0x2019, 1, 1, false, true, .badger, [⟨31, 12, .saf, true, 0, []⟩, ⟨11, 0, .saf, false, 0, []⟩]⟩,
  ⟨0x201A, 2, 11, false, true, .badger, [⟨31, 28, .saf, true, 0, []⟩, ⟨27, 16, .saf, false, 0, []⟩,
    ⟨15, 12, .saf, true, 0, []⟩, ⟨11, 0, .saf, false, 0, []⟩]⟩,
  ⟨0x201B, 2, 11, false, true, .badger, [⟨31, 12, .saf, true, 0, []⟩, ⟨11, 0, .saf, false, 0, []⟩]⟩,
  ⟨0x2040, 1, 44, false, true, .no, [⟨31, 30, .ro, false, 0, []⟩, ⟨29, 28, .ro, false, 0, []⟩, ⟨27,
    24, .ro, false, 0, []⟩, ⟨23, 16, .ro, true, 0, []⟩, ⟨15, 0, .ro, false, 0, []⟩]⟩,
  ⟨0x2080, 8, 16, false, true, .no, [⟨31, 0, .ro, false, 0, []⟩]⟩,
  ⟨0x2081, 8, 16, false, true, .no, [⟨31, 0, .ro, false, 0, []⟩]⟩,
  ⟨0x2082, 8, 16, false, true, .no, [⟨31, 0, .ro, false, 0, []⟩]⟩,
  ⟨0x2083, 8, 16, false, true, .no, [⟨31, 0, .ro, false, 0, []⟩]⟩]
/-- Rows of block BDG (14 R318). -/
def rowsB8p2 : List PRow := [
  ⟨0x2084, 8, 16, false, true, .no, [⟨31, 0, .ro, false, 0, []⟩]⟩,
  ⟨0x2085, 8, 16, false, true, .no, [⟨31, 0, .ro, false, 0, []⟩]⟩,
  ⟨0x2086, 8, 16, false, true, .no, [⟨31, 0, .ro, false, 0, []⟩]⟩,
  ⟨0x2087, 8, 16, false, true, .no, [⟨31, 0, .ro, false, 0, []⟩]⟩,
  ⟨0x2100, 1, 3, false, true, .no, [⟨31, 0, .ro, false, 0, []⟩]⟩]
/-- The rows of block BDG. -/
def rowsB8 : List PRow := rowsB8p0 ++ rowsB8p1 ++ rowsB8p2
/-- Rows of block LMP (14 R318). -/
def rowsB9p0 : List PRow := [
  ⟨0x2400, 1, 1, false, true, .settings, [⟨31, 30, .rw, false, 0, [(0, 2)]⟩, ⟨29, 24, .rw, false, 1,
    [(1, 48)]⟩, ⟨23, 19, .rw, false, 1, [(1, 16)]⟩, ⟨18, 0, .rw, true, 0, []⟩]⟩,
  ⟨0x2401, 1, 1, false, true, .settings, [⟨31, 16, .rws, true, 0, []⟩, ⟨15, 0, .rws, false, 0, []⟩]⟩,
  ⟨0x2402, 1, 1, false, true, .no, [⟨31, 31, .ro, false, 0, []⟩, ⟨30, 30, .ro, false, 0, []⟩, ⟨29,
    29, .ro, false, 0, []⟩, ⟨28, 28, .ro, false, 0, []⟩, ⟨27, 24, .ro, true, 0, []⟩, ⟨23, 16, .ro,
    false, 0, []⟩, ⟨15, 8, .ro, false, 0, []⟩, ⟨7, 0, .ro, true, 0, []⟩]⟩,
  ⟨0x2410, 1, 1, false, true, .settings, [⟨31, 24, .rws, true, 0, []⟩, ⟨23, 16, .rws, false, 64,
    [(1, 255)]⟩, ⟨15, 6, .rws, true, 0, []⟩, ⟨5, 0, .rws, false, 31, []⟩]⟩,
  ⟨0x2411, 1, 1, false, true, .settings, [⟨31, 16, .rws, false, 1872, [(16, 65535)]⟩, ⟨15, 12, .rws,
    true, 0, []⟩, ⟨11, 0, .rws, false, 160, [(32, 4095)]⟩]⟩,
  ⟨0x2412, 1, 1, false, true, .settings, [⟨31, 24, .rws, false, 48, [(8, 255)]⟩, ⟨23, 16, .rws,
    false, 48, []⟩, ⟨15, 8, .rws, false, 64, []⟩, ⟨7, 4, .rws, false, 2, [(2, 15)]⟩, ⟨3, 0, .rws,
    true, 0, []⟩]⟩,
  ⟨0x2413, 1, 1, false, true, .settings, [⟨31, 17, .rws, true, 0, []⟩, ⟨16, 16, .rws, false, 1, []⟩,
    ⟨15, 8, .rws, true, 0, []⟩, ⟨7, 0, .rws, false, 4, [(1, 255)]⟩]⟩,
  ⟨0x2414, 1, 1, false, true, .settings, [⟨31, 16, .rw, true, 0, []⟩, ⟨15, 0, .rw, false, 2000,
    [(100, 20000)]⟩]⟩,
  ⟨0x2418, 1, 1, false, true, .no, [⟨31, 16, .ro, false, 0, []⟩, ⟨15, 0, .ro, false, 0, []⟩]⟩,
  ⟨0x2419, 1, 1, false, true, .no, [⟨31, 0, .ro, false, 0, []⟩]⟩,
  ⟨0x2420, 1, 1, false, true, .settings, [⟨31, 24, .rw, false, 64, []⟩, ⟨23, 20, .rw, false, 2, [(1,
    8)]⟩, ⟨19, 10, .rw, true, 0, []⟩, ⟨9, 0, .rw, false, 100, [(25, 1000)]⟩]⟩,
  ⟨0x2421, 1, 1, false, true, .settings, [⟨31, 16, .rw, true, 0, []⟩, ⟨15, 0, .rw, false, 100, [(20,
    10000)]⟩]⟩]
/-- Rows of block LMP (14 R318). -/
def rowsB9p1 : List PRow := [
  ⟨0x2422, 1, 1, false, true, .no, [⟨31, 0, .ro, false, 0, []⟩]⟩,
  ⟨0x2423, 1, 1, false, true, .no, [⟨31, 0, .ro, false, 0, []⟩]⟩,
  ⟨0x2424, 1, 1, false, true, .no, [⟨31, 0, .ro, false, 0, []⟩]⟩,
  ⟨0x2425, 1, 1, false, true, .no, [⟨31, 0, .ro, false, 0, []⟩]⟩,
  ⟨0x2426, 1, 1, false, true, .no, [⟨31, 0, .ro, false, 0, []⟩]⟩,
  ⟨0x2427, 1, 1, false, true, .no, [⟨31, 0, .ro, false, 0, []⟩]⟩,
  ⟨0x2428, 1, 1, false, true, .no, [⟨31, 16, .ro, true, 0, []⟩, ⟨15, 8, .ro, false, 0, []⟩, ⟨7, 0,
    .ro, false, 0, []⟩]⟩,
  ⟨0x2430, 1, 16, false, true, .settings, [⟨31, 31, .rw, false, 0, []⟩, ⟨30, 25, .rw, false, 0, []⟩,
    ⟨24, 19, .rw, false, 0, []⟩, ⟨18, 12, .rw, false, 0, [(0, 64)]⟩, ⟨11, 6, .rw, false, 0, [(0,
    48)]⟩, ⟨5, 0, .rw, true, 0, []⟩]⟩,
  ⟨0x2440, 1, 32, false, true, .settings, [⟨31, 31, .rw, false, 0, []⟩, ⟨30, 30, .rw, false, 0, []⟩,
    ⟨29, 23, .rw, false, 0, []⟩, ⟨22, 19, .rw, false, 0, []⟩, ⟨18, 16, .rw, false, 0, []⟩, ⟨15, 8,
    .rw, false, 0, []⟩, ⟨7, 0, .rw, true, 0, []⟩]⟩,
  ⟨0x2460, 1, 32, false, true, .no, [⟨31, 31, .ro, false, 0, []⟩, ⟨30, 16, .ro, true, 0, []⟩, ⟨15,
    0, .ro, false, 0, []⟩]⟩,
  ⟨0x2480, 1, 1, false, true, .settings, [⟨31, 16, .rw, true, 0, []⟩, ⟨15, 0, .rw, false, 1000,
    [(100, 2000)]⟩]⟩,
  ⟨0x2481, 1, 1, false, true, .no, [⟨31, 0, .ro, false, 0, []⟩]⟩]
/-- Rows of block LMP (14 R318). -/
def rowsB9p2 : List PRow := [
  ⟨0x2482, 1, 1, false, true, .no, [⟨31, 0, .ro, false, 0, []⟩]⟩,
  ⟨0x2500, 1, 64, false, true, .no, [⟨31, 0, .ro, false, 0, []⟩]⟩]
/-- The rows of block LMP. -/
def rowsB9 : List PRow := rowsB9p0 ++ rowsB9p1 ++ rowsB9p2
/-- Rows of block TIM (14 R318). -/
def rowsB10p0 : List PRow := [
  ⟨0x2800, 1, 1, true, true, .no, [⟨31, 31, .ro, false, 0, []⟩, ⟨30, 28, .ro, false, 0, []⟩, ⟨27,
    24, .ro, false, 0, []⟩, ⟨23, 16, .ro, false, 0, []⟩, ⟨15, 0, .ro, true, 0, []⟩]⟩,
  ⟨0x2801, 1, 1, true, false, .settings, [⟨31, 16, .rw, false, 100, [(10, 10000)]⟩, ⟨15, 8, .rw,
    false, 10, [(1, 100)]⟩, ⟨7, 2, .rw, true, 0, []⟩, ⟨1, 0, .rw, false, 0, [(0, 2)]⟩]⟩,
  ⟨0x2802, 1, 1, true, false, .settings, [⟨31, 16, .rw, false, 250, [(50, 10000)]⟩, ⟨15, 0, .rw,
    false, 500, [(100, 50000)]⟩]⟩,
  ⟨0x2803, 1, 1, true, false, .settings, [⟨31, 16, .rw, false, 10, [(1, 600)]⟩, ⟨15, 0, .rw, false,
    50, [(1, 65535)]⟩]⟩,
  ⟨0x2804, 1, 1, true, true, .settings, [⟨31, 16, .rw, true, 0, []⟩, ⟨15, 0, .rw, false, 1000, [(10,
    65535)]⟩]⟩,
  ⟨0x2805, 1, 1, true, true, .no, [⟨31, 0, .ro, false, 0, []⟩]⟩,
  ⟨0x2806, 1, 1, true, true, .settings, [⟨31, 16, .rw, true, 0, []⟩, ⟨15, 0, .rw, false, 200, [(50,
    10000)]⟩]⟩,
  ⟨0x2807, 1, 1, true, true, .no, [⟨31, 0, .ro, false, 0, []⟩]⟩,
  ⟨0x2808, 1, 1, true, true, .no, [⟨31, 0, .ro, false, 0, []⟩]⟩,
  ⟨0x2809, 1, 1, true, true, .no, [⟨31, 0, .ro, false, 0, []⟩]⟩,
  ⟨0x280A, 1, 1, true, true, .no, [⟨31, 0, .ro, false, 0, []⟩]⟩,
  ⟨0x280B, 1, 1, true, true, .no, [⟨31, 0, .ro, false, 0, []⟩]⟩]
/-- Rows of block TIM (14 R318). -/
def rowsB10p1 : List PRow := [
  ⟨0x2810, 8, 2, true, false, .settings, [⟨31, 31, .rw, false, 0, []⟩, ⟨30, 30, .rw, false, 0, []⟩,
    ⟨29, 29, .rw, false, 0, []⟩, ⟨28, 28, .rw, false, 0, []⟩, ⟨27, 24, .rw, true, 0, []⟩, ⟨23, 16,
    .rw, false, 0, []⟩, ⟨15, 8, .rw, true, 0, []⟩, ⟨7, 0, .rw, false, 127, [(0, 127)]⟩]⟩,
  ⟨0x2811, 8, 2, true, false, .no, [⟨31, 28, .ro, false, 0, []⟩, ⟨27, 27, .ro, false, 0, []⟩, ⟨26,
    24, .ro, false, 0, []⟩, ⟨23, 16, .ro, true, 0, []⟩, ⟨15, 8, .ro, false, 0, []⟩, ⟨7, 0, .ro,
    true, 0, []⟩]⟩,
  ⟨0x2812, 8, 2, true, false, .no, [⟨31, 0, .ro, false, 0, []⟩]⟩,
  ⟨0x2813, 8, 2, true, false, .no, [⟨31, 0, .ro, false, 0, []⟩]⟩,
  ⟨0x2814, 8, 2, true, false, .no, [⟨31, 0, .ro, false, 0, []⟩]⟩,
  ⟨0x2815, 8, 2, true, false, .no, [⟨31, 0, .ro, false, 0, []⟩]⟩,
  ⟨0x2816, 8, 2, true, false, .no, [⟨31, 0, .ro, false, 0, []⟩]⟩,
  ⟨0x2817, 8, 2, true, false, .no, [⟨31, 0, .ro, false, 0, []⟩]⟩,
  ⟨0x2820, 1, 2, true, false, .no, [⟨31, 31, .w1c, false, 0, []⟩, ⟨30, 21, .ro, true, 0, []⟩, ⟨20,
    16, .ro, false, 0, []⟩, ⟨15, 8, .ro, false, 0, []⟩, ⟨7, 0, .ro, true, 0, []⟩]⟩,
  ⟨0x2828, 1, 1, true, true, .settings, [⟨31, 8, .rw, true, 0, []⟩, ⟨7, 0, .rw, false, 0, []⟩]⟩,
  ⟨0x282C, 1, 4, true, true, .no, [⟨31, 16, .ro, false, 0, []⟩, ⟨15, 6, .ro, true, 0, []⟩, ⟨5, 0,
    .ro, false, 0, []⟩]⟩,
  ⟨0x2830, 1, 4, true, true, .no, [⟨31, 30, .ro, false, 0, []⟩, ⟨29, 8, .ro, true, 0, []⟩, ⟨7, 0,
    .ro, false, 255, []⟩]⟩]
/-- Rows of block TIM (14 R318). -/
def rowsB10p2 : List PRow := [
  ⟨0x2840, 1, 16, true, true, .no, [⟨31, 30, .ro, false, 0, []⟩, ⟨29, 28, .ro, false, 0, []⟩, ⟨27,
    16, .ro, true, 0, []⟩, ⟨15, 0, .ro, false, 0, []⟩]⟩]
/-- The rows of block TIM. -/
def rowsB10 : List PRow := rowsB10p0 ++ rowsB10p1 ++ rowsB10p2
/-- Rows of block PAIR (14 R318). -/
def rowsB11p0 : List PRow := [
  ⟨0x2C00, 1, 1, true, true, .settings, [⟨31, 16, .rw, false, 200, [(50, 10000)]⟩, ⟨15, 8, .rw,
    false, 16, [(1, 255)]⟩, ⟨7, 2, .rw, true, 0, []⟩, ⟨1, 1, .rw, false, 0, []⟩, ⟨0, 0, .rw,
    false, 1, []⟩]⟩,
  ⟨0x2C01, 1, 1, true, true, .settings, [⟨31, 16, .rw, true, 0, []⟩, ⟨15, 0, .rw, false, 10, [(1,
    100)]⟩]⟩,
  ⟨0x2C02, 1, 1, true, true, .no, [⟨31, 28, .ro, false, 0, []⟩, ⟨27, 26, .ro, false, 0, []⟩, ⟨25,
    25, .ro, false, 0, []⟩, ⟨24, 24, .ro, false, 0, []⟩, ⟨23, 23, .ro, false, 0, []⟩, ⟨22, 22,
    .ro, false, 0, []⟩, ⟨21, 21, .ro, false, 0, []⟩, ⟨20, 20, .ro, false, 0, []⟩, ⟨19, 16, .ro,
    false, 0, []⟩, ⟨15, 8, .ro, true, 0, []⟩, ⟨7, 0, .ro, false, 0, []⟩]⟩,
  ⟨0x2C03, 1, 1, true, true, .no, [⟨31, 6, .ro, true, 0, []⟩, ⟨5, 0, .ro, false, 0, []⟩]⟩,
  ⟨0x2C04, 1, 1, true, true, .no, [⟨31, 16, .ro, true, 0, []⟩, ⟨15, 0, .ro, false, 0, []⟩]⟩,
  ⟨0x2C10, 1, 1, true, true, .no, [⟨31, 0, .ro, false, 0, []⟩]⟩,
  ⟨0x2C11, 1, 1, true, true, .no, [⟨31, 0, .ro, false, 0, []⟩]⟩,
  ⟨0x2C12, 1, 1, true, true, .no, [⟨31, 0, .ro, false, 0, []⟩]⟩,
  ⟨0x2C13, 1, 1, true, true, .no, [⟨31, 0, .ro, false, 0, []⟩]⟩,
  ⟨0x2C14, 1, 1, true, true, .no, [⟨31, 0, .ro, false, 0, []⟩]⟩,
  ⟨0x2C15, 1, 1, true, true, .no, [⟨31, 0, .ro, false, 0, []⟩]⟩,
  ⟨0x2C16, 1, 1, true, true, .no, [⟨31, 0, .ro, false, 0, []⟩]⟩]
/-- Rows of block PAIR (14 R318). -/
def rowsB11p1 : List PRow := [
  ⟨0x2C17, 1, 1, true, true, .no, [⟨31, 0, .ro, false, 0, []⟩]⟩,
  ⟨0x2C18, 1, 1, true, true, .no, [⟨31, 0, .ro, false, 0, []⟩]⟩,
  ⟨0x2C19, 1, 1, true, true, .no, [⟨31, 0, .ro, false, 0, []⟩]⟩,
  ⟨0x2C1A, 1, 1, true, true, .no, [⟨31, 0, .ro, false, 0, []⟩]⟩,
  ⟨0x2C1B, 1, 1, true, true, .no, [⟨31, 0, .ro, false, 0, []⟩]⟩,
  ⟨0x2C1C, 1, 1, true, true, .no, [⟨31, 0, .ro, false, 0, []⟩]⟩,
  ⟨0x2C1D, 1, 1, true, true, .no, [⟨31, 0, .ro, false, 0, []⟩]⟩]
/-- The rows of block PAIR. -/
def rowsB11 : List PRow := rowsB11p0 ++ rowsB11p1
/-- Rows of block MEM (14 R318). -/
def rowsB12p0 : List PRow := [
  ⟨0x3000, 1, 1, true, false, .settings, [⟨31, 12, .rw, true, 0, []⟩, ⟨11, 8, .rw, false, 4, [(0,
    8)]⟩, ⟨7, 4, .rw, true, 0, []⟩, ⟨3, 0, .rw, false, 15, []⟩]⟩,
  ⟨0x3000, 1, 1, false, true, .settings, [⟨31, 12, .rw, true, 0, []⟩, ⟨11, 8, .rw, false, 4, [(0,
    8)]⟩, ⟨7, 4, .rw, true, 0, []⟩, ⟨3, 0, .rw, false, 1, []⟩]⟩,
  ⟨0x3001, 1, 1, true, true, .no, [⟨31, 28, .ro, false, 0, []⟩, ⟨27, 24, .ro, false, 0, []⟩, ⟨23,
    23, .ro, false, 0, []⟩, ⟨22, 20, .ro, true, 0, []⟩, ⟨19, 16, .ro, false, 0, []⟩, ⟨15, 0, .ro,
    false, 0, []⟩]⟩,
  ⟨0x3002, 1, 1, true, true, .settings, [⟨31, 16, .rw, true, 0, []⟩, ⟨15, 0, .rw, false, 200, [(0,
    0), (10, 10000)]⟩]⟩,
  ⟨0x3003, 1, 1, true, true, .settings, [⟨31, 16, .rw, false, 20, [(5, 1000)]⟩, ⟨15, 0, .rw, false,
    1000, [(200, 10000)]⟩]⟩,
  ⟨0x3004, 1, 1, true, true, .settings, [⟨31, 8, .rw, true, 0, []⟩, ⟨7, 0, .rw, false, 24, [(0,
    168)]⟩]⟩,
  ⟨0x3008, 1, 1, true, false, .settings, [⟨31, 19, .rw, true, 0, []⟩, ⟨18, 0, .rw, false, 16384,
    []⟩]⟩,
  ⟨0x3009, 1, 1, true, false, .settings, [⟨31, 19, .rw, true, 0, []⟩, ⟨18, 0, .rw, false, 49152,
    []⟩]⟩,
  ⟨0x300A, 1, 1, false, true, .settings, [⟨31, 19, .rw, true, 0, []⟩, ⟨18, 0, .rw, false, 128, []⟩]⟩,
  ⟨0x3010, 1, 1, true, true, .no, [⟨31, 0, .ro, false, 0, []⟩]⟩,
  ⟨0x3011, 1, 1, true, true, .no, [⟨31, 0, .ro, false, 0, []⟩]⟩,
  ⟨0x3012, 1, 1, true, true, .no, [⟨31, 4, .ro, true, 0, []⟩, ⟨3, 0, .ro, false, 0, []⟩]⟩]
/-- Rows of block MEM (14 R318). -/
def rowsB12p1 : List PRow := [
  ⟨0x3013, 1, 1, true, true, .no, [⟨31, 0, .ro, false, 0, []⟩]⟩,
  ⟨0x3014, 1, 1, true, true, .no, [⟨31, 0, .ro, false, 0, []⟩]⟩,
  ⟨0x3015, 1, 1, true, true, .no, [⟨31, 0, .ro, false, 0, []⟩]⟩,
  ⟨0x3016, 1, 1, true, true, .no, [⟨31, 0, .ro, false, 0, []⟩]⟩,
  ⟨0x3017, 1, 1, true, true, .no, [⟨31, 0, .ro, false, 0, []⟩]⟩,
  ⟨0x3018, 1, 1, true, true, .no, [⟨31, 0, .ro, false, 0, []⟩]⟩,
  ⟨0x3020, 4, 4, true, true, .no, [⟨31, 24, .ro, false, 0, []⟩, ⟨23, 16, .ro, false, 0, []⟩, ⟨15,
    15, .ro, false, 0, []⟩, ⟨14, 12, .ro, true, 0, []⟩, ⟨11, 8, .ro, false, 0, []⟩, ⟨7, 4, .ro,
    true, 0, []⟩, ⟨3, 0, .ro, false, 0, []⟩]⟩,
  ⟨0x3021, 4, 4, true, true, .no, [⟨31, 0, .ro, true, 0, []⟩]⟩,
  ⟨0x3022, 4, 4, true, true, .no, [⟨31, 0, .ro, false, 0, []⟩]⟩,
  ⟨0x3023, 4, 4, true, true, .no, [⟨31, 0, .ro, false, 0, []⟩]⟩]
/-- The rows of block MEM. -/
def rowsB12 : List PRow := rowsB12p0 ++ rowsB12p1
/-- Rows of block SRM (14 R318). -/
def rowsB13p0 : List PRow := [
  ⟨0x3400, 1, 1, true, true, .settings, [⟨31, 9, .rw, true, 0, []⟩, ⟨8, 8, .rw, false, 1, []⟩, ⟨7,
    0, .rw, true, 0, []⟩]⟩,
  ⟨0x3401, 1, 1, true, true, .settings, [⟨31, 30, .rw, false, 0, [(0, 2)]⟩, ⟨29, 24, .rw, true, 0,
    []⟩, ⟨23, 16, .rw, false, 10, [(1, 255)]⟩, ⟨15, 0, .rw, false, 24, [(0, 168)]⟩]⟩,
  ⟨0x3402, 1, 1, true, true, .settings, [⟨31, 0, .rw, false, 0, []⟩]⟩,
  ⟨0x3403, 1, 1, true, true, .settings, [⟨31, 0, .rw, false, 0, []⟩]⟩,
  ⟨0x3404, 1, 1, true, true, .no, [⟨31, 30, .ro, false, 0, []⟩, ⟨29, 24, .ro, false, 0, []⟩, ⟨23,
    21, .ro, false, 0, []⟩, ⟨20, 10, .ro, true, 0, []⟩, ⟨9, 0, .ro, false, 0, []⟩]⟩,
  ⟨0x3410, 1, 1, true, true, .no, [⟨31, 0, .ro, false, 0, []⟩]⟩,
  ⟨0x3411, 1, 1, true, true, .no, [⟨31, 0, .ro, false, 0, []⟩]⟩,
  ⟨0x3412, 1, 1, true, true, .no, [⟨31, 31, .ro, false, 0, []⟩, ⟨30, 24, .ro, false, 0, []⟩, ⟨23,
    16, .ro, true, 0, []⟩, ⟨15, 0, .ro, false, 0, []⟩]⟩,
  ⟨0x3413, 1, 1, true, true, .no, [⟨31, 0, .ro, false, 0, []⟩]⟩,
  ⟨0x3414, 1, 1, true, true, .no, [⟨31, 0, .ro, false, 0, []⟩]⟩,
  ⟨0x3415, 1, 1, true, true, .no, [⟨31, 0, .ro, false, 0, []⟩]⟩,
  ⟨0x3416, 1, 1, true, true, .no, [⟨31, 0, .ro, false, 0, []⟩]⟩]
/-- Rows of block SRM (14 R318). -/
def rowsB13p1 : List PRow := [
  ⟨0x3420, 1, 65, true, true, .no, [⟨31, 28, .ro, false, 0, []⟩, ⟨27, 27, .ro, false, 1, []⟩, ⟨26,
    26, .ro, false, 0, []⟩, ⟨25, 25, .ro, false, 0, []⟩, ⟨24, 16, .ro, true, 0, []⟩, ⟨15, 0, .ro,
    false, 0, []⟩]⟩]
/-- The rows of block SRM. -/
def rowsB13 : List PRow := rowsB13p0 ++ rowsB13p1
/-- Rows of block PWR and THM (14 R318). -/
def rowsB14p0 : List PRow := [
  ⟨0x3800, 1, 1, true, false, .settings, [⟨31, 16, .rw, false, 450, [(50, 450)]⟩, ⟨15, 0, .rw, true,
    0, []⟩]⟩,
  ⟨0x3800, 1, 1, false, true, .settings, [⟨31, 16, .rw, false, 180, [(50, 180)]⟩, ⟨15, 0, .rw, true,
    0, []⟩]⟩,
  ⟨0x3801, 1, 1, true, true, .no, [⟨31, 16, .ro, false, 0, []⟩, ⟨15, 0, .ro, false, 0, []⟩]⟩,
  ⟨0x3802, 1, 1, false, true, .settings, [⟨31, 16, .rw, false, 0, [(0, 10000)]⟩, ⟨15, 0, .rw, false,
    0, []⟩]⟩,
  ⟨0x3803, 1, 1, false, true, .settings, [⟨31, 16, .rw, false, 0, []⟩, ⟨15, 0, .rw, false, 0, []⟩]⟩,
  ⟨0x3804, 1, 1, false, true, .settings, [⟨31, 16, .rw, true, 0, []⟩, ⟨15, 0, .rw, false, 0, []⟩]⟩,
  ⟨0x3805, 1, 1, true, true, .no, [⟨31, 16, .ro, false, 0, []⟩, ⟨15, 0, .ro, false, 0, []⟩]⟩,
  ⟨0x3806, 1, 1, false, true, .no, [⟨31, 0, .ro, false, 0, []⟩]⟩,
  ⟨0x3807, 1, 1, true, true, .settings, [⟨31, 16, .rw, false, 2048, [(256, 8192)]⟩, ⟨15, 0, .rw,
    false, 2000, [(100, 60000)]⟩]⟩,
  ⟨0x3808, 1, 1, true, true, .settings, [⟨31, 16, .rw, false, 1000, [(100, 10000)]⟩, ⟨15, 0, .rw,
    false, 10000, [(1000, 60000)]⟩]⟩,
  ⟨0x3809, 1, 1, true, true, .no, [⟨31, 31, .ro, false, 0, []⟩, ⟨30, 30, .ro, false, 0, []⟩, ⟨29,
    29, .w1c, false, 0, []⟩, ⟨28, 8, .ro, true, 0, []⟩, ⟨7, 0, .ro, false, 0, []⟩]⟩,
  ⟨0x380A, 1, 1, true, true, .no, [⟨31, 0, .ro, false, 0, []⟩]⟩]
/-- Rows of block PWR and THM (14 R318). -/
def rowsB14p1 : List PRow := [
  ⟨0x380B, 1, 1, true, true, .no, [⟨31, 0, .ro, false, 0, []⟩]⟩,
  ⟨0x380C, 1, 1, true, true, .no, [⟨31, 0, .ro, false, 0, []⟩]⟩,
  ⟨0x380D, 1, 1, false, true, .no, [⟨31, 0, .ro, false, 0, []⟩]⟩,
  ⟨0x380E, 1, 1, true, true, .no, [⟨31, 0, .ro, false, 0, []⟩]⟩,
  ⟨0x3810, 1, 8, true, true, .no, [⟨31, 16, .ro, false, 65535, []⟩, ⟨15, 0, .ro, false, 0, []⟩]⟩,
  ⟨0x3820, 1, 1, true, true, .no, [⟨31, 31, .ro, false, 0, []⟩, ⟨30, 24, .ro, true, 0, []⟩, ⟨23, 16,
    .ro, false, 0, []⟩, ⟨15, 8, .ro, false, 0, []⟩, ⟨7, 0, .ro, false, 0, []⟩]⟩,
  ⟨0x3A00, 1, 1, true, true, .settings, [⟨31, 8, .rw, true, 0, []⟩, ⟨7, 0, .rw, false, 15, [(5,
    30)]⟩]⟩,
  ⟨0x3A01, 1, 1, true, true, .no, [⟨31, 24, .ro, false, 0, []⟩, ⟨23, 16, .ro, false, 0, []⟩, ⟨15, 0,
    .ro, false, 0, []⟩]⟩,
  ⟨0x3A02, 1, 1, true, true, .no, [⟨31, 0, .ro, false, 0, []⟩]⟩,
  ⟨0x3A03, 1, 1, true, true, .no, [⟨31, 0, .ro, false, 0, []⟩]⟩,
  ⟨0x3A10, 1, 16, true, true, .no, [⟨31, 31, .ro, false, 0, []⟩, ⟨30, 30, .ro, false, 0, []⟩, ⟨29,
    29, .ro, false, 0, []⟩, ⟨28, 16, .ro, true, 0, []⟩, ⟨15, 0, .ro, false, 0, []⟩]⟩]
/-- The rows of block PWR and THM. -/
def rowsB14 : List PRow := rowsB14p0 ++ rowsB14p1
/-- Rows of block CAL (14 R318). -/
def rowsB15 : List PRow := [
  ⟨0x3C00, 1, 1, true, true, .no, [⟨31, 28, .ro, false, 0, []⟩, ⟨27, 27, .ro, false, 0, []⟩, ⟨26,
    26, .ro, false, 0, []⟩, ⟨25, 25, .ro, false, 0, []⟩, ⟨24, 24, .ro, false, 0, []⟩, ⟨23, 16,
    .ro, true, 0, []⟩, ⟨15, 0, .ro, false, 0, []⟩]⟩,
  ⟨0x3C01, 1, 1, true, true, .settings, [⟨31, 1, .rw, true, 0, []⟩, ⟨0, 0, .rw, false, 1, []⟩]⟩,
  ⟨0x3C02, 1, 1, true, true, .settings, [⟨31, 16, .rw, false, 10000, [(1, 65535)]⟩, ⟨15, 1, .rw,
    true, 0, []⟩, ⟨0, 0, .rw, false, 0, []⟩]⟩,
  ⟨0x3C03, 1, 1, true, true, .no, [⟨31, 24, .ro, false, 128, []⟩, ⟨23, 16, .ro, true, 0, []⟩, ⟨15,
    0, .ro, false, 0, []⟩]⟩,
  ⟨0x3C04, 1, 1, false, true, .no, [⟨31, 16, .ro, false, 0, []⟩, ⟨15, 0, .ro, false, 0, []⟩]⟩,
  ⟨0x3C09, 1, 4, true, true, .no, [⟨31, 28, .ro, false, 0, []⟩, ⟨27, 16, .ro, true, 0, []⟩, ⟨15, 0,
    .ro, false, 0, []⟩]⟩,
  ⟨0x3C20, 1, 16, false, true, .no, [⟨31, 28, .ro, false, 0, []⟩, ⟨27, 27, .ro, false, 0, []⟩, ⟨26,
    26, .ro, false, 0, []⟩, ⟨25, 20, .ro, true, 0, []⟩, ⟨19, 16, .ro, false, 0, []⟩, ⟨15, 0, .ro,
    false, 0, []⟩]⟩,
  ⟨0x3C40, 1, 16, true, true, .no, [⟨31, 16, .ro, true, 0, []⟩, ⟨15, 0, .ro, false, 0, []⟩]⟩,
  ⟨0x3C60, 1, 18, true, true, .no, [⟨31, 8, .ro, true, 0, []⟩, ⟨7, 0, .ro, false, 0, []⟩]⟩]
/-- Rows of block FWU (14 R318). -/
def rowsB16 : List PRow := [
  ⟨0x4000, 1, 1, true, true, .settings, [⟨31, 16, .rw, false, 30, [(1, 1440)]⟩, ⟨15, 8, .rw, false,
    60, [(10, 255)]⟩, ⟨7, 0, .rw, true, 0, []⟩]⟩,
  ⟨0x4001, 1, 1, true, true, .no, [⟨31, 31, .ro, false, 0, []⟩, ⟨30, 30, .ro, false, 0, []⟩, ⟨29,
    28, .ro, false, 0, []⟩, ⟨27, 27, .ro, false, 0, []⟩, ⟨26, 26, .ro, false, 0, []⟩, ⟨25, 25,
    .ro, false, 0, []⟩, ⟨24, 16, .ro, true, 0, []⟩, ⟨15, 8, .ro, false, 0, []⟩, ⟨7, 0, .ro, true,
    0, []⟩]⟩,
  ⟨0x4002, 1, 2, true, true, .no, [⟨31, 28, .ro, false, 0, []⟩, ⟨27, 27, .ro, false, 0, []⟩, ⟨26,
    24, .ro, true, 0, []⟩, ⟨23, 16, .ro, false, 0, []⟩, ⟨15, 13, .ro, true, 0, []⟩, ⟨12, 0, .ro,
    false, 0, []⟩]⟩,
  ⟨0x4004, 1, 2, true, true, .no, [⟨31, 0, .ro, false, 0, []⟩]⟩,
  ⟨0x4006, 1, 1, true, true, .no, [⟨31, 0, .ro, false, 0, []⟩]⟩,
  ⟨0x4007, 1, 1, true, true, .no, [⟨31, 8, .ro, true, 0, []⟩, ⟨7, 0, .ro, false, 0, []⟩]⟩,
  ⟨0x4008, 1, 1, true, true, .no, [⟨31, 0, .ro, false, 0, []⟩]⟩]
/-- Rows of block EVR (14 R318). -/
def rowsB17 : List PRow := [
  ⟨0x4400, 1, 1, true, true, .settings, [⟨31, 24, .rw, true, 0, []⟩, ⟨23, 16, .rw, false, 60, [(1,
    255)]⟩, ⟨15, 4, .rw, true, 0, []⟩, ⟨3, 0, .rw, false, 0, []⟩]⟩,
  ⟨0x4401, 1, 8, true, true, .settings, [⟨31, 16, .rw, false, 0, []⟩, ⟨15, 0, .rw, false, 0, []⟩]⟩,
  ⟨0x4410, 1, 1, true, true, .no, [⟨31, 26, .ro, true, 0, []⟩, ⟨25, 16, .ro, false, 0, []⟩, ⟨15, 11,
    .ro, true, 0, []⟩, ⟨10, 0, .ro, false, 0, []⟩]⟩,
  ⟨0x4411, 1, 1, true, true, .no, [⟨31, 31, .ro, false, 0, []⟩, ⟨30, 18, .ro, true, 0, []⟩, ⟨17, 0,
    .ro, false, 0, []⟩]⟩,
  ⟨0x4412, 1, 1, true, true, .no, [⟨31, 0, .ro, false, 0, []⟩]⟩,
  ⟨0x4413, 1, 1, true, true, .no, [⟨31, 0, .ro, false, 0, []⟩]⟩,
  ⟨0x4414, 1, 1, true, true, .no, [⟨31, 16, .ro, true, 0, []⟩, ⟨15, 0, .ro, false, 0, []⟩]⟩,
  ⟨0x4415, 1, 1, true, true, .no, [⟨31, 0, .ro, false, 0, []⟩]⟩,
  ⟨0x4416, 1, 1, true, true, .no, [⟨31, 0, .ro, false, 0, []⟩]⟩,
  ⟨0x4417, 1, 1, true, true, .no, [⟨31, 0, .ro, false, 0, []⟩]⟩]
/-- Rows of block SEC (14 R318). -/
def rowsB18 : List PRow := [
  ⟨0x4800, 1, 1, true, true, .no, [⟨31, 29, .ro, false, 0, []⟩, ⟨28, 26, .ro, false, 0, []⟩, ⟨25,
    25, .ro, false, 0, []⟩, ⟨24, 24, .ro, false, 0, []⟩, ⟨23, 0, .ro, true, 0, []⟩]⟩,
  ⟨0x4801, 1, 1, true, true, .no, [⟨31, 21, .ro, true, 0, []⟩, ⟨20, 16, .ro, false, 0, []⟩, ⟨15, 13,
    .ro, true, 0, []⟩, ⟨12, 8, .ro, false, 0, []⟩, ⟨7, 5, .ro, true, 0, []⟩, ⟨4, 0, .ro, false, 0,
    []⟩]⟩,
  ⟨0x4802, 1, 1, true, true, .settings, [⟨31, 2, .rw, true, 0, []⟩, ⟨1, 0, .rw, false, 1, [(0,
    2)]⟩]⟩,
  ⟨0x4803, 1, 1, true, true, .no, [⟨31, 0, .ro, false, 0, []⟩]⟩,
  ⟨0x4808, 1, 4, true, true, .no, [⟨31, 0, .ro, false, 0, []⟩]⟩]

/-- The rows of the block of 1,024 indices that `b` numbers (14 R318). -/
def blockRows (b : Nat) : List PRow :=
  match b with
  | 0 => rowsB0
  | 1 => rowsB1
  | 2 => rowsB2
  | 3 => rowsB3
  | 4 => rowsB4
  | 5 => rowsB5
  | 6 => rowsB6
  | 7 => rowsB7
  | 8 => rowsB8
  | 9 => rowsB9
  | 10 => rowsB10
  | 11 => rowsB11
  | 12 => rowsB12
  | 13 => rowsB13
  | 14 => rowsB14
  | 15 => rowsB15
  | 16 => rowsB16
  | 17 => rowsB17
  | 18 => rowsB18
  | _ => []

/-- Whether row `r` covers index `i`. -/
def PRow.covers (r : PRow) (i : Nat) : Bool :=
  r.base ≤ i && (i - r.base) % r.stride == 0 && (i - r.base) / r.stride < r.count

/-- Whether row `r` serves the role (`snd`: sender). -/
def PRow.serves (r : PRow) (snd : Bool) : Bool := if snd then r.snd else r.tile

/-- The row of index `i` in the role, if the index is assigned and its block runs there. -/
def findRow (snd : Bool) (i : Nat) : Option PRow :=
  (blockRows (i / 1024)).find? (fun r => r.covers i && r.serves snd)

/-- Whether index `i` is assigned to some parameter (14 R318). -/
def assigned (i : Nat) : Bool := (blockRows (i / 1024)).any (fun r => r.covers i)

/-- The word a row resets to (14 R324 step 1). -/
def PRow.resetWord (r : PRow) : Word :=
  r.fields.foldl (fun w f => w ||| (BitVec.ofNat 32 f.reset <<< f.lo)) 0

/-- The reset value of index `i` in the role; 0 where the index is not served. -/
def resetWord (snd : Bool) (i : Nat) : Word :=
  match findRow snd i with
  | some r => r.resetWord
  | none => 0

end Sys2Proof.Machine
end

