-- ==== Sys2Proof/Machine/State.lean ====
section
/-! DEFINITION. The state of one MK9600 as plain data: every register, store, queue, counter, mode
and timer the manual gives the device, the queue of waiting commands, and `State.reset`. Every
counter and every configuration word has one home, the parameter file `par`; status words that
other state determines are computed where they are read. -/

namespace Sys2Proof.Machine

/-! ### Smiben sessions and commands in flight (02) -/

/-- A session slot: its number, and for a relayed slot of a tile the rail of its sender
(02 R37). -/
structure SRef where
  num : Nat
  rail : Option Side
  deriving DecidableEq, Repr

/-- What a reply or a later notification of an accepted command needs (02 R47, R48). `serial` tells the session from a
later one in the same slot. -/
structure CmdRef where
  sess : SRef
  serial : Nat
  level : Nat
  keyc : Nat
  opcode : Nat
  seq : Word
  nonote : Bool
  deriving DecidableEq, Repr

/-- A Smiben packet the device sends (02 R30). -/
structure Packet where
  via : Via
  hdr : BitVec 256
  payload : List Word
  tag : W128
  deriving DecidableEq, Repr

/-- One open session (02 R35 to R38, R49). `serial` is its place among the sessions opened since reset. `key` is absent at a sender for a safety session and at
a tile without the class key. `win` bit i tells that SEQ `hi` - i was accepted. `dseq` is the last
SEQ the device used. `recent` holds the last 16 accepted SEQs with the reply once sent, `queued`
the commands that passed step 11 and have not been answered, `notes` the last 64 notifications by
ECHO, newest first; `passed` holds the accepted SEQs with their place in the order in which the device's commands
passed step 5 (R48). -/
structure Session where
  ref : SRef
  serial : Nat
  keyc : Nat
  key : Option W256
  level : Nat
  lastAt : Nat
  hi : Word
  win : BitVec 64
  dseq : Word
  recent : List (Word × Option Packet)
  queued : List Word
  notes : List (Word × Packet)
  passed : List (Word × Nat)
  src : Via
  deriving DecidableEq, Repr

/-- A token bucket: tokens in units of 1e-9, and the local time of its last refill (02 R42,
03 R58). -/
structure Bucket where
  port : Nat
  cls : Nat
  level : Nat
  at_ : Nat
  deriving DecidableEq, Repr

/-- The holder of an ownership domain (02 R43 to R45). -/
structure Owner where
  sess : SRef
  claim : Word
  deriving DecidableEq, Repr

/-- A device a gather waits for: position, side (02 R50). -/
structure GTarget where
  na : BitVec 16
  place : BitVec 64
  side : Side
  deriving DecidableEq, Repr

/-- A summary gather in progress at a sender (02 R50): of replies, or of notifications. `via` is how the command
came, `latest` the latest instant the notifications named and `latestOk` its VALID; `early` holds the notifications
that came before the summary reply, with status, instant and VALID, and `earlyAt` when the first of them came. -/
structure Gather where
  id : Nat
  ref : CmdRef
  via : Via
  notes : Bool
  targets : List GTarget
  answers : List (GTarget × Nat)
  latest : Nat
  latestOk : Bool
  deadline : Nat
  single : Bool
  early : List (GTarget × Nat × Nat × Bool)
  earlyAt : Option Nat
  deriving DecidableEq, Repr

/-- The Smiben state of the device. `refuse` is the counter of refused opens (R36), `nhHist` the
last 64 accepted host nonces, `marks` the classes whose first drop of the given wall-clock second
has been recorded, `cmdBuf` the packet in the MGMT command buffer, `mgmtOut` the packet in the MGMT packet
buffer of the other direction and behind it those that wait to enter it (02 R34; log 91), `accepted` the number of
commands that have passed step 5, `opened` that of the sessions. -/
structure Smiben where
  sess : List Session
  refuse : Word
  nhHist : List W128
  wall : Option Owner
  safety : Option Owner
  update : Option Owner
  buckets : List Bucket
  marks : List (Nat × Nat)
  gathers : List Gather
  nextGather : Nat
  cmdBuf : Option Smb
  mgmtOut : List Packet
  accepted : Nat
  opened : Nat
  deriving DecidableEq, Repr

/-! ### Records, keys and life cycle (20) -/

/-- An event record (20 R425). -/
structure Rec where
  trig : Nat
  snap : List Word
  valid : Bool
  side : Side
  sender : Bool
  pcc : Word
  rseq : Word
  optime : Nat
  wt : Nat
  epoch : Byte
  na : BitVec 16
  fwver : Word
  deriving DecidableEq, Repr

/-- A REC_CLEAR in progress (20 R430). `mark` is the RSEQ of the next record at its acceptance. -/
structure Clearing where
  ref : CmdRef
  ring : Bool
  archive : Bool
  mark : Word
  deriving DecidableEq, Repr

/-- The recorder: the ring newest first with its head slot and the count of unarchived records,
records lost since the last report, the archive newest first with its head slot, a clear in
progress, the record-once marks of SRAM banks and DRAM ports (R352, R336), the local time from which the next
checkpoint counts (R427). -/
structure Recorder where
  ring : List Rec
  head : Nat
  unarch : Nat
  lostNow : Nat
  archive : List Rec
  arcHead : Nat
  clearing : Option Clearing
  marks : List (Nat × Nat)
  ckpt : Nat
  deriving DecidableEq, Repr

/-- One-time storage (20 R432): serial, K_dev, verification key, rollback counter, life-cycle
state, and the written key slots of the classes host, safety, update in order, each with its
revoked bit. -/
structure Otp where
  serial : W128
  kdev : W256
  kdevRevoked : Bool
  vkey : W256
  rollback : Nat
  lcs : Nat
  host : List (W256 × Bool)
  safety : List (W256 × Bool)
  update : List (W256 × Bool)
  deriving DecidableEq, Repr

/-- A one-time programming in progress (20 R434, R436). -/
inductive OtpJob where
  | key (ref : CmdRef) (cls : Nat) (key : W256)
  | life (ref : CmdRef) (target : Nat)
  deriving DecidableEq, Repr

/-- Keys in the secure bank and tamper state (20 R432, R437; 16 R359). `keys` are the loaded class
keys by KEYC, `wipeAt` the local time of the last wipe's cause, `tamperWipe` tells that this was a tamper. -/
structure Secure where
  keys : List (Nat × W256)
  kprov : Option W256
  kpNonces : List W128
  entropyOk : Bool
  tamperLow : Bool
  tamperSeen : Bool
  hold : Bool
  highSince : Option Nat
  wiping : Bool
  wipeAt : Nat
  tamperWipe : Bool
  job : Option OtpJob
  deriving DecidableEq, Repr

/-! ### Sluice, power, thermal (17) -/

/-- The heavy operations that draw credits (17 R375). -/
inductive HeavyOp where
  | portTrain (port : Nat)
  | portMode (port mode fec : Nat) (ref : CmdRef)
  | dramTrain (ch : Nat)
  | lampOn (ref : Option CmdRef)
  | flash (id : Nat)
  | recompute (id : Nat)
  | verify (ref : CmdRef)
  | download (ref : CmdRef) (size : Nat) (version : Word) (next : Nat)
  | trial
  | calRun (item : Nat) (ref : CmdRef)
  | ttab (mask : Nat) (cache : Bool) (ref : Option CmdRef)
  | boardFlash
  | march (bank : Nat)
  deriving DecidableEq, Repr

/-- A credit request, waiting or granted (17 R376). -/
structure Credit where
  id : Nat
  op : HeavyOp
  cls : Nat
  chip : Nat
  lamp : Nat
  at_ : Nat
  deriving DecidableEq, Repr

/-- Sluice: requests in arrival order, and the grants in force (17 R376); `lowSince` is since when
the estimate has stayed at or below 3/4 of the budget, `raised` that a raise of the Sluice factor has not
reached the lamps yet (R380). -/
structure Sluice where
  next : Nat
  waiting : List Credit
  granted : List Credit
  lowSince : Option Nat
  raised : Bool
  deriving DecidableEq, Repr

/-- A die sensor (17 R382): reading in 1/16 °C, implausible, cross-failed, and the runs of
conversions that change those states. -/
structure DieSensor where
  t : Int
  impl : Bool
  xfail : Bool
  goodRun : Nat
  lowRun : Nat
  okRun : Nat
  deriving DecidableEq, Repr

/-- Rails, clocks and temperature (17 R366 to R373, R381 to R384; 21 R448). `vio18Low` tells that VIO18
holds the write stop, `goodSince` since when the supplies may have been good, `rails` the last filtered
value reported of each rail, `railWarn` and `railFault` the rails below warning and below fault or above
their over-voltage limit; `lastConv` is the last conversion of the die sensors, `tstep` the throttle step
of the temperature alone, `below` since when TMAX has been below the leave threshold of steps 1 to 3. -/
structure Power where
  pfail : Bool
  vio18Low : Bool
  stopped : Bool
  goodSince : Option Nat
  rails : List (Nat × Nat)
  railWarn : List Nat
  railFault : List Nat
  violNominal : Option Nat
  sensors : List DieSensor
  lastConv : Option Nat
  fastConv : Bool
  calmSince : Option Nat
  tstep : Nat
  below : List (Option Nat)
  shutdown : Bool
  coolSince : Option Nat
  hottest : Int
  deriving DecidableEq, Repr

/-! ### Flash (19, 18, 08) -/

/-- An image header (19 R405). -/
structure ImgHdr where
  version : Word
  roles : Nat
  steps : Nat
  rollback : Nat
  smbHigh : Nat
  flHigh : Nat
  setVer : Nat
  setMin : Nat
  bdgVer : Nat
  bdgMin : Nat
  len : Nat
  deriving DecidableEq, Repr

/-- A boot record copy (19 R406). Slot A is slot 0 and slot B slot 1. -/
structure BootRec where
  seq : Word
  active : Nat
  stA : Nat
  stB : Nat
  verA : Word
  verB : Word
  lenA : Nat
  lenB : Nat
  whyA : Nat
  whyB : Nat
  arm : Bool
  armTime : Nat
  marks : Nat
  deriving DecidableEq, Repr

/-- A firmware slot in flash (19 R403, R408): programmed blocks by block number, blocks marked in
the map, and the stored signature. -/
structure Slot where
  data : List (Nat × List Word)
  marked : List Nat
  sig : List Word
  deriving DecidableEq, Repr

/-- A settings record copy (19 R416): kept values and the sections their own commands keep: the
node address, a sender's enrolment table, region table and watches, a tile's lamp policies. -/
structure SetRec where
  ver : Nat
  seq : Word
  kept : List (Nat × Word)
  na : Option (BitVec 16)
  enrolled : List (BitVec 16 × BitVec 64)
  regions : List (Nat × List Word)
  watches : List (Nat × List Word)
  policies : List (Nat × Nat)
  deriving DecidableEq, Repr

/-- A Badger record copy (08 R186; 19 R416): SAF values, field definitions, user glyphs. -/
structure BdgRec where
  ver : Nat
  seq : Word
  kept : List (Nat × Word)
  fields : List (Nat × List Word)
  glyphs : List Glyph
  deriving DecidableEq, Repr

/-- A calibration record copy (18 R395): version, trim, lane offsets, sensor offsets, gain
correction in 0.01 %, ZERO in mA. -/
structure CalRec where
  ver : Nat
  trim : Nat
  lanes : List (Nat × Int)
  sensors : List Int
  gain : Int
  zero : Nat
  deriving DecidableEq, Repr

/-- A correction cache entry (18 R399, R400). The matrix is one list of nine coefficients per
pixel of the board. -/
structure CacheEntry where
  board : Nat
  serial : BitVec 64
  pw : Nat
  ph : Nat
  table : List TPoint
  matrix : List (List Int)
  deriving DecidableEq, Repr

/-- A flash operation in the queue (19 R404). -/
inductive FlashOp where
  | enrol (na : BitVec 16)
  | unenrol
  | paramSave (kept : List (Nat × Word))
  | settings
  | badger (c : BdgChange)
  | matrixSave
  | cache (board : Nat)
  | calRecord (status : Nat)
  | fwBegin (size : Nat) (version : Word) (next : Nat)
  | fwBlock (off : Nat) (data : List Word)
  | fwVerified (sig : List Word)
  | fwConfirm
  | fwAbort
  | bootMark (slot why : Nat)
  | recoveryWrite (slot off : Nat) (data : List Word)
  | recoveryBoot (slot : Nat) (sig : List Word)
  | archive
  | recClear
  deriving DecidableEq, Repr

/-- A queued flash operation, the command it belongs to, and whether its credits are held. -/
structure FlashItem where
  id : Nat
  op : FlashOp
  ref : Option CmdRef
  ready : Bool
  deriving DecidableEq, Repr

/-- The flash and what firmware holds of it. `run` is the running slot, `trialDeadline` the
confirmation deadline in ms of operating time, `deferred` the settings writes put off by a trial
(R418), `dl` the open download with its last activity, `bootReq` and `recReq` the requests held in
the always-on domain, `loops` the boot-loop count, `failWhy` the reason of a trial that has failed,
kept in the always-on domain, `trialCopy` the Badger copy a trial writes (R418), `bdgNow` the Badger record in effect: the one
this start took, with what has been written since (08 R186). -/
structure Flash where
  queue : List FlashItem
  next : Nat
  boot0 : Option BootRec
  boot1 : Option BootRec
  slotA : Slot
  slotB : Slot
  setA : Option SetRec
  setB : Option SetRec
  bdgNow : BdgRec
  bdgA : Option BdgRec
  bdgB : Option BdgRec
  calA : Option CalRec
  calB : Option CalRec
  cache : List CacheEntry
  fw : ImgHdr
  run : Nat
  trial : Bool
  fallback : Bool
  migFail : Bool
  confirming : Bool
  deferred : List FlashItem
  saved : List (Nat × Word)
  dl : Option Nat
  staged : List (Nat × List Word)
  bootReq : Option Nat
  recReq : Bool
  loops : Nat
  loadVer : Nat
  loadSrc : Nat
  failWhy : Nat
  trialCopy : Option Nat
  deriving DecidableEq, Repr

/-! ### External memory (15) -/

/-- A DRAM channel (15 R339, R340). `step` is the training step reached (0: not training, 8: all
done), `tries` the attempts of this training, `total` all attempts since reset, `since` the local time of
the grant of its credits, `busy` the local time at which it last had a request (15 R346). -/
structure DramCh where
  ch : Nat
  step : Nat
  tries : Nat
  total : Nat
  trained : Bool
  failed : Bool
  dens : Nat
  rdEye : Nat
  wrEye : Nat
  hot : Bool
  refreshNs : Nat
  retryAt : Option Nat
  drift : Int
  since : Nat
  busy : Nat
  dqsAt : Nat
  mr4At : Nat
  refFrom : Nat
  refreshed : List (Nat × Nat)
  deriving DecidableEq, Repr

/-- A DRAM transaction (15 R342 to R344): `data` is what a read found when it took its tag, `poison` that
it read a poisoned unit, `at_` the local time at which it took its tag or began to wait for one. -/
structure DramReq where
  tag : Nat
  port : Nat
  ch : Nat
  addr : Nat
  len : Nat
  write : Option (List Byte)
  at_ : Nat
  data : List Byte
  poison : Bool
  deriving DecidableEq, Repr

/-- The memory controller (15). `mem` holds the bytes of the system space that differ from the
zero fill, `poisoned` the poisoned units, `srCh` the channels in self-refresh, `postponed` the
refreshes put off per channel and bank, `scrub` the next unit of the scrubber and `scrubAt` the local time of its last step, `freezes` the local
times of the freezes, `cmds` the last commands of each channel, newest first, `waiting` the requests that wait for a tag, `stallAt` the local time up to
which waiting has been counted. -/
structure Dram where
  state : Nat
  grain : Nat
  chans : List DramCh
  degraded : Bool
  mem : List Host.Cell
  poisoned : List Nat
  reqs : List DramReq
  waiting : List DramReq
  nextTag : Nat
  srCh : List Nat
  postponed : List ((Nat × Nat) × Nat)
  scrub : Nat
  scrubAt : Nat
  freezes : List Nat
  frozenAt : Option Nat
  ended : Bool
  cmds : List (Nat × Nat)
  stallAt : Nat
  deriving DecidableEq, Repr

/-! ### On-chip memory (16) -/

/-- An SRAM bank (16 R354 to R357, R363). -/
structure Bank where
  owner : Nat
  on : Bool
  clear : Bool
  fault : Bool
  passes : Nat
  deriving DecidableEq, Repr

/-- The SRAM banks 0 to 64 and the march engine (16 R360): state as SRM.MARCH_STS codes it, mode
of the run, banks waiting for an engine, banks with an engine and its granule, last bank begun,
local time at which the run completed. `from_` holds for a bank with an engine the local time from which it may lock its
next granule, or at which its destructive march began. `mem` holds the bytes that requests at the ports have written, `poisoned` the
words whose check bits stay uncorrectable until a whole-word write (16 R352). -/
structure Sram where
  banks : List Bank
  mstate : Nat
  mmode : Nat
  todo : List Nat
  active : List (Nat × Nat)
  from_ : List (Nat × Nat)
  last : Nat
  doneAt : Option Nat
  mem : List Host.Cell
  poisoned : List Nat
  deriving DecidableEq, Repr

/-! ### Calibration, start-up, GPIO (18, 21) -/

/-- What is known of a lamp board (18 R400, R401). `st`: 0 absent, 1 loading, 2 from cache, 3 from
board, 4 rejected. `table` and `matrix` are loaded data waiting for their edge. -/
structure Board where
  st : Nat
  moved : Bool
  isNew : Bool
  from_ : Nat
  serial : BitVec 64
  pw : Nat
  ph : Nat
  loading : Option (Option CmdRef)
  table : List TPoint
  matrix : List (List Int)
  waiting : Bool
  deriving DecidableEq, Repr

/-- Calibration (18 R395 to R398): RESULT and FIGURE of the items, the runs in progress with what they
measure, and the values in effect. -/
structure Calib where
  results : List (Nat × Nat × Nat)
  running : List (Nat × CmdRef × CalIn)
  lanes : List Int
  sensors : List Int
  gain : Int
  zero : Nat
  trim : Nat
  rcCount : Nat
  recBad : Bool
  copyB : Bool
  changed : Bool
  boards : List Board
  deriving DecidableEq, Repr

/-- Start-up state (18 R387 to R394) and what the always-on domain keeps (20 R428, 17 R366). -/
structure Boot where
  phase : Nat
  tfull : Nat
  xsel : Bool
  rcvy : Bool
  held : Bool
  cause : Nat
  lossNs : Nat
  resetPending : Option Nat
  firstPass : Bool
  autodrive : Bool
  deriving DecidableEq, Repr

/-- GPIO[15:8] modes and the health-write toggle (21 R445, R446). -/
structure Gpio where
  modes : List Nat
  hbeat : Bool
  deriving DecidableEq, Repr

/-! ### Network ports and ingest (03) -/

/-- A network port (03 R52, R53): mode in effect, FEC25, a PORT_MODE in progress with its command
and deadline, link and alignment bits of the sub-ports. -/
structure NetPort where
  mode : Nat
  fec : Nat
  training : Option (CmdRef × Nat)
  link : Nat
  align : Nat
  deriving DecidableEq, Repr

/-- An address of an interface (03 R56): family 0 IPv4, 1 IPv6 link-local, 2 IPv6 global; state
as NET.IF_STS codes it; probes and announcements sent; when it was last defended; when its timer
next runs. -/
structure NetAddr where
  iface : Nat
  fam : Nat
  st : Nat
  probes : Nat
  announced : Nat
  defended : Option Nat
  next : Option Nat
  deriving DecidableEq, Repr

/-- A group membership of an interface (03 R57): source filter (0: any), unsolicited reports left,
when the next of them is due, when the answer to a query is due, and whether the group is being left. -/
structure Member where
  iface : Nat
  group : BitVec 128
  source : BitVec 128
  left : Nat
  next : Option Nat
  answer : Option Nat
  leave : Bool
  deriving DecidableEq, Repr

/-- State of a source slot (03 R66). -/
inductive SlotSt where
  | free
  | filling
  | ready
  | reading
  deriving DecidableEq, Repr

/-- A source slot with its frame (03 R63 to R67). `words` is the definition the frame came under, `opened` the
local time of its first packet. `aTime` is A on the device clock, or in local time for a NOTIME frame. `lines`
holds the received samples of each line as (sample index, sample); `seen` the marked places of the duplicate map
counted from `first`, with each path that brought them; `counted` the places counted as supplied by the other
path; `window` the instant the merge window opened; `loss` the lines of
the line-loss map; `order` the order in which frames became ready and `readyAt` the clock at which
this one did; `old` marks a frame of a
replaced or removed definition, `dies` one that is freed when its read ends; `units` the pool units the slot takes;
`fresh` the places that path B last marked, with the local time; `early` counts the packets before `first` that came
too late for the map. -/
structure SrcSlot where
  idx : Nat
  units : Nat
  words : List Word
  opened : Nat
  dies : Bool
  st : SlotSt
  ts : Word
  aTime : Nat
  src : Option Nat
  suspect : Bool
  notime : Bool
  first : Word
  seen : List (Nat × Bool)
  counted : List Nat
  window : Option Nat
  lines : List (Nat × List (Nat × Samp))
  loss : List Nat
  order : Nat
  readyAt : Nat
  old : Bool
  fresh : Nat × List Nat
  early : Nat
  deriving DecidableEq, Repr

/-- A stream (03 R59 to R68): its 24 words, status as ING.STS codes it (0: removed, its last frame
still being read), SSRC lock, last packet time of each path and whether the path is up, first packets
of the newest frames on each path, flags of ING.STS, whether the first report of each path has been
sent, the pending definition command, whether the stream-up event has been sent, and its slots. `closed` holds
the RTP timestamps of the frames that are done with, `refused` those of frames that found no slot, newest first;
`suspects` counts the implausible frames and `wrong` the packets dropped under class 7 (R58, R67); `unread` are the
lines that the fill of the next incomplete frame could not read (15 R337); `since` is the local time of the definition,
`upTo` the extended sequence number up to which packets have been accounted for (R68). -/
structure Stream where
  id : Nat
  words : List Word
  st : Nat
  lock : Option Word
  lastA : Option Nat
  lastB : Option Nat
  upA : Bool
  upB : Bool
  firstA : List (Word × Nat)
  firstB : List (Word × Nat)
  clash : Bool
  tsusp : Bool
  joinA : Bool
  joinB : Bool
  ref : Option CmdRef
  announced : Bool
  closed : List Word
  refused : List Word
  suspects : Nat
  wrong : Nat
  unread : List Nat
  since : Nat
  upTo : Option Word
  slots : List SrcSlot
  deriving DecidableEq, Repr

/-- The network side of a sender. `mac` is the provisioned MAC; `compat` the older querier versions heard on
an interface (by 8 × interface + version, + 4 for IPv6) with the local time at which each counts as gone; `rxHeld` the bytes
the receiver buffer of a port holds while DRAM takes no writes (R63); `marks` the first-drop marks of the classes; `orders`
counts frames that became ready. -/
structure Net where
  mac : BitVec 48
  ports : List NetPort
  addrs : List NetAddr
  members : List Member
  compat : List (Nat × Nat)
  rxHeld : List (Nat × Nat)
  buckets : List Bucket
  marks : List (Nat × Nat)
  streams : List Stream
  orders : Nat
  deriving DecidableEq, Repr

/-! ### Canvas (04) -/

/-- A source frame a layer picked: stream, RTP timestamp, slot, the clock at which it became READY,
and the definition words of its stream (04 R74). -/
structure LPick where
  stream : Nat
  ts : Word
  slot : Nat
  readyAt : Nat
  words : List Word
  deriving DecidableEq, Repr

/-- One ordinary layer (04 R76): words +0x0 to +0x7 in effect, source state, early picks, repeats,
pick of the last latch. -/
structure Layer where
  words : List Word
  src : Nat
  early : Nat
  repeats : Nat
  pick : Option LPick
  deriving DecidableEq, Repr

/-- A tile rectangle in blocks (04 R72). `fresh`: new or changed in the coming frame. -/
structure Rect where
  na : BitVec 16
  xb : Nat
  yb : Nat
  wtb : Nat
  htb : Nat
  fresh : Bool
  deriving DecidableEq, Repr

/-- The settings a latch froze for its frame (04 R73, R74). -/
structure Latched where
  start : Nat
  pipes : Nat
  wb : Nat
  hb : Nat
  bg : Samp × Samp × Samp
  white : Nat
  hlg : Nat
  layers : List (List Word)
  picks : List (Option LPick)
  skip : Bool
  notes : List (CmdRef × Nat)
  deriving DecidableEq, Repr

/-- A completed canvas frame: schedule start, size in blocks, and for each block in raster order
its 768 samples, its BSIG and its incomplete flag (04 R92; 05 R93, R94); the layers and picks of
its latch (12 R287), and the clock of its completion. -/
structure CanvasFrame where
  start : Nat
  done : Nat
  layers : List (List Word)
  picks : List (Option LPick)
  wb : Nat
  hb : Nat
  blocks : List (List Samp)
  bsigs : List Word
  incs : List Bool
  deriving DecidableEq, Repr

/-- The compositor (04). `composing` is the frame in composition, `newest` the newest completed
frame and whether it has been delivered or taken, `prev` the frame compared against. -/
structure Canvas where
  layers : List Layer
  held : List (Nat × List Word)
  rects : List Rect
  stagedRects : List (Rect × Nat × CmdRef)
  latched : Option Latched
  composing : Option Latched
  newest : Option CanvasFrame
  undelivered : Bool
  prev : Option CanvasFrame
  deriving DecidableEq, Repr

/-! ### Flume at the sender (05, 10) -/

/-- The pending bits and the last delivered copy's incomplete flags of a tile's rectangle, by block
index in the rectangle (05 R94, R95); `since` holds the changes no applied delivery has carried, with
the clock at which their canvas frame completed (10 R225); `carried` tells of each block which delivery changed it
last, by the local time of its edge and its FRAME (10 R225); `lastFail` is the FRAME whose failure was counted
last (05 R108). -/
structure TileDmg where
  na : BitVec 16
  pending : List Nat
  incs : List Nat
  since : List (Nat × Nat)
  carried : List (Nat × Nat × BitVec 16)
  resync : Bool
  failRun : Nat
  lastFail : Option (BitVec 16)
  reachable : Bool
  deriving DecidableEq, Repr

/-- A packet of a delivery: its index and the rectangle blocks it carries (05 R98, R101). -/
structure PktPlan where
  pidx : Nat
  blocks : List Nat
  tries : Nat
  deriving DecidableEq, Repr

/-- What a delivery sends one tile and what it has heard (05 R98 to R108). -/
structure TilePlan where
  na : BitVec 16
  full : Bool
  pkts : List PktPlan
  sent : Nat
  repairs : List Nat
  received : Bool
  failed : Bool
  edge : Option Word
  deriving DecidableEq, Repr

/-- One chain's part of a delivery: its tiles in increasing NA, the commit's send time, how often
the commit was sent again, and the place of the tile whose report a queued repeat is sent for. -/
structure ChainPlan where
  chain : Nat
  tiles : List TilePlan
  committed : Option Nat
  repeats : Nat
  again : Option (BitVec 64)
  deriving DecidableEq, Repr

/-- A delivery in progress (05 R97); `lats` holds the latency of each place at its start (06 R137). -/
structure Delivery where
  frame : BitVec 16
  start : Nat
  canvas : CanvasFrame
  chains : List ChainPlan
  pt : Option Word
  epoch : Byte
  ready : Nat
  lats : List (BitVec 64 × Nat)
  deriving DecidableEq, Repr

/-- A proof record of a sender for one tile (10 R237): delivered BSIGs by block, the last two
FRAMEs with the expected MAPSIG, the last PROOF, the verdict and when the PROOF came. -/
structure ProofRec where
  na : BitVec 16
  bsigs : List (Nat × Word)
  frames : List (BitVec 16 × Word)
  last : Option ProofMsg
  verdict : Nat
  at_ : Nat
  deriving DecidableEq, Repr

/-- A defined region of a sender (10 R221): number, its four words, the last
condition failed per chain (R225, R238), and the chains it was vouched on last. -/
structure Region where
  num : Nat
  words : List Word
  fails : List (Nat × Nat)
  vouched : List Nat
  deriving DecidableEq, Repr

/-- An Owl watch (10 R231 to R233): its words, the time since the signature last changed, the last
signature, state 0 off, 1 watching, 2 frozen, and the slots queued for a check. -/
structure Watch where
  num : Nat
  words : List Word
  since : Nat
  wsig : Option Word
  st : Nat
  deriving DecidableEq, Repr

/-- An ENROL a sender has relayed whose outcome it awaits (01 R21): the address, the place, the sides that may still
take it, and the command. -/
structure Enrolling where
  na : BitVec 16
  place : BitVec 64
  sides : List Side
  ref : CmdRef
  deriving DecidableEq, Repr

/-- The part of one crossing device in the change of latency by the crossings at a break (06 R137): the chain, the rail
of the break, the place below it, the change of every tile at or below that place, and the further change of the tiles
beyond its DN and its BR. -/
structure LatChange where
  chain : Nat
  rail : Side
  below : BitVec 64
  change : Int
  dn : Int
  br : Int
  deriving DecidableEq, Repr

/-- Flume, Weir, Owl and proof at the sender. `certs` are the certificate entries waiting per
chain; `enrolling` the ENROL commands relayed and not yet settled (01 R21); `hops` the UP latency and tFWD
of every known tile place (06 R127), `later` those of links that retrained while a crossing still bridges them (06
R138), and `lost` the places whose UP link is down (06 R119, R135; 05 R108); `changes` the parts of the latency changes of crossings (06 R137); `unread` the canvas blocks whose last read by the emitter failed (15 R337); `levels` the highest and lowest Flume level of a place; `proofs` the proof
records; `residue` the bytes of each chain not yet counted as KiB; `pace` the local time at which a chain takes its
next Flume packet (06 R119); `defining` the region commands whose REGION_SETs have not all been acknowledged (10 R222). -/
structure Flume where
  dmg : List TileDmg
  delivery : Option Delivery
  ek : Option Word
  certs : List (Nat × List CertEnt)
  hops : List (BitVec 64 × Nat × Nat)
  later : List (BitVec 64 × Nat × Nat)
  lost : List (BitVec 64)
  changes : List LatChange
  levels : List (BitVec 64 × Nat × Nat)
  residue : List (Nat × Nat)
  pace : List (Nat × Nat)
  regions : List Region
  defining : List (Nat × CmdRef)
  unread : List Nat
  watches : List Watch
  owlQueue : List (Nat × Nat × Word)
  proofs : List ProofRec
  enrolled : List (BitVec 16 × BitVec 64)
  enrolling : List Enrolling
  yieldOn : Bool
  canvasReady : Option Nat
  deriving DecidableEq, Repr

/-! ### CorsinLink (06) -/

/-- A message on the twin link (12 R273). -/
inductive TwinMsg where
  | hello (m : HelloMsg)
  | beat (m : BeatMsg)
  | accept (id : ChangeId) (tick : Word)
  | edgeSet (id : ChangeId) (edge : Word)
  | coef (m : CoefMsg)
  | cmp (m : CmpMsg)
  | verdict (code : Nat) (failed : Byte)
  | handoverReq (b0 : Word)
  | handoverAck (b0 : Word) (accept : Bool)
  | state (m : StateMsg)
  | deliv (start : Word) (frame : BitVec 16)
  | canvas (start : Word) (picks : List Pick) (incs : List (Nat × Nat)) (overflow : Bool)
  | canvsig (start : Word) (dsigs : List (BitVec 16 × Word))
  | lampstate (ents : List LampEnt)
  deriving DecidableEq, Repr

/-- The body of a control packet (06 R129). `bytes` is a control header and a message by its bytes; the others
are messages whose layout the manual does not give (log 98): `twin` a twin unit message, `announce` a session
announcement (02 R37), `lats` a report on the latencies of a chain (R127, R135, R137), `crossReq`, `crossAns`
and `uncross` the messages of a crossing (R135, R138). -/
inductive CtlBody where
  | bytes (ctype : Nat) (bcast upward : Bool) (route : BitVec 40) (rail : Side) (msg : List Byte)
  | twin (m : TwinMsg)
  | lats (place : BitVec 64) (m : LatReport)
  | crossReq (down : Bool) (port : Nat)
  | crossAns (down : Bool) (port : Nat) (grant : Bool)
  | uncross (route : BitVec 40)
  | announce (rail : Side) (sess keyc : Nat) (na : BitVec 16) (side : Side) (nh nd : W128)
      (withdraw : Bool)
  deriving DecidableEq, Repr

/-- A control packet to send: whether it travels as a guest on the other rail (06 R136), its body, and the region
definition that caused it (10 R222). -/
structure CtlItem where
  guest : Bool
  body : CtlBody
  cause : Option CmdRef
  deriving DecidableEq, Repr

/-- A control packet waiting for its acknowledgement, with its transmissions (06 R130). -/
structure ArqPkt where
  cseq : BitVec 16
  item : CtlItem
  sent : Nat
  tries : Nat
  deriving DecidableEq, Repr

/-- A CorsinLink port (06 R120 to R130, R133 to R139). `st` as CLN.PORT_STS codes it; `fwd` is tFWD of the port since it was last
up (R126) and `stable` CLN.REVERT.STABLE in ms as its training took it (R139); `since` is the local
time at which its training or its wait began, `scanAt` that of its last in-service eye scan, `upAt` that at which
it last came up; `cfg` is CLN.CFG as its training took it; `headers` holds the invalid sync headers of the last 64
blocks as lane and block, `lockLost` when a lane lost block lock; `busy` is the local time at which the packet it
is sending ends, `ctlUse` the control packets of the last 100 µs with their lengths in ns, `waiting` and `queue`
the control and the Flume packets that wait for a packet boundary. -/
structure Port where
  p : Nat
  st : Nat
  step : Nat
  restarts : Nat
  noFull : Bool
  lanes2 : Bool
  fecOn : Bool
  impl : Bool
  eye : Eye
  qf : Nat
  failRun : Nat
  partner : Option TrainWords
  lat : Nat
  fwd : Nat
  stable : Nat
  sumX : List Nat
  acked4 : Bool
  cross : Bool
  crossAsked : Bool
  stableSince : Nat
  nextC : BitVec 16
  unacked : List ArqPkt
  waiting : List CtlItem
  lastIn : BitVec 16
  gotAhead : List (BitVec 16 × CtlPkt)
  detector : Bool
  since : Nat
  scanAt : Nat
  upAt : Nat
  cfg : Word
  headers : List (Nat × Nat)
  lockLost : Option Nat
  busy : Nat
  ctlUse : List (Nat × Nat)
  queue : List LinkPkt
  deriving DecidableEq, Repr

/-- CorsinLink of the device: ports, LINK_RETRAIN commands in progress with their ports and
deadline, the upstream queue (rank and packet), crossings granted to the twin (ports of
CROSS_DOWN, CROSS_UP), the own broken ports whose traffic goes over TW, and the crossings known per
chain and rail at a sender. -/
structure Corsin where
  ports : List Port
  retrains : List (CmdRef × List Nat × Nat)
  upQueue : List (Nat × LinkPkt)
  crossDown : List Nat
  crossUp : Bool
  guests : List Nat
  crossChains : List (Nat × Side)
  deriving DecidableEq, Repr

/-! ### Tile image and correction (07) -/

/-- An entry of a block map (07 R142). -/
structure MapEnt where
  bsig : Word
  valid : Bool
  inc : Bool
  fault : Bool
  dirty : Bool
  slot : Nat
  deriving DecidableEq, Repr

/-- The open delivery of a tile (05 R102 to R106, 07 R143 to R149). `landed` are the PIDX values
landed with the BSIGs of their blocks; `recv` the clock at which it was received with the swap
edge; `commit` holds PT, NPKT, TSIG of the tile's entry and the clock at which it came; `named` the
PIDX values named in the last NACK and `more` whether further ones were missing; `failNext`: the
delivery fails at the next edge (R149, 11 R258). -/
structure OpenDeliv where
  frame : BitVec 16
  full : Bool
  level : Nat
  landed : List (Nat × List Word)
  quarter : Bool
  commit : Option (Word × Nat × Word × Nat)
  named : List Nat
  more : Bool
  pt : Option Nat
  recv : Option (Nat × Nat)
  exhausted : Bool
  failNext : Bool
  lastAt : Nat
  deriving DecidableEq, Repr

/-- Interpolated coefficients of a board as the pipeline uses them (07 R157). -/
structure Coef where
  g : List Nat
  x : List Int
  deriving DecidableEq, Repr

/-- Temperature state of a board (07 R157 to R159). -/
structure BTemp where
  t : Option Int
  subst : Bool
  lastCalc : Option Int
  deriving DecidableEq, Repr

/-- A staged MATRIX_WRITE (07 R160). -/
structure MatWrite where
  y : Nat
  x0 : Nat
  coef : List (List Int)
  ref : CmdRef
  deriving DecidableEq, Repr

/-- A running correction pass (07 R151, R154): its edge, its blocks, whether it is a full
recompute, when it ends, the recomputes whose credits return with it, and the lamp values before it (R161). -/
structure Pass where
  edge : Nat
  blocks : List Nat
  full : Bool
  ends : Nat
  credits : List Nat
  before : List (Nat × BitVec 16)
  deriving DecidableEq, Repr

/-- The tile image store and the correction pipeline (07). `slots` holds the block data of used
pool slots; `free` the free list; the quarter store keeps its reduced blocks by block index; `qInUse`
tells that the pass reads the quarter store. `ended` are the FRAMEs whose
deliveries ended after the last applied one, and `inFailed` tells that none has swapped since one failed (05 R109). `coefNext` and `slgNext` are the coefficients and the
Sluice factor that apply from an edge, `avgRows` the pixel rows whose flash copy failed and `lostPx` the pixels read wrong until
their row is reloaded (R163), `level`
the Flume level of the last applied delivery, `redo` blocks that join the next pass (16 R352), `reduce` the entry into
the reduced image (15 R348): 1 at the next edge, 2 at the first edge after the handover that runs. -/
structure Image where
  ready : Bool
  total : Nat
  free : List Nat
  slots : List (Nat × List Byte)
  front : List MapEnt
  back : List MapEnt
  qFront : List (Nat × List Samp)
  qBack : List (Nat × List Samp)
  qfMap : List MapEnt
  qbMap : List MapEnt
  qInUse : Bool
  open_ : Option OpenDeliv
  lastReport : List (BitVec 16 × Nat × Report)
  applied : Option (BitVec 16)
  failedFrame : Option (BitVec 16)
  inFailed : Bool
  ended : List (BitVec 16)
  cursor : Nat
  pass : Option Pass
  matrix : List (Nat × List Int)
  written : List Nat
  staging : List MatWrite
  pixm : Bool
  temps : List BTemp
  tables : List (List TPoint)
  tabOk : List Bool
  coef : List Coef
  coefNext : Option (Nat × List Coef)
  slgNext : Option (Nat × Nat)
  resyncSent : Bool
  service : Nat
  avgRows : List Nat
  lostPx : List Nat
  level : Nat
  redo : List Nat
  reduce : Nat
  deriving DecidableEq, Repr


/-! ### Badger layer and pattern engines (08) -/

/-- A defined Badger field (08 R169, R175, R178): number, its six words, value state and data words
of the last applied value, live, expired, deadline, whether the deadline passed without a packet
accepted before it, the clock of the last accepted packet naming it, whether its expiry is scheduled, its overlay
buffer, and, while the twin's ACCEPT of
a packet naming it has not come, the clock of its own acceptance and the deadline the packet found (R177). -/
structure Field where
  num : Nat
  words : List Word
  vstate : Nat
  data : List Word
  live : Bool
  expired : Bool
  deadline : Option Nat
  due : Bool
  lastAcc : Option Nat
  exp : Bool
  buf : Nat
  prior : List (Nat × Nat)
  deriving DecidableEq, Repr

/-- A pattern engine or the test pattern (08 R187 to R190): words in effect, state 0 off,
1 running, 2 LOST, and the buffer held. -/
structure Engine where
  words : List Word
  st : Nat
  buf : Option Nat
  deriving DecidableEq, Repr

/-- The Badger layer: fields by number, the 16 engines, the test pattern, the user glyphs in
effect, whether no valid record was found at power-up (R186), by field number the clock of the last accepted packet
naming a field whose definition, or whose definition of another KIND, has not taken effect (R178), and the time at which the
last edge drew with whether the engines were drawn (R167). -/
structure Badger where
  fields : List Field
  engines : List Engine
  test : Engine
  glyphs : List Glyph
  recBad : Bool
  early : List (Nat × Nat)
  drawn : Option (Nat × Bool)
  deriving DecidableEq, Repr

/-- A change that waits for an edge: its change ID, what it does, its command, the clock of its
own acceptance or event, the twin's ACCEPT tick, the edge once named (12 R280), and the credit
request of the full recompute it needs (07 R152). -/
structure EdgeChange where
  id : ChangeId
  what : EdgeWhat
  ref : Option CmdRef
  acc : Nat
  partner : Option Word
  edge : Option Nat
  credit : Option Nat
  deriving DecidableEq, Repr

/-- A change that waits for the credits of its full recompute (07 R152; 17 R375): the request's
number in `HeavyOp.recompute`. -/
structure Heavy where
  num : Nat
  id : ChangeId
  what : EdgeWhat
  ref : Option CmdRef
  deriving DecidableEq, Repr

/-! ### Lamp port (09) -/

/-- A lamp that does not follow its group-row: open and short failed bits, confirmation counts,
and the start of the last proof pulse it passed (09 R209, R210). -/
structure LampX where
  lamp : Nat
  openFail : Bool
  shortFail : Bool
  openCnt : Nat
  shortCnt : Nat
  pass : Option Nat
  deriving DecidableEq, Repr

/-- A strict policy (09 R212, R213): region, policy, in fault, and since when that is known. -/
structure Policy where
  region : Nat
  pol : Nat
  inFault : Bool
  deriving DecidableEq, Repr

/-- A show that is scheduled (09 R204): its edge, show instant and cut-off, whether it has moved, and
whether its cut-off was met, so that the values become current at the show instant, and whether it met the writes of a
drive-on, which light the lamps then (R214). -/
structure Show where
  edge : Nat
  show_ : Nat
  cutoff : Nat
  moved : Bool
  met : Bool
  lights : Bool
  deriving DecidableEq, Repr

/-- A status readout wanted or in progress (09 R197, R209): group, row, short flags, start of the pulse, and the lanes
whose reading has begun. -/
structure Readout where
  g : Nat
  r : Nat
  short : Bool
  start : Nat
  lanes : Nat
  deriving DecidableEq, Repr

/-- A temperature sensor (09 R217): last plausible reading with its local time, held reading. -/
structure Sensor where
  last : Option (Int × Nat)
  held : Option Int
  deriving DecidableEq, Repr

/-- An operation on the lamp-board flash (09 R219; 20 R433): OP, board, address, data, command,
start, whether its credits are held, since when it is suspended or kept off the bus, and whether it has been issued. -/
structure BoardOp where
  op : Nat
  board : Nat
  addr : Nat
  data : List Byte
  ref : CmdRef
  start : Nat
  ready : Bool
  suspended : Option Nat
  issued : Bool
  deriving DecidableEq, Repr

/-- A read of lamp-board flash that waits for the bus (09 R219; 01 R27): the command, the transport of its reply, board,
address, length, and what the flash will answer. -/
structure BoardRead where
  ref : CmdRef
  via : Via
  board : Nat
  addr : Nat
  len : Nat
  data : List Byte
  deriving DecidableEq, Repr

/-- A row slot of the refresh in progress (09 R199 to R201): its row, the extension of its discharge, and what its blank
slot carries: 0 nothing, 1 a proof, 2 a short sample. -/
structure RowSlot where
  row : Nat
  ext : Nat
  pulse : Nat
  deriving DecidableEq, Repr

/-- The lamp port. `drive` is the LAMP_DRIVE setting, `on` tells that the lamps display per schedule
while the tile drives, `lit` that they are lit, `wantOn` that a drive-on has begun its writes and lights
at the first show they meet, `granted` that it holds its credits and waits for the lines; `onRef` is
its command, `offRef` that of a drive-off that waits for its row-slot boundary. `store` and
`back` are the lamp value store by lamp index (R203; the back copy in S-mode), an unlisted lamp
holding 0. `gsigNew` holds group-row signatures written and not yet shown, `gsig` those in effect,
`lsig` the line-group signatures in effect. `refDrive` and `refEdge` count refreshes since drive
came on and since the edge. `ext` is the discharge extension of the last row slot, `shortRow` the
next row to sample, `slots` are the row slots of the refresh that began at local time `refStart`, `proofRows` the rows that still carry a proof of the current proof refresh,
`rowPass` the start of the last proof read out of each group-row. `dark` is the start of the dark
interval that runs or comes next and the keep-alive pulses sent in it, `darkRefresh` tells that the
refresh of the last edge is the dark one of a timing-mode change, `lastPoll` is the last sensor poll,
`lastWrite` the clock at which the last group-row write or pass ended.
`boardOps` are the operations on the lamp-board flash in order, the head in progress, `reads` the reads of it that wait
for the bus, and `i2c` the local times from and until which each I²C bus was last taken. `free` is the local time until
which the lanes of each group are taken; `proofW` and `ageW` are LMP.PROOF and LMP.PROOF_AGE as the last edge took them
(R215). -/
structure Lamp where
  drive : Bool
  on : Bool
  lit : Bool
  wantOn : Bool
  granted : Bool
  onRef : Option CmdRef
  offRef : Option CmdRef
  store : List (Nat × BitVec 16)
  back : List (Nat × BitVec 16)
  dirty : List (Nat × Nat)
  gsigNew : List ((Nat × Nat) × Word)
  gsig : List ((Nat × Nat) × Word)
  lsig : List Word
  shows : Option Show
  refDrive : Nat
  refEdge : Nat
  ext : Nat
  shortRow : Nat
  proofRows : List Nat
  readouts : List Readout
  rowPass : List ((Nat × Nat) × Nat)
  lamps : List LampX
  policies : List Policy
  dark : Option (Nat × Nat)
  darkRefresh : Bool
  lastPoll : Nat
  lastWrite : Nat
  sensors : List Sensor
  boardOps : List BoardOp
  reads : List BoardRead
  i2c : List (Nat × Nat)
  free : List Nat
  proofW : Word
  ageW : Word
  slots : List RowSlot
  refStart : Nat
  preMark : Option Nat
  lastProofEdge : Option Nat
  deriving DecidableEq, Repr

/-! ### Weir at the tile (10) -/

/-- A region a tile holds (10 R223, R226 to R230): its REGION_SET fields, state, deadline, last
honoured ISSUE, the tick in which it last became STALE, the edge from which it is marked, the
tick of the last honouring, whether it is marked. -/
structure TRegion where
  set : RegionSet
  stale : Bool
  deadline : Option Nat
  issue : Option Nat
  staleAt : Option Nat
  es : Option Nat
  honoured : Option Nat
  marked : Bool
  deriving DecidableEq, Repr

/-- Weir at a tile: regions held, REGION_SETs waiting for their edge with the tick of receipt, the
last PROOF sent with its second, the second of the last epoch record, and whether no certificate is
honoured until a FULL delivery has been swapped after a freeze (15 R348). -/
structure Weir where
  regions : List TRegion
  sets : List (RegionSet × Nat)
  proof : Option ProofMsg
  proofSec : Option Nat
  epochMark : Option Nat
  frozen : Bool
  deriving DecidableEq, Repr

/-! ### Time (11) -/

/-- The chosen master of a PTP slot (11 R243): dataset rank, grandmaster, port, interface. -/
structure Master where
  set : ClockSet
  steps : Nat
  gm : BitVec 64
  src : BitVec 80
  iface : Nat
  deriving DecidableEq, Repr

/-- A PTP slot (11 R243 to R248). `st` as TIM.DOM_d.STS codes it. `sync` is the last Sync that
waits for its Follow_Up, `pair` the (t1 + c_s, t2) of the last complete Sync, `req` the Delay_Req
outstanding (ID, interface), `delays` the last 16 accepted delays newest first, `withheld` the
count and direction of deviating delays, `quar` the local time at which the quarantine ends,
`fresh` the exchanges since. Runs count consecutive exchanges. -/
structure PtpSlot where
  st : Nat
  master : Option Master
  interval : Int
  logSync : Int
  logMin : Int
  annAt : Nat
  sync : Option (BitVec 16 × Int × Int)
  pair : Option (Int × Int)
  req : Option (Byte × Nat)
  reqAt : Option Nat
  delays : List Int
  mpd : Int
  offset : Int
  withheld : Option (Nat × Bool)
  quar : Option Nat
  fresh : Nat
  lockRun : Nat
  outRun : Nat
  xtolRun : Nat
  xfailRun : Nat
  lockedAt : Option Nat
  deriving DecidableEq, Repr

/-- A transmit stamp in a port's queue (11 R245): ID, slot, stamp, local time of entry. -/
structure TsqEnt where
  id : Byte
  slot : Nat
  t3 : Int
  at_ : Nat
  deriving DecidableEq, Repr

/-- A mark source (11 R242, R251, R252): local time of the last mark, seconds of the last SECONDS
block, runs of offsets inside ±20 ns, outside it, and beyond 1 µs, last offset. -/
structure MarkSrc where
  last : Option Nat
  secs : Option Nat
  inRun : Nat
  outRun : Nat
  farRun : Nat
  offset : Int
  deriving DecidableEq, Repr

/-- What a wall-time comparator does (11 R260 to R262; 20 R429). `owner` of a cycle is the WALL
owner when CYCLE_SET was accepted. -/
inductive CmpUse where
  | trig (out mode : Nat) (period width : Nat)
  | cycle (owner : Option Owner) (period count firings : Nat) (cmd : Smb) (opcode : Nat)
      (keyc : Nat)
  | snap
  deriving DecidableEq, Repr

/-- A comparator (11 R260): what it does, whether it missed its instant, its next instant in ns of
the device clock, periodic firings missed. -/
structure Comp where
  use : Option CmpUse
  missed : Bool
  instant : Nat
  misses : Nat
  ref : Option CmdRef
  deriving DecidableEq, Repr

/-- Time bases and what follows them (11). `clk` is the device clock in ns since WT80 0, `lt` the
local time in ns, `opBase` the operating time in ms at reset, `acc` the fraction of a tick in
1e-9 that the slewed clock has gathered, `freq` the frequency correction in ppb, `phase` the phase
left to slew in ns. `freqLog` holds (local time, correction) of the last 60 s. `lastEdge` is the
last frame edge or canvas frame start (clock, local time), `stepWait` tells that the first edge
after a step has not passed, `lastStep` the local time and Δ of the last step, `prevEpoch` the
epoch before it. -/
structure Time where
  clk : Nat
  has : Bool
  valid : Bool
  epoch : Byte
  src : Nat
  state : Nat
  lt : Nat
  opBase : Nat
  acc : Int
  freq : Int
  phase : Int
  freqLog : List (Nat × Int)
  slots : List PtpSlot
  sel : Option Nat
  filtered : Int
  holdSince : Option Nat
  herrTold : Bool
  tsq : List (List TsqEnt)
  up : MarkSrc
  tw : MarkSrc
  lastMark : Nat
  validUntil : Option Nat
  railRun : Nat
  lastEdge : Option (Nat × Nat)
  stepWait : Bool
  lastStep : Option (Nat × Int)
  prevEpoch : Byte
  trig : List (List (List Word))
  comps : List Comp
  deriving DecidableEq, Repr

/-! ### Twin pairs (12) -/

/-- Why a voluntary handover runs, and what follows it (12 R275, R284, R288, R290; 13 R301;
17 R372; 19 R413; 20 R436): `follow` carries the opcode whose effect waits for it, its command if
it has one, and an argument. -/
inductive HoCause where
  | command (ref : CmdRef)
  | verdict
  | yield
  | pfail
  | follow (ref : Option CmdRef) (op : Nat) (arg : Word)
  deriving DecidableEq, Repr

/-- A voluntary handover in progress at the holder or the standby (12 R275). -/
structure Handover where
  cause : Option HoCause
  b0 : Nat
  b0w : Word
  acked : Bool
  released : Bool
  holder : Bool
  deriving DecidableEq, Repr

/-- A resolution in progress (12 R283): start M, differing line groups or tiles, own verdict, the
twin's. -/
structure Resolution where
  start : Nat
  groups : List Nat
  own : Option (Nat × Byte)
  twin : Option (Nat × Byte)
  deriving DecidableEq, Repr

/-- A claim in progress (12 R268): local time of its start, whether it runs under a token. -/
structure Claim where
  start : Nat
  token : Bool
  deriving DecidableEq, Repr

/-- A coordinated delivery of a sender pair (12 R286, R287): start, what each twin sent. -/
structure CoDeliv where
  start : Word
  picks : Option (List Pick)
  incs : Option (List (Nat × Nat))
  overflow : Bool
  twinPicks : Option (List Pick)
  twinIncs : Option (List (Nat × Nat))
  twinOverflow : Bool
  own : Option (List (BitVec 16 × Word))
  twin : Option (List (BitVec 16 × Word))
  deriving DecidableEq, Repr

/-- The twin state of a device. `high` is the level of OWN_N as sensed, `pull` whether the device
pulls it, `holding` whether it holds, `lease` the local time at which the lease expires, `guard`
the local time from which the guard runs, `token` the window of an armed token, `chk` the checks,
`mode` 0 cold, 1 lockstep, 2 resynchronising, 3 step hold, `beat` the last heartbeat with its
local time, `hbLost` whether the loss has been counted, `twinHolds` what it said, `cause` the cause
bit of OWNFAULT, `absent` since when that cause is absent, `gapFrom` when the lines were last
released, `verdictSwap` that a handover follows row 2 of R284; `cfgEq` that the twin's last HELLO carried the CFGSIG that
this device had when it came, `fullDone` that a FULL delivery has swapped since the resynchronisation began, `fullWait`
that lockstep waits for one after row 3 of R284, `enterEdge` the edge at which lockstep begins; `lastBeat`, `lastHello` and `lastKat` are the
local times of the last heartbeat and HELLO sent and of the last known-answer test. -/
structure Pair where
  high : Bool
  pull : Bool
  holding : Bool
  outputs : Bool
  claim : Option Claim
  guard : Option Nat
  token : Option (Nat × Nat)
  lease : Option Nat
  chk : BitVec 6
  lastHealth : Nat
  health : Bool
  katPass : Bool
  mode : Nat
  why : Nat
  hello : Option HelloMsg
  cfgEq : Bool
  beat : Option (BeatMsg × Nat)
  hbLost : Bool
  holdUntil : Option Nat
  degr : Bool
  ownFault : Bool
  ownCause : Nat
  stuck : Bool
  absent : Option Nat
  yield : Bool
  lastRes : Nat
  resyncing : Bool
  resyncDone : Bool
  stateEdge : Option Nat
  adopt : Option StateMsg
  fullDone : Bool
  fullWait : Bool
  enterEdge : Option Nat
  early : List (ChangeId × Word)
  cmpOwn : List CmpMsg
  cmpTwin : List CmpMsg
  nocmpRun : Nat
  resolution : Option Resolution
  handover : Option Handover
  gapFrom : Option Nat
  verdictSwap : Bool
  lastBeat : Nat
  lastHello : Nat
  lastKat : Nat
  deliv : Option (Word × Nat)
  codeliv : List CoDeliv
  deriving DecidableEq, Repr

/-! ### What the device sends -/

/-- A packet on a network interface other than Smiben (03 R56 to R58; 11 R243). The version of a membership report is 1
for IGMPv1 and MLDv1, 2 for IGMPv2, 3 for IGMPv3 and MLDv2. -/
inductive NetMsg where
  | arpProbe (fam : Nat)
  | arpAnnounce (fam : Nat)
  | arpReply (fam : Nat) (addr : BitVec 128)
  | member (version : Nat) (group : BitVec 128) (source : BitVec 128) (join anon : Bool)
  | echoReply (hop : Nat) (dst : BitVec 128) (body : List Byte)
  | pause
  | delayReq (slot : Nat) (id : Byte) (port : Nat) (unicast : Bool)
  deriving DecidableEq, Repr

/-- What the lamp port does besides transfers: a keep-alive pulse on the first `lines` gray clocks, high or low, for some
LCLK cycles (09 R216), its outputs at high impedance (R192), the idle state. -/
inductive LampMsg where
  | keepalive (lines : Nat) (high : Bool) (cycles : Nat)
  | highZ
  | idle
  deriving DecidableEq, Repr

/-- A transfer on the lanes of a group (09 R194, R206): for each lane the 16-bit words in the order in which they are
shifted, the far driver's first, each most significant bit first. LCK runs from local time `start` for as many cycles as
there are bits, and LLAT is high for `latch` LCK cycles from local time `latchAt`. -/
structure Transfer where
  group : Nat
  latch : Nat
  start : Nat
  latchAt : Nat
  lanes : List (List (BitVec 16))
  deriving DecidableEq, Repr

/-- The START and control header fields of a control packet whose message the manual gives no layout
(06 R116, R129; log 98). -/
structure CtlHdr where
  rail : Side
  guest : Bool
  ctype : Nat
  bcast : Bool
  upward : Bool
  cseq : BitVec 16
  route : BitVec 40
  deriving DecidableEq, Repr

/-- The answer of an SRAM bank (16 R352, R353, R358): the word with the poison flag, a write completed, a write of port 0
that a write of port 1 displaced, a bus error. -/
inductive SramRes where
  | data (bytes : List Byte) (poison : Bool)
  | done
  | lost
  | busError
  deriving DecidableEq, Repr

/-- Everything the device sends, in the order sent: the model's own record. Ports are the chain
ports 0 to 7 of a sender, and 0 UP, 1 DN, 2 BR of a tile; 8 is TW in both roles (06 R139): `link` is a packet,
`ctl` a control packet whose message has no layout, `block` a control block outside packets, `abort` the TERM
with END 0xE1 that cuts the packet in progress (06 R125), `loopSum` the sum of the 64 round trips of this end with
their spread (06 R127). A frame on a network
interface has its 802.1Q tag, PCP and VID, if it has one, and a Smiben datagram its next hop (03 R54). -/
inductive Out where
  | smiben (tag : Option (BitVec 16)) (hop : Nat) (p : Packet)
  | link (port : Nat) (k : LinkPkt)
  | ctl (port : Nat) (h : CtlHdr) (body : CtlBody)
  | block (port : Nat) (b : BitVec 64)
  | abort (port : Nat)
  | net (iface : Nat) (tag : Option (BitVec 16)) (m : NetMsg)
  | lamp (m : LampMsg)
  | xfer (t : Transfer)
  | pin (name : Nat) (level : Bool)
  | trigOut (out : Nat) (width : Nat)
  | i2c (bus addr : Nat) (bytes : List Byte) (rlen : Nat)
  | i2cClear (bus : Nat)
  | loopSum (port sum spread : Nat)
  | qspi (code board addr : Nat) (data : List Byte)
  | busRead (data : List Byte)
  | dram (port : Nat) (data : List Byte) (poison : Bool)
  | sram (port bank word : Nat) (r : SramRes)
  | proof (m : ProofMsg)
  deriving DecidableEq, Repr

/-! ### The machine -/

/-- Identity of the device (01 R10 to R19): personality, side, stepping code, place word and
whether it is known, node address from the settings record, hardware sender of the chain. -/
structure Ident where
  sender : Bool
  side : Side
  step : Nat
  place : BitVec 64
  placeOk : Bool
  na : Option (BitVec 16)
  deriving DecidableEq, Repr

/-- The reasons a step ends in a fault. `dramOutside`: a transaction of DRAM_REQUEST, or a read
return, names a byte outside the system space of the trained channels, which the manual says does
not exist (15 R331); raised by `execDramRequest` alone. Safe. -/
inductive Fault where
  | dramOutside
  deriving DecidableEq, Repr

/-- The reasons a command is refused by the model. `notModelled`: the command has no meaning yet;
raised by the arms of `exec` that have none, never by a meaning. Safe. -/
inductive Refusal where
  | notModelled (mnemonic : String)
  deriving DecidableEq, Repr

/-- The state of one MK9600. `par` is the parameter file: (index, word) pairs, index rising, of
every word that differs from its reset word. `free` is the model's own counter that the free
values of Config are applied to, `out` its record of what the device has sent, and `pending` the
commands that wait, first in first out. -/
structure State where
  id : Ident
  par : List (Nat × Word)
  smb : Smiben
  rcd : Recorder
  otp : Otp
  sec : Secure
  slu : Sluice
  pwr : Power
  fl : Flash
  dram : Dram
  sram : Sram
  cal : Calib
  boot : Boot
  gpio : Gpio
  net : Net
  canvas : Canvas
  flume : Flume
  link : Corsin
  img : Image
  bdg : Badger
  lamp : Lamp
  weir : Weir
  time : Time
  pair : Pair
  changes : List EdgeChange
  heavy : List Heavy
  free : Nat
  out : List Out
  pending : List Instr
  deriving DecidableEq, Repr

/-! ### The machine right after reset

`State.reset` is a tile on side A in reset: every register is at the reset value the manual gives,
and where it gives none at the value the log names (log 1). POWER_ON_RESET_RELEASE latches the
straps and runs the boot order (18 R389). -/

/-- The owners of the SRM banks (16 R354, R355) as SRM.BANK codes them. -/
def bankOwner (snd : Bool) (k : Nat) : Nat :=
  if k = 64 then 11
  else if snd then
    if k < 4 then 1 else if k < 12 then 7 else if k < 21 then 8 else if k < 25 then 9
    else if k < 33 then 10 else 1
  else
    if k < 4 then 1 else if k < 31 then 2 else if k < 40 then 3 else if k < 44 then 4
    else if k = 44 then 5 else if k < 54 then 6 else 1

/-- The 65 banks after their clear (16 R357). -/
def banksAtReset (snd : Bool) : List Bank :=
  (List.range 65).map fun k =>
    { owner := bankOwner snd k, on := true, clear := true, fault := false, passes := 0 }

/-- A CorsinLink port that is down (06 R121), CLN.CFG at its reset value. -/
def portDown (p : Nat) : Port :=
  { p := p, st := 0, step := 0, restarts := 0, noFull := false, lanes2 := false, fecOn := false
    impl := false, eye := ⟨0, 0, 0, 0⟩, qf := 0, failRun := 0, partner := none, lat := 0
    fwd := 1024, stable := 1000, sumX := [], acked4 := false, cross := false, crossAsked := false, stableSince := 0, nextC := 1
    unacked := [], waiting := [], lastIn := 0, gotAhead := [], detector := false, since := 0, scanAt := 0
    upAt := 0, cfg := 0x00000700, headers := [], lockLost := none, busy := 0, ctlUse := [], queue := [] }

/-- The CorsinLink ports of a role: chain ports 0 to 7, or UP, DN and BR; and TW, port 8. -/
def portsAtReset (snd : Bool) : List Port :=
  (if snd then [0, 1, 2, 3, 4, 5, 6, 7, 8] else [0, 1, 2, 8]).map portDown

/-- A PTP slot that is off (11 R243). -/
def ptpSlotOff : PtpSlot :=
  { st := 0, master := none, interval := 0, logSync := 0, logMin := 0, annAt := 0, sync := none
    pair := none, req := none, reqAt := none, delays := [], mpd := 0, offset := 0, withheld := none
    quar := none, fresh := 0, lockRun := 0, outRun := 0, xtolRun := 0, xfailRun := 0
    lockedAt := none }

/-- A mark source that has seen nothing. -/
def markSrcOff : MarkSrc :=
  { last := none, secs := none, inRun := 0, outRun := 0, farRun := 0, offset := 0 }

/-- A free comparator. -/
def compFree : Comp := { use := none, missed := false, instant := 0, misses := 0, ref := none }

/-- Time after reset: the clock and local time at 0, no time held by a tile, free-run at a sender
(11 R241, R242). -/
def timeAtReset (snd : Bool) : Time :=
  { clk := 0, has := snd, valid := false, epoch := 0, src := 0, state := 0, lt := 0, opBase := 0
    acc := 0, freq := 0, phase := 0, freqLog := [], slots := [ptpSlotOff, ptpSlotOff], sel := none
    filtered := 0, holdSince := none, herrTold := false, tsq := [[], []], up := markSrcOff
    tw := markSrcOff, lastMark := 0, validUntil := none, railRun := 0, lastEdge := none
    stepWait := false, lastStep := none, prevEpoch := 0, trig := [[], [], [], []]
    comps := List.replicate 16 compFree }

/-- The pair state after reset: nothing held, every check low (12 R267, R268, R271). -/
def pairAtReset : Pair :=
  { high := true, pull := false, holding := false, outputs := false, claim := none, guard := none
    token := none, lease := none, chk := 0, lastHealth := 0, health := false, katPass := false
    mode := 0, why := 0, hello := none, cfgEq := false, beat := none, hbLost := false, holdUntil := none
    degr := false, ownFault := false, ownCause := 0, stuck := false, absent := none, yield := false
    lastRes := 0, resyncing := false, resyncDone := false, stateEdge := none, adopt := none
    fullDone := false, fullWait := false, enterEdge := none, early := [], cmpOwn := [], cmpTwin := [], nocmpRun := 0, resolution := none, handover := none
    gapFrom := none, verdictSwap := false, lastBeat := 0, lastHello := 0, lastKat := 0, deliv := none
    codeliv := [] }

/-- The lamp port after reset: high impedance, nothing lit (09 R191, R214). -/
def lampAtReset : Lamp :=
  { drive := false, on := false, lit := false, wantOn := false, granted := false, onRef := none, offRef := none
    store := [], back := [], dirty := [], gsigNew := [], gsig := [], lsig := List.replicate 64 0
    shows := none, refDrive := 0, refEdge := 0, ext := 0, shortRow := 0, proofRows := []
    readouts := [], rowPass := [], lamps := [], policies := [], dark := none
    darkRefresh := false, lastPoll := 0, lastWrite := 0, sensors := List.replicate 32 ⟨none, none⟩, boardOps := []
    reads := [], i2c := [(0, 0), (0, 0)], free := List.replicate 8 0, proofW := 0x40200064, ageW := 100, slots := [], refStart := 0, preMark := none, lastProofEdge := none }

/-- A pattern engine that is off. -/
def engineOff : Engine := { words := [0, 0, 0, 0, 0, 0], st := 0, buf := none }

/-- The image store after reset: no block held (07 R142, R164). -/
def imageAtReset : Image :=
  { ready := false, total := 0, free := [], slots := [], front := [], back := [], qFront := []
    qBack := [], qfMap := [], qbMap := [], qInUse := true, open_ := none, lastReport := []
    applied := none, failedFrame := none, inFailed := false, ended := [], cursor := 0, pass := none, matrix := [], written := []
    staging := [], pixm := false, temps := List.replicate 16 ⟨none, false, none⟩
    tables := List.replicate 16 [], tabOk := List.replicate 16 false, coef := [], coefNext := none, slgNext := none
    resyncSent := false, service := 0, avgRows := [], lostPx := [], level := 0, redo := [], reduce := 0 }

/-- The network side after reset: every port off, no address (03 R53, R56). -/
def netAtReset : Net :=
  { mac := 0, ports := List.replicate 2 ⟨0, 0, none, 0, 0⟩, addrs := [], members := [], compat := [], rxHeld := []
    buckets := [], marks := [], streams := [], orders := 0 }

/-- An ordinary layer after reset: disabled (04 R76). -/
def layerOff : Layer :=
  { words := 0x200000 :: List.replicate 7 0, src := 0, early := 0, repeats := 0, pick := none }

/-- The compositor after reset: nothing defined, nothing composed (04 R70, R72, R96). -/
def canvasAtReset : Canvas :=
  { layers := List.replicate 32 layerOff, held := [], rects := []
    stagedRects := [], latched := none, composing := none, newest := none, undelivered := false
    prev := none }

/-- Flume, Weir, Owl and proof of a sender after reset. -/
def flumeAtReset : Flume :=
  { dmg := [], delivery := none, ek := none, certs := [], hops := [], later := [], lost := [], changes := [], levels := [], residue := [], pace := [], regions := [], defining := [], unread := [], watches := []
    owlQueue := [], proofs := [], enrolled := [], enrolling := [], yieldOn := false, canvasReady := none }

/-- Smiben after reset: no session, no owner (02 R36, R45). -/
def smibenAtReset : Smiben :=
  { sess := [], refuse := 0, nhHist := [], wall := none, safety := none, update := none
    buckets := [], marks := [], gathers := [], nextGather := 0, cmdBuf := none, mgmtOut := [], accepted := 0, opened := 0 }

/-- The recorder after reset of a device whose archive is empty (20 R428). -/
def recorderAtReset : Recorder :=
  { ring := [], head := 0, unarch := 0, lostNow := 0, archive := [], arcHead := 0, clearing := none
    marks := [], ckpt := 0 }

/-- An image slot that holds nothing. -/
def slotEmpty : Slot := { data := [], marked := [], sig := [] }

/-- The header of the firmware that runs at reset (log 2): the version, levels and record versions
of the manual's own example (19 R405, worked example). -/
def firmwareAtReset : ImgHdr :=
  { version := 0x02020040, roles := 3, steps := 255, rollback := 0, smbHigh := 3, flHigh := 2
    setVer := 6, setMin := 5, bdgVer := 1, bdgMin := 1, len := 12582912 }

/-- A slot that holds an image with the given header (19 R405): block 0 begins with the header words, and
every block of LEN is marked. -/
def slotWith (h : ImgHdr) : Slot :=
  { data := [(0, [0x4D4B4657, h.version
      , BitVec.ofNat 32 (h.roles * 2 ^ 24 + h.steps * 2 ^ 16 + h.rollback * 2 ^ 8)
      , BitVec.ofNat 32 (h.smbHigh * 2 ^ 24 + h.flHigh * 2 ^ 16 + h.setVer * 2 ^ 8 + h.setMin)
      , BitVec.ofNat 32 (h.bdgVer * 2 ^ 24 + h.bdgMin * 2 ^ 16), BitVec.ofNat 32 h.len])]
    marked := List.range ((h.len + 4095) / 4096), sig := [] }

/-- The flash of a device with good firmware in slot A and no record of settings, fields or
calibration (19 R403, R406; log 2). -/
def flashAtReset : Flash :=
  let b : BootRec := { seq := 1, active := 0, stA := 5, stB := 0, verA := 0x02020040, verB := 0
                       lenA := 12582912, lenB := 0, whyA := 0, whyB := 0, arm := false
                       armTime := 0, marks := 0 }
  { queue := [], next := 0, boot0 := some b, boot1 := some b
    slotA := slotWith firmwareAtReset
    slotB := slotEmpty, setA := none, setB := none, bdgNow := { ver := 0, seq := 0, kept := [], fields := [], glyphs := [] }, bdgA := none, bdgB := none, calA := none
    calB := none, cache := [], fw := firmwareAtReset, run := 0, trial := false, fallback := false
    migFail := false, confirming := false, deferred := [], saved := [], dl := none, staged := []
    bootReq := none, recReq := false, loops := 0, loadVer := 0, loadSrc := 0, failWhy := 0, trialCopy := none }

/-- Power after reset: every rail good, no write stop (17 R366 to R372). -/
def powerAtReset : Power :=
  { pfail := false, vio18Low := false, stopped := false, goodSince := none, rails := [], railWarn := []
    railFault := [], violNominal := none, sensors := List.replicate 16 ⟨0, false, false, 0, 0, 0⟩
    lastConv := none, fastConv := false, calmSince := none, tstep := 0, below := [none, none, none]
    shutdown := false, coolSince := none, hottest := 0 }

/-- The memory controller after reset: untrained (15 R339). -/
def dramAtReset : Dram :=
  { state := 0, grain := 0, chans := [], degraded := false, mem := [], poisoned := [], reqs := [], waiting := []
    nextTag := 0, srCh := [], postponed := [], scrub := 0, scrubAt := 0, freezes := [], frozenAt := none
    ended := false, cmds := [], stallAt := 0 }

/-- The on-chip memory after reset. -/
def sramAtReset (snd : Bool) : Sram :=
  { banks := banksAtReset snd, mstate := 0, mmode := 0, todo := [], active := [], from_ := [], last := 0
    doneAt := none, mem := [], poisoned := [] }

/-- A lamp board nothing is known of (18 R400). -/
def boardNone : Board :=
  { st := 0, moved := false, isNew := false, from_ := 0, serial := 0, pw := 0, ph := 0
    loading := none, table := [], matrix := [], waiting := false }

/-- Calibration at its defaults (18 R395). -/
def calibAtReset : Calib :=
  { results := [], running := [], lanes := List.replicate 18 0, sensors := List.replicate 16 0
    gain := 0, zero := 0, trim := 128, rcCount := 0, recBad := false, copyB := false
    changed := false, boards := List.replicate 16 boardNone }

/-- Start-up state in reset: the boot order waits for the release (18 R389). -/
def bootAtReset : Boot :=
  { phase := 0, tfull := 0, xsel := false, rcvy := false, held := true, cause := 0, lossNs := 0
    resetPending := none, firstPass := false, autodrive := true }

/-- One-time storage of a device that holds no class key (20 R432; log 2). -/
def otpAtReset : Otp :=
  { serial := 0, kdev := 0, kdevRevoked := false, vkey := 0, rollback := 0, lcs := 0, host := []
    safety := [], update := [] }

/-- The key part after reset of such a device (20 R432, R437). -/
def secureAtReset : Secure :=
  { keys := [], kprov := none, kpNonces := [], entropyOk := true, tamperLow := false
    tamperSeen := false, hold := false, highSince := none, wiping := false, wipeAt := 0, tamperWipe := false, job := none }

/-- The machine right after reset. -/
def State.reset : State :=
  { id := { sender := false, side := .A, step := 0, place := 0, placeOk := false, na := none }
    par := [], smb := smibenAtReset, rcd := recorderAtReset, otp := otpAtReset
    sec := secureAtReset, slu := { next := 0, waiting := [], granted := [], lowSince := none, raised := false }
    pwr := powerAtReset, fl := flashAtReset, dram := dramAtReset, sram := sramAtReset false
    cal := calibAtReset, boot := bootAtReset
    gpio := { modes := List.replicate 8 0, hbeat := false }, net := netAtReset
    canvas := canvasAtReset, flume := flumeAtReset
    link := { ports := portsAtReset false, retrains := [], upQueue := [], crossDown := []
              crossUp := false, guests := [], crossChains := [] }
    img := imageAtReset
    bdg := { fields := [], engines := List.replicate 16 engineOff, test := engineOff, glyphs := []
             recBad := false, early := [], drawn := none }
    lamp := lampAtReset
    weir := { regions := [], sets := [], proof := none, proofSec := none, epochMark := none, frozen := false }
    time := timeAtReset false, pair := pairAtReset, changes := [], heavy := [], free := 0, out := []
    pending := [] }

end Sys2Proof.Machine
end

