-- ==== Sys2Proof/Machine/Flags.lean ====
section
/-! DEFINITION. The status codes (13 R317), the opcode table (13 R300 to R316) and the trigger
IDs and resource codes the device names in records and refusals (01 R27; 20 R425). -/

namespace Sys2Proof.Machine

/-! ### Status codes (13 R317) -/

def stOk : Nat := 0x00
def stPending : Nat := 0x01
def stLate : Nat := 0x02
def stBadOpcode : Nat := 0x10
def stBadParam : Nat := 0x11
def stBadLength : Nat := 0x12
def stAuthFail : Nat := 0x20
def stReplay : Nat := 0x21
def stNotOwner : Nat := 0x22
def stBusy : Nat := 0x30
def stConflict : Nat := 0x31
def stNoCredit : Nat := 0x32
def stNvHeld : Nat := 0x33
def stNotInState : Nat := 0x40
def stInternal : Nat := 0x50

/-- A status that is a refusal: neither OK, PENDING nor LATE (13 R317). -/
def isRefusal (st : Nat) : Bool := st ≥ 0x10

/-! ### Key classes and domains (02 R30, R43) -/

def keyHost : Nat := 1
def keySafety : Nat := 2
def keyUpdate : Nat := 3

def domWall : Nat := 0
def domSafety : Nat := 1
def domUpdate : Nat := 2

/-- The word of 01 R25 that goes with CONFLICT. -/
def conflictWord (res cls index : Nat) : Word :=
  setFld (setFld (setFld 0 31 24 res) 23 16 cls) 15 0 index

/-! ### The opcode table -/

/-- One row of the opcode tables (13 R295): code, the roles that serve it, the key classes it may
carry (bit KEYC), its ownership domain if it has one, whether it is refused for a DMODE other
than 0x0 at the sender (13 R305). -/
structure OpSpec where
  code : Nat
  snd : Bool
  tile : Bool
  keys : List Nat
  dom : Option Nat
  local_ : Bool
  deriving DecidableEq, Repr

/-- A row served by both roles. -/
def opBoth (code : Nat) (keys : List Nat) (dom : Option Nat) : OpSpec :=
  ⟨code, true, true, keys, dom, false⟩

/-- A row served by the sender. -/
def opSnd (code : Nat) (keys : List Nat) (dom : Option Nat) (l : Bool) : OpSpec :=
  ⟨code, true, false, keys, dom, l⟩

/-- A row served by the tile. -/
def opTile (code : Nat) (keys : List Nat) (dom : Option Nat) : OpSpec :=
  ⟨code, false, true, keys, dom, false⟩

/-- Classes 0x00 and 0x01 (R300, R302). -/
def opTable0 : List OpSpec := [
  opBoth 0x0001 [1, 2, 3] none, opBoth 0x0002 [1, 2, 3] none, opBoth 0x0003 [1, 2, 3] none,
  opBoth 0x0004 [1, 2, 3] none, opBoth 0x0005 [1, 2, 3] none, opBoth 0x0006 [1, 2, 3] none,
  opBoth 0x0008 [1] (some 0), ⟨0x0010, true, true, [1], some 0, true⟩, ⟨0x0011, true, true, [1], some 0, true⟩,
  opBoth 0x0030 [1] (some 0),
  opBoth 0x0100 [1, 2, 3] none, opBoth 0x0101 [1, 2] (some 0), opBoth 0x0102 [1] (some 0)]

/-- Classes 0x02 to 0x05 (R305, R306). -/
def opTable1 : List OpSpec := [
  opSnd 0x0201 [1] (some 0) true, opSnd 0x0202 [1] (some 0) false, opSnd 0x0203 [1, 2, 3] none false,
  opSnd 0x0210 [1] (some 0) false, opSnd 0x0301 [1] (some 0) false, opSnd 0x0310 [1] (some 0) false,
  opSnd 0x0311 [1] (some 0) false, opSnd 0x0320 [1] (some 0) true, opSnd 0x0321 [1, 2, 3] none false,
  opSnd 0x0401 [1] (some 0) true, opBoth 0x0402 [1, 2, 3] none, opSnd 0x0420 [1] (some 0) true,
  opSnd 0x0421 [1, 2, 3] none false, opBoth 0x0440 [1, 2, 3] none,
  opTile 0x0501 [2] (some 1), opTile 0x0502 [2] (some 1), opTile 0x0503 [2] none,
  opTile 0x0510 [2] (some 1), opTile 0x0520 [2] (some 1), opTile 0x0521 [2] (some 1)]

/-- Classes 0x06 to 0x09 (R307 to R310). -/
def opTable2 : List OpSpec := [
  opTile 0x0601 [1] (some 0), opTile 0x0630 [1] (some 0), opTile 0x0638 [1] (some 0),
  opTile 0x0640 [1] (some 0), opTile 0x0641 [1] (some 0), opTile 0x0642 [1, 2, 3] none,
  opTile 0x0650 [1] (some 0), opTile 0x0651 [1] (some 0), opTile 0x0660 [1, 2, 3] none,
  opBoth 0x0701 [1, 2, 3] none, opBoth 0x0702 [1] (some 0), opBoth 0x0704 [1] (some 0),
  opBoth 0x0710 [1] (some 0), opBoth 0x0712 [1] (some 0),
  opBoth 0x0801 [1] (some 0), opBoth 0x0802 [1, 2, 3] none, opBoth 0x0803 [1] (some 0),
  opBoth 0x0901 [1, 2, 3] none, opBoth 0x0910 [1, 2, 3] none, opBoth 0x0920 [1, 2, 3] none]

/-- Classes 0x0A to 0x0F (R311 to R316). -/
def opTable3 : List OpSpec := [
  opBoth 0x0A01 [1] (some 0), opBoth 0x0A02 [1, 2, 3] none, opTile 0x0A40 [1] (some 0),
  opTile 0x0A41 [1] (some 0), opTile 0x0A50 [1] (some 0),
  opBoth 0x0B01 [3] (some 2), opBoth 0x0B02 [3] (some 2), opBoth 0x0B03 [3] (some 2),
  opBoth 0x0B04 [1, 2, 3] none, opBoth 0x0B05 [3] (some 2), opBoth 0x0B06 [3] (some 2),
  opBoth 0x0B07 [3] (some 2),
  opBoth 0x0C01 [1, 2, 3] none, opBoth 0x0C02 [1] (some 0), opBoth 0x0C03 [1] (some 0),
  opBoth 0x0D01 [1, 2, 3] none, opBoth 0x0D02 [1, 2, 3] none, opBoth 0x0D10 [1] (some 0),
  opBoth 0x0D20 [1] (some 0),
  opBoth 0x0F01 [3] (some 2), opBoth 0x0F02 [3] (some 2), opBoth 0x0F03 [3] (some 2)]

/-- Every opcode the device knows outside ROM recovery mode (13 R296). -/
def opTable : List OpSpec := opTable0 ++ opTable1 ++ opTable2 ++ opTable3

/-- The row of an opcode. -/
def opSpec (code : Nat) : Option OpSpec := opTable.find? (fun o => o.code == code)

/-- The opcodes known in ROM recovery mode (13 R296). -/
def knownInRecovery (code : Nat) : Bool :=
  code == 0x0001 || code == 0x0002 || code == 0x0003 || code / 256 == 0x0F

/-! ### Records whose trigger the manual does not name (log 9) -/

def xSmbDrop : Nat := 0
def xGather : Nat := 1
def xDelayStep : Nat := 2
def xSuspect : Nat := 3
def xCrossFail : Nat := 4
def xSelect : Nat := 5
def xFrameLock : Nat := 6
def xStep : Nat := 7
def xRejoin : Nat := 8
def xRailDiff : Nat := 9
def xCycle : Nat := 10
def xMissed : Nat := 11
def xPairMode : Nat := 12
def xRelease : Nat := 13
def xResolution : Nat := 14
def xNoCmp : Nat := 15
def xLost : Nat := 16
def xRecBad : Nat := 17
def xPreFail : Nat := 18
def xLampFail : Nat := 19
def xPolicy : Nat := 20
def xEraseStop : Nat := 21
def xPlace : Nat := 22
def xTopology : Nat := 23
def xBridge : Nat := 24
def xLinkDown : Nat := 25
def xNetDrop : Nat := 26
def xAddrConflict : Nat := 27
def xPathDown : Nat := 28
def xStream : Nat := 29
def xImgFault : Nat := 30
def xMatrixFault : Nat := 31
def xTempFault : Nat := 32
def xOverrun : Nat := 33
def xLampHold : Nat := 34
def xRail : Nat := 35
def xSag : Nat := 36
def xClock : Nat := 37
def xCrossing : Nat := 38
def xThermal : Nat := 39
def xSensor : Nat := 40
def xShutdown : Nat := 41
def xDramFail : Nat := 42
def xDramError : Nat := 43
def xFreeze : Nat := 44
def xSramError : Nat := 45
def xMarch : Nat := 46
def xWipe : Nat := 47
def xBoot : Nat := 48
def xCal : Nat := 49
def xBoard : Nat := 50
def xSettings : Nat := 51
def xFirmware : Nat := 52
def xFlash : Nat := 53
def xPairLock : Nat := 54
def xReach : Nat := 55
def xAbandon : Nat := 56
def xSource : Nat := 57
def xPartition : Nat := 58
def xBufLost : Nat := 59
def xPool : Nat := 60
def xEffect : Nat := 61

end Sys2Proof.Machine
end

