-- ==== Sys2Proof/Machine/Operands.lean ====
section
/-! DEFINITION. Operand forms: the header fields and payload words of a Smiben packet (02 R30),
the place word (01 R16), the wire form of WT80 and WT32 (00 R8; 02 R47), the pair word of settings
(19 R416), and the layouts several commands share. -/

namespace Sys2Proof.Machine

/-! ### The Smiben header (02 R30) -/

/-- Bits hi to lo of a header as a number. -/
def hfld (h : BitVec 256) (hi lo : Nat) : Nat := (h.toNat >>> lo) % 2 ^ (hi + 1 - lo)

def hLevel (h : BitVec 256) : Nat := hfld h 255 248
def hKind (h : BitVec 256) : Nat := hfld h 247 244
def hKeyc (h : BitVec 256) : Nat := hfld h 243 242
def hOpcode (h : BitVec 256) : Nat := hfld h 239 224
def hSeq (h : BitVec 256) : Word := w32 (hfld h 223 192)
def hSess (h : BitVec 256) : Nat := hfld h 191 188
def hNonote (h : BitVec 256) : Bool := h.getLsbD 187
def hLength (h : BitVec 256) : Nat := hfld h 175 160
def hDmode (h : BitVec 256) : Nat := hfld h 159 156
def hSides (h : BitVec 256) : Nat := hfld h 155 154
def hChmask (h : BitVec 256) : Nat := hfld h 151 144
def hDna (h : BitVec 256) : Nat := hfld h 143 128
def hDext (h : BitVec 256) : Nat := hfld h 127 64
def hIssue (h : BitVec 256) : Word := w32 (hfld h 63 32)
def hEcho (h : BitVec 256) : Word := w32 (hfld h 127 96)
def hStatus (h : BitVec 256) : Nat := hfld h 31 24

/-- The reserved bits of a command header are 0 (02 R30, R40 step 1). -/
def hReservedOk (h : BitVec 256) : Bool :=
  hfld h 241 240 == 0 && hfld h 185 176 == 0 && hfld h 153 152 == 0 && hfld h 15 0 == 0

/-- A header from its fields (02 R30). -/
def mkHeader (level kind keyc opcode : Nat) (seq : Word) (sess : Nat) (trunc : Bool)
    (length dmode sides dna dext : Nat) (issue : Word) (status epoch : Nat) : BitVec 256 :=
  BitVec.ofNat 256
    (level <<< 248 + kind <<< 244 + keyc <<< 242 + opcode <<< 224 + seq.toNat <<< 192
      + sess <<< 188 + (if trunc then 1 <<< 186 else 0) + length <<< 160 + dmode <<< 156
      + sides <<< 154 + dna <<< 128 + dext <<< 64 + issue.toNat <<< 32 + status <<< 24
      + epoch <<< 16)

/-- The payload word at position `i`; 0 beyond the payload. -/
def pw (p : Smb) (i : Nat) : Word := p.payload.getD i 0

/-- The bytes a tag covers (02 R32). -/
def tagged (hdr : BitVec 256) (payload : List Word) : List Byte :=
  bytesOf 32 hdr ++ bytesOfWords payload

/-- The tag of a packet under a key (02 R32). -/
def tagOf (key : W256) (hdr : BitVec 256) (payload : List Word) : W128 :=
  trunc16 (hmac key (tagged hdr payload))

/-! ### Time words (00 R8; 02 R47) -/

/-- WT32 of a device clock in ns. -/
def wt32 (ns : Nat) : Word := w32 (ns / 4)

/-- The three WT80 words of a device clock (02 R47). -/
def wt80 (valid : Bool) (ns : Nat) : List Word :=
  let s := ns / 10 ^ 9
  [flagAt valid 31 ||| w32 (s / 2 ^ 32 % 2 ^ 16), w32 s, w32 (ns % 10 ^ 9)]

/-- Signed difference of two WT32 values (00 R8). -/
def sdiff (a b : Word) : Int := (a - b).toInt

/-- The device clock nearest `now` whose WT32 is `w` (00 R8). -/
def nearClk (now : Nat) (w : Word) : Nat :=
  (Int.ofNat (now / 4 * 4) + 4 * sdiff w (wt32 now)).toNat

/-- Seconds [47:32] and [31:0] with ns as a device clock (11 R261 words 1 to 3). -/
def clkOfWords (hi lo ns : Word) : Nat := (fld hi 31 16 * 2 ^ 32 + lo.toNat) * 10 ^ 9 + ns.toNat

/-! ### Place word (01 R16) -/

def plHop (p : BitVec 64) : Nat := (p.toNat >>> 48) % 128
def plChain (p : BitVec 64) : Nat := (p.toNat >>> 61) % 8
def plTurns (p : BitVec 64) : Nat := (p.toNat >>> 56) % 8
def plTurn (p : BitVec 64) (i : Nat) : Nat := (p.toNat >>> (42 - 6 * i)) % 64

/-- A place word with its reserved bits at 0: the device ignores them in a packet (00 R4; 01 R16). -/
def placeClean (p : BitVec 64) : BitVec 64 := p &&& 0xE77FFFFFFF000000

/-- The conditions of R16 on a place word. -/
def placeOk (p : BitVec 64) : Bool :=
  let n := plTurns p
  let used := (List.range n).map (plTurn p)
  n ≤ 4 && plHop p ≤ 64
    && (plHop p != 0 || placeClean p == 0)
    && used.all (fun t => t < plHop p)
    && (used.zip (used.drop 1)).all (fun e => e.1 < e.2)
    && ((List.range 4).drop n).all (fun i => plTurn p i == 0)

/-- Whether the position at `q` lies on the path that `p` names or below it is decided by hops and
turns: here equality of the ROUTE fields, place word bits [63:24] (06 R129). -/
def routeOf (p : BitVec 64) : BitVec 40 := BitVec.ofNat 40 (p.toNat >>> 24)

/-- The side mask bit of a side (02 R30). -/
def sideBit (x : Side) : Nat := match x with | .A => 1 | .B => 2

/-- Side as the byte of the session key derivation (02 R35). -/
def sideNat (x : Side) : Nat := match x with | .A => 0 | .B => 1

/-- The other side. -/
def otherSide (x : Side) : Side := match x with | .A => .B | .B => .A

/-- Parameter pairs of PARAM_WRITE (13 R302): index and value. -/
def pairsOf : List Word → List (Nat × Word)
  | a :: v :: r => (fld a 31 16, v) :: pairsOf r
  | _ => []

/-- The word that names a pair by index and position (13 R304). -/
def pairPlace (pairs : List (Nat × Word)) (k : Nat) : Word :=
  w32 ((pairs.getD k (0, 0)).1 * 2 ^ 16 + k)

/-! ### The 128-byte record (20 R425) -/

/-- An address list padded to a whole number of words. -/
def padWords (l : List Byte) : List Word := wordsOfBytes l

end Sys2Proof.Machine
end

