-- ==== Sys2Proof/Machine/Wire.lean ====
section
/-! DEFINITION. Wire layouts of CorsinLink and Flume: control blocks (06 R116, R122, R130, R132), packets and
their check (06 R117, R118), the control header (06 R129), the Flume common header and the bodies of the five
Flume packets (05 R99, R101, R103, R104, R106, R109), every field most significant byte first (00 R3). -/

namespace Sys2Proof.Machine

/-- Bits hi to lo of a number. -/
def nbits (n hi lo : Nat) : Nat := n / 2 ^ lo % 2 ^ (hi + 1 - lo)

/-- The `k` bytes of a number, most significant first. -/
def beBytes (k n : Nat) : List Byte := bytesOf k (BitVec.ofNat (8 * k) n)

/-- The first `n` numbers of `k` bytes in a byte string. -/
def beNats (k n : Nat) (l : List Byte) : List Nat :=
  (List.range n).map (fun i => natOfBytes ((l.drop (k * i)).take k))

/-- A flag as a number. -/
def b01 (b : Bool) : Nat := if b then 1 else 0

/-- A side or a rail from its bit. -/
def sideOf (n : Nat) : Side := if n = 0 then .A else .B

/-! ### Control blocks (06 R116) -/

/-- A control block of a type. -/
def ctlBlock (typ fields : Nat) : BitVec 64 := BitVec.ofNat 64 (typ <<< 56 + fields)

/-- ACK (06 R130). -/
def ackBlock (cum sack : BitVec 16) : BitVec 64 := ctlBlock 0x66 (cum.toNat <<< 40 + sack.toNat <<< 24)

/-- ALIGN (06 R115). -/
def alignBlock (lane : Nat) : BitVec 64 := ctlBlock 0x55 (lane <<< 52)

/-- Training word `i` (06 R122). -/
def trainWord (w : TrainWords) (i : Nat) : Nat :=
  match i with
  | 0 => w.role <<< 48 + sideNat w.side <<< 47 + b01 w.lanes2 <<< 46 + b01 w.feccap <<< 45 + b01 w.full <<< 44
  | 1 => w.flHigh <<< 44 + w.flLow <<< 36 + w.smHigh <<< 28 + w.smLow <<< 20
  | 2 => w.place.toNat <<< 12
  | _ => w.na.toNat <<< 36 + b01 w.nav <<< 35

/-- TRAIN with word `i`. -/
def trainBlock (w : TrainWords) (i : Nat) : BitVec 64 := ctlBlock 0x99 (i <<< 52 + trainWord w i)

/-- TIME MARK (06 R132). -/
def markBlock (epoch : Byte) (valid : Bool) (subns : Nat) (wt : Word) : BitVec 64 :=
  ctlBlock 0x4B (1 <<< 52 + epoch.toNat <<< 44 + b01 valid <<< 43 + (subns % 16) <<< 32 + wt.toNat)

/-- TIME SECONDS. -/
def secondsBlock (secs : Nat) : BitVec 64 := ctlBlock 0x4B (2 <<< 52 + secs % 2 ^ 48)

/-- TIME LOOP_REQ. -/
def loopReqBlock (id : Nat) : BitVec 64 := ctlBlock 0x4B (3 <<< 52 + (id % 256) <<< 40)

/-- TIME LOOP_RSP. -/
def loopRspBlock (id : Byte) (residence : Nat) : BitVec 64 :=
  ctlBlock 0x4B (4 <<< 52 + id.toNat <<< 40 + residence % 2 ^ 24)

/-! ### Packets (06 R116 to R118) -/

/-- The START block of a packet. -/
def startBlock (k : LinkPkt) : BitVec 64 :=
  ctlBlock 0x33 (k.cls <<< 52 + sideNat k.rail <<< 51 + b01 k.guest <<< 50 + k.len <<< 32)

/-- The TERM block of a packet. -/
def termBlock (k : LinkPkt) : BitVec 64 := ctlBlock 0x87 (k.endc.toNat <<< 48 + k.crc.toNat <<< 16)

/-- The blocks of a packet in the order sent. -/
def linkBlocks (k : LinkPkt) : List (BitVec 64) := startBlock k :: k.data ++ [termBlock k]

/-- The body of a packet in data blocks, the last one padded with zero bytes. -/
def bodyBlocks (l : List Byte) : List (BitVec 64) :=
  (List.range (cdiv l.length 8)).map (fun i =>
    let b := (l.drop (8 * i)).take 8
    BitVec.ofNat 64 (natOfBytes (b ++ List.replicate (8 - b.length) 0)))

/-- A good packet of a class with a body. -/
def mkLink (cls : Nat) (rail : Side) (guest : Bool) (l : List Byte) : LinkPkt :=
  { cls := cls, rail := rail, guest := guest, len := l.length, data := bodyBlocks l, early := false
    endc := 0, crc := crc32c l }

/-- The body bytes of a packet. -/
def linkBody (k : LinkPkt) : List Byte := (k.data.flatMap (bytesOf 8)).take k.len

/-- Whether a received packet passes R118. -/
def linkGood (k : LinkPkt) : Bool :=
  !k.early && k.endc != 0xE1 && k.data.length == cdiv k.len 8 && crc32c (linkBody k) == k.crc

/-- A copy as it leaves when the packet it copies fails R118: it ends with END 0xE1 (06 R128). -/
def relayed (k : LinkPkt) : LinkPkt := if linkGood k then k else { k with endc := 0xE1 }

/-! ### The control header (06 R129) -/

/-- The body of a control packet. -/
def ctlBytes (ctype : Nat) (bcast upward : Bool) (cseq : BitVec 16) (route : BitVec 40) (msg : List Byte) :
    List Byte :=
  beBytes 16 (ctype <<< 124 + b01 bcast <<< 123 + b01 upward <<< 122 + cseq.toNat <<< 96
    + route.toNat <<< 40 + msg.length <<< 16) ++ msg

/-- The control header and message of a packet: none where MLEN differs from the bytes that follow. -/
def readCtl (k : LinkPkt) : Option CtlPkt :=
  let l := linkBody k
  let n := natOfBytes (l.take 16)
  if k.cls ≠ 2 ∨ l.length ≠ 16 + nbits n 31 16 then none
  else some
    { ctype := nbits n 127 124, bcast := nbits n 123 123 == 1, upward := nbits n 122 122 == 1
      cseq := BitVec.ofNat 16 (nbits n 111 96), route := BitVec.ofNat 40 (nbits n 79 40)
      rail := k.rail, guest := k.guest, msg := l.drop 16 }

/-! ### The Flume common header (05 R99) -/

/-- One bit of HCRC. -/
def crc16Bit (c : BitVec 16) : BitVec 16 := if c.getLsbD 15 then (c <<< 1) ^^^ 0x1021 else c <<< 1

/-- One byte of HCRC. -/
def crc16Byte (c : BitVec 16) (b : Byte) : BitVec 16 :=
  crc16Bit (crc16Bit (crc16Bit (crc16Bit (crc16Bit (crc16Bit (crc16Bit (crc16Bit
    (c ^^^ (b.zeroExtend 16 <<< 8)))))))))

/-- HCRC: polynomial 0x1021, initial value 0xFFFF, not reflected, no final XOR. -/
def crc16 (l : List Byte) : BitVec 16 := l.foldl crc16Byte 0xFFFF

/-- A Flume packet: the common header with LENGTH and HCRC, and the body. -/
def flumeBytes (h : FlumeHdr) (body : List Byte) : List Byte :=
  let l := beBytes 14 (h.typ <<< 108 + h.level <<< 104 + sideNat h.side <<< 103 + b01 h.bcast <<< 102
    + h.frame.toNat <<< 80 + h.dna.toNat <<< 64 + h.route.toNat <<< 24 + body.length)
  l ++ bytesOf 2 (crc16 l) ++ body

/-- The fields of a common header. -/
def readHdr (l : List Byte) : FlumeHdr :=
  let n := natOfBytes (l.take 14)
  { typ := nbits n 111 108, level := nbits n 107 104, side := sideOf (nbits n 103 103)
    bcast := nbits n 102 102 == 1, frame := BitVec.ofNat 16 (nbits n 95 80)
    dna := BitVec.ofNat 16 (nbits n 79 64), route := BitVec.ofNat 40 (nbits n 63 24), length := nbits n 15 0 }

/-- Whether HCRC holds. -/
def hcrcOk (l : List Byte) : Bool :=
  decide (16 ≤ l.length) && crc16 (l.take 14) == BitVec.ofNat 16 (natOfBytes ((l.drop 14).take 2))

/-- The header of a Flume packet that has arrived: none where the packet is of another class or HCRC fails. -/
def flumeHdr (k : LinkPkt) : Option FlumeHdr :=
  let l := linkBody k
  if k.cls = 1 ∧ hcrcOk l = true then some (readHdr l) else none

/-- The body of a Flume packet of type `t` that has arrived whole (06 R118): none where LENGTH differs from the
bytes that follow the header. -/
def flumeBody (k : LinkPkt) (t : Nat) : Option (FlumeHdr × List Byte) :=
  match flumeHdr k with
  | none => none
  | some h =>
    let b := (linkBody k).drop 16
    if linkGood k = true ∧ h.typ = t ∧ h.length = b.length then some (h, b) else none

/-- A Flume packet on a rail. -/
def flumePkt (rail : Side) (h : FlumeHdr) (body : List Byte) : LinkPkt := mkLink 1 rail false (flumeBytes h body)

/-! ### The bodies of the Flume packets (05 R101, R103, R104, R106, R109) -/

/-- A region packet after its common header. -/
def regionBody (r : RegionPkt) : List Byte :=
  beBytes 8 (r.pidx <<< 48 + r.blocks.length <<< 45 + b01 r.repair <<< 44 + b01 r.full <<< 43)
    ++ r.blocks.flatMap (fun b => beBytes 8 (b.bsig.toNat <<< 32 + b.bx <<< 26 + b.by_ <<< 20 + b01 b.inc <<< 19))
    ++ r.blocks.flatMap (·.data)

/-- A region packet read: none where NBLK is 0 or LENGTH is not 8 + 1,160 × NBLK. -/
def readRegion (l : List Byte) : Option RegionPkt :=
  let h := natOfBytes (l.take 8)
  let n := nbits h 47 45
  if n = 0 ∨ l.length ≠ 8 + 1160 * n then none
  else
    let data := l.drop (8 + 8 * n)
    let blk (e : Nat × Nat) : BlockIn :=
      { bx := nbits e.1 31 26, by_ := nbits e.1 25 20, bsig := w32 (nbits e.1 63 32), inc := nbits e.1 19 19 == 1
        data := (data.drop (1152 * e.2)).take 1152 }
    some { pidx := nbits h 63 48, repair := nbits h 44 44 == 1, full := nbits h 43 43 == 1
           blocks := (beNats 8 n (l.drop 8)).zipIdx.map blk }

/-- A commit after its common header. -/
def commitBody (c : CommitPkt) : List Byte :=
  beBytes 8 (c.pt.toNat <<< 32 + c.epoch.toNat <<< 24 + c.ents.length)
    ++ c.ents.flatMap (fun e =>
      beBytes 8 (e.na.toNat <<< 48 + b01 e.full <<< 47 + e.npkt <<< 32 + e.tsig.toNat))

/-- A commit read: none where NENT is not 1 to 512 or LENGTH is not 8 + 8 × NENT. -/
def readCommit (l : List Byte) : Option CommitPkt :=
  let h := natOfBytes (l.take 8)
  let n := nbits h 15 0
  if n = 0 ∨ 512 < n ∨ l.length ≠ 8 + 8 * n then none
  else some
    { pt := w32 (nbits h 63 32), epoch := BitVec.ofNat 8 (nbits h 31 24)
      ents := (beNats 8 n (l.drop 8)).map (fun e =>
        { na := BitVec.ofNat 16 (nbits e 63 48), full := nbits e 47 47 == 1, npkt := nbits e 46 32
          tsig := w32 (nbits e 31 0) }) }

/-- A certificate packet after its common header. -/
def certBody (c : CertPkt) : List Byte :=
  beBytes 8 (c.issue.toNat <<< 32 + c.epoch.toNat <<< 24 + c.ents.length)
    ++ c.ents.flatMap (fun e => beBytes 4 (e.region <<< 16 + e.lastf.toNat))

/-- A certificate packet read: none where NCERT is not 1 to 1,024 or LENGTH is not 8 + 4 × NCERT. -/
def readCert (l : List Byte) : Option CertPkt :=
  let h := natOfBytes (l.take 8)
  let n := nbits h 15 0
  if n = 0 ∨ 1024 < n ∨ l.length ≠ 8 + 4 * n then none
  else some
    { issue := w32 (nbits h 63 32), epoch := BitVec.ofNat 8 (nbits h 31 24)
      ents := (beNats 4 n (l.drop 8)).map (fun e =>
        { region := nbits e 31 16, lastf := BitVec.ofNat 16 (nbits e 15 0) }) }

/-- A NACK after its common header. -/
def nackBody (l : List (Nat × Nat)) : List Byte :=
  beBytes 8 (l.length <<< 48) ++ l.flatMap (fun e => beBytes 4 (e.1 <<< 16 + e.2))

/-- The ranges of a NACK: none where NRANGE is not 1 to 16 or does not match LENGTH. -/
def readNack (l : List Byte) : Option (List (Nat × Nat)) :=
  let n := nbits (natOfBytes (l.take 8)) 63 48
  if n = 0 ∨ 16 < n ∨ l.length ≠ 8 + 4 * n then none
  else some ((beNats 4 n (l.drop 8)).map (fun e => (nbits e 31 16, nbits e 15 0)))

/-- A report after its common header. -/
def reportBody (r : Report) : List Byte :=
  beBytes 16 ((r.kind <<< 28 + b01 r.late <<< 27 + r.npkt % 2 ^ 16) <<< 96 + r.tsig.toNat <<< 64
    + r.edge.toNat <<< 32 + r.epoch.toNat <<< 24)

/-- A report read, with the FRAME of its header: none where LENGTH is not 16. -/
def readReport (frame : BitVec 16) (l : List Byte) : Option Report :=
  let n := natOfBytes l
  if l.length ≠ 16 then none
  else some
    { kind := nbits n 127 124, late := nbits n 123 123 == 1, npkt := nbits n 111 96, tsig := w32 (nbits n 95 64)
      edge := w32 (nbits n 63 32), epoch := BitVec.ofNat 8 (nbits n 31 24), frame := frame }

end Sys2Proof.Machine
end

