-- ==== Sys2Proof/Machine/Ops.lean ====
section
/-! DEFINITION. The named operations over the state that every meaning shares: the parameter file,
the canonical forms and `commit`, sending, time and its schedule, event records, Smiben packets,
replies, notifications and events. -/

namespace Sys2Proof.Machine

/-- The outcome of a step of this machine. -/
abbrev Out1 := Host.Outcome State Fault Refusal

/-! ### The parameter file (14) -/

/-- The word of index `i` in the parameter file: the entry, or the reset word. -/
def rd (s : State) (i : Nat) : Word := (look i s.par).getD (resetWord s.id.sender i)

/-- Index `i` set to `w`. -/
def wr (s : State) (i : Nat) (w : Word) : State := { s with par := (i, w) :: s.par }

/-- Bits hi to lo of a parameter. -/
def getF (s : State) (i hi lo : Nat) : Nat := fld (rd s i) hi lo

/-- Bits hi to lo of a parameter set to `v`. -/
def setF (s : State) (i hi lo v : Nat) : State := wr s i (setFld (rd s i) hi lo v)

/-- A 32-bit counter raised by `n`, saturating (14 R323). -/
def bumpN (s : State) (i n : Nat) : State := wr s i (satAdd (rd s i) n)

/-- A 32-bit counter raised by 1. -/
def bump (s : State) (i : Nat) : State := bumpN s i 1

/-- A narrower counter field raised by 1, saturating (14 R323). -/
def bumpF (s : State) (i hi lo : Nat) : State :=
  setF s i hi lo (min (getF s i hi lo + 1) (2 ^ (hi + 1 - lo) - 1))

/-! ### Canonical forms and commit -/

/-- The reserved bits of a row. -/
def PRow.reserved (r : PRow) : Word :=
  r.fields.foldl (fun m f => if f.rsv then m ||| maskOf f.hi f.lo else m) 0

/-- The word the file lists for index `i`: none where the index does not serve the role or the
word is the reset word; reserved bits read 0 (00 R4). -/
def normWord (snd : Bool) (i : Nat) (w : Word) : Option Word :=
  match findRow snd i with
  | none => none
  | some r =>
    let v := w &&& ~~~r.reserved
    if v = r.resetWord then none else some v

/-- The canonical form of a parameter file: indices strictly rising, the first entry of an index
kept, each word in normal form. -/
def canonPar (snd : Bool) (l : List (Nat × Word)) : List (Nat × Word) :=
  (l.foldr (fun e acc => insertKey e.1 e.2 acc) []).filterMap
    (fun e => (normWord snd e.1 e.2).map (fun w => (e.1, w)))

/-- Whether a parameter file is canonical. -/
def parWf (snd : Bool) (l : List (Nat × Word)) : Bool :=
  (l.zip (l.drop 1)).all (fun e => e.1.1 < e.2.1)
    && l.all (fun e => normWord snd e.1 e.2 == some e.2)

/-- The canonical form of the bytes of DRAM or SRAM: addresses strictly rising, no byte equal to the zero fill
(15 R335; 16 R357). -/
def canonMem (l : List Host.Cell) : List Host.Cell :=
  (l.foldr (fun e acc => insertKey e.1 e.2 acc) []).filter (fun e => e.2 ≠ 0)

/-- Whether bytes are in canonical form. -/
def Memory.wf (l : List Host.Cell) : Bool :=
  (l.zip (l.drop 1)).all (fun e => e.1.1 < e.2.1) && l.all (fun e => e.2 != 0)

/-- The byte at address `a` of the system space or of SRAM: an unlisted address reads 0, the zero fill. -/
def memByte (l : List Host.Cell) (a : Nat) : Byte := (look a l).getD 0

/-- Bytes stored from address `a` on. -/
def memStore (l : List Host.Cell) (a : Nat) : List Byte → List Host.Cell
  | [] => l
  | b :: r => memStore ((a, b) :: l) (a + 1) r

/-- The kept values of a parameter file (14 R324). -/
def keptPar (snd : Bool) (l : List (Nat × Word)) : List (Nat × Word) :=
  l.filter (fun e => match findRow snd e.1 with
    | some r => r.kept == .settings || r.kept == .badger
    | none => false)

/-- SYS.PGEN after a change of kept values (14 R326). -/
def nextPgen (w : Word) : Word := if w = 0xFFFFFFFF then 1 else w + 1

/-- SYS.PGEN raised in `p` when its kept values or the node address differ from those before
(14 R326). -/
def pgenOf (snd : Bool) (old p : List (Nat × Word)) (na na' : Option (BitVec 16)) :
    List (Nat × Word) :=
  if keptPar snd p = keptPar snd old ∧ na = na' then p
  else canonPar snd ((sysPgen, nextPgen ((look sysPgen p).getD 0)) :: p)

/-- How many ALIGN slots of a two-lane port, one after every 16,384 blocks of a lane, have begun before local time `t`
since the port came up (06 R115). -/
def alignSlots (x : Port) (t : Nat) : Nat :=
  if x.lanes2 then (100 * (t - x.upAt) - 1) / (16384 * (if x.st = 5 then 256 else 640)) else 0

/-- The ALIGN blocks of both lanes of every port that is up, for the slots that begin from local time `t` until that of
the state. -/
def alignsSince (s : State) (t : Nat) : List Out :=
  (s.link.ports.filter (fun x => x.st == 3 || x.st == 5)).flatMap fun x =>
    (List.range (alignSlots x (s.time.lt) - alignSlots x t)).flatMap fun _ =>
      [.block x.p (alignBlock 0), .block x.p (alignBlock 1)]

/-- The state a meaning leaves, from the state `s` it started on and the state `t` it computed:
the queue and the personality are those of `s` (00 R1), the parameter file and the DRAM bytes are
canonical, SYS.PGEN has risen if a kept value changed, and the ALIGN blocks of the time that passed have left (06 R115;
log 106). -/
def commitState (s t : State) : State :=
  let p := canonPar s.id.sender t.par
  { t with
    id := { t.id with sender := s.id.sender }
    par := pgenOf s.id.sender s.par p s.id.na t.id.na
    dram := { t.dram with mem := canonMem t.dram.mem }
    sram := { t.sram with mem := canonMem t.sram.mem }
    out := t.out ++ alignsSince t s.time.lt
    pending := s.pending }

/-- A meaning's answer. -/
def commit (s t : State) : Out1 := .next (commitState s t)

/-- The answer of a meaning that runs outside the always-on domain: nothing happens while the
device is held in reset (17 R366, R370, R384). -/
def act (s : State) (f : State → State) : Out1 :=
  if s.boot.held then .next s else commit s (f s)

/-! ### Sending -/

/-- Something the device sends. -/
def emit (s : State) (o : Out) : State := { s with out := s.out ++ [o] }

/-- The free-value counter taken and raised. -/
def takeFree (s : State) : Nat × State := (s.free, { s with free := s.free + 1 })

/-! ### Time (11) -/

/-- The device clock in ns. -/
def now (s : State) : Nat := s.time.clk

/-- Local time in ns. -/
def lt (s : State) : Nat := s.time.lt

/-- WT32 of the present. -/
def nowW (s : State) : Word := wt32 (now s)

/-- Operating time in ms (11 R241). -/
def opTime (s : State) : Nat := s.time.opBase + s.time.lt / 10 ^ 6

/-- The slew limit in ppb: TIM.SERVO.SLEW of a sender, 50 ppm of a device that follows marks (11 R244, R252). -/
def slewLimit (s : State) : Int :=
  if s.id.sender && s.time.src != 4 then Int.ofNat (getF s timServo 15 8) * 1000 else 50000

/-- The frequency correction in ppb at which the clock runs: the rate never leaves the slew limit. -/
def freqNow (s : State) : Int := clampI (-slewLimit s) (slewLimit s) s.time.freq

/-- How much phase one tick can slew, in 1e-9 ns: what the frequency correction leaves of the slew limit. -/
def slewStep (s : State) : Int := 4 * (slewLimit s - (if 0 ≤ s.time.phase then freqNow s else -freqNow s))

/-- The phase slewed in `n` ticks. -/
def slewed (n : Nat) (s : State) : Int :=
  if 0 ≤ s.time.phase then min s.time.phase (n * slewStep s) else max s.time.phase (-(n * slewStep s))

/-- The device clock that `n` ticks accumulate, in 4e-9 ns: the fraction held, the ticks at their rate, and the phase. -/
def ticksAcc (n : Nat) (s : State) : Int := s.time.acc + n * (10 ^ 9 + freqNow s) + fdiv (slewed n s) 4

/-- `n` ticks of TCLK pass with nothing else happening: local time gains 4 ns in each, and the device clock as many 4 ns
steps as its fractional increment yields (11 R241). -/
def ticks (n : Nat) (s : State) : State :=
  let k := (ticksAcc n s / 10 ^ 9).toNat
  { s with time := { s.time with
    lt := s.time.lt + 4 * n
    clk := s.time.clk + 4 * k
    acc := ticksAcc n s - k * 10 ^ 9
    phase := s.time.phase - slewed n s } }

/-- Time runs on to local time `d`, if that lies ahead: the instant at which a timer expires. -/
def toLt (d : Nat) (s : State) : State := ticks (cdiv (d - s.time.lt) 4) s

/-- The ticks until the device clock has gained `k` steps of 4 ns: at the slewing rate while phase is left to slew, then
at the rate of the frequency correction. -/
def ticksFor (k : Nat) (s : State) : Nat :=
  let need : Int := k * 10 ^ 9 - s.time.acc
  let rate : Int := 10 ^ 9 + freqNow s
  let step := slewStep s
  let n (d r : Int) : Nat := ((d + r - 1) / r).toNat
  if step = 0 ∨ s.time.phase = 0 then n need rate
  else
    let m := n s.time.phase.natAbs step
    let a := n need (rate + (if 0 ≤ s.time.phase then step / 4 else -(step / 4)))
    if a < m then a else max m (n (need - fdiv s.time.phase 4) rate)

/-- Time runs on to the first tick whose device clock is at or past `c`, if that lies ahead. -/
def toClk (c : Nat) (s : State) : State :=
  if c ≤ s.time.clk then s else ticks (ticksFor (cdiv (c - s.time.clk) 4) s) s

/-- A parameter of port `p` that counts (06 R139). -/
def clnAt (base p : Nat) : Nat := base + 8 * p

/-! ### CorsinLink transmission (06 R114, R119, R120, R129, R130, R134) -/

/-- A port replaced. -/
def setPort (s : State) (x : Port) : State :=
  { s with link := { s.link with ports := s.link.ports.map (fun y => if y.p = x.p then x else y) } }

/-- A port that carries packets: up at the bring-up rate or at full rate. -/
def upPort (s : State) (p : Nat) : Option Port :=
  s.link.ports.find? (fun x => x.p == p && (x.st == 3 || x.st == 5))

/-- The next CSEQ: from 1, wrapping from 0xFFFF to 1 (06 R130). -/
def nextCseq (c : BitVec 16) : BitVec 16 := if c = 0xFFFF then 1 else c + 1

/-- The time `n` blocks take on a port, in ns (06 R114). -/
def blocksNs (x : Port) (n : Nat) : Nat :=
  cdiv (n * (if x.st = 5 then 256 else 640)) (if x.lanes2 then 200 else 100)

/-- The time that control packets have used of the 100 µs before `t`, in ns (06 R120). -/
def ctlShare (x : Port) (t : Nat) : Nat :=
  (x.ctlUse.map (fun e => min (e.1 + e.2) t - max e.1 (t - 100000))).sum

/-- Whether Flume waits for a packet boundary on a port: what the emitter of a chain still has to send (05 R98),
or the upstream queue of a tile (06 R128). -/
def flumeWaits (s : State) (p : Nat) : Bool :=
  if s.id.sender then
    (look p s.flume.certs).getD [] != []
      || (match s.flume.delivery with
        | some d => d.chains.any (fun c => c.chain == p && (c.committed.isNone || c.again.isSome
            || c.tiles.any (fun t => t.repairs != [])))
        | none => false)
  else p == 0 && s.link.upQueue != []

/-- A side or a flag as a byte. -/
def byteOf (n : Nat) : Byte := BitVec.ofNat 8 n

/-- CMP (12 R281): S is the number of its line groups. -/
def cmpBytes (m : CmpMsg) : List Byte :=
  let maps := (List.range 384).map (fun i =>
    byteOf ((List.range 8).foldl (fun n k => 2 * n + b01 (m.incmap.getD (8 * i + k) false)) 0))
  byteOf 0x06 :: byteOf (128 * b01 m.incv) :: beBytes 2 m.lsig.length
    ++ [m.show_, m.xmapsig, m.fsig, m.cfgsig, m.corsig].flatMap (bytesOf 4) ++ maps ++ m.lsig.flatMap (bytesOf 4)

/-- A twin unit message by its bytes, code first and every field most significant byte first (12 R273): none for the
four whose fields the manual gives no widths (COEF, STATE, CANVAS and LAMPSTATE; log 98). -/
def twinBytes : TwinMsg → Option (List Byte)
  | .hello m => some (0x01 :: byteOf (sideNat m.side) :: byteOf m.role :: bytesOf 4 m.fwver
      ++ [m.flHigh, m.flLow, m.smHigh, m.smLow].map byteOf ++ bytesOf 5 m.place ++ bytesOf 4 m.cfgsig
      ++ [byteOf (b01 m.lock)])
  | .beat m => some (0x02 :: byteOf (128 * b01 m.held + 64 * b01 m.ownLow + m.chk.toNat) :: byteOf m.mode
      :: bytesOf 4 m.lastEdge)
  | .accept id tick => some (0x03 :: bytesOf 8 id ++ bytesOf 4 tick)
  | .edgeSet id edge => some (0x04 :: bytesOf 8 id ++ bytesOf 4 edge)
  | .cmp m => some (cmpBytes m)
  | .verdict code failed => some [0x07, byteOf code, failed]
  | .handoverReq b0 => some (0x08 :: bytesOf 4 b0)
  | .handoverAck b0 ok => some (0x09 :: bytesOf 4 b0 ++ [byteOf (b01 (!ok))])
  | .deliv start frame => some (0x0B :: bytesOf 4 start ++ bytesOf 2 frame)
  | .canvsig start l => some (0x0D :: bytesOf 4 start ++ l.flatMap (fun e => bytesOf 2 e.1 ++ bytesOf 4 e.2))
  | .coef _ => none
  | .state _ => none
  | .canvas .. => none
  | .lampstate _ => none

/-- The blocks of a control packet; one whose message has no layout counts eight bytes for it (log 98). -/
def ctlLen (b : CtlBody) : Nat :=
  2 + cdiv (match b with
    | .bytes _ _ _ _ _ m => 16 + m.length
    | .twin m => 16 + (match twinBytes m with | some l => l.length | none => 8)
    | _ => 24) 8

/-- The START and header fields of a control packet without a layout of its message: it names the device's own
place, but for an announcement, which is for every device of the chain, and UNCROSS, which names the device it
goes to. A report to the other sender of the position goes over TW and bears the rail of that sender (06 R116). -/
def ctlHdrOf (s : State) (x : Port) (cseq : BitVec 16) (i : CtlItem) : CtlHdr :=
  let own := routeOf s.id.place
  let h (ctype : Nat) (bcast upward : Bool) (route : BitVec 40) (rail : Side) : CtlHdr :=
    { rail := rail, guest := i.guest, ctype := ctype, bcast := bcast, upward := upward, cseq := cseq, route := route }
  match i.body with
  | .announce rail .. =>
    h 2 true false (if s.id.sender && x.p != 8 then BitVec.ofNat 40 (x.p <<< 37) else own &&& 0xE000000000) rail
  | .uncross route => h 3 false false route s.id.side
  | .twin _ => h 4 false false own s.id.side
  | .lats _ _ => h 3 false true own (if x.p = 8 ∧ i.guest = false then otherSide s.id.side else s.id.side)
  | _ => h 3 false false own s.id.side

/-- A control packet leaves on a port under a CSEQ. -/
def emitCtl (s : State) (x : Port) (cseq : BitVec 16) (i : CtlItem) : State :=
  match i.body with
  | .bytes ctype bcast upward route rail m =>
    emit s (.link x.p (mkLink 2 rail i.guest (ctlBytes ctype bcast upward cseq route m)))
  | .twin m => match twinBytes m with
    | some l => emit s (.link x.p (mkLink 2 s.id.side i.guest (ctlBytes 4 false false cseq (routeOf s.id.place) l)))
    | none => emit s (.ctl x.p (ctlHdrOf s x cseq i) (.twin m))
  | b => emit s (.ctl x.p (ctlHdrOf s x cseq i) b)

/-- The local time at which the next packet of a port can begin. -/
def portFree (s : State) (x : Port) : Nat := max (lt s) x.busy

/-- A port after a control packet of `n` blocks that begins at local time `t`. -/
def ctlSent (x : Port) (t n : Nat) : Port :=
  { x with
    busy := t + blocksNs x n
    ctlUse := (t, blocksNs x n) :: x.ctlUse.filter (fun e => decide (t ≤ e.1 + e.2 + 100000)) }

/-- Whether an ALIGN slot of a port begins in this tick. -/
def alignNow (s : State) (x : Port) : Bool := alignSlots x (lt s) != alignSlots x (lt s + 4)

/-- How much later a TIME block leaves that falls due in the slot of an ALIGN block, in ns: it takes the next slot
(06 R120). -/
def alignShift (s : State) (p : Nat) : Nat :=
  match upPort s p with
  | some x => if alignNow s x then (if x.st = 5 then 2 else 6) else 0
  | none => 0

/-- The first waiting control packet of a port leaves, under ARQ; its timeout runs from its TERM (06 R130). -/
def sendCtl (s : State) (x : Port) : State :=
  match x.waiting with
  | [] => s
  | i :: r =>
    let y := ctlSent x (portFree s x) (ctlLen i.body)
    emitCtl (setPort s { y with
      waiting := r, nextC := nextCseq x.nextC
      unacked := x.unacked ++ [{ cseq := x.nextC, item := i, sent := y.busy, tries := 1 }] }) x x.nextC i

/-- The first waiting Flume packet of a port leaves. -/
def sendQueued (s : State) (x : Port) : State :=
  match x.queue with
  | [] => s
  | k :: r =>
    emit (setPort s { x with queue := r, busy := portFree s x + blocksNs x (2 + k.data.length) }) (.link x.p k)

/-- The rank of a control packet on a port: on TW twin unit messages go first, then crossing traffic, then other
control packets (06 R134). -/
def ctlRank (p : Nat) (i : CtlItem) : Nat :=
  if p = 8 then (match i.body with | .twin _ => 0 | _ => if i.guest then 1 else 2) else 0

/-- Whether control packets have used less than 1/25 of the link's time in the 100 µs before a port's next packet
(06 R120). -/
def ctlFits (s : State) (x : Port) : Bool := decide (25 * ctlShare x (portFree s x) < 100000)

/-- A packet boundary of a port: with no packet in progress the next one leaves. With 16 packets unacknowledged
control waits (06 R130). On TW the order is that of 06 R134. Elsewhere control goes ahead while it has used less
than 1/25 of the last 100 µs, and uses any time that Flume leaves idle (06 R120). -/
def boundary (s : State) (p : Nat) : State :=
  match upPort s p with
  | none => s
  | some x =>
    let room := decide (x.unacked.length < 16)
    let first := match x.waiting with | i :: _ => ctlRank p i | [] => 3
    if decide (lt s < x.busy) then s
    else if p = 8 then
      if first = 0 ∧ room then sendCtl s x
      else if x.queue ≠ [] then sendQueued s x
      else if room then sendCtl s x else s
    else if room && (ctlFits s x || !flumeWaits s p) then sendCtl s x
    else s

/-- An item put behind those of its rank and of lower ranks. -/
def insertCtl (p : Nat) (i : CtlItem) : List CtlItem → List CtlItem
  | [] => [i]
  | j :: r => if ctlRank p i < ctlRank p j then i :: j :: r else j :: insertCtl p i r

/-- A control packet sent on a CorsinLink port that is up: it leaves at once if the port is free for it, else at a
packet boundary. A port that is not up sends nothing. -/
def linkItem (s : State) (p : Nat) (i : CtlItem) : State :=
  match upPort s p with
  | none => s
  | some x => boundary (setPort s { x with waiting := insertCtl p i x.waiting }) p

/-- A control packet sent on a port, or over TW as a guest where the port is bridged (06 R136), with the definition that
caused it. -/
def linkSendFor (s : State) (port : Nat) (b : CtlBody) (cause : Option CmdRef) : State :=
  if s.link.guests.contains port then linkItem s 8 ⟨true, b, cause⟩ else linkItem s port ⟨false, b, cause⟩

/-- A control packet sent on a port, or over TW as a guest where the port is bridged (06 R136). -/
def linkSend (s : State) (port : Nat) (b : CtlBody) : State := linkSendFor s port b none

/-- A message to the twin device over TW (12 R273). -/
def twinSend (s : State) (m : TwinMsg) : State := linkSend s 8 (.twin m)

/-- A control packet on each of several ports. -/
def linkCast (s : State) (ports : List Nat) (b : CtlBody) : State :=
  ports.foldl (fun t p => linkSend t p b) s

/-- The control packets that go ahead of the next Flume packet of a port (06 R120): at most `n`. -/
def ctlAhead : Nat → State → Nat → State
  | 0, s, _ => s
  | n + 1, s, p =>
    match upPort s p with
    | none => s
    | some x =>
      if x.waiting = [] ∨ 16 ≤ x.unacked.length ∨ ctlFits s x = false then s else ctlAhead n (sendCtl s x) p

/-- A Flume packet leaves on a port that is up, behind the control packets that go ahead of it (06 R120); over TW it
takes its turn (06 R134). -/
def flumeOut (s : State) (p : Nat) (k : LinkPkt) : State :=
  if p = 8 then
    (match upPort s 8 with
      | none => s
      | some x => boundary (setPort s { x with queue := x.queue ++ [k] }) 8)
  else
    let t := ctlAhead 16 s p
    match upPort t p with
    | none => s
    | some x => emit (setPort t { x with busy := portFree t x + blocksNs x (2 + k.data.length) }) (.link p k)

/-- A Flume packet sent on a port, or over TW as a guest where the port is bridged (06 R136). -/
def flumeSendOn (s : State) (p : Nat) (k : LinkPkt) : State :=
  if s.link.guests.contains p then flumeOut s 8 { k with guest := true } else flumeOut s p k

/-- Whether a packet is one of this rail: a guest of the other rail is accepted by no device (06 R136). -/
def ownRail (s : State) (k : LinkPkt) : Bool := !k.guest || k.rail == s.id.side

/-- A Flume packet dropped at a tile (05 R100). -/
def rxDrop (s : State) : State := bump s flmRxDrop

/-- The content rate: CMP.RATE of a sender, TIL.RATE of a tile, as NUM and DEN (11 R255). -/
def rate (s : State) : Nat × Nat :=
  let w := rd s (if s.id.sender then cmpRate else tilRate)
  (max 1 (fld w 31 16), max 1 (fld w 15 0))

/-- Schedule instant n of a rate in ns, placed at the first tick at or after it (11 R255). -/
def instant (r : Nat × Nat) (n : Nat) : Nat := 4 * cdiv (n * r.2 * 10 ^ 9) (4 * r.1)

/-- The index of the schedule instant placed at clock `c`. -/
def instantIdx (r : Nat × Nat) (c : Nat) : Nat := c * r.1 / (r.2 * 10 ^ 9)

/-- The first schedule instant placed strictly after clock `c`: its exact time lies after the last tick at or
before `c`. -/
def nextInstant (r : Nat × Nat) (c : Nat) : Nat := instant r (4 * (c / 4) * r.1 / (r.2 * 10 ^ 9) + 1)

/-- The first schedule instant placed at or after clock `c`. -/
def instantAt (r : Nat × Nat) (c : Nat) : Nat :=
  if c = 0 then 0 else nextInstant r (c - 1)

/-- The content period in ns, floored. -/
def period (r : Nat × Nat) : Nat := r.2 * 10 ^ 9 / r.1

/-- The next frame edge of a tile or canvas frame start of a sender: the first schedule instant
after the last one, and after a step the first on the new time at least half a content period of local time
after it (11 R255, R257). -/
def nextEdge (s : State) : Nat :=
  let r := rate s
  match s.time.lastEdge with
  | none => instantAt r (now s)
  | some (c, l) =>
    if s.time.stepWait then
      let gone := s.time.lt - l
      let since := match s.time.lastStep with | some (t, _) => s.time.lt - t | none => 0
      instantAt r (max (now s + period r / 2 - gone) (now s - since))
    else nextInstant r c

/-- tCOMMIT in ns of a tile, TIL.EDGE.GUARD in µs (07 R146), or the latch lead of a sender,
CMP.LATCH.LEAD in µs (04 R73). -/
def tCommit (s : State) : Nat :=
  1000 * (if s.id.sender then getF s cmpLatch 15 0 else getF s tilEdge 15 0)

/-- The decision instant of edge `e` (07 R146), or the latch of the canvas frame that starts at `e`
(04 R73). -/
def decision (s : State) (e : Nat) : Nat := e - tCommit s

/-- The first edge whose decision instant lies strictly after clock `a` (13 R304; 08 R170). -/
def edgeAfter (s : State) (a : Nat) : Nat :=
  let e := nextEdge s
  if a < decision s e then e
  else if a < decision s (nextInstant (rate s) e) then nextInstant (rate s) e
  else nextInstant (rate s) (a + tCommit s)

/-- The wall-clock second of the present. -/
def nowSec (s : State) : Nat := now s / 10 ^ 9

/-! ### Event records (20 R425 to R428) -/

/-- The node address, 0 if the device is not enrolled (01 R19). -/
def naOr0 (s : State) : BitVec 16 := s.id.na.getD 0

/-- A record whose instant is the present (20 R426). -/
def mkRec (s : State) (trig : Nat) (snap : List Word) : Rec :=
  { trig := trig, snap := snap.take 16, valid := s.time.valid, side := s.id.side
    sender := s.id.sender, pcc := rd s evrPcc, rseq := rd s evrRseq, optime := opTime s
    wt := now s, epoch := s.time.epoch, na := naOr0 s, fwver := s.fl.fw.version }

/-- A record written to the ring (20 R428). A full ring loses its oldest record, and EVR.LOST
rises if that record was not archived. -/
def putRec (s : State) (r : Rec) : State :=
  let full := s.rcd.unarch ≥ 1024
  let s1 := { s with rcd := { s.rcd with
    ring := (r :: s.rcd.ring).take 1024
    head := (s.rcd.head + 1) % 1024
    unarch := if full then 1024 else s.rcd.unarch + 1
    lostNow := if full then s.rcd.lostNow + 1 else s.rcd.lostNow } }
  let s2 := wr (bump s1 evrWritten) evrRseq (rd s evrRseq + 1)
  if full then bump s2 evrLost else s2

/-- An event record written now. -/
def record (s : State) (trig : Nat) (snap : List Word) : State := putRec s (mkRec s trig snap)

/-- A record whose trigger the manual does not name: kind `k` (log 9). -/
def recordX (s : State) (k : Nat) (snap : List Word) : State := record s (Config.trigger k) snap

/-! ### Sessions and packets (02) -/

/-- The open session with a reference. -/
def findSess (s : State) (r : SRef) : Option Session := s.smb.sess.find? (fun x => x.ref = r)

/-- The session a command was accepted in, while it is open: another session in the same slot is not it (R46, R49). -/
def liveSess (s : State) (c : CmdRef) : Option Session :=
  (findSess s c.sess).filter (fun x => x.serial == c.serial)

/-- A session changed in place. -/
def updSess (s : State) (r : SRef) (f : Session → Session) : State :=
  { s with smb := { s.smb with sess := s.smb.sess.map (fun x => if x.ref = r then f x else x) } }

/-- The domains with an owner of session `r` freed (02 R45). -/
def freeOwner (r : SRef) (o : Option Owner) : Option Owner :=
  match o with
  | some w => if w.sess = r then none else some w
  | none => none

/-- A session closed: its ownership ends, its queued commands and pending notifications go, and a
sender withdraws it from its chains and its twin (02 R36, R37, R45, R49). -/
def closeSess (s : State) (r : SRef) : State :=
  match findSess s r with
  | none => s
  | some x =>
    let s1 := { s with smb := { s.smb with
      sess := s.smb.sess.filter (fun y => y.ref ≠ r)
      wall := freeOwner r s.smb.wall
      safety := freeOwner r s.smb.safety
      update := freeOwner r s.smb.update } }
    if s.id.sender then
      linkCast s1 (List.range 9)
        (.announce s.id.side r.num x.keyc (naOr0 s) s.id.side 0 0 true)
    else s1

/-- The packet the device sends in a session (02 R30, R38, R51). -/
def mkPacket (s : State) (x : Session) (kind level opcode : Nat) (echo issue : Word) (status : Nat)
    (trunc : Bool) (payload : List Word) (key : W256) (via : Via) : Packet :=
  let hdr := mkHeader level kind x.keyc opcode (x.dseq + 1) x.ref.num trunc (4 * payload.length)
    0xF (sideBit s.id.side) (naOr0 s).toNat (echo.toNat * 2 ^ 32) issue status s.time.epoch.toNat
  { via := via, hdr := hdr, payload := payload, tag := tagOf key hdr payload }

/-! ### Network interfaces (03 R52 to R56) -/

/-- A network port that is off. -/
def netPortOff : NetPort := { mode := 0, fec := 0, training := none, link := 0, align := 0 }

/-- Network port `p`. -/
def netPort (s : State) (p : Nat) : NetPort := s.net.ports.getD p netPortOff

/-- Whether RS-FEC is in use on sub-port `k`. -/
def fecUsed (x : NetPort) (k : Nat) : Bool := x.mode == 1 || (x.mode == 2 && (x.fec >>> k) % 2 == 1)

/-- NET.IF_STS.LINK: link up, and RS-FEC aligned where it is used (R54). -/
def ifLink (s : State) (i : Nat) : Bool :=
  let x := netPort s (i / 4)
  let k := i % 4
  (x.link >>> k) % 2 == 1 && (!fecUsed x k || (x.align >>> k) % 2 == 1)

/-- The MAC of an interface (R54). -/
def ifMac (s : State) (i : Nat) : BitVec 48 := s.net.mac + BitVec.ofNat 48 i

/-- A modified EUI-64 of a MAC. -/
def eui64 (m : BitVec 48) : Nat :=
  let n := m.toNat
  ((n >>> 24) <<< 40 + 0xFFFE <<< 24 + n % 2 ^ 24) ^^^ (1 <<< 57)

/-- The address of a family on an interface (R54): 0 IPv4, 1 IPv6 link-local, 2 IPv6 global. -/
def addrOf (s : State) (i f : Nat) : BitVec 128 :=
  if f = 0 then BitVec.ofNat 128 (rd s (netV4Addr + 16 * i)).toNat
  else if f = 1 then BitVec.ofNat 128 (0xFE80 <<< 112 + eui64 (ifMac s i))
  else BitVec.ofNat 128 (natOfWords ((List.range 4).map (fun k => rd s (netV6Addr0 + 16 * i + k))))

/-- Whether interface `i` is active and `a` is a confirmed address of it (R54, R56). -/
def holdsAddr (s : State) (i a : Nat) : Bool :=
  bit (rd s (netIfCtrl + 16 * i)) 31
    && s.net.addrs.any (fun x => x.iface == i && x.st == 2 && (x.fam == 0) == decide (a < 2 ^ 32)
      && (addrOf s i x.fam).toNat == a)

/-- Whether an interface accepts a frame by its 802.1Q tag (R54). -/
def vlanOk (s : State) (i : Nat) (vlan : Option Nat) : Bool :=
  let w := rd s (netIfCtrl + 16 * i)
  if bit w 12 then vlan == some (fld w 11 0) else vlan == none || vlan == some 0

/-- The 802.1Q tag of the frames an interface transmits: PCP and VID where TAG is 1 (R54). -/
def txTag (s : State) (i : Nat) : Option (BitVec 16) :=
  let w := rd s (netIfCtrl + 16 * i)
  if bit w 12 then some (BitVec.ofNat 16 (fld w 15 13 * 2 ^ 13 + fld w 11 0)) else none

/-- Whether two addresses of `n` bits agree in their first `plen` bits. -/
def samePrefix (n plen a b : Nat) : Bool := a >>> (n - plen) == b >>> (n - plen)

/-- The next hop of a datagram on interface `i` to address `d` (R54): `d` itself on the link, else the
gateway; none where GW is 0. -/
def nextHop (s : State) (i d : Nat) : Option Nat :=
  if d < 2 ^ 32 then
    let gw := (rd s (netV4Gw + 16 * i)).toNat
    if samePrefix 32 (getF s (netV4Net + 16 * i) 5 0) d (addrOf s i 0).toNat then some d
    else if gw = 0 then none else some gw
  else
    let gw := natOfWords ((List.range 4).map (fun k => rd s (netV6Gw0 + 16 * i + k)))
    if samePrefix 128 10 d (0xFE80 <<< 112)
        || samePrefix 128 (getF s (netV6Net + 16 * i) 6 0) d (addrOf s i 2).toNat then some d
    else if gw = 0 then none else some gw

/-- The interface a datagram to a host leaves by: the one the host used while it has link and holds the address,
else the first with link that holds an address of the family (R53, R56). -/
def outIface (s : State) (u : UdpIn) : Option UdpIn :=
  let ok (i : Nat) (dst : Nat) : Bool := ifLink s i && holdsAddr s i dst && (nextHop s i u.addr).isSome
  if ok u.iface u.dst then some u
  else
    ((List.range 8).flatMap (fun i => [0, 1, 2].map (fun f => (i, f)))).findSome? fun e =>
      let a := (addrOf s e.1 e.2).toNat
      if (e.2 == 0) == decide (u.addr < 2 ^ 32) && ok e.1 a then
        some { u with iface := e.1, dst := a } else none

/-- A frame sent on a network interface. -/
def emitNet (s : State) (i : Nat) (m : NetMsg) : State := emit s (.net i (txTag s i) m)

/-- MGMT_INT_N: low while a packet waits for the board controller (02 R33). -/
def mgmtIntN (s : State) : Bool := s.smb.mgmtOut.isEmpty

/-- The number of MGMT_INT_N among the pins the device drives. -/
def pinMgmtInt : Nat := 32

/-- A packet leaves: over MGMT it waits for the board controller, over UDP it is sent from an interface that
holds a confirmed address (03 R56), and an answer to a relayed command travels up the rail it came by, over UP
or through the twin (02 R33). -/
def ship (s : State) (p : Packet) : State :=
  match p.via with
  | .mgmt =>
    let t := { s with smb := { s.smb with mgmtOut := s.smb.mgmtOut ++ [p] } }
    if mgmtIntN s then emit t (.pin pinMgmtInt false) else t
  | .relay r =>
    linkSend s (if r = s.id.side then 0 else 8) (.bytes 1 false true (routeOf s.id.place) r
      (bytesOf 32 p.hdr ++ bytesOfWords p.payload ++ bytesOf 16 p.tag))
  | .udp u =>
    match outIface s u with
    | none => s
    | some v => match nextHop s v.iface v.addr with
      | none => s
      | some h => emit s (.smiben (txTag s v.iface) h { p with via := .udp v })

/-- A packet sent in a session under its next device SEQ; the session closes after 0xFFFF_FFFF
(02 R38). A session whose key the device does not hold sends nothing. -/
def sendIn (s : State) (r : SRef) (kind level opcode : Nat) (echo issue : Word) (status : Nat)
    (trunc : Bool) (payload : List Word) (via : Option Via) : State × Option Packet :=
  match findSess s r with
  | none => (s, none)
  | some x =>
    match x.key with
    | none => (s, none)
    | some k =>
      let p := mkPacket s x kind level opcode echo issue status trunc payload k (via.getD x.src)
      let s1 := ship (updSess s r (fun y => { y with dseq := y.dseq + 1 })) p
      (if x.dseq + 1 = 0xFFFFFFFF then closeSess s1 r else s1, some p)

/-- The reply to a command (02 R46): it leaves the queue and its reply is kept for duplicates. -/
def reply (s : State) (c : CmdRef) (via : Via) (st : Nat) (words : List Word) : State :=
  if (liveSess s c).isNone then s else
  let (s1, p) := sendIn s c.sess 2 c.level c.opcode c.seq (nowW s) st false words (some via)
  updSess s1 c.sess (fun x => { x with
    queued := x.queued.filter (fun q => q ≠ c.seq)
    recent := x.recent.map (fun e => if e.1 = c.seq then (e.1, p) else e) })

/-- The effect notification of a command whose effect is at clock `clk`, with its WT80 (02 R47). An effect whose session
has closed is recorded instead (02 R49). -/
def notifyAt (s : State) (c : CmdRef) (st clk : Nat) (words : List Word) : State :=
  if (liveSess s c).isNone then
    if c.sess.num < 16 then recordX s xEffect [w32 c.opcode, c.seq, w32 st] else s
  else if c.nonote then s
  else
    let (s1, p) := sendIn s c.sess 3 c.level c.opcode c.seq (wt32 clk) st false
      (wt80 s.time.valid clk ++ words) none
    match p with
    | none => s1
    | some p => updSess s1 c.sess (fun x => { x with notes := ((c.seq, p) :: x.notes).take 64 })

/-- The effect notification of a command whose effect is now. -/
def notify (s : State) (c : CmdRef) (st : Nat) (words : List Word) : State := notifyAt s c st (now s) words

/-- The effect notification of a command that may be absent. -/
def notifyO (s : State) (c : Option CmdRef) (st : Nat) (words : List Word) : State :=
  match c with
  | none => s
  | some c => notify s c st words

/-- The place of a command in the order in which the device's commands passed step 5 (02 R48). -/
def passedAt (s : State) (c : CmdRef) : Nat :=
  ((liveSess s c).bind (fun x => look c.seq x.passed)).getD 0

/-- An item put before the items of commands that passed step 5 later. -/
def insertPassed {β : Type} (s : State) (e : CmdRef × β) : List (CmdRef × β) → List (CmdRef × β)
  | [] => [e]
  | h :: t => if passedAt s e.1 < passedAt s h.1 then e :: h :: t else h :: insertPassed s e t

/-- What commands have to hear of one instant, in the order in which they passed step 5 (02 R48). -/
def inPassedOrder {β : Type} (s : State) (l : List (CmdRef × β)) : List (CmdRef × β) :=
  l.foldl (fun m e => insertPassed s e m) []

/-- Key classes an event goes to: wall sessions carry the host key, safety sessions the safety
key (13 R295). -/
inductive Aud where
  | wall
  | safety
  | both
  deriving DecidableEq, Repr

/-- Whether a session belongs to an audience. -/
def Aud.has (a : Aud) (keyc : Nat) : Bool :=
  match a with
  | .wall => keyc == keyHost
  | .safety => keyc == keySafety
  | .both => keyc == keyHost || keyc == keySafety

/-- An event packet to one session, at the level of its last accepted command (02 R51). -/
def eventTo (s : State) (r : SRef) (opcode : Nat) (echo : Word) (payload : List Word) : State :=
  match findSess s r with
  | none => s
  | some x => (sendIn s r 4 x.level opcode echo (nowW s) 0 false payload none).1

/-- An event of trigger `trig` to every open session of an audience (13 R314). -/
def event (s : State) (a : Aud) (trig : Nat) (words : List Word) : State :=
  ((s.smb.sess.filter (fun x => a.has x.keyc)).map (·.ref)).foldl
    (fun t r => eventTo t r 0x0C80 0 (w32 (trig * 2 ^ 16) :: words)) s

/-- A record and the event that matches it. -/
def recEvent (s : State) (a : Aud) (trig : Nat) (words : List Word) : State :=
  event (record s trig words) a trig words

/-- A record and an event whose trigger the manual does not name: kind `k` (log 9). -/
def recEventX (s : State) (a : Aud) (k : Nat) (words : List Word) : State :=
  recEvent s a (Config.trigger k) words

/-- The owner of a domain (02 R43). -/
def ownerOf (s : State) (dom : Nat) : Option Owner :=
  if dom = domWall then s.smb.wall else if dom = domSafety then s.smb.safety else s.smb.update

/-- The owner of a domain set. -/
def setOwner (s : State) (dom : Nat) (o : Option Owner) : State :=
  if dom = domWall then { s with smb := { s.smb with wall := o } }
  else if dom = domSafety then { s with smb := { s.smb with safety := o } }
  else { s with smb := { s.smb with update := o } }

end Sys2Proof.Machine
end

