-- ==== Sys2Proof/Machine/Admit.lean ====
section
/-! DEFINITION. Admission: standing credits and Sluice (17 R374 to R378), the non-volatile write
stop (17 R372) and the queue of flash operations (19 R404). -/

namespace Sys2Proof.Machine

/-! ### Links and memory in use -/

/-- The state of a CorsinLink port as CLN.PORT_STS codes it (06 R139); 0 where there is none. -/
def portSt (s : State) (p : Nat) : Nat :=
  match s.link.ports.find? (fun x => x.p == p) with
  | some x => x.st
  | none => 0

/-- A port that carries packets: up at the bring-up rate or at full rate. -/
def portUp (s : State) (p : Nat) : Bool := portSt s p == 3 || portSt s p == 5

/-- A chain over which a sender can send: its port is up, or its traffic is bridged over TW (06 R136). -/
def chainOpen (s : State) (c : Nat) : Bool := portUp s c || (s.link.guests.contains c && portUp s 8)

/-- The highest and lowest Flume level of this device. -/
def ownHigh (s : State) : Nat := s.fl.fw.flHigh
def ownLow (s : State) : Nat := getF s flmLevel 7 0

/-- The lanes trained or training (17 R374). -/
def lanesOn (s : State) : Nat :=
  ((s.link.ports.filter (fun x => 2 ≤ x.st && x.st ≤ 5)).map
    (fun x => if x.lanes2 || x.p == 8 then 2 else 1)).sum

/-- DRAM channels in use (15; 17 R374). -/
def chansUp (s : State) : Nat := (s.dram.chans.filter (fun c => c.trained)).length

/-! ### Sluice (17 R374 to R376) -/

/-- Standing credits of a network port in a mode (17 R374). -/
def netStanding (mode : Nat) : Nat :=
  if mode = 1 ∨ mode = 2 then 25 else if mode = 3 then 10 else 0

/-- The standing credits with PIPES pipelines and the given network modes (17 R374). -/
def standingWith (s : State) (pipes : Nat) (modes : List Nat) (lampMode : Nat) : Nat :=
  let base := 30 + 25 + 15 * chansUp s + 2 * lanesOn s
  if s.id.sender then base + (modes.map netStanding).sum + 15 + 22 * pipes + 15
  else base + 21 + 5 + (if lampMode = 0 then 0 else 12)

/-- The pipelines that a CMP.CANVAS word runs: none while the canvas is off (04 R69). -/
def pipesOn (w : Word) : Nat := if fld w 27 16 = 0 ∨ fld w 10 0 = 0 then 0 else fld w 31 28

/-- PWR.CHIP_STS.STANDING (17 R374). -/
def standing (s : State) : Nat :=
  standingWith s (pipesOn (rd s cmpCanvas)) (s.net.ports.map (·.mode)) (getF s lmpCfg 31 30)

/-- Chip credits granted in bursts. -/
def chipGranted (s : State) : Nat := (s.slu.granted.map (·.chip)).sum

/-- Lamp credits granted and not yet returned. -/
def lampGranted (s : State) : Nat := (s.slu.granted.map (·.lamp)).sum

/-- S_c: the sum of the lamp values of colour `c` in a store (17 R377). -/
def lampSum (store : List (Nat × BitVec 16)) (c : Nat) : Nat :=
  ((store.filter (fun e => e.1 % 3 == c)).map (fun e => e.2.toNat)).sum

/-- The estimate I in µA from the three sums (17 R377). -/
def lampCurrent (s : State) (sums : Nat → Nat) : Nat :=
  let ki : Nat → Nat := fun c =>
    if c = 0 then getF s pwrLampKiRg 31 16 else if c = 1 then getF s pwrLampKiRg 15 0
    else getF s pwrLampKiB 15 0
  1000 * getF s pwrLamp 15 0 + ((List.range 3).map (fun c => sums c * ki c / 65535)).sum

/-- The estimate over the values written last: in S-mode those of the back copy (09 R203). -/
def lampI (s : State) : Nat :=
  lampCurrent s (lampSum (if getF s lmpCfg 31 30 = 2 then s.lamp.back else s.lamp.store))

/-- Lamp credits in use (17 R377). -/
def lampInUse (s : State) : Nat :=
  (if s.lamp.lit then cdiv (lampI s) 100000 else 0) + lampGranted s

/-- The throttle step in force (17 R383). -/
def throttleStep (s : State) : Nat := getF s thmSts 31 24

/-- The chip budget in force: at throttle step 3 it is STANDING + 10 (17 R383). -/
def chipBudget (s : State) : Nat :=
  let b := getF s pwrChip 31 16
  if throttleStep s ≥ 3 then min b (standing s + 10) else b

/-- The lamp budget in credits. -/
def lampBudget (s : State) : Nat := getF s pwrLamp 31 16

/-- Whether a request fits now; equality fits (17 R376). -/
def fits (s : State) (chip lamp : Nat) : Bool :=
  chipGranted s + chip + standing s ≤ chipBudget s
    && (lamp == 0 || lampInUse s + lamp ≤ lampBudget s)

/-- Whether a request could not fit even with no burst credits granted (17 R376). A memory training, which nobody asks
for again, is held against the parameter and waits while throttle step 3 lowers the budget (log 73). -/
def hopeless (s : State) (op : HeavyOp) (chip lamp : Nat) : Bool :=
  let isLamp := match op with | .lampOn _ => true | _ => lamp != 0
  let budget := match op with | .dramTrain _ => getF s pwrChip 31 16 | _ => chipBudget s
  decide (budget < standing s + chip)
    || (isLamp && lampBudget s == 0)
    || (lamp != 0 && decide (lampBudget s < (if s.lamp.lit then cdiv (lampI s) 100000 else 0) + lamp))

/-- Requests of class 3 at step 1 and of class 2 but full recomputes at step 2 wait (17 R383). -/
def throttled (s : State) (op : HeavyOp) (cls : Nat) : Bool :=
  let st := throttleStep s
  (decide (1 ≤ st) && cls == 3)
    || (decide (2 ≤ st) && cls == 2 && (match op with | .recompute _ => false | _ => true))

/-- Whether an earlier request of the class or one of a higher class waits (17 R376); those that a throttle step holds
back let the others pass (17 R383; log 73). -/
def behind (s : State) (cls : Nat) : Bool := s.slu.waiting.any (fun c => c.cls ≤ cls && !throttled s c.op c.cls)

/-- What Sluice answers a request. -/
inductive Ask where
  | granted (id : Nat)
  | waiting (id : Nat)
  | refused
  deriving DecidableEq, Repr

/-- A request put to Sluice (17 R376): refused at once, granted whole, or waiting. -/
def sluiceAsk (s : State) (op : HeavyOp) (cls chip lamp : Nat) : State × Ask :=
  let c : Credit := { id := s.slu.next, op := op, cls := cls, chip := chip, lamp := lamp, at_ := lt s }
  if hopeless s op chip lamp then (bump s pwrRefused, .refused)
  else
    let s1 := { s with slu := { s.slu with next := s.slu.next + 1 } }
    if fits s chip lamp && !behind s cls && !throttled s op cls then
      ({ s1 with slu := { s1.slu with granted := s1.slu.granted ++ [c] } }, .granted c.id)
    else ({ s1 with slu := { s1.slu with waiting := s1.slu.waiting ++ [c] } }, .waiting c.id)

/-- The credits of the operations that satisfy `f` return (17 R376). -/
def creditReturn (s : State) (f : HeavyOp → Bool) : State :=
  { s with slu := { s.slu with granted := s.slu.granted.filter (fun c => !f c.op) } }

/-- Waiting requests of the operations that satisfy `f` are withdrawn. -/
def withdrawAsk (s : State) (f : HeavyOp → Bool) : State :=
  { s with slu := { s.slu with waiting := s.slu.waiting.filter (fun c => !f c.op) } }

/-- The request Sluice grants next: the first by class, then by arrival, if it fits (17 R376). -/
def nextGrant (s : State) : Option Credit :=
  let ready := s.slu.waiting.filter (fun c => !throttled s c.op c.cls)
  let pick (k : Nat) := (ready.filter (fun c => c.cls == k)).head?
  match pick 1, pick 2, pick 3 with
  | some c, _, _ => if fits s c.chip c.lamp then some c else none
  | none, some c, _ => if fits s c.chip c.lamp then some c else none
  | none, none, some c => if fits s c.chip c.lamp then some c else none
  | none, none, none => none

/-- A waiting request granted. -/
def grant (s : State) (c : Credit) : State :=
  { s with slu := { s.slu with
    waiting := s.slu.waiting.filter (fun x => x.id ≠ c.id)
    granted := s.slu.granted ++ [c] } }

/-- The wait limit of a request in ns (17 R376); class 1 has none. -/
def waitLimit (s : State) (cls : Nat) : Option Nat :=
  if cls = 2 then some (getF s pwrWait 31 16 * 10 ^ 6)
  else if cls = 3 then some (getF s pwrWait 15 0 * 10 ^ 6)
  else none

/-! ### The write stop and the flash queue (17 R372; 19 R404) -/

/-- Whether the non-volatile write stop is in force (17 R372). -/
def nvStop (s : State) : Bool := s.pwr.stopped

/-- A request refused by the write stop is counted (17 R372). -/
def nvRefuse (s : State) : State := bump s pwrNvHeld

/-- A flash operation put behind those that wait, its credits held or awaited (19 R404). -/
def flashPut (s : State) (op : FlashOp) (ref : Option CmdRef) (ready : Bool) : State :=
  { s with fl := { s.fl with
    next := s.fl.next + 1
    queue := s.fl.queue ++ [{ id := s.fl.next, op := op, ref := ref, ready := ready }] } }

/-- A flash operation raised: refused with NV_HELD under the write stop, refused with NO_CREDIT by
Sluice, or queued, its credits held or awaited (17 R372, R375; 19 R404). `free` marks an operation
that draws no credits of its own: one within a download or a trial, or in ROM recovery mode. -/
def flashAsk (s : State) (op : FlashOp) (ref : Option CmdRef) (cls : Nat) (free : Bool) :
    State × Nat :=
  if nvStop s then (nvRefuse s, stNvHeld)
  else
    if free then (flashPut s op ref true, stPending)
    else
      match sluiceAsk s (.flash s.fl.next) cls 5 0 with
      | (s1, .granted _) => (flashPut s1 op ref true, stPending)
      | (s1, .waiting _) => (flashPut s1 op ref false, stPending)
      | (s1, .refused) => (s1, stNoCredit)

/-- The flash operation in progress: the head of the queue, its credits held (19 R404). -/
def flashHead (s : State) : Option FlashItem :=
  match s.fl.queue with
  | x :: _ => if x.ready then some x else none
  | [] => none

/-- The head of the flash queue ended: its credits return. -/
def flashDrop (s : State) (x : FlashItem) : State :=
  creditReturn { s with fl := { s.fl with queue := s.fl.queue.filter (fun y => y.id ≠ x.id) } }
    (fun o => o == .flash x.id)

/-- Whether operations that satisfy `f` are queued. -/
def flashBusy (s : State) (f : FlashOp → Bool) : Bool := s.fl.queue.any (fun x => f x.op)

/-! ### Boot records (19 R406, R407) -/

/-- Which copy is current: copy 1 only if its SEQ is higher, or copy 0 is not valid. -/
def bootSel (s : State) : Nat :=
  match s.fl.boot0, s.fl.boot1 with
  | some a, some b => if a.seq < b.seq then 1 else 0
  | none, some _ => 1
  | _, _ => 0

/-- The boot record of a device neither of whose copies is valid. -/
def bootNone : BootRec :=
  { seq := 0, active := 0, stA := 0, stB := 0, verA := 0, verB := 0, lenA := 0, lenB := 0
    whyA := 0, whyB := 0, arm := false, armTime := 0, marks := 0 }

/-- The current boot record. -/
def bootCur (s : State) : BootRec :=
  ((if bootSel s = 1 then s.fl.boot1 else s.fl.boot0)).getD bootNone

/-- A boot record put into copy `k`. -/
def bootPut (s : State) (k : Nat) (b : BootRec) : State :=
  if k = 1 then { s with fl := { s.fl with boot1 := some b } }
  else { s with fl := { s.fl with boot0 := some b } }

/-- Bytes of the current copy programmed in place (R406). -/
def bootProgram (s : State) (f : BootRec → BootRec) : State := bootPut s (bootSel s) (f (bootCur s))

/-- A new boot record: the next SEQ, the trial bytes left erased, in the other copy (R406). -/
def bootWrite (s : State) (f : BootRec → BootRec) : State :=
  let b := bootCur s
  bootPut s (if (s.fl.boot0.isNone && s.fl.boot1.isNone) then 0 else 1 - bootSel s)
    { f b with seq := b.seq + 1, arm := false, armTime := 0, marks := 0 }

/-- The state, version, length and reason of a slot in a boot record. -/
def BootRec.st (b : BootRec) (k : Nat) : Nat := if k = 0 then b.stA else b.stB
def BootRec.ver (b : BootRec) (k : Nat) : Word := if k = 0 then b.verA else b.verB
def BootRec.len (b : BootRec) (k : Nat) : Nat := if k = 0 then b.lenA else b.lenB
def BootRec.why (b : BootRec) (k : Nat) : Nat := if k = 0 then b.whyA else b.whyB

/-- A slot's state and reason set. -/
def BootRec.setSt (b : BootRec) (k st why : Nat) : BootRec :=
  if k = 0 then { b with stA := st, whyA := why } else { b with stB := st, whyB := why }

/-- A slot's version and length set. -/
def BootRec.setImg (b : BootRec) (k : Nat) (ver : Word) (len : Nat) : BootRec :=
  if k = 0 then { b with verA := ver, lenA := len } else { b with verB := ver, lenB := len }

/-- A trial that has failed: every unused MARK is programmed, unless the write stop is in force
(R413). -/
def burnMarks (s : State) : State :=
  if nvStop s then s else bootProgram s (fun b => { b with arm := true, marks := 3 })

end Sys2Proof.Machine
end

