-- ==== Sys2Proof/Machine/Smiben.lean ====
section
/-! DEFINITION. The path of a Smiben command (02 R33 to R48): policing, the checks of R40 in their
order, the relay of a sender and its gathers, the reply, and the queue of commands whose reply
waits. -/

namespace Sys2Proof.Machine

/-! ### Drops (02 R42) -/

/-- SYS.SMB_DROP_n (02 R42). -/
def dropIdx (cls : Nat) : Nat := if cls = 0 then sysSmbDrop0 else sysSmbNotime + cls

/-- A packet dropped under a class: counted, and recorded if it is the first of its class in this
wall-clock second. -/
def smbDrop (s : State) (cls : Nat) : State :=
  let s1 := bump s (dropIdx cls)
  if look cls s.smb.marks = some (nowSec s) then s1
  else
    let s2 := recordX s1 xSmbDrop [w32 cls]
    { s2 with smb := { s2.smb with marks := put cls (nowSec s) s2.smb.marks } }

/-- The policed rate of a class in packets per second (02 R42). -/
def smbRate (cls : Nat) : Nat :=
  if cls = 0 then 20000 else if cls = 1 then 2000 else if cls = 2 then 64 else 2000

/-- The tokens of a bucket at local time `t`, in units of 1e-9: a bucket holds at most one
second's worth. A bucket never drawn on is full. -/
def bucketNow (rate t : Nat) (b : Option Bucket) : Nat :=
  match b with
  | none => rate * 10 ^ 9
  | some b => min (rate * 10 ^ 9) (b.level + rate * (t - b.at_))

/-- A token taken from a bucket list: the new list, or none where there is no token. -/
def takeToken (l : List Bucket) (port cls rate t : Nat) : Option (List Bucket) :=
  let old := l.find? (fun b => b.port == port && b.cls == cls)
  let n := bucketNow rate t old
  if n < 10 ^ 9 then none
  else some ({ port := port, cls := cls, level := n - 10 ^ 9, at_ := t }
    :: l.filter (fun b => !(b.port == port && b.cls == cls)))

/-- A token of the Smiben policer of a port and class. -/
def smbToken (s : State) (port cls : Nat) : Option State :=
  (takeToken s.smb.buckets port cls (smbRate cls) (lt s)).map
    (fun l => { s with smb := { s.smb with buckets := l } })

/-- A packet that fails steps 1 to 4 dropped under class 3: at a sender its checking draws on the class 3 bucket
of the port it came by (02 R42). -/
def drop3 (s : State) (p : Smb) : State :=
  match p.via with
  | .udp u => smbDrop (if s.id.sender then (smbToken s (u.iface / 4) 3).getD s else s) 3
  | _ => smbDrop s 3

/-! ### Frame drops of the network ports (03 R58) -/

/-- NET.DROP_n raised; the first drop of a class in a wall-clock second is recorded (R58). -/
def dropFrame (s : State) (cls : Nat) : State :=
  let s1 := bump s (netDrop + cls)
  if look cls s.net.marks = some (nowSec s) then s1
  else
    let s2 := recordX s1 xNetDrop [w32 cls]
    { s2 with net := { s2.net with marks := put cls (nowSec s) s2.net.marks } }

/-- The policed rate of a frame class in frames per second on an interface (R58). -/
def netRate (cls : Nat) : Nat := if cls = 4 then 500 else if cls = 5 then 100 else 1000

/-- A token of the policer of a class on an interface (R58). -/
def netToken (s : State) (i cls : Nat) : Option State :=
  (takeToken s.net.buckets i cls (netRate cls) (lt s)).map
    (fun l => { s with net := { s.net with buckets := l } })

/-! ### The checks of R40 -/

/-- Step 1: lengths, reserved bits and values, KIND, SEQ. -/
def shapeOk (p : Smb) : Bool :=
  p.size == 48 + hLength p.hdr && hLength p.hdr % 4 == 0 && decide (hLength p.hdr ≤ 8192)
    && p.payload.length * 4 == hLength p.hdr
    && hReservedOk p.hdr && hKind p.hdr == 1 && hKeyc p.hdr != 0 && hSeq p.hdr != 0

/-- The lowest and highest Smiben level (02 R51). -/
def smbHigh (s : State) : Nat := s.fl.fw.smbHigh

/-- Step 2. -/
def levelOk (s : State) (p : Smb) : Bool :=
  hLevel p.hdr == smbHigh s || hLevel p.hdr + 1 == smbHigh s

/-- The session slot a packet names (02 R37). -/
def sessRef (p : Smb) : SRef :=
  match p.via with
  | .relay r => ⟨hSess p.hdr, some r⟩
  | _ => ⟨hSess p.hdr, none⟩

/-- Step 3 for a packet in a session: the session is open and was opened under KEYC. -/
def matchSess (s : State) (p : Smb) : Option Session :=
  match findSess s (sessRef p) with
  | some x => if x.keyc = hKeyc p.hdr then some x else none
  | none => none

/-- Step 4: the tag under a key; a session whose key the device lacks passes nothing. -/
def tagOk (key : Option W256) (p : Smb) : Bool :=
  match key with
  | some k => tagOf k p.hdr p.payload == p.tag
  | none => false

/-- Step 5: whether a SEQ is within the window of a session; after SEQ 0xFFFF_FFFF the session takes no
further commands (02 R38). -/
def inWindow (x : Session) (q : Word) : Bool :=
  if x.hi = 0xFFFFFFFF then false
  else if x.hi < q then true
  else
    let d := x.hi.toNat - q.toNat
    d < 64 && !x.win.getLsbD d

/-- A SEQ accepted: the window, the level, the time of the last command, its source and the last
16 accepted values. -/
def acceptSeq (s : State) (p : Smb) (x : Session) : Session :=
  let q := hSeq p.hdr
  let y := if x.hi < q then
      { x with hi := q, win := (x.win <<< (q.toNat - x.hi.toNat)) ||| 1 }
    else { x with win := x.win ||| ((1 : BitVec 64) <<< (x.hi.toNat - q.toNat)) }
  { y with level := hLevel p.hdr, lastAt := lt s, src := p.via
           recent := ((q, none) :: x.recent).take 16, passed := (q, s.smb.accepted + 1) :: x.passed }

/-- A SEQ accepted in its session: the command has passed step 5. -/
def passFive (s : State) (p : Smb) (x : Session) : State :=
  updSess { s with smb := { s.smb with accepted := s.smb.accepted + 1 } } x.ref (acceptSeq s p)

/-- Step 6: the ISSUE check of the safety and update classes (02 R39). -/
def issueOk (s : State) (p : Smb) : Bool :=
  if hKeyc p.hdr = keyHost ∨ !s.time.valid then true
  else
    let d := 4 * sdiff (hIssue p.hdr) (nowW s)
    let lim : Int := Int.ofNat (getF s sysSmbCfg 15 0) * 10 ^ 6
    decide (-lim < d ∧ d < lim)

/-- An acceptance without an ISSUE check is counted (02 R39). -/
def countNotime (s : State) (p : Smb) : State :=
  if hKeyc p.hdr ≠ keyHost ∧ !s.time.valid then bump s sysSmbNotime else s

/-- Whether the device runs the boot ROM alone (19 R420). -/
def inRecovery (s : State) : Bool := s.boot.phase == 3

/-- The domain an opcode falls in under a key class: PARAM_WRITE under the safety key falls in
SAFETY (13 R304). -/
def domOf (o : OpSpec) (keyc : Nat) : Option Nat :=
  if o.code = 0x0101 ∧ keyc = keySafety then some domSafety else o.dom

/-- Step 9: the domain has no owner, or this session owns it (02 R43). -/
def ownerOk (s : State) (d : Option Nat) (r : SRef) : Bool :=
  match d with
  | none => true
  | some d => match ownerOf s d with
    | none => true
    | some o => o.sess == r

/-- Whether an index is that of an SAF parameter of either role (14 R319). -/
def safIdx (i : Nat) : Bool :=
  [true, false].any (fun snd => (findRow snd i).any (fun r => r.fields.any (fun f => f.acc == .saf)))

/-- Step 8 where the payload decides: for PARAM_WRITE every parameter named is SAF under the safety
key and none is under the host key (13 R304); CLAIM and RELEASE carry the class of the domain they
name (02 R44). A payload too short is judged at step 10. -/
def keyOk (op : Nat) (p : Smb) : Bool :=
  let k := hKeyc p.hdr
  if op = 0x0101 then (pairsOf (p.payload.drop 1)).all (fun e => safIdx e.1 == (k == keySafety))
  else if op = 0x0004 ∨ op = 0x0005 then
    match p.payload with
    | [] => true
    | w :: _ => let d := fld w 1 0
                d == 3 || k == d + 1
  else true

/-- The data words of a refusal at step 8: PARAM_WRITE names the first pair of the wrong key class (13 R297, R304). -/
def keyWhy (op : Nat) (p : Smb) : List Word :=
  let pairs := pairsOf (p.payload.drop 1)
  match pairs.findIdx? (fun e => safIdx e.1 != (hKeyc p.hdr == keySafety)) with
  | some i => if op = 0x0101 then [0, pairPlace pairs i] else []
  | none => []

/-- The command reference of a packet. -/
def cmdRef (s : State) (op : Nat) (p : Smb) : CmdRef :=
  { sess := sessRef p, serial := ((findSess s (sessRef p)).map (·.serial)).getD 0, level := hLevel p.hdr, keyc := hKeyc p.hdr, opcode := op
    seq := hSeq p.hdr, nonote := hNonote p.hdr }

/-- What the checks leave of a packet: it is done with, in a state, or the command is accepted up
to step 9. -/
inductive Admit where
  | done (s : State)
  | accept (c : CmdRef) (s : State)

/-- Steps 6 to 9 for a command that has taken its SEQ. -/
def checks69 (op : Nat) (p : Smb) (s : State) : Admit :=
  let c := cmdRef s op p
  let no (st : Nat) : Admit := .done (reply s c p.via st [])
  if !issueOk s p then no stReplay
  else
    let s := countNotime s p
    match opSpec op with
    | none => .done (reply s c p.via stBadOpcode [])
    | some o =>
      if inRecovery s && !knownInRecovery op then .done (reply s c p.via stBadOpcode [])
      else if !(if s.id.sender then o.snd else o.tile) then
        .done (reply s c p.via stNotInState [])
      else if !o.keys.contains (hKeyc p.hdr) || (inRecovery s && hKeyc p.hdr != keyUpdate) then
        .done (reply s c p.via stAuthFail [])
      else if !keyOk op p then .done (reply s c p.via stAuthFail (keyWhy op p))
      else if !ownerOk s (domOf o (hKeyc p.hdr)) c.sess then
        .done (reply s c p.via stNotOwner [])
      else if !s.id.sender && p.via == .mgmt && hDmode p.hdr != 0 then
        .done (reply s c p.via stBadParam [])
      else .accept c s

/-! ### The relay of a sender (02 R31, R41, R50) -/

/-- The sides a mask names. -/
def sidesOf (m : Nat) : List Side :=
  (if m % 2 = 1 then [Side.A] else []) ++ (if m / 2 % 2 = 1 then [Side.B] else [])

/-- The side mask of a command: ENROL and UNENROL carry it in their payload (01 R20), every other
command in its header. -/
def sideMask (op : Nat) (p : Smb) : Nat :=
  if op = 0x0010 then fld (pw p 2) 1 0 else if op = 0x0011 then fld (pw p 0) 1 0 else hSides p.hdr

/-- The positions a sender knows: those enrolled, and the places of trained tiles that are not
(02 R31 "every tile position"). -/
def positions (s : State) : List (BitVec 16 × BitVec 64) :=
  s.flume.enrolled ++
    (s.flume.hops.filter (fun e => !s.flume.enrolled.any (fun n => n.2 == e.1))).map
      (fun e => (0, e.1))

/-- The positions a destination addresses (02 R31): none where it is refused with BAD_PARAM. A place word with HOP 0
names the sender, which is no tile. -/
def destinations (s : State) (h : BitVec 256) : Option (List (BitVec 16 × BitVec 64)) :=
  let dna : BitVec 16 := BitVec.ofNat 16 (hDna h)
  if hSides h = 0 then none
  else match hDmode h with
    | 1 => (s.flume.enrolled.find? (fun e => e.1 == dna)).map (fun e => [e])
    | 2 =>
      let pl := placeClean (BitVec.ofNat 64 (hDext h))
      if !placeOk pl || plHop pl == 0 then none
      else match s.flume.enrolled.find? (fun e => e.2 == pl) with
        | some e => some [e]
        | none => some [(0, pl)]
    | 3 =>
      let last := hfld h 79 64
      if last < hDna h then none
      else some (s.flume.enrolled.filter
        (fun e => decide (hDna h ≤ e.1.toNat) && decide (e.1.toNat ≤ last)))
    | 4 => some ((positions s).filter (fun e => (hChmask h >>> plChain e.2) % 2 == 1))
    | 5 => some (positions s)
    | _ => none

/-- Whether a relayed command addresses the position of this tile (02 R31): ENROL by the place word and UNENROL by
the NA of its payload (13 R301), any other by its destination mode. -/
def addressed (op : Nat) (s : State) (p : Smb) : Bool :=
  let here (pl : BitVec 64) : Bool := s.id.placeOk && routeOf (placeClean pl) == routeOf s.id.place
  let na (f : Nat → Bool) : Bool := match s.id.na with
    | some n => f n.toNat
    | none => false
  if op = 0x0010 then here (BitVec.ofNat 64 ((pw p 0).toNat * 2 ^ 32 + (pw p 1).toNat))
  else if op = 0x0011 then na (fun n => n == fld (pw p 0) 31 16)
  else match hDmode p.hdr with
    | 1 => na (fun n => n == hDna p.hdr)
    | 2 => here (BitVec.ofNat 64 (hDext p.hdr))
    | 3 => na (fun n => decide (hDna p.hdr ≤ n) && decide (n ≤ hfld p.hdr 79 64))
    | 4 => (hChmask p.hdr >>> plChain s.id.place) % 2 == 1
    | 5 => true
    | _ => false

/-- A summary reply or notification (02 R50): addressed, answered OK or PENDING, others, and one
word per other device. -/
def summaryWords (g : Gather) : List Word × Nat :=
  let st (t : GTarget) : Nat := (look t g.answers).getD 0xFF
  let bad := g.targets.filter (fun t => st t != stOk && st t != stPending)
  let rank (n : Nat) : Nat := if n = 0xFF then stInternal else n
  let head := bad.foldl (fun m t => max m (rank (st t))) 0
  let pend := g.targets.any (fun t => st t == stPending)
  ([w32 g.targets.length, w32 (g.targets.length - bad.length), w32 bad.length]
    ++ bad.map (fun t => w32 (t.na.toNat * 2 ^ 16 + sideNat t.side * 2 ^ 15 + st t)),
   if head ≠ 0 then head else if pend then stPending else stOk)

/-- The words of a summary that fit a packet of at most `room` payload bytes. -/
def cutWords (room : Nat) (l : List Word) : List Word × Bool :=
  if 4 * l.length ≤ room then (l, false) else (l.take (room / 4), true)

/-- The payload a reply may carry on the transport of a command (03 R55). -/
def replyRoom (s : State) (v : Via) : Nat :=
  match v with
  | .udp u =>
    let mtu := getF s (netIfMtu + 16 * u.iface) 15 0
    min 8192 (mtu - (if u.addr < 2 ^ 32 then 28 else 48) - 48)
  | _ => 8192

/-- A notification taken into a gather of notifications: the status, and the latest instant with its VALID (02 R50). -/
def noteTaken (g : Gather) (t : GTarget) (st at_ : Nat) (ok : Bool) : Gather :=
  { g with
    answers := (t, st) :: g.answers
    latest := max g.latest at_
    latestOk := if g.latest < at_ || g.answers = [] then ok else g.latestOk }

/-- The gather of notifications that follows a gather of replies: one entry for each device that answered PENDING; it
runs for `wait` ns from the first notification, which may have come before the summary reply (02 R50). -/
def noteGather (g : Gather) (id wait : Nat) : Gather :=
  let targets := g.targets.filter (fun t => look t g.answers == some stPending)
  let n : Gather :=
    { id := id, ref := g.ref, via := g.via, notes := true, targets := targets, answers := [], latest := 0
      latestOk := false, deadline := (g.earlyAt.map (· + wait)).getD 0, single := false, early := []
      earlyAt := none }
  (g.early.reverse.filter (fun e => targets.contains e.1)).foldl
    (fun m e => noteTaken m e.1 e.2.1 e.2.2.1 e.2.2.2) n

/-- The time a gather runs, in ns (02 R50). -/
def gatherNs (s : State) : Nat := getF s sysSmbGather 15 0 * 10 ^ 6

/-- The transport of the packets a session receives on its own (02 R33). -/
def sessVia (s : State) (r : SRef) : Via :=
  match findSess s r with | some x => x.src | none => .mgmt

/-- The sides `f` picks of an awaited ENROL no longer awaited (01 R21): one that no side may still take is dropped. -/
def enrolLess (s : State) (c : CmdRef) (f : Side → Bool) : State :=
  { s with flume := { s.flume with enrolling := (s.flume.enrolling.map (fun e =>
    if e.ref = c then { e with sides := e.sides.filter (fun x => !f x) } else e)).filter (fun e => e.sides ≠ []) } }

/-- An ENROL whose gather of replies ends: the devices that gave no answer are not awaited (01 R21; log 50). -/
def enrolSettle (s : State) (g : Gather) : State :=
  if g.notes then s
  else enrolLess s g.ref (fun x => g.targets.any (fun t => t.side == x && (look t g.answers).isNone))

/-- The summary of a gather that ends is sent, and devices that gave no answer are recorded (02 R50). The reply goes
to where the command came from, a notification to where the session last sent a command from (02 R33). A sender
without the session key sends no summary (log 33). -/
def sendSummary (s0 : State) (g : Gather) : State :=
  let (words, st) := summaryWords g
  let via := if g.notes then sessVia s0 g.ref.sess else g.via
  let (w, tr) := cutWords (min 8192 (replyRoom s0 via) - (if g.notes then 12 else 0)) words
  let silent := (g.targets.filter (fun t => (look t g.answers).isNone)).length
  let s1 :=
    if g.notes then
      let body := wt80 g.latestOk g.latest ++ w
      let (t, p) := sendIn s0 g.ref.sess 3 g.ref.level g.ref.opcode g.ref.seq (wt32 g.latest) st tr
        body none
      match p with
      | none => t
      | some p => updSess t g.ref.sess
          (fun x => { x with notes := ((g.ref.seq, p) :: x.notes).take 64 })
    else
      let (t, p) := sendIn s0 g.ref.sess 2 g.ref.level g.ref.opcode g.ref.seq (nowW s0) st tr w
        (some via)
      updSess t g.ref.sess (fun x => { x with
        queued := x.queued.filter (fun q => q ≠ g.ref.seq)
        recent := x.recent.map (fun e => if e.1 = g.ref.seq then (e.1, p) else e) })
  if silent = 0 then s1 else recordX s1 xGather [w32 silent]

/-- A gather that ends (02 R50): one whose session has closed answers nobody (R46, R49). Behind a gather of replies
the notifications of the devices that answered PENDING are gathered; where all of them have come before, their
summary follows at once. -/
def endGather (s : State) (g : Gather) : State :=
  let n := noteGather g s.smb.nextGather (gatherNs s)
  let open_ := (liveSess s g.ref).isSome
  let more := open_ && !g.notes && !g.ref.nonote && n.targets != []
  let all := n.answers.length == n.targets.length
  let s0 := enrolSettle { s with smb := { s.smb with
    gathers := s.smb.gathers.filter (fun x => x.id ≠ g.id) ++ (if more && !all then [n] else [])
    nextGather := s.smb.nextGather + (if more then 1 else 0) } } g
  let s1 := if open_ then sendSummary s0 g else s0
  if more && all then sendSummary s1 n else s1

/-- The bytes of a command packet (R30): its row gives the opcode. -/
def smbBytes (op : Nat) (p : Smb) : List Byte :=
  let hdr : BitVec 256 := (p.hdr &&& ~~~((0xFFFF : BitVec 256) <<< 224)) ||| (BitVec.ofNat 256 op <<< 224)
  bytesOf 32 hdr ++ bytesOfWords p.payload ++ bytesOf 16 p.tag

/-- The copy of a command for the chain `c`: routed to its place where it names one position (06 R129), else for
every device of the chain. -/
def relayCopy (s : State) (op : Nat) (p : Smb) (dests : List (BitVec 16 × BitVec 64)) (c : Nat) : State :=
  let one := op == 0x0010 || op == 0x0011 || hDmode p.hdr == 1 || hDmode p.hdr == 2
  let (bcast, route) := match dests with
    | [e] => if one then (false, routeOf e.2) else (true, BitVec.ofNat 40 (c <<< 37))
    | _ => (true, BitVec.ofNat 40 (c <<< 37))
  linkSend s c (.bytes 1 bcast false route s.id.side (smbBytes op p))

/-- A command relayed to its targets: one copy per chain that leads to one, and a gather of the
answers. With one addressed device (DMODE 0x1, one side) the answers pass on as they come
(02 R33, R50). -/
def relayTo (s : State) (op : Nat) (p : Smb) (dests : List (BitVec 16 × BitVec 64)) : State :=
  let chains := (dests.map (fun e => plChain e.2)).foldl (fun l c => insertNat c l) []
  let s1 := chains.foldl (fun t c => relayCopy t op p dests c) s
  let sides := sidesOf (sideMask op p)
  let one := hDmode p.hdr == 1 && sides.length == 1
  let g : Gather :=
    { id := s1.smb.nextGather, ref := cmdRef s op p, via := p.via, notes := false
      targets := dests.flatMap (fun e => sides.map (fun x => ⟨e.1, e.2, x⟩))
      answers := [], latest := 0, latestOk := false
      deadline := if one then 0 else lt s1 + gatherNs s1, single := one, early := [], earlyAt := none }
  let s2 := { s1 with smb := { s1.smb with
    gathers := s1.smb.gathers ++ [g], nextGather := g.id + 1 } }
  if g.targets = [] then endGather s2 g else s2

/-- The bytes of a tile's reply where the command itself names them and they may pass the MTU (13 R303, R313):
PARAM_READ and REC_READ. -/
def namedReply (op : Nat) (p : Smb) : Nat :=
  if op = 0x0100 then 4 * fld (pw p 0) 15 0
  else if op = 0x0C01 then 4 + 128 * fld (pw p 2) 5 0
  else 0

/-- Whether one device is addressed, whose own reply passes on to the host (02 R33, R50). -/
def oneDevice (p : Smb) : Bool := hDmode p.hdr == 1 && (sidesOf (hSides p.hdr)).length == 1

/-- What a sender does with a command for tiles that has passed the steps it makes (02 R41). One whose reply would
not fit the interface it came by is refused and not relayed; the reply to a group is a summary, which fits
(03 R55). -/
def relayCmd (s : State) (op : Nat) (p : Smb) : State :=
  let c := cmdRef s op p
  let localOnly := match opSpec op with | some o => o.local_ | none => false
  if localOnly then reply s c p.via stBadParam []
  else if oneDevice p && decide (replyRoom s p.via < namedReply op p) then reply s c p.via stBadLength []
  else match destinations s p.hdr with
    | none => reply s c p.via stBadParam []
    | some d => relayTo s op p d

/-! ### The whole path -/

/-- The port policer of a packet received over UDP: class 0 for a session that matches, otherwise
class 3 at the failing step (02 R42). -/
def policed (s : State) (p : Smb) (cls : Nat) : Option State :=
  match p.via with
  | .udp u => if s.id.sender then smbToken s (u.iface / 4) cls else some s
  | _ => some s

/-- The MGMT command buffer released once the checks have run (02 R34). -/
def freeBuf (s : State) (p : Smb) : State :=
  if p.via = .mgmt then { s with smb := { s.smb with cmdBuf := none } } else s

/-- A LAMP_FAILS reply cut to the entries that fit `room` bytes, its word 1 their number, tagged anew (03 R55; log 93). -/
def cutFails (x : Session) (p : Packet) (room : Nat) : Option Packet :=
  if hOpcode p.hdr ≠ 0x0642 then none
  else x.key.map fun k =>
    let n := room / 4 - 2
    let l := p.payload.take 1 ++ [w32 n] ++ (p.payload.drop 2).take n
    let h := BitVec.ofNat 256 (p.hdr.toNat - hLength p.hdr * 2 ^ 160 + 4 * l.length * 2 ^ 160)
    { p with hdr := h, payload := l, tag := tagOf k h l }

/-- A device's answer passed on to the host at `v`: one that does not fit the MTU is cut where 03 R55 cuts it and does
not leave otherwise. -/
def passAnswer (s : State) (x : Session) (p : Packet) (v : Via) : State :=
  if 4 * p.payload.length ≤ replyRoom s v then ship s { p with via := v }
  else match cutFails x p (replyRoom s v) with
    | some q => ship s { q with via := v }
    | none => s

/-- The answer to a command that fails step 5: the reply again for a duplicate of one of the last 16 accepted, as the
interface of the duplicate lets it pass (03 R55); REPLAY otherwise (02 R40). -/
def answerOld (s : State) (op : Nat) (p : Smb) (x : Session) : State :=
  match look (hSeq p.hdr) x.recent with
  | some (some q) => passAnswer s x q p.via
  | some none => s
  | none => reply s (cmdRef s op p) p.via stReplay []

/-- Whether the transport brings the packet to the checks at all: at a sender a datagram to SYS.SMB_PORT at a confirmed
address of its interface (02 R33; 03 R56); at a tile a relayed packet that addresses it and names its side; over
MGMT the packet that holds the command buffer (02 R34). -/
def reaches (op : Nat) (s : State) (p : Smb) : Bool :=
  match p.via with
  | .udp u => s.id.sender && vlanOk s u.iface u.vlan && holdsAddr s u.iface u.dst
      && u.dport == getF s sysSmbPort 15 0 && !u.frag
  | .relay _ => !s.id.sender && addressed op s p && (sidesOf (sideMask op p)).contains s.id.side
  | .mgmt => s.smb.cmdBuf == some p

/-- What becomes of a packet that the transport does not bring to the checks: a datagram to the Smiben port in IP
fragments is dropped under class 4 of 02 R42, one to another port under class 6 and one with another VLAN tag
under class 0 of 03 R58. -/
def stray (s : State) (p : Smb) : State :=
  match p.via with
  | .udp u =>
    if !s.id.sender || !bit (rd s (netIfCtrl + 16 * u.iface)) 31 then s
    else if !vlanOk s u.iface u.vlan then dropFrame s 0
    else if !holdsAddr s u.iface u.dst then s
    else if u.dport ≠ getF s sysSmbPort 15 0 then dropFrame s 6
    else if u.frag then smbDrop s 4 else s
  | _ => s

/-- A relayed packet that names the other side too goes to the twin (02 R33). -/
def handTwin (op : Nat) (s : State) (p : Smb) : State :=
  match p.via with
  | .relay r =>
    if !s.id.sender && r == s.id.side && addressed op s p
        && (sidesOf (sideMask op p)).contains (otherSide s.id.side)
    then linkSend s 8 (.bytes 1 false false (routeOf s.id.place) r (smbBytes op p)) else s
  | _ => s

/-- Steps 1 to 9 of R40 for a command of opcode `op` in a session. -/
def checkSteps (op : Nat) (p : Smb) (s0 : State) : Admit :=
  let s1 := handTwin op s0 p
  let s := freeBuf s1 p
  if !reaches op s1 p then .done (stray s1 p)
  else if !(shapeOk p && levelOk s p) || hSess p.hdr == 15 then .done (drop3 s p)
  else match matchSess s p with
    | none => .done (drop3 s p)
    | some x =>
      let far := s.id.sender && hDmode p.hdr != 0
      if far && hKeyc p.hdr == keySafety then
        match smbToken s 0 1 with
        | none => .done (smbDrop s 1)
        | some s => .done (relayCmd s op p)
      else match policed s p 0 with
        | none => .done (smbDrop s 0)
        | some s =>
          if !tagOk x.key p then .done (drop3 s p)
          else if !inWindow x (hSeq p.hdr) then
            if far && (look (hSeq p.hdr) x.recent == some none) && oneDevice p then .done (relayCmd s op p)
            else .done (answerOld s op p x)
          else
            let s1 := passFive s p x
            if far then .done (relayCmd s1 op p) else checks69 op p s1

/-- What a command's own rule answers: status, reply words, the state it leaves, whether the reply
waits, and what follows the reply. A refusal leaves the state as it was, apart from counters and
records of the refusal. -/
structure Res where
  st : Nat
  words : List Word
  s : State
  defer : Bool
  post : State → State

/-- The rule of a command. -/
abbrev Handler := CmdRef → Smb → State → Res

/-- Complete: OK with reply words. -/
def Res.ok (s : State) (words : List Word) : Res := ⟨stOk, words, s, false, id⟩

/-- Accepted: PENDING. -/
def Res.pend (s : State) : Res := ⟨stPending, [], s, false, id⟩

/-- Refused. -/
def Res.no (s : State) (st : Nat) : Res := ⟨st, [], s, false, id⟩

/-- Refused with data words. -/
def Res.noW (s : State) (st : Nat) (words : List Word) : Res := ⟨st, words, s, false, id⟩

/-- Accepted, the reply to follow. -/
def Res.later (s : State) : Res := ⟨stPending, [], s, true, id⟩

/-- A command put into its session's queue until its reply goes. -/
def enqueue (s : State) (c : CmdRef) : State :=
  updSess s c.sess (fun x => { x with queued := x.queued ++ [c.seq] })

/-- Step 11: whether the session's queue is full. -/
def queueFull (s : State) (c : CmdRef) : Bool :=
  match findSess s c.sess with
  | some x => decide (16 ≤ x.queued.length)
  | none => false

/-- Steps 10 and 11, the reply and the effect. -/
def finish (c : CmdRef) (p : Smb) (r : Res) (s : State) : State :=
  if isRefusal r.st then reply r.s c p.via r.st r.words
  else if replyRoom s p.via < 4 * r.words.length then reply s c p.via stBadLength []
  else if queueFull s c then reply s c p.via stBusy []
  else if r.defer then enqueue r.s c
  else r.post (reply r.s c p.via r.st r.words)

/-- A Smiben command of opcode `op` with its rule. -/
def hostCommand (op : Nat) (h : Handler) (p : Smb) (s : State) : State :=
  match checkSteps op p s with
  | .done t => t
  | .accept c t => finish c p (h c p t) t

/-- The meaning of a host-command row. -/
def smibenRow (op : Nat) (h : Handler) (p : Smb) (s : State) : Out1 :=
  act s (hostCommand op h p)

/-- Refuses a payload of another length than `n` words. -/
def withLen (n : Nat) (h : Handler) : Handler := fun c p s =>
  if p.payload.length = n then h c p s else .no s stBadLength

end Sys2Proof.Machine
end

