-- ==== Sys2Proof/Machine/Time.lean ====
section
/-! DEFINITION. Time bases, PTP, marks, steps and rejoins (11 R241 to R258), the tick of an idle
block, and the time command (R263). -/

namespace Sys2Proof.Machine

/-! ### The clock -/

/-- One tick of TCLK (11 R241). -/
def tick (s : State) : State := ticks 1 s

/-- A signed number as TIM words hold it: saturating at ±(2^31 - 1) (11 R264). -/
def satInt (v : Int) : Word := wInt (clampI (-(2 ^ 31 - 1)) (2 ^ 31 - 1) v)

/-- Mean of the frequency corrections of the last `span` ns (11 R249, R252). -/
def meanFreq (s : State) (span : Nat) : Int :=
  let l := s.time.freqLog.filter (fun e => decide (lt s - e.1 ≤ span))
  if l = [] then s.time.freq else fdiv (l.foldl (fun a e => a + e.2) 0) l.length

/-- The servo driven by an offset: the phase is slewed, never stepped, and its correction stays within the slew limit
(11 R244, R252). -/
def slewTo (s : State) (offset : Int) : State :=
  let f := clampI (-slewLimit s) (slewLimit s) (Config.servoFreq s.time.freq offset)
  { s with time := { s.time with
    phase := offset * 10 ^ 9
    freq := f
    freqLog := ((lt s, f) :: s.time.freqLog).filter
      (fun e => decide (lt s - e.1 ≤ 60 * 10 ^ 9)) } }

/-! ### Source time of a frame (03 R67) -/

/-- The source time in ns of RTP timestamp `ts` for a first packet stamped `a`. -/
def sourceTime (ts : Word) (a : Nat) : Nat :=
  let c := a * 90000 / 10 ^ 9
  let d := (ts - w32 c).toInt
  let n := if d = -2 ^ 31 ∧ a * 90000 % 10 ^ 9 ≠ 0 then 2 ^ 31 else d
  let t := (Int.ofNat c + n).toNat
  t / 90000 * 10 ^ 9 + t % 90000 * 100000 / 9

/-- Whether a frame is time-plausible: −EARLY < A − S < LATE. -/
def plausible (s : State) (a src : Nat) : Bool :=
  let d : Int := Int.ofNat a - Int.ofNat src
  decide (-(Int.ofNat (getF s ingTimeCfg 15 0) * 1000) < d)
    && decide (d < Int.ofNat (getF s ingTimeCfg 31 16) * 10 ^ 6)

/-! ### Steps and rebasing (11 R256, R257) -/

/-- A device clock moved by Δ. -/
def shiftClk (d : Int) (c : Nat) : Nat := (Int.ofNat c + d).toNat

/-- A WT32 moved by Δ: Δ / 4 modulo 2^32. -/
def shiftW (d : Int) (w : Word) : Word := w + wInt (fdiv d 4)

/-- A change that waits for an edge, rebased. -/
def shiftChange (d : Int) (c : EdgeChange) : EdgeChange :=
  { c with
    acc := shiftClk d c.acc
    partner := c.partner.map (shiftW d)
    edge := c.edge.map (shiftClk d)
    what := match c.what with
      | .values a e => .values (if a = 0 then 0 else shiftW d a) e
      | .commit l t sets => .commit l (shiftClk d t) sets
      | w => w }

/-- A comparator, rebased: a one-shot moves by Δ, a periodic one is placed again on the new time at
its next period (11 R257). -/
def shiftComp (d : Int) (clk : Nat) (c : Comp) : Comp :=
  let again (per : Nat) : Nat :=
    if clk < c.instant then c.instant - (c.instant - clk - 1) / max 1 per * per
    else c.instant + ((clk - c.instant) / max 1 per + 1) * per
  match c.use with
  | some (.trig _ 2 per _) => { c with instant := again per }
  | some (.cycle _ per _ _ _ _ _) =>
    if per = 0 then { c with instant := shiftClk d c.instant }
    else { c with instant := again (per * 1000) }
  | some _ => { c with instant := shiftClk d c.instant }
  | none => c

/-- A tile region's times, rebased (10 R227). -/
def shiftRegion (d : Int) (r : TRegion) : TRegion :=
  { r with deadline := r.deadline.map (shiftClk d), issue := r.issue.map (shiftClk d)
           staleAt := r.staleAt.map (shiftClk d), es := r.es.map (shiftClk d)
           honoured := r.honoured.map (shiftClk d) }

/-- A held source frame: S recomputed against the new time and checked again; a NOTIME frame's A, in local time, is
placed on the clock once wall time is valid (03 R67). -/
def shiftSlot (s : State) (d : Int) (x : SrcSlot) : SrcSlot :=
  if x.st == .free then x
  else if x.notime && !s.time.valid then { x with readyAt := shiftClk d x.readyAt }
  else
    let a := if x.notime then now s - (lt s - x.aTime) else shiftClk d x.aTime
    let src := sourceTime x.ts a
    { x with aTime := a, notime := false, src := some src, suspect := !plausible s a src
             readyAt := shiftClk d x.readyAt }

/-- The held frames of a stream, rebased: those that the check now finds implausible are flagged and counted. -/
def shiftStream (s : State) (d : Int) (x : Stream) : Stream :=
  let l := x.slots.map (shiftSlot s d)
  let n := ((l.zip x.slots).filter (fun e => e.1.suspect && !e.2.suspect
    && (e.1.st == .ready || e.1.st == .reading))).length
  { x with slots := l, tsusp := x.tsusp || n != 0, suspects := x.suspects + n }

/-- A completed canvas frame, rebased. -/
def shiftFrame (d : Int) (f : CanvasFrame) : CanvasFrame := { f with done := shiftClk d f.done }

/-- What a sender's Flume and Owl time from, rebased. -/
def shiftFlume (d : Int) (f : Flume) : Flume :=
  let chain (c : ChainPlan) : ChainPlan := { c with committed := c.committed.map (shiftClk d) }
  let deliv (x : Delivery) : Delivery :=
    { x with pt := x.pt.map (shiftW d), chains := x.chains.map chain, canvas := shiftFrame d x.canvas }
  { f with
    delivery := f.delivery.map deliv
    ek := f.ek.map (shiftW d)
    dmg := f.dmg.map (fun x => { x with since := x.since.map (fun e => (e.1, shiftClk d e.2)) })
    watches := f.watches.map (fun w => { w with since := shiftClk d w.since }) }

/-- A PTP slot, rebased: its stamps on the device clock and its offset from it. -/
def shiftPtp (d : Int) (x : PtpSlot) : PtpSlot :=
  { x with sync := x.sync.map (fun e => (e.1, e.2.1 + d, e.2.2)), pair := x.pair.map (fun e => (e.1, e.2 + d))
           offset := x.offset - d }

/-- A handover in progress, rebased; the REQ it sent names B0 as it was. -/
def shiftPair (d : Int) (p : Pair) : Pair :=
  { p with handover := p.handover.map (fun h => { h with b0 := shiftClk d h.b0 })
           token := p.token.map (fun t => (shiftClk d t.1, shiftClk d t.2))
           stateEdge := p.stateEdge.map (shiftClk d)
           early := p.early.map (fun e => (e.1, shiftW d e.2)) }

/-- Every pending time rebased by Δ, so that the time left to it does not change, and the edge
schedule placed again (11 R257). -/
def rebase (d : Int) (s : State) : State :=
  let clk := s.time.clk
  { s with
    img := { s.img with
      pass := s.img.pass.map (fun x => { x with edge := shiftClk d x.edge, ends := shiftClk d x.ends })
      open_ := s.img.open_.map (fun o => { o with
        pt := o.pt.map (shiftClk d), recv := o.recv.map (fun r => (shiftClk d r.1, shiftClk d r.2)) })
      coefNext := s.img.coefNext.map (fun e => (shiftClk d e.1, e.2))
      slgNext := s.img.slgNext.map (fun e => (shiftClk d e.1, e.2)) }
    flume := shiftFlume d s.flume
    canvas := { s.canvas with
      prev := s.canvas.prev.map (shiftFrame d)
      newest := s.canvas.newest.map (shiftFrame d)
      stagedRects := s.canvas.stagedRects.map (fun e => (e.1, shiftClk d e.2.1, e.2.2))
      layers := s.canvas.layers.map (fun y => { y with pick := y.pick.map (fun q => { q with
        readyAt := shiftClk d q.readyAt }) }) }
    changes := s.changes.map (shiftChange d)
    bdg := { s.bdg with fields := s.bdg.fields.map (fun f => { f with
      deadline := f.deadline.map (shiftClk d), lastAcc := f.lastAcc.map (shiftClk d)
      prior := f.prior.map (fun e => (shiftClk d e.1, shiftClk d e.2)) }) }
    weir := { s.weir with
      regions := s.weir.regions.map (shiftRegion d)
      sets := s.weir.sets.map (fun e => (e.1, shiftClk d e.2)) }
    lamp := { s.lamp with
      shows := s.lamp.shows.map (fun x => { x with
        edge := shiftClk d x.edge, show_ := shiftClk d x.show_, cutoff := shiftClk d x.cutoff })
      lastWrite := shiftClk d s.lamp.lastWrite }
    net := { s.net with streams := s.net.streams.map (shiftStream s d) }
    pair := shiftPair d s.pair
    time := { s.time with
      comps := s.time.comps.map (shiftComp d clk)
      slots := s.time.slots.map (shiftPtp d)
      tsq := s.time.tsq.map (fun l => l.map (fun e => { e with t3 := e.t3 + d }))
      filtered := s.time.filtered - d
      lastMark := shiftClk d s.time.lastMark
      lastEdge := s.time.lastEdge.map (fun e => (shiftClk d e.1, e.2))
      stepWait := true
      phase := 0 } }

/-- A latched canvas frame starts at the first start of the new schedule (R257). -/
def relatch (s : State) : State :=
  { s with canvas := { s.canvas with latched := s.canvas.latched.map (fun l => { l with start := nextEdge s }) } }

/-- The clock set to `c`, in one tick, with everything rebased; Δ is returned. -/
def setClock (s : State) (c : Nat) : State × Int :=
  let c4 := c / 4 * 4
  let d : Int := Int.ofNat c4 - Int.ofNat (now s)
  (relatch (rebase d { s with time := { s.time with clk := c4 } }), d)

/-- A step (11 R256): the clock set, the epoch taken, Δ stored, STEPS raised, a record written. -/
def clockStep (s : State) (c : Nat) (epoch : Byte) : State :=
  let old := s.time.epoch
  let (s1, d) := setClock s c
  let s2 := { s1 with time := { s1.time with epoch := epoch, prevEpoch := old, lastStep := some (lt s, d) } }
  recordX (bump (wr s2 timLaststep (satInt d)) timSteps) xStep [satInt d]

/-- A rejoin (11 R252): the clock set with the epoch kept, every region held STALE from the next
edge, an open delivery failed at that edge, TIM.REJOIN raised, recorded and reported. -/
def rejoin (s : State) (c : Nat) : State :=
  let (s1, d) := setClock s c
  let e := nextEdge s1
  let s2 := { s1 with
    weir := { s1.weir with regions := s1.weir.regions.map (fun r =>
      { r with stale := true, staleAt := some (now s1), es := some e }) }
    changes := s1.changes.filter (fun c => match c.what with | .region _ _ => false | _ => true)
    img := { s1.img with open_ := s1.img.open_.map (fun o => { o with failNext := true }) } }
  recEventX (bump (wr s2 timLaststep (satInt d)) timRejoin) .both xRejoin [satInt d]

/-! ### PTP (11 R243 to R249) -/

/-- Slot `d`. -/
def ptp (s : State) (d : Nat) : PtpSlot := s.time.slots.getD d ptpSlotOff

/-- Slot `d` changed. -/
def setPtp (s : State) (d : Nat) (x : PtpSlot) : State :=
  { s with time := { s.time with slots := s.time.slots.set d x } }

/-- The CFG word of slot `d`. -/
def ptpCfg (s : State) (d : Nat) : Word := rd s (timDomCfg + 8 * d)

/-- Whether slot `d` runs: it exists, on a sender, and is enabled. -/
def ptpOn (s : State) (d : Nat) : Bool := s.id.sender && decide (d < 2) && bit (ptpCfg s d) 31

/-- TIM.DETECT.XTOL and DSTEP in ns. -/
def xtol (s : State) : Int := Int.ofNat (getF s timDetect 15 0)
def dstep (s : State) : Int := Int.ofNat (getF s timDetect 31 16)

/-- QUAR in ns. -/
def quarNs (s : State) : Nat := getF s timHold 31 16 * 10 ^ 9

/-- |offset| ≤ tolerance. -/
def within (v tol : Int) : Bool := decide (-tol ≤ v ∧ v ≤ tol)

/-- LOCKED, neither withholding nor in quarantine (11 R248). -/
def ptpFit (s : State) (d : Nat) : Bool := (ptp s d).st == 3 && (ptp s d).withheld.isNone

/-- The first selection, after reset or while VALID is 0: a slot with 16 accepted delays serves
even before it is LOCKED, or no offset could ever come within ±1 µs (log 20). -/
def ptpFirst (s : State) (d : Nat) : Bool :=
  !s.time.valid && (ptp s d).st ≥ 2 && (ptp s d).st != 4 && (ptp s d).st != 5
    && decide (16 ≤ (ptp s d).delays.length) && (ptp s d).withheld.isNone

/-- The slot to select (11 R248). -/
def choosePtp (s : State) : Option Nat :=
  let pref := getF s timServo 1 0
  let near (d : Nat) : Bool := ptpFit s d && within (ptp s d).offset (xtol s)
  let prefBack : Bool := decide (pref < 2) && near pref
    && (match (ptp s pref).lockedAt with
        | some t => decide (quarNs s ≤ lt s - t)
        | none => false)
  let cur := match s.time.sel with | some d => ptpFit s d | none => false
  if prefBack then some pref
  else if cur then s.time.sel
  else
    let order := match s.time.sel with
      | some d => [1 - d]
      | none => if pref = 1 then [1, 0] else [0, 1]
    match order.find? near with
    | some d => some d
    | none => ([0, 1].filter (ptpFirst s)).head?

/-- Entry into holdover (11 R249): the mean correction of the last 60 s. -/
def enterHoldover (s : State) : State :=
  { s with time := { s.time with
    src := 5, state := 3, freq := meanFreq s (60 * 10 ^ 9), phase := 0
    holdSince := some (lt s), herrTold := false } }

/-- Whether side B of a sender pair follows marks over TW now (11 R242, R253). -/
def followsTw (s : State) : Bool := s.time.src == 4

/-- The selection made (11 R248): a change is recorded and sent to the wall sessions; with no slot
the clock is in holdover. A sender on side B that follows TW keeps its source. -/
def selectSlot (s : State) : State :=
  let c := choosePtp s
  let told (t : State) : State :=
    recEventX t .wall xSelect [w32 (match c with | some d => d | none => 2)]
  if c = s.time.sel then s
  else if followsTw s then told { s with time := { s.time with sel := c } }
  else match c with
    | none =>
      let s1 := { s with time := { s.time with sel := none } }
      told (enterHoldover s1)
    | some d =>
      told { s with time := { s.time with
        sel := some d, src := d + 1, state := 1, holdSince := none, herrTold := false } }

/-- The offset of the selected slot fed to the servo (11 R244, R256): stepped beyond STEP, slewed
otherwise. -/
def servo (s : State) (d : Nat) : State :=
  let off := (ptp s d).offset
  let lim : Int := Int.ofNat (getF s timServo 31 16) * 1000
  let s1 := { s with time := { s.time with
    filtered := Config.servoFilter s.time.filtered off
    valid := true
    state := if (ptp s d).st = 3 then 2 else 1 } }
  if within off lim then slewTo s1 off
  else clockStep s1 (shiftClk off (now s1)) (s1.time.epoch + 1)

/-- An offset used by a slot: its lock runs, its cross-check (11 R244, R246, R247), the selection
and the servo. -/
def useOffset (s : State) (d : Nat) (x : PtpSlot) : State :=
  let inOne := within x.offset 1000
  let x1 := { x with
    lockRun := if inOne then x.lockRun + 1 else 0
    outRun := if within x.offset 10000 then 0 else x.outRun + 1
    xtolRun := if within x.offset (xtol s) then x.xtolRun + 1 else 0 }
  let x2 : PtpSlot :=
    if x1.st = 2 ∧ 16 ≤ x1.lockRun then { x1 with st := 3, lockedAt := some (lt s), outRun := 0 }
    else if x1.st = 3 ∧ 8 ≤ x1.outRun then { x1 with st := 2, lockRun := 0, lockedAt := none }
    else if x1.st = 5 ∧ 16 ≤ x1.xtolRun then { x1 with st := 3, lockedAt := some (lt s) }
    else x1
  let watched : Bool := x2.st == 3 &&
    (if followsTw s then s.time.sel == some d
     else s.time.sel != some d && (ptp s (1 - d)).st == 3)
  let x3 := { x2 with xfailRun :=
    if watched && !within x2.offset (xtol s) then x2.xfailRun + 1 else 0 }
  let s1 := setPtp s d x3
  let s2 := if x3.xfailRun = 8 then
      recEventX (bump s1 (timDomXfail + 8 * d)) .wall xCrossFail [w32 d, satInt x3.offset]
    else s1
  let s3 := selectSlot s2
  if s3.time.sel = some d ∧ !followsTw s3 then servo s3 d else s3

/-- Mean of a list of delays. -/
def meanI (l : List Int) : Int := if l = [] then 0 else fdiv (l.foldl (· + ·) 0) l.length

/-- A complete exchange of slot `d` with delay `v` and one-way time `o` = t2 − t1 − c_s
(11 R244, R246): withheld, rebuilding after a quarantine, or used. The offset is the domain's time
minus the device clock (log 21). -/
def exchange (s : State) (d : Nat) (v o : Int) : State :=
  let x := ptp s d
  let take : PtpSlot :=
    let l := (v :: x.delays).take 16
    { x with delays := l, mpd := meanI l, offset := meanI l - o }
  if x.st = 4 then
    if x.quar.isSome then s
    else
      let y := { take with fresh := x.fresh + 1 }
      if y.fresh < 16 then setPtp s d y
      else if within y.offset (xtol s) then
        useOffset s d { y with st := 3, fresh := 0, lockedAt := some (lt s) }
      else
        recEventX (setPtp s d { y with st := 5, fresh := 0, xtolRun := 0 }) .wall xSuspect
          [w32 d, satInt y.offset]
  else
    let dev := v - x.mpd
    let beyond := x.delays ≠ [] ∧ !within dev (dstep s)
    match x.withheld with
    | none =>
      if beyond then selectSlot (setPtp s d { x with withheld := some (1, decide (0 < dev)) })
      else useOffset s d take
    | some (n, up) =>
      if beyond ∧ decide (0 < dev) = up then
        if n + 1 < 4 then setPtp s d { x with withheld := some (n + 1, up) }
        else
          let y := { x with st := 4, withheld := none, quar := some (lt s + quarNs s), fresh := 0
                            lockedAt := none, lockRun := 0 }
          let s1 := recordX (bump (setPtp s d y) (timDomDsteps + 8 * d)) xDelayStep
            [w32 d, satInt dev]
          selectSlot s1
      else setPtp s d { x with withheld := none }

/-- A PTP message on an interface: of an active one, with the right tag, policed under class 9, then for the time unit
(03 R54, R58). -/
def ptpIn (s : State) (a : PtpIn) (f : State → State) : State :=
  let i := a.at_.iface
  if !s.id.sender || !bit (rd s (netIfCtrl + 16 * i)) 31 then s
  else if !vlanOk s i a.at_.vlan then dropFrame s 0
  else match netToken s i 9 with
    | none => dropFrame s 9
    | some t => f t

/-- Whether a message comes over the interface of a slot's master. -/
def fromMaster (s : State) (a : PtpIn) : Bool :=
  ptpOn s a.slot && (match (ptp s a.slot).master with | some m => m.iface == a.at_.iface | none => false)

/-- PTP_SYNC (R243, R244): a two-step Sync waits for its Follow_Up. -/
def execPtpSync (rx : PtpIn) (seq : BitVec 16) (twoStep : Bool) (t1 t2 corr logSync : Int) (s : State) :
    Out1 :=
  act s fun s => ptpIn s rx fun s =>
    let d := rx.slot
    let x := ptp s d
    if fromMaster s rx && decide (-7 ≤ logSync ∧ logSync ≤ 1) then
      let x1 := { x with logSync := logSync }
      if twoStep then setPtp s d { x1 with sync := some (seq, t2, corr) }
      else setPtp s d { x1 with sync := none, pair := some (t1 + corr, t2) }
    else s

/-- PTP_FOLLOW_UP (R244). -/
def execPtpFollowUp (rx : PtpIn) (seq : BitVec 16) (t1 corr : Int) (s : State) : Out1 :=
  act s fun s => ptpIn s rx fun s =>
    let d := rx.slot
    let x := ptp s d
    match x.sync with
    | some (q, t2, c) =>
      if fromMaster s rx && q == seq then
        setPtp s d { x with sync := none, pair := some (t1 + corr + c, t2) }
      else s
    | none => s

/-- The time-stamp queue of a network port. -/
def tsq (s : State) (p : Nat) : List TsqEnt := s.time.tsq.getD p []

/-- A time-stamp queue changed. -/
def setTsq (s : State) (p : Nat) (l : List TsqEnt) : State :=
  { s with time := { s.time with tsq := s.time.tsq.set p l } }

/-- PTP_DELAY_RESP (R244, R245): the exchange completes if its stamp is still in the queue. -/
def execPtpDelayResp (rx : PtpIn) (id : Byte) (t4 corr logMin : Int) (s : State) : Out1 :=
  act s fun s => ptpIn s rx fun s =>
    let d := rx.slot
    let x := ptp s d
    match x.req with
    | some (q, iface) =>
      if fromMaster s rx && q == id then
        let p := iface / 4
        let s1 := setPtp s d { x with req := none, logMin := logMin }
        match (tsq s p).find? (fun e => e.id == id && e.slot == d), x.pair with
        | some e, some (t1, t2) =>
          let s2 := setTsq s1 p ((tsq s p).filter (fun y => y.id != id))
          exchange s2 d (fdiv ((t2 - t1) + (t4 - e.t3 - corr)) 2) (t2 - t1)
        | some _, none => setTsq s1 p ((tsq s p).filter (fun y => y.id != id))
        | none, _ => s1
      else s
    | none => s

/-- Whether the first of two lists of numbers that differ in one place comes before the second. -/
def lexLt : List Nat → List Nat → Bool
  | a :: r, b :: t => decide (a < b) || (a == b && lexLt r t)
  | _, _ => false

/-- The 1588 dataset comparison (R243): of two datasets of one grandmaster the one fewer steps away, then that of the lower
sender, then the lower receiver; else the grandmaster of lower priority1, class, accuracy, variance, priority2 and
identity (log 127). -/
def betterMaster (a b : Master) : Bool :=
  if a.gm = b.gm then lexLt [a.steps, a.src.toNat, a.iface] [b.steps, b.src.toNat, b.iface]
  else
    let key (m : Master) : List Nat :=
      [m.set.priority1, m.set.clockClass, m.set.accuracy, m.set.variance, m.set.priority2, m.gm.toNat]
    lexLt (key a) (key b)

/-- A slot whose best master changed: what it measured of the old one is gone. A quarantine runs on, and a slot that is
SUSPECT stays so (R246). -/
def newMaster (x : PtpSlot) (m : Master) (at_ : Nat) (interval : Int) : PtpSlot :=
  { ptpSlotOff with
    st := if x.st = 4 ∨ x.st = 5 then x.st else 2
    quar := x.quar, master := some m, annAt := at_, interval := interval }

/-- PTP_ANNOUNCE (R243). -/
def execPtpAnnounce (rx : PtpIn) (set_ : ClockSet) (steps : Nat) (gm : BitVec 64) (src : BitVec 80) (interval : Nat)
    (s : State) : Out1 :=
  act s fun s => ptpIn s rx fun s =>
    let d := rx.slot
    let iface := rx.at_.iface
    let x := ptp s d
    if ptpOn s d && bit (ptpCfg s d) (16 + iface % 8) then
      let m : Master := { set := set_, steps := steps, gm := gm, src := src, iface := iface }
      match x.master with
      | some o =>
        if o.src = src then
          setPtp s d { x with master := some m, annAt := lt s, interval := Int.ofNat interval }
        else if betterMaster m o then selectSlot (setPtp s d (newMaster x m (lt s) interval))
        else s
      | none => setPtp s d { x with st := max x.st 2, master := some m, annAt := lt s
                                    interval := Int.ofNat interval }
    else s

/-- Whether an interface holds a confirmed address of the family of a slot (03 R56). -/
def hasAddr (s : State) (iface : Nat) (v6 : Bool) : Bool :=
  s.net.addrs.any (fun a => a.iface == iface && a.st == 2 && (if v6 then a.fam != 0 else a.fam == 0))

/-- The mean interval between Delay_Req messages in ns: 2 to the logMinDelayReqInterval seconds. -/
def reqMean (logMin : Int) : Nat :=
  if 0 ≤ logMin then 10 ^ 9 * 2 ^ min 127 logMin.toNat else 10 ^ 9 / 2 ^ min 127 (-logMin).toNat

/-- DELAY_REQ_TIMER (R243, R245): a random delay of the mean interval of the master runs out. Without a confirmed address the slot reads STATE 2. With 16
entries in the queue the frame goes without a stamp, OVF is set and the exchange is discarded. -/
def execDelayReqTimer (d : Nat) (s : State) : Out1 :=
  act s fun s =>
    let x := ptp s d
    let (k, s) := takeFree s
    let s := match x.reqAt with
      | some t => toLt (t + Config.delay k (2 * reqMean x.logMin) % max 1 (2 * reqMean x.logMin)) s
      | none => s
    match x.master with
    | none => s
    | some m =>
      if !ptpOn s d then s
      else if !hasAddr s m.iface (bit (ptpCfg s d) 28) then
        selectSlot (setPtp s d { x with
          st := if x.st = 3 then 2 else x.st, lockRun := 0, lockedAt := none })
      else
        let p := m.iface / 4
        let i := timTsq + p
        let id : Byte := BitVec.ofNat 8 (getF s i 15 8)
        let s1 := setF (emitNet s m.iface (.delayReq d id p (bit (ptpCfg s d) 29))) i 15 8 (id.toNat + 1)
        if 16 ≤ (tsq s p).length then
          setPtp (setF s1 i 31 31 1) d { x with req := none, reqAt := some (lt s) }
        else
          let e : TsqEnt := { id := id, slot := d, t3 := Int.ofNat (Config.txStamp k (now s))
                              at_ := lt s }
          setPtp (setTsq s1 p (tsq s p ++ [e])) d
            { x with req := some (id, m.iface), reqAt := some (lt s) }

/-- TSQ_ENTRY_EXPIRE (R245): an entry not taken within 10 ms is discarded. -/
def execTsqEntryExpire (p : Nat) (id : Byte) (s : State) : Out1 :=
  act s fun s =>
    match (tsq s p).find? (fun e => e.id == id) with
    | some e =>
      setTsq (toLt (e.at_ + 10 ^ 7) s) p ((tsq s p).filter (fun y => y.id != id))
    | none => s

/-- ANNOUNCE_TIMEOUT (R243, R244): the slot falls back to ACQUIRING and has no master. -/
def execAnnounceTimeout (d : Nat) (s : State) : Out1 :=
  act s fun s =>
    let x := ptp s d
    if ptpOn s d && x.master.isSome then
      let s1 := toLt (x.annAt + 3 * x.interval.toNat) s
      selectSlot (setPtp s1 d { x with
        st := if x.st = 4 ∨ x.st = 5 then x.st else 2, master := none, lockRun := 0, lockedAt := none })
    else s

/-- QUARANTINE_END (R246): the slot rebuilds its mean from 16 new exchanges. -/
def execQuarantineEnd (d : Nat) (s : State) : Out1 :=
  act s fun s =>
    let x := ptp s d
    match x.quar with
    | some t => setPtp (toLt t s) d { x with quar := none, delays := [], fresh := 0 }
    | none => s

/-- HERR in ns (R249): 0 outside a sender's holdover. -/
def herr (s : State) : Nat :=
  match s.time.holdSince with
  | some h =>
    if s.id.sender then
      s.time.filtered.natAbs + getF s timHold 15 0 * (lt s - h) / 10 ^ 9
    else 0
  | none => 0

/-- HERR_LIMIT (R249): past 900 ns frame lock is reported lost, past VLIM VALID falls. Time runs on
to the instant at which the next of the two limits is passed. -/
def execHerrLimit (s : State) : Out1 :=
  act s fun s =>
    match s.time.holdSince with
    | none => s
    | some h =>
      if !s.id.sender then s
      else
        let vlim := getF s timValid 15 0 * 1000
        let lim := if s.time.herrTold then vlim else min 900 vlim
        let gap := (lim + 1 - s.time.filtered.natAbs) * 10 ^ 9
        let s1 := toLt (h + cdiv gap (max 1 (getF s timHold 15 0))) s
        let s2 := if 900 < herr s1 ∧ !s1.time.herrTold then
            recEventX { s1 with time := { s1.time with herrTold := true } } .wall xFrameLock
              [w32 (herr s1)]
          else s1
        if vlim < herr s2 then { s2 with time := { s2.time with valid := false } } else s2

/-! ### Marks (11 R251 to R254) -/

/-- The ports towards devices that follow this one (R251). -/
def markPorts (s : State) : List Nat :=
  let up (p : Nat) : Bool := portUp s p
  if s.id.sender then
    (List.range 8).filter up ++ (if s.id.side == .A && up 8 then [8] else [])
  else [1, 2].filter up ++ (if s.time.src == 3 && up 8 then [8] else [])

/-- MARK_SEND_TIMER (R251): every 100 µs of the clock, a SECONDS block and a MARK with the clock at
the transmit stamp point, on every port towards a follower; one that falls due in the slot of an ALIGN block is
sent and stamped a slot later (06 R120). A tile that holds no time has none to send. -/
def execMarkSendTimer (s : State) : Out1 :=
  act s fun s =>
    if s.id.sender || s.time.has then
      let s1 := toClk (s.time.lastMark + 100000) s
      let c := now s1
      let s2 := { s1 with time := { s1.time with lastMark := c } }
      (markPorts s2).foldl (fun t p =>
        let m := c + alignShift s2 p
        emit (emit t (.block p (secondsBlock (m / 10 ^ 9))))
          (.block p (markBlock s2.time.epoch s2.time.valid (m % 4) (wt32 m)))) s2
    else s

/-- A mark source of a device: UP or TW. -/
def markSrc (s : State) (tw : Bool) : MarkSrc := if tw then s.time.tw else s.time.up

/-- A mark source changed. -/
def setMark (s : State) (tw : Bool) (m : MarkSrc) : State :=
  if tw then { s with time := { s.time with tw := m } } else { s with time := { s.time with up := m } }

/-- Whether marks arrive on a source at least once in every 400 µs (R242). -/
def usable (s : State) (tw : Bool) : Bool :=
  match (markSrc s tw).last with
  | some t => decide (lt s - t ≤ 400000)
  | none => false

/-- Whether the device follows marks on this source when they are usable (R242): a tile on UP, and
on TW without UP; side B of a sender pair on TW. -/
def steers (s : State) (tw : Bool) : Bool :=
  if s.id.sender then tw && s.id.side == .B else if tw then !usable s false else true

/-- SECONDS_RECEIVED (R132, R252). -/
def execSecondsReceived (tw : Bool) (secs : BitVec 48) (s : State) : Out1 :=
  act s fun s => setMark s tw { markSrc s tw with secs := some secs.toNat }

/-- RAILDIFF and its alert after 16 marks beyond TWTOL (R254). -/
def railDiff (s : State) : State :=
  let v : Option Int :=
    if s.id.sender then
      match s.time.sel with
      | some d => if s.time.tw.last.isSome then some (s.time.tw.offset - (ptp s d).offset) else none
      | none => none
    else if usable s false && usable s true then some (s.time.up.offset - s.time.tw.offset) else none
  match v with
  | none => s
  | some v =>
    let s1 := wr s timRaildiff (satInt v)
    if within v (Int.ofNat (getF s timRail 15 0)) then
      { s1 with time := { s1.time with railRun := 0 } }
    else
      let s2 := { s1 with time := { s1.time with railRun := s1.time.railRun + 1 } }
      if s2.time.railRun = 16 then recEventX s2 .wall xRailDiff [satInt v] else s2

/-- A mark the device steers by (R252, R253): acquire, step, rejoin or slew; VALID is the mark's. -/
def follow (s : State) (tw : Bool) (epoch : Byte) (valid : Bool) (src : Nat) (m : MarkSrc) : State :=
  let code := if tw then 4 else 3
  let back := s.id.sender && s.time.src != 4
  let s0 := setMark { s with time := { s.time with
    src := code, holdSince := none, validUntil := none } } tw m
  let far := !within m.offset 1000
  let anew (t : State) : State :=
    setMark { t with time := { t.time with state := 1 } } tw { m with farRun := 0, inRun := 0, outRun := 0 }
  let s1 :=
    if !s.time.has then
      let (t, _) := setClock s0 src
      anew { t with time := { t.time with has := true, epoch := epoch } }
    else if epoch ≠ s.time.epoch ∨ (back ∧ far) then anew (clockStep s0 src epoch)
    else if 4 ≤ m.farRun then anew (rejoin s0 src)
    else
      let t := slewTo s0 m.offset
      { t with time := { t.time with state :=
        if 16 ≤ m.inRun then 2 else if 4 ≤ m.outRun then 1
        else if s.time.state = 2 ∧ s.time.src = code then 2 else 1 } }
  { s1 with time := { s1.time with valid := valid } }

/-- MARK_RECEIVED (R252 to R254). A mark whose ns do not belong to the seconds held is discarded;
so is one with no SECONDS before it. -/
def execMarkReceived (tw : Bool) (epoch : Byte) (valid : Bool) (subns : Nat) (wt : Word) (rxSub : Nat)
    (s : State) : Out1 :=
  act s fun s =>
    let port := if tw then 8 else 0
    if s.id.sender && !(tw && s.id.side == .B) then s
    else match (markSrc s tw).secs with
      | none => s
      | some secs =>
        let ns := (4 * wt.toNat + subns + 2 ^ 34 - secs * 10 ^ 9 % 2 ^ 34) % 2 ^ 34
        if 10 ^ 9 ≤ ns then s
        else
          let lat := match s.link.ports.find? (fun x => x.p == port) with
            | some x => x.lat
            | none => 0
          let src := secs * 10 ^ 9 + ns + lat
          let off : Int := Int.ofNat src - Int.ofNat (now s + rxSub)
          let o := markSrc s tw
          let m : MarkSrc := { o with
            last := some (lt s), offset := off
            inRun := if within off 20 then o.inRun + 1 else 0
            outRun := if within off 20 then 0 else o.outRun + 1
            farRun := if within off 1000 then 0 else o.farRun + 1 }
          let s1 := setMark s tw m
          if steers s tw then railDiff (follow (wr s1 timMarkoff (satInt off)) tw epoch valid src m)
          else railDiff s1

/-- MARK_SOURCE_LOSS (R242, R252, R253): 400 µs after the last mark the next source of the order is
taken; a tile that has lost both enters holdover and keeps VALID for 100 ms. -/
def execMarkSourceLoss (tw : Bool) (s : State) : Out1 :=
  act s fun s =>
    let m := markSrc s tw
    match m.last with
    | none => s
    | some t =>
      let s1 := toLt (t + 400004) s
      let s2 := setMark s1 tw { m with last := none, secs := none, inRun := 0, outRun := 0, farRun := 0 }
      let was := if tw then 4 else 3
      if s.time.src ≠ was then s2
      else if s.id.sender then
        let s3 := { s2 with time := { s2.time with src := 0 } }
        match s3.time.sel with
        | some d => { s3 with time := { s3.time with src := d + 1, state := 1 } }
        | none => enterHoldover s3
      else if !tw && usable s2 true then
        { s2 with time := { s2.time with src := 4, state := 1 } }
      else
        { s2 with time := { s2.time with
          src := 5, state := 3, phase := 0, freq := meanFreq s2 (10 ^ 9)
          validUntil := if s2.time.valid then some (lt s2 + 100 * 10 ^ 6) else none } }

/-- VALID_HOLD_EXPIRE (R252). -/
def execValidHoldExpire (s : State) : Out1 :=
  act s fun s =>
    match s.time.validUntil with
    | some t =>
      let s1 := toLt t s
      { s1 with time := { s1.time with valid := false, validUntil := none } }
    | none => s

/-! ### TIME_READ (11 R263) -/

/-- The seven words of TIME_READ, captured in one tick. -/
def timeWords (s : State) : List Word :=
  wt80 s.time.valid (now s)
    ++ [mkFld 31 24 s.time.epoch.toNat ||| mkFld 23 20 s.time.src ||| mkFld 19 16 s.time.state]
    ++ wordsOfNat 2 (lt s) ++ [w32 (sat32 (herr s))]

/-- TIME_READ (R263). -/
def timeReadRule : Handler := withLen 0 fun _ _ s => .ok s (timeWords s)

/-- TIME_READ. -/
def execTimeRead (p : Smb) (s : State) : Out1 := smibenRow 0x0701 timeReadRule p s

/-- The pulses of the trigger outputs that fire at each frame edge or canvas frame start (R261): none on the start
schedule (18 R390). -/
def edgeTrig (s : State) : State :=
  if !s.time.has then s else s.time.comps.foldl (fun t c => match c.use with
    | some (.trig o 3 _ w) => emit t (.trigOut o w)
    | _ => t) s

end Sys2Proof.Machine
end

