-- ==== Sys2Proof/Machine/Scan.lean ====
section
/-! DEFINITION. Lamp geometry and scan timing (09 R193, R198 to R204), and the whole-set check of
the lamp parameters (09 R202; 12 R272). Every function takes the words it needs through a lookup
`g`, so that the set as it would stand after a write can be judged. -/

namespace Sys2Proof.Machine

/-- A lookup of parameter words. -/
abbrev Lookup := Nat → Word

def lpMode (g : Lookup) : Nat := fld (g lmpCfg) 31 30
def lpNdrv (g : Lookup) : Nat := fld (g lmpCfg) 29 24
def lpLpb (g : Lookup) : Nat := fld (g lmpCfg) 23 19
def lpMult (g : Lookup) : Nat := fld (g lmpScanCfg) 23 16
def lpScan (g : Lookup) : Nat := fld (g lmpScanCfg) 5 0 + 1
def lpDisp (g : Lookup) : Nat := fld (g lmpRowt) 31 16
def lpBlank (g : Lookup) : Nat := fld (g lmpRowt) 11 0
def lpDis (g : Lookup) : Nat := fld (g lmpPre) 31 24
def lpPch (g : Lookup) : Nat := fld (g lmpPre) 23 16
def lpPrex (g : Lookup) : Nat := fld (g lmpPre) 15 8
def lpGck (g : Lookup) : Nat := fld (g lmpPre) 7 4
def lpInt (g : Lookup) : Nat := fld (g lmpProof) 31 24
def lpWidth (g : Lookup) : Nat := fld (g lmpProof) 9 0
def lpWt (g : Lookup) : Nat := fld (g tilGeom) 14 8
def lpHt (g : Lookup) : Nat := fld (g tilGeom) 5 0
def lpNum (g : Lookup) : Nat := fld (g tilRate) 31 16
def lpDen (g : Lookup) : Nat := fld (g tilRate) 15 0

/-- P: pixels per lane segment (R193). -/
def lpSeg (g : Lookup) : Nat := if lpMode g = 2 then 16 * lpNdrv g / 3 else 16 * lpNdrv g

/-- NBAND = 16·HT / S. -/
def lpBands (g : Lookup) : Nat := 16 * lpHt g / lpScan g

/-- Lanes used. -/
def lpLanes (g : Lookup) : Nat := lpBands g * lpLpb g

/-- Groups used: lane l belongs to group l >> 4. -/
def lpGroups (g : Lookup) : Nat := cdiv (lpLanes g) 16

/-- SLOT = DISP + BLANK. -/
def lpSlot (g : Lookup) : Nat := lpDisp g + lpBlank g

/-- ⌊TREF⌋ in LCLK cycles. -/
def lpTref (g : Lookup) : Nat := 250000000 * lpDen g / (lpNum g * lpMult g)

/-- tWFULL in ns (R202 condition 6). -/
def lpWfull (g : Lookup) : Nat :=
  1500 + 128 * lpWt g * lpHt g + 392 * lpScan g * (16 * lpNdrv g + 2)

/-- The slot pk of plane k in S-mode (R208). -/
def planeSlot (g : Lookup) (k : Nat) : Nat :=
  max (2 ^ k * fld (g lmpSmode) 7 0) (2 * (16 * lpNdrv g) + 2) + 4

/-- The readout time of one proof cycle in ns (R202 condition 8). -/
def lpReadout (g : Lookup) : Nat := 128 * lpScan g * (64 * lpNdrv g + 4)

/-- The conditions of R193 on a configuration. -/
def geomOk (g : Lookup) : Bool :=
  16 * lpHt g % lpScan g == 0 && lpLpb g * lpSeg g == 16 * lpWt g && decide (lpLanes g ≤ 128)
    && (lpMode g != 2
      || (lpNdrv g % 3 == 0 && decide (256 * lpWt g * lpHt g ≤ 65536)))

/-- Conditions 1 to 8 of R202 by number. A tile whose LMP.CFG.MODE is 0 has no lanes: the
conditions on a mode do not bind it (log 22). -/
def scanCond (g : Lookup) (n : Nat) : Bool :=
  let gm := lpMode g == 1
  let sm := lpMode g == 2
  let rateOk := decide (240 * lpDen g ≤ lpNum g * lpMult g)
    && decide (lpNum g * lpMult g ≤ 7680 * lpDen g)
  let rm := lpNum g * lpMult g
  let proofs := gm && lpInt g != 0
  match n with
  | 1 => rateOk && (lpMode g == 0 || geomOk g)
  | 2 => decide (lpScan g * lpSlot g ≤ lpTref g)
  | 3 => !gm || decide (16 ≤ lpDisp g / max 1 (lpGck g))
  | 4 => if proofs then decide (max (lpDis g) (lpPch g) + 12 + lpWidth g ≤ lpBlank g)
         else decide (max (lpDis g) (lpPch g) + 8 ≤ lpBlank g)
  | 5 => !sm || decide (((List.range 12).map (planeSlot g)).sum ≤ lpDisp g)
  | 6 => !gm || decide (lpWfull g + 8 * (64 * lpNdrv g + 4) + 8 * (16 * lpNdrv g + 2)
           ≤ fld (g lmpShow) 15 0 * 1000)
  | 7 => decide (fld (g lmpShow) 15 0 * 1000 * rm + lpDen g * 10 ^ 9 < lpDen g * 10 ^ 9 * lpMult g)
  | 8 => !proofs
      || (decide (lpReadout g * rm ≤ lpInt g * lpDen g * 10 ^ 9)
        && decide (2 * lpInt g * lpDen g * 10 ^ 9 + lpReadout g * rm
          ≤ fld (g lmpProofAge) 15 0 * 10 ^ 6 * rm))
  | _ => true

/-- The longest interval without a falling edge of LGCK[0], in LCLK cycles (12 R272). -/
def lgckGap (g : Lookup) : Nat :=
  2052 + lpBlank g + (if lpMode g = 2 then planeSlot g 11 else lpGck g)

/-- The check of a write against the set it would make (R202; 12 R272): none, or the status and
the first data word of the refusal. -/
def scanCheck (g : Lookup) : Option (Nat × Word) :=
  match [1, 2, 3, 4, 5, 6, 7, 8].find? (fun n => !scanCond g n) with
  | some 4 => some (stConflict, conflictWord 0x02 1 0)
  | some _ => some (stBadParam, 0)
  | none =>
    if bit (g pairCfg) 0 && lpMode g != 0 && decide (4750 ≤ lgckGap g) then
      some (stConflict, conflictWord 0x02 1 0)
    else none

/-! ### The refresh schedule (R198) -/

/-- The start of refresh `n` after edge `e`. -/
def refreshAt (s : State) (e n : Nat) : Nat :=
  let g := rd s
  e + 4 * cdiv (n * lpDen g * 10 ^ 9) (4 * lpNum g * max 1 (lpMult g))

/-- The edge that governs clock `c`: the last frame edge. -/
def edgeOf (s : State) : Nat :=
  match s.time.lastEdge with
  | some (c, _) => c
  | none => 0

/-- The number after the edge of the first refresh that begins at or after clock `c`. -/
def refreshIdx (s : State) (e c : Nat) : Nat :=
  let g := rd s
  let n := (c - e) * lpNum g * max 1 (lpMult g) / (max 1 (lpDen g) * 10 ^ 9)
  if c ≤ refreshAt s e n then n else n + 1

/-- The lamp parameters of the refreshes that run: PROOF and PROOF_AGE as the last edge took them (R215). -/
def lampNow (s : State) : Lookup := fun i =>
  if i = lmpProof then s.lamp.proofW else if i = lmpProofAge then s.lamp.ageW else rd s i

/-- The first refresh boundary at or after clock `c`, counted from edge `e`. Refresh MULT begins
exactly at the next edge. -/
def refreshFrom (s : State) (e c : Nat) : Nat :=
  let n := refreshIdx s e c
  if n < lpMult (rd s) then refreshAt s e n else max c (nextInstant (rate s) e)

/-- The start of the refresh that runs just before clock `c`. -/
def refreshOf (s : State) (c : Nat) : Nat :=
  let e := edgeOf s
  match refreshIdx s e c with
  | 0 => e
  | n + 1 => refreshAt s e n

/-- The first row-slot boundary at or after clock `c` (12 R275). A sender has no scan: the instant
itself. -/
def rowBoundary (s : State) (c : Nat) : Nat :=
  if s.id.sender then cdiv c 4 * 4
  else
    let g := rd s
    let e := edgeOf s
    let n := refreshIdx s e c
    let r := refreshOf s c
    let k := cdiv (c - r) (4 * max 1 (lpSlot g))
    if k < lpScan g ∧ r + 4 * k * lpSlot g < refreshAt s e n then r + 4 * k * lpSlot g
    else refreshFrom s e c

/-- The show instant of edge `e` (R204). -/
def showOf (s : State) (e : Nat) : Nat := refreshFrom s e (e + 1000 * getF s lmpShow 15 0)

/-- The cut-off of a show instant: one row slot before it. -/
def cutoffOf (s : State) (show_ : Nat) : Nat := show_ - 4 * lpSlot (rd s)

/-! ### Lamps (R193) -/

/-- Picture width in pixels. -/
def picW (s : State) : Nat := 16 * getF s tilGeom 14 8

/-- Picture height in pixels. -/
def picH (s : State) : Nat := 16 * getF s tilGeom 5 0

/-- The number of lamp `c` of pixel (x, y). -/
def lampNo (s : State) (x y c : Nat) : Nat := (y * picW s + x) * 3 + c

/-- The lane of pixel (x, y). -/
def laneOf (s : State) (x y : Nat) : Nat :=
  let g := rd s
  y / lpScan g * lpLpb g + x / max 1 (lpSeg g)

/-- The group-row of a pixel. -/
def groupRow (s : State) (x y : Nat) : Nat × Nat := (laneOf s x y / 16, y % lpScan (rd s))

/-- The group-row of a lamp number. -/
def groupRowOf (s : State) (lamp : Nat) : Nat × Nat :=
  let px := lamp / 3
  groupRow s (px % max 1 (picW s)) (px / max 1 (picW s))

/-- Every used group-row. -/
def allRows (s : State) : List (Nat × Nat) :=
  let g := rd s
  if lpMode g = 0 then []
  else (List.range (lpGroups g)).flatMap (fun x => (List.range (lpScan g)).map (fun r => (x, r)))

/-- The value of a lamp in a store; an unlisted lamp holds 0. -/
def lampVal (l : List (Nat × BitVec 16)) (n : Nat) : BitVec 16 := (look n l).getD 0

/-- The lamps of a group-row in the order of R205: lane order 0 to 15, then channel order, then
driver order from the far end. A lane beyond those used has none. -/
def rowLamps (s : State) (gr r : Nat) : List Nat :=
  let g := rd s
  let chans := if lpMode g = 2 then 16 else 48
  (List.range 16).flatMap fun l =>
    let lane := 16 * gr + l
    let band := lane / max 1 (lpLpb g)
    let seg := lane % max 1 (lpLpb g)
    let y := band * lpScan g + r
    if lpLanes g ≤ lane then []
    else (List.range chans).flatMap fun ch =>
      (List.range (lpNdrv g)).map fun i =>
        let d := lpNdrv g - 1 - i
        let q := d * chans + ch
        lampNo s (seg * lpSeg g + q / 3) y (q % 3)

/-! ### Transfers (R194, R195, R206) -/

/-- The commands of a transfer, by the number of LCK cycles for which LLAT is high (R195). -/
def ltData : Nat := 1
def ltRow : Nat := 2
def ltVsync : Nat := 3
def ltProof : Nat := 4
def ltShortchk : Nat := 5
def ltStatus : Nat := 6
def ltConfig : Nat := 7
def ltSync : Nat := 8

/-- The lanes of a group that are used. -/
def lanesOf (g : Lookup) (gr : Nat) : List Nat :=
  (List.range 16).filter (fun l => decide (16 * gr + l < lpLanes g))

/-- The time of `n` LCK cycles: LCK is LCLK / 2 (R191). -/
def lckNs (n : Nat) : Nat := 8 * n

/-- The time from the start of a transfer to the start of the next one: its bits, and two cycles with LLAT and LCK low
(R194). -/
def xferNs (g : Lookup) : Nat := lckNs (16 * lpNdrv g + 2)

/-- The transfer of a G-mode command that begins at local time `t`: LLAT is high for exactly its last K cycles (R194). -/
def gTransfer (g : Lookup) (gr k t : Nat) (lanes : List (List (BitVec 16))) : Transfer :=
  { group := gr, latch := k, start := t, latchAt := t + lckNs (16 * lpNdrv g - k), lanes := lanes }

/-- A transfer at local time `t` that gives every driver of lane l of a group the word `w l`. -/
def transferOf (g : Lookup) (gr k t : Nat) (w : Nat → BitVec 16) : Transfer :=
  gTransfer g gr k t ((lanesOf g gr).map (fun l => List.replicate (lpNdrv g) (w l)))

/-- Transfers sent, by a tile that holds the lamp lines: the outputs of any other are at high impedance (R192). -/
def sendXfers (s : State) (l : List Transfer) : State :=
  if s.pair.outputs then l.foldl (fun t x => emit t (.xfer x)) s else s

/-- A command at local time `t` that carries the same word to every driver of every used group. -/
def toAllGroups (s : State) (k t : Nat) (w : BitVec 16) : State :=
  sendXfers s ((List.range (lpGroups (rd s))).map (fun gr => transferOf (rd s) gr k t (fun _ => w)))

/-- The local time until which the lanes of a group are taken. -/
def groupFree (s : State) (gr : Nat) : Nat := s.lamp.free.getD gr 0

/-- The lanes of every group taken until local time `t`. -/
def takeGroups (s : State) (t : Nat) : State :=
  { s with lamp := { s.lamp with free := s.lamp.free.map (max t) } }

/-- CONFIG with LMP.DRV.DCFG at local time `t` (R195). -/
def configAt (s : State) (t : Nat) : State := toAllGroups s ltConfig t (BitVec.ofNat 16 (getF s lmpDrv 15 0))

/-- SYNC with S − 1 at local time `t` (R195). -/
def syncAt (s : State) (t : Nat) : State :=
  takeGroups (toAllGroups s ltSync t (BitVec.ofNat 16 (lpScan (rd s) - 1))) (t + xferNs (rd s))

/-- CONFIG, then SYNC (R214). -/
def sendConfig (s : State) : State := syncAt (configAt s (lt s)) (lt s + xferNs (rd s))

/-- The LCK cycles of a transfer: the bits of a lane. -/
def Transfer.cycles (x : Transfer) : Nat := ((x.lanes.map (fun l => 16 * l.length)).foldl max 0)

/-- The level of a lane in LCK cycle `c` of a transfer. -/
def Transfer.bit (x : Transfer) (lane c : Nat) : Bool :=
  ((x.lanes.getD lane []).getD (c / 16) 0).getMsbD (c % 16)

/-- Whether LLAT of its group is high for a transfer at local time `t` (R194, R206). -/
def Transfer.llat (x : Transfer) (t : Nat) : Bool := decide (x.latchAt ≤ t) && decide (t < x.latchAt + lckNs x.latch)

/-! ### The pins of a row slot (R191, R199, R206, R208) -/

/-- The gray clock of the groups: low, high, or running. -/
inductive GckPin where
  | low
  | high
  | run
  deriving DecidableEq, Repr

/-- The levels of the row and column pins, and of the plane latch of S-mode. -/
structure LampPins where
  rowA : Nat
  rowEnN : Bool
  pch : Bool
  dis : Bool
  gck : GckPin
  latch : Bool
  deriving DecidableEq, Repr

/-- The cycle of an S-mode row display at which the slot of its `i`-th plane, plane 11 − i, begins (R208). -/
def planeStart (g : Lookup) (i : Nat) : Nat := ((List.range i).map (fun j => planeSlot g (11 - j))).sum

/-- LGCK in cycle `c` of the display of an S-mode row: planes 11 to 0 in turn, each lit from cycle 2 of its slot. -/
def planeGck (g : Lookup) (c : Nat) : GckPin :=
  let lit := (List.range 12).any (fun i =>
    decide (planeStart g i + 2 ≤ c) && decide (c < planeStart g i + 2 + 2 ^ (11 - i) * fld (g lmpSmode) 7 0))
  if lit then .low else .high

/-- LLAT in cycle `c` of the display of an S-mode row: it rises at the start of each plane slot, for one LCK cycle
(R206, R208). -/
def planeLatch (g : Lookup) (c : Nat) : Bool :=
  (List.range 12).any (fun i => decide (planeStart g i ≤ c) && decide (c < planeStart g i + 2))

/-- The pins in cycle `c` of a row slot, `prev` the row of the slot before. -/
def slotPins (g : Lookup) (prev : Nat) (x : RowSlot) (c : Nat) : LampPins :=
  let dis := lpDis g + x.ext
  let p := max dis (lpPch g) + 4
  let shown := decide (lpBlank g ≤ c)
  let proof := x.pulse == 1 && decide (p + 4 ≤ c) && decide (c ≤ p + 3 + lpWidth g)
  { rowA := if c < 2 then prev else x.row
    rowEnN := !(shown || proof)
    pch := decide (c < lpPch g) || (x.pulse == 2 && decide (p ≤ c) && decide (c ≤ p + 31))
    dis := decide (c < dis)
    gck := if lpMode g = 2 then (if shown then planeGck g (c - lpBlank g) else .high)
      else if shown then .run else .low
    latch := lpMode g == 2 && shown && planeLatch g (c - lpBlank g) }

/-- The LCLK cycles of a keep-alive pulse, and those between two (R216). -/
def pulseWidth : Nat := 4
def pulsePeriod : Nat := 2048

/-- The pins in cycle `c` of a dark interval: a keep-alive pulse of 4 cycles at cycles 2,048, 4,096 and so on, high in
G-mode and low in S-mode (R216). -/
def darkPins (g : Lookup) (row c : Nat) : LampPins :=
  let pulse := decide (pulsePeriod ≤ c) && decide (c % pulsePeriod < pulseWidth)
  { rowA := row, rowEnN := true, pch := false, dis := false
    gck := if (lpMode g == 2) == pulse then .low else .high
    latch := false }

/-- The pins now: none while the outputs are at high impedance (R192), as they are until VIOL has been good for 1 ms (17
R370). -/
def lampPins (s : State) : Option LampPins :=
  let g := lampNow s
  let c := (s.time.lt - s.lamp.refStart) / 4
  let k := c / max 1 (lpSlot g)
  let gone := match s.lamp.dark with | some (d, _) => (s.time.lt - d) / 4 | none => 0
  let rowOf (i : Nat) : Nat := match s.lamp.slots[i]? with | some x => x.row | none => 0
  if !s.pair.outputs || s.pwr.violNominal.isNone then none
  else match s.lamp.lit, s.lamp.slots[k]? with
    | true, some x => some (slotPins g (if k = 0 then lpScan g - 1 else rowOf (k - 1)) x (c % max 1 (lpSlot g)))
    | _, _ => some (darkPins g (rowOf (s.lamp.slots.length - 1)) gone)

end Sys2Proof.Machine
end

