-- ==== Sys2Proof/Machine/PairOps.lean ====
section
/-! DEFINITION. The operations of a twin pair that other families use (12): the checks, the release
of drive, claims, the conditions of lockstep, CFGSIG, changes that wait for an edge, and voluntary
handover. -/

namespace Sys2Proof.Machine

/-! ### Checks and drive (R267 to R271) -/

/-- tLEASE in ns. -/
def leaseNs (s : State) : Nat := 1000 * getF s pairCfg 31 16

/-- tGUARD in ns. -/
def guardNs : Nat := 20000

/-- PAIR.CHK as it reads now: bit 5 follows LMP.STS.DRIVE on a tile and is 1 on a sender (R271). -/
def chkNow (s : State) : BitVec 6 :=
  if s.id.sender || s.lamp.drive then s.pair.chk ||| 0x20 else s.pair.chk &&& 0x1F

/-- Whether every check passes. -/
def chkAll (s : State) : Bool := chkNow s == 0x3F

/-- The level of the ball OWN_N as an output pin number of `Out.pin`; LROW_EN_N and the rest follow
it. -/
def pinOwnN : Nat := 0
def pinLrowEn : Nat := 1
def pinHealth : Nat := 2

/-- Drive or the lead released (R270): outputs to high impedance 8 LCLK cycles after the cause and
OWN_N 16 cycles after it; a record is written. -/
def release (s : State) : State :=
  let wasOut := s.pair.outputs
  let s1 := { s with
    lamp := { s.lamp with lit := false, dark := none }
    pair := { s.pair with
      holding := false, outputs := false, pull := false, lease := none, claim := none
      gapFrom := if wasOut then some (lt s + 32) else s.pair.gapFrom } }
  let s2 := if wasOut && !s.id.sender then emit s1 (.lamp .highZ) else s1
  recordX (emit s2 (.pin pinOwnN true)) xRelease [(chkNow s).zeroExtend 32]

/-- Whether the life-cycle state allows claims (20 R436). -/
def lifeOk (s : State) : Bool := decide (s.otp.lcs < 3)

/-- The conditions of a claim other than the level of OWN_N and its guard (R268, R279). -/
def mayClaim (s : State) : Bool :=
  !s.pair.holding && s.pair.claim.isNone && chkAll s && lifeOk s && !s.pair.stuck
    && !(s.pair.ownFault && s.pair.ownCause == 1)

/-- The start pulse of a claim (R268). One without a token is no part of a handover: what a standby held of one is
dropped. -/
def startClaim (s : State) (token : Bool) : State :=
  emit { s with pair := { s.pair with
    claim := some ⟨lt s, token⟩, pull := true, guard := none, token := none
    handover := if token then s.pair.handover else none } } (.pin pinOwnN false)

/-! ### The twin's heartbeat -/

/-- A heartbeat of the twin received within tLEASE (R265, R274). -/
def beatFresh (s : State) : Bool :=
  match s.pair.beat with
  | some (_, t) => decide (lt s - t < leaseNs s)
  | none => false

/-- The twin's checks all pass by its last heartbeat. -/
def twinChk (s : State) : Bool :=
  match s.pair.beat with
  | some (m, _) => m.chk == 0x3F
  | none => false

/-- Whether a standby is ready to take over (R275, R292). -/
def standbyReady (s : State) : Bool := portUp s 8 && beatFresh s && twinChk s

/-! ### CFGSIG (R266) -/

/-- A value of `n` bytes from an integer. -/
def i16 (v : Int) : List Byte := bytesOf 2 (BitVec.ofInt 16 v)

/-- The values in effect of every RW, RWS and SAF parameter of a block of the map. -/
def blockValues (s : State) (b : Nat) : List Word :=
  (List.range 1024).filterMap fun k =>
    match findRow s.id.sender (1024 * b + k) with
    | some r =>
      if r.fields.any (fun f => f.acc == .rw || f.acc == .rws || f.acc == .saf) then
        some (rd s (1024 * b + k))
      else none
    | none => none

/-- The coefficients of a pixel whose written bit is set (07 R160). -/
def writtenCoef (s : State) (px : Nat) : List Int :=
  if s.img.written.contains px then (look px s.img.matrix).getD (List.replicate 9 0)
  else List.replicate 9 0

/-- MSIG: CRC-32C over the per-pixel matrix in effect. -/
def msig (s : State) : Word :=
  crc32c ((List.range (picW s * picH s)).flatMap fun px =>
    (if s.img.written.contains px then (1 : Byte) else 0) :: (writtenCoef s px).flatMap i16)

/-- A temperature table as its 256-byte record (07 R159). -/
def tableBytes (l : List TPoint) : List Byte :=
  let body := l.flatMap fun p =>
    i16 p.t ++ p.g.flatMap i16 ++ p.x.flatMap i16 ++ List.replicate 6 0
  body ++ List.replicate (256 - body.length) 0

/-- The words of a table's entries in the order of their numbers, each entry's number before its words. -/
def tableWords (l : List (Nat × List Word)) : List Byte :=
  bytesOfWords ((l.foldl (fun acc e => insertKey e.1 e.2 acc) []).flatMap (fun e => w32 e.1 :: e.2))

/-- CFGSIG (R266). Where the manual gives an input no byte layout, each entry of a table is taken by increasing number,
as its number and its words, most significant byte first (log 30). -/
def cfgsigNow (s : State) : Word :=
  if s.id.sender then
    crc32c (bytesOfWords (blockValues s 3 ++ blockValues s 4)
      ++ bytesOfWords (s.canvas.layers.flatMap (·.words))
      ++ tableWords (s.net.streams.map (fun x => (x.id, x.words)))
      ++ tableWords (s.canvas.rects.map (fun r =>
          (r.na.toNat, [w32 (r.xb * 2 ^ 16 + r.yb), w32 (r.wtb * 2 ^ 16 + r.htb)])))
      ++ tableWords (s.flume.regions.map (fun r => (r.num, r.words))))
  else
    crc32c (bytesOfWords (blockValues s 6 ++ blockValues s 7 ++ blockValues s 8 ++ blockValues s 9)
      ++ bytesOf 4 (msig s)
      ++ s.img.tables.flatMap tableBytes
      ++ tableWords (s.bdg.glyphs.map (fun g => (g.index, w32 g.size :: g.words))))

/-! ### Lockstep (R265) -/

/-- ROUTE of the place word of this device: its bits [63:24]. -/
def placeRoute (s : State) : BitVec 40 := routeOf s.id.place

/-- The lowest code of R265 whose condition fails, 0 if none does. Equality of CFGSIG is judged when a HELLO comes, the
one message outside a comparison that carries it. CFGSIG covers the FLM parameters, so that condition 7 is judged on this
device's MODE and on equal CFGSIG (log 31). -/
def whyNow (s : State) : Nat :=
  match s.pair.hello with
  | none => 1
  | some h =>
    if !(portUp s 8 && beatFresh s) then 1
    else if h.place ≠ placeRoute s then 2
    else if h.fwver ≠ s.fl.fw.version then 3
    else if !s.pair.cfgEq then 4
    else if !s.pair.resyncDone then 5
    else if !(chkAll s && twinChk s) then 6
    else if s.id.sender && getF s flmPtCfg 16 16 != 1 then 7
    else if !(bit (rd s pairCfg) 1 && h.lock) then 8
    else 0

/-- The pair's mode set: 0 cold, 1 lockstep, 2 resynchronising, 3 step hold; each change writes a
record and sends an event to every wall session (R265). -/
def setMode (s : State) (mode w : Nat) : State :=
  if s.pair.mode = mode then { s with pair := { s.pair with why := w } }
  else
    recEventX { s with pair := { s.pair with mode := mode, why := w } } .wall xPairMode
      [w32 mode, w32 w]

/-- Lockstep, or the step hold that follows it, left with a code; the standby must resynchronise
before lockstep resumes. -/
def leaveLockstep (s : State) (w : Nat) : State :=
  if s.pair.mode = 1 ∨ s.pair.mode = 3 then
    setMode { s with pair := { s.pair with
      resyncDone := false, resyncing := false, holdUntil := none, enterEdge := none } } 0 w
  else { s with pair := { s.pair with why := w } }

/-- Exit from lockstep in the tick in which a condition fails (R265). A standby whose heartbeats
cease goes through step hold instead (R274). -/
def pairCheck (s : State) : State :=
  if s.pair.mode ≠ 1 then s
  else
    let w := whyNow s
    if w = 0 then s
    else if w = 1 ∧ !s.pair.holding then s
    else leaveLockstep s w

/-- Whether changes wait for an edge that the holder names (R265, R274, R280). -/
def named (s : State) : Bool := s.pair.mode == 1 || s.pair.mode == 3

/-! ### Changes that wait for an edge (R280) -/

/-- The change ID of an item's new state, kinds 2 to 4 (R273). -/
def idOfItem (kind item st : Nat) : ChangeId := BitVec.ofNat 64 (kind <<< 56 + item <<< 32 + st <<< 24)

/-- The change ID of a timed cycle's firing, kind 5 (R273). -/
def idOfFiring (comp n : Nat) : ChangeId := BitVec.ofNat 64 (5 <<< 56 + comp <<< 32 + n)

/-- The change ID of a command (R273). The firing of a timed cycle counts as session 256 + k of comparator
k, its SEQ the number of the firing. -/
def idOfCmd (c : CmdRef) : ChangeId :=
  if 256 ≤ c.sess.num then idOfFiring (c.sess.num - 256) c.seq.toNat
  else BitVec.ofNat 64 (1 <<< 56 + c.keyc <<< 54 + c.sess.num % 16 <<< 48 + c.seq.toNat)

/-- The later of two ticks by signed difference. -/
def laterW (a b : Word) : Word := if sdiff a b ≥ 0 then a else b

/-- The first edge at or after clock `c`. -/
def edgeFrom (s : State) (c : Nat) : Nat :=
  let e := nextEdge s
  if c ≤ e then e else instantAt (rate s) c

/-- The changes whose edge the holder of a pair in lockstep names (R280; 08 R177; 09 R213; 10 R228). -/
def shared (snd : Bool) (w : EdgeWhat) : Bool :=
  match w with
  | .params l => snd && l.all (fun e => e.1 / 1024 == 3)
  | .values _ _ | .badger _ | .engine _ _ | .test _ | .expire _ | .region _ _ | .fault _ _
  | .commit _ _ _ | .layer _ _ => true
  | .policy _ _ | .slg _ | .boards _ => false

/-- The edge the rule of a change gives for an acceptance or event at clock `c`. A value packet that
asks for a time takes the first edge at or after it and after its decision (08 R176); the staged
sets of COMMIT_AT take the first canvas frame at or after their time (04 R80); an expiry and a region
that becomes stale take the first edge at or after their tick (08 R178; 10 R228). -/
def edgeFor (s : State) (what : EdgeWhat) (c : Nat) : Nat :=
  match what with
  | .values a _ =>
    if a = 0 then edgeAfter s c
    else max (edgeAfter s c) (instantAt (rate s) (nearClk (now s) a))
  | .commit _ t _ => max (edgeAfter s c) (instantAt (rate s) t)
  | .expire _ => edgeFrom s c
  | .region _ true => edgeFrom s c
  | _ => edgeAfter s c

/-- The first change of a list that satisfies `p` replaced. -/
def modFirst (p : EdgeChange → Bool) (f : EdgeChange → EdgeChange) : List EdgeChange → List EdgeChange
  | [] => []
  | c :: r => if p c then f c :: r else c :: modFirst p f r

/-- The first change of the list that satisfies `p` replaced: changes with equal IDs pair in the
order in which they were sent and received (R273). -/
def setChange (s : State) (p : EdgeChange → Bool) (f : EdgeChange → EdgeChange) : State :=
  { s with changes := modFirst p f s.changes }

/-- Whether a change with this ID waits for the twin's ACCEPT. -/
def waitsFor (id : ChangeId) (c : EdgeChange) : Bool :=
  c.id == id && c.partner.isNone && c.edge.isNone

/-- The holder names the edge of a change whose two ticks it has (R280). -/
def nameEdge (s : State) (c : EdgeChange) (tick : Word) : State :=
  let e := edgeFor s c.what (nearClk (now s) (laterW (wt32 c.acc) tick))
  twinSend (setChange s (waitsFor c.id) (fun x => { x with partner := some tick, edge := some e }))
    (.edgeSet c.id (wt32 e))

/-- A change scheduled (R280): in lockstep an ACCEPT goes to the twin, and the holder names the edge
once it has both ticks. Otherwise the device decides the edge alone. -/
def proposeWith (s : State) (id : ChangeId) (what : EdgeWhat) (ref : Option CmdRef)
    (credit : Option Nat) : State :=
  let c : EdgeChange :=
    { id := id, what := what, ref := ref, acc := now s, partner := none, edge := none, credit := credit }
  let s1 := { s with changes := s.changes ++ [c] }
  if !(named s && shared s.id.sender what) then s1
  else
    let s2 := twinSend s1 (.accept id (nowW s))
    match s.pair.early.find? (fun e => e.1 == id) with
    | none => s2
    | some (_, t) =>
      let s3 := { s2 with pair := { s2.pair with early := s2.pair.early.erase (id, t) } }
      if s.pair.holding then nameEdge s3 c t
      else setChange s3 (waitsFor id) (fun x => { x with partner := some t })

/-- A change that needs no credits scheduled. -/
def propose (s : State) (id : ChangeId) (what : EdgeWhat) (ref : Option CmdRef) : State :=
  proposeWith s id what ref none

/-- A command's change scheduled. -/
def proposeCmd (s : State) (c : CmdRef) (what : EdgeWhat) : State :=
  propose s (idOfCmd c) what (some c)

/-- Whether a change applies at edge `e`: its edge has been named and come, or the device decides
alone and the rule of the change gives this edge. -/
def dueAt (s : State) (e : Nat) (c : EdgeChange) : Bool :=
  match c.edge with
  | some x => decide (x ≤ e)
  | none =>
    if named s && shared s.id.sender c.what then false
    else
      let free := decide (c.acc < decision s e)
      match c.what with
      | .values a _ => free && (a == 0 || decide (nearClk (now s) a ≤ e))
      | .commit _ t _ => free && decide (t ≤ e)
      | .expire _ => decide (c.acc ≤ e)
      | .region _ true => decide (c.acc ≤ e)
      | _ => free

/-! ### A sender's state adopted (12 R289) -/

/-- A watch that leaves FROZEN: the event and the record, with its new signature; one that leaves it with no new frame
checked, because it is replaced, removed or adopted, has none to give (log 126). -/
def owlThawed (s : State) (n : Nat) (sig : Option Word) : State :=
  let (k, t) := takeFree s
  recEvent t .wall 0x0411 [w32 n, sig.getD (Config.noWsig k)]

/-- A watch that is FROZEN: the event and the record (R234, R239). -/
def owlFrozen (s : State) (w : Watch) : State :=
  let (k, t) := takeFree s
  recEvent t .wall 0x0410 [w32 w.num, w.wsig.getD (Config.noWsig k), wt32 w.since]

/-- STATE adopted by a sender: the held set, the waiting COMMIT_AT sets and other staged changes with
their edges, and the Owl watch states. -/
def adoptSender (s : State) (m : StateMsg) : State :=
  let mk (id : ChangeId) (w : Word) (x : EdgeWhat) : EdgeChange :=
    { id := id, what := x, ref := none, acc := now s, partner := none
      edge := some (nearClk (now s) w), credit := none }
  let staged := (m.staged.filter (fun x => !s.changes.any (fun c => c.id == x.1))).map
    (fun x => mk x.1 x.2.1 x.2.2)
  let known (l : List (Nat × List Word)) : Bool :=
    s.changes.any (fun c => match c.what with | .commit _ _ k => k == l | _ => false)
  let sets := (m.waiting.filter (fun x => !known x.2)).map
    (fun x => mk 0 x.1 (.commit false (nearClk (now s) x.1) x.2))
  let watch (w : Watch) : Watch :=
    match m.owl.find? (fun x => x.1 == w.num) with
    | some x => { w with since := now s - x.2.1, st := if x.2.2 then 2 else 1 }
    | none => w
  let s1 := { s with
    canvas := { s.canvas with held := m.held }
    changes := s.changes ++ staged ++ sets
    flume := { s.flume with watches := s.flume.watches.map watch } }
  s.flume.watches.foldl (fun t w =>
    let x := watch w
    if w.st = 2 ∧ x.st ≠ 2 then owlThawed t w.num none
    else if w.st ≠ 2 ∧ x.st = 2 then owlFrozen t x else t) s1

/-! ### Resynchronisation requests (07 R162; 12 R284, R289) -/

/-- RESYNC_REQ with a reason: an upward link-management packet of eight bytes. -/
def sendResync (s : State) (reason : Nat) : State :=
  linkSend s 0 (.bytes 3 false true (placeRoute s) s.id.side
    ([0x21] ++ bytesOf 2 (naOr0 s) ++ [BitVec.ofNat 8 reason, 0, 0, 0, 0]))

/-- RAIL_YIELD on chains of a sender (12 R288). -/
def yieldTo (s : State) (chains : List Nat) (on : Bool) : State :=
  linkCast { s with flume := { s.flume with yieldOn := on } } chains
    (.bytes 3 true false 0 s.id.side ([0x24, if on then 0x80 else 0x00] ++ List.replicate 6 0))

/-- RAIL_YIELD on every chain (12 R288). -/
def railYield (s : State) (on : Bool) : State := if !s.id.sender then s else yieldTo s (List.range 8) on

/-- Changes accepted before lockstep keep the edge that their own acceptance gives: no ACCEPT for them was exchanged. -/
def keepEdges (s : State) : State :=
  { s with changes := s.changes.map (fun c =>
      if c.edge.isNone && shared s.id.sender c.what then { c with edge := some (edgeFor s c.what c.acc) } else c) }

/-- Whether a tile of the rail still waits for its FULL delivery. -/
def railResyncs (s : State) : Bool := s.flume.dmg.any (·.resync)

/-- Lockstep entered at the edge the holder named, where no condition fails (R265). A sender that waits for the FULL
deliveries of its rail after row 3 of R284 enters at a later start. -/
def enterDue (s : State) (e : Nat) : State :=
  match s.pair.enterEdge with
  | none => s
  | some x =>
    if e < x then s
    else if s.id.sender && s.pair.fullWait && railResyncs s then s
    else
      let s1 := { s with pair := { s.pair with
        enterEdge := none, fullWait := s.pair.fullWait && !s.id.sender } }
      if whyNow s1 = 0 then setMode (keepEdges s1) 1 0 else { s1 with pair := { s1.pair with why := whyNow s1 } }

/-- A resynchronisation that ends. A sender pair enters lockstep at the canvas frame start that STATE names; on a tile pair
the holder names the edge, by an EDGE_SET with change ID 0 (log 129). -/
def resyncEnd (s : State) : State :=
  let s1 := { s with pair := { s.pair with
    resyncDone := true, resyncing := false, stateEdge := none, adopt := none } }
  let s2 := if s1.id.sender && s1.flume.yieldOn then railYield s1 false else s1
  if s2.id.sender then { s2 with pair := { s2.pair with enterEdge := s.pair.stateEdge } }
  else if whyNow s2 ≠ 0 then { s2 with pair := { s2.pair with why := whyNow s2 } }
  else if s2.pair.holding && !s2.pair.fullWait then
    let e := edgeAfter s2 (now s2)
    twinSend { s2 with pair := { s2.pair with enterEdge := some e } } (.edgeSet 0 (wt32 e))
  else s2

/-- The adoption of STATE by a sender pair at a canvas frame start (R289). -/
def adoptAtStart (s : State) (start : Nat) : State :=
  match s.pair.stateEdge with
  | none => s
  | some e =>
    if start < e then s
    else match s.pair.adopt with
      | some m => resyncEnd (adoptSender s m)
      | none => if s.pair.holding then resyncEnd s else s

/-! ### Voluntary handover (R275) -/

/-- A reset of the device `d` ns from now, for a cause kept in the always-on domain (13 R301;
19 R411, R413). -/
def resetIn (s : State) (d cause : Nat) : State :=
  { s with boot := { s.boot with resetPending := some (lt s + d), cause := cause } }

/-- Reset causes the model keeps: 1 command, 2 activation, 3 recovery request, 4 trial fallback,
5 firmware structure, 6 rail fault, 7 XIN loss, 8 thermal, 9 migration. -/
def causeCommand : Nat := 1
def causeActivate : Nat := 2
def causeRecovery : Nat := 3
def causeTrial : Nat := 4
def causeStructure : Nat := 5
def causeRail : Nat := 6
def causeXin : Nat := 7
def causeThermal : Nat := 8
def causeMigration : Nat := 9

/-- The reply of a command whose reply waited. -/
def lateReply (s : State) (c : Option CmdRef) (st : Nat) : State :=
  match c with
  | none => s
  | some c => reply s c (match findSess s c.sess with | some x => x.src | none => .mgmt) st []

/-- The status of the reply of a command that waited for a handover. -/
def followStatus (op : Nat) : Nat := if op = 0x0D20 then stPending else stOk

/-- The effect of an operation that hands over first, once nothing is held (13 R301; 19 R411, R413,
R421; 20 R436). -/
def followEffect (s : State) (ref : Option CmdRef) (op : Nat) (arg : Word) : State :=
  if op = 0x0008 then resetIn s (10 ^ 6) causeCommand
  else if op = 0x0B05 then
    resetIn { s with fl := { s.fl with bootReq := some arg.toNat } } (10 ^ 7) causeActivate
  else if op = 0x0F01 then
    let s1 := if s.id.sender then railYield s true else s
    resetIn { s1 with fl := { s1.fl with recReq := true } } (10 ^ 6) causeRecovery
  else if op = 0x0D20 then
    match ref with
    | some c => { s with sec := { s.sec with job := some (.life c arg.toNat) } }
    | none => s
  else if op = 0x0B07 then resetIn (burnMarks s) (10 ^ 6) causeTrial
  else s

/-- The reply and the effect of such an operation after its handover. -/
def afterHandover (s : State) (ref : Option CmdRef) (op : Nat) (arg : Word) : State :=
  followEffect (lateReply s ref (followStatus op)) ref op arg

/-- A command whose handover failed is refused with NOT_IN_STATE; a fallback from a trial goes on
(13 R301; 19 R413). -/
def withoutHandover (s : State) (ref : Option CmdRef) (op : Nat) (arg : Word) : State :=
  if op = 0x0B07 then afterHandover s ref op arg
  else if arg.getLsbD 31 then afterHandover s ref op (arg &&& 0x7FFFFFFF)
  else lateReply s ref stNotInState

/-- A voluntary handover begins: B0 is the first row-slot boundary at least 100 µs from now. -/
def startHandover (s : State) (cause : HoCause) : State :=
  let b0 := rowBoundary s (now s + 100000)
  let h : Handover :=
    { cause := some cause, b0 := b0, b0w := wt32 b0, acked := false, released := false, holder := true }
  twinSend { s with pair := { s.pair with handover := some h } } (.handoverReq (wt32 b0))

/-- A handover that failed: counted; its cause hears of it with `st`. -/
def handoverFailed (s : State) (h : Handover) (st : Nat) : State :=
  let s1 := bump { s with pair := { s.pair with handover := none, token := none } } pairHoFail
  match h.cause with
  | some (.command c) => notify s1 c st []
  | some (.follow r op a) => withoutHandover s1 r op a
  | _ => s1

/-- A handover that the holder has begun and cannot end, because it no longer drives. -/
def abortHandover (s : State) : State :=
  match s.pair.handover with
  | some h => if h.holder && !h.released then handoverFailed s h stInternal else s
  | none => s

/-- A handover that completed: the new holder has been seen to hold. When it drove the idle state it reports over TW, by
no message that R273 lays out: a free value (log 32). -/
def handoverDone (s : State) (h : Handover) : State :=
  let s1 := bump { s with pair := { s.pair with handover := none, token := none } } pairHandovers
  match h.cause with
  | some (.command c) =>
    let (k, s2) := takeFree s1
    notifyAt s2 c stOk (Config.drivenAt k) []
  | some (.follow r op a) => afterHandover s1 r op a
  | _ => s1

/-- An operation that first hands over when the device holds (13 R301; 19 R411, R413, R421;
20 R436): with no standby ready the handover fails at once. Bit 31 of `arg` is FORCE. -/
def handoverThen (s : State) (ref : Option CmdRef) (op : Nat) (arg : Word) : State :=
  if !s.pair.holding then afterHandover s ref op (arg &&& 0x7FFFFFFF)
  else if s.pair.handover.isSome || !standbyReady s then withoutHandover s ref op arg
  else startHandover s (.follow ref op arg)

/-! ### Resolution (R283, R284) -/

/-- A mismatch starts a resolution, or joins one that runs (R283). -/
def startResolution (s : State) (items : List Nat) : State :=
  match s.pair.resolution with
  | some r =>
    let r1 := { r with groups := r.groups ++ items.filter (fun x => !r.groups.contains x) }
    { s with pair := { s.pair with resolution := some r1 } }
  | none =>
    let r : Resolution := { start := lt s, groups := items, own := none, twin := none }
    twinSend (bump { s with pair := { s.pair with resolution := some r } } pairMismatch) (.verdict 0 0)

end Sys2Proof.Machine
end

