-- ==== Sys2Proof/Machine/Session.lean ====
section
/-! DEFINITION. Sessions, ownership, gathers, the MGMT port (02) and the class 0x00 commands other
than LINK_RETRAIN (13 R300, R301; 01 R20, R21). -/

namespace Sys2Proof.Machine

/-! ### Session keys (R35, R433) -/

/-- The loaded key of a class (20 R432). -/
def loadedKey (s : State) (keyc : Nat) : Option W256 := look keyc s.sec.keys

/-- The key SESSION_OPEN of a class is tagged under: the class key, or K_prov while the class has
none (20 R433). -/
def openKey (s : State) (keyc : Nat) : Option W256 :=
  match loadedKey s keyc with
  | some k => some k
  | none => s.sec.kprov

/-- The session key K_s (R35). -/
def sessionKey (k : W256) (num : Nat) (na : BitVec 16) (side : Side) (nh nd : W128) : W256 :=
  hmac k (label [0x53, 0x4D, 0x42, 0x31] ++ [BitVec.ofNat 8 num] ++ bytesOf 2 na
    ++ [BitVec.ofNat 8 (sideNat side)] ++ bytesOf 16 nh ++ bytesOf 16 nd)

/-- The idle limit in ns (R51). -/
def idleNs (s : State) : Nat := getF s sysSmbCfg 31 16 * 10 ^ 9

/-- The network sessions that are open. -/
def netSessions (s : State) : List Session :=
  s.smb.sess.filter (fun x => x.ref.rail.isNone && decide (x.ref.num < 8))

/-- The network session that has been idle longest. -/
def idlest (l : List Session) : Option Session :=
  l.foldl (fun m x => match m with
    | none => some x
    | some y => if x.lastAt < y.lastAt then some x else some y) none

/-- SESSION_REPLACE (R36): the session number for a new open, with room made for it; none where all
eight network sessions are open and none has been idle for longer than IDLE. -/
def roomFor (s : State) (v : Via) : Option (Nat × State) :=
  match v with
  | .mgmt => some (8, closeSess s ⟨8, none⟩)
  | _ =>
    match (List.range 8).find? (fun n => (findSess s ⟨n, none⟩).isNone) with
    | some n => some (n, s)
    | none =>
      match idlest (netSessions s) with
      | some x => if idleNs s < lt s - x.lastAt then some (x.ref.num, closeSess s x.ref) else none
      | none => none

/-- The reply to a refused SESSION_OPEN (R36). -/
def refuseOpen (s : State) (p : Smb) (k : W256) (st : Nat) : State :=
  let n := if s.smb.refuse = 0xFFFFFFFF then 1 else s.smb.refuse + 1
  let hdr := mkHeader (hLevel p.hdr) 2 (hKeyc p.hdr) 0x0001 n 15 false 0 0xF (sideBit s.id.side)
    (naOr0 s).toNat ((hSeq p.hdr).toNat * 2 ^ 32) (nowW s) st s.time.epoch.toNat
  ship { s with smb := { s.smb with refuse := n } }
    { via := p.via, hdr := hdr, payload := [], tag := tagOf k hdr [] }

/-- An accepted SESSION_OPEN (R35): the nonce, the session, its first packet, its announcement. A
sender cannot derive the key of a safety session and tags the reply under the key of the open
(log 33). -/
def openSession (s0 : State) (p : Smb) (k : W256) (num : Nat) : State :=
  let (i, s) := takeFree s0
  let nd := Config.nonce i
  let nh : W128 := BitVec.ofNat 128 (natOfWords p.payload)
  let keyc := hKeyc p.hdr
  let ks := sessionKey k num (naOr0 s) s.id.side nh nd
  let r : SRef := ⟨num, none⟩
  let key := if s.id.sender && keyc == keySafety then none else some ks
  let x : Session :=
    { ref := r, serial := s.smb.opened + 1, keyc := keyc, key := key, level := hLevel p.hdr, lastAt := lt s, hi := 0, win := 0
      dseq := 1, recent := [], queued := [], notes := [], passed := [], src := p.via }
  let words := wordsOfNat 4 nd.toNat
  let hdr := mkHeader (hLevel p.hdr) 2 keyc 0x0001 1 num false 16 0xF (sideBit s.id.side)
    (naOr0 s).toNat ((hSeq p.hdr).toNat * 2 ^ 32) (nowW s) stOk s.time.epoch.toNat
  let s1 := { s with smb := { s.smb with
    sess := x :: s.smb.sess, nhHist := (nh :: s.smb.nhHist).take 64, opened := s.smb.opened + 1 } }
  let s2 := ship s1 { via := p.via, hdr := hdr, payload := words, tag := tagOf (key.getD k) hdr words }
  if s.id.sender then
    linkCast s2 (List.range 9) (.announce s.id.side num keyc (naOr0 s) s.id.side nh nd false)
  else s2

/-- SESSION_OPEN with SESS 0xF (R35, R36, R39, R40, R42; 20 R432). -/
def openPath (p : Smb) (s0 : State) : State :=
  let s := freeBuf s0 p
  let relayed := match p.via with | .relay _ => true | _ => false
  if relayed then drop3 s p
  else if !reaches 0x0001 s0 p then stray s0 p
  else match policed s p 2 with
    | none => smbDrop s 2
    | some s =>
      if !(shapeOk p && levelOk s p) || hDmode p.hdr != 0 then drop3 s p
      else match openKey s (hKeyc p.hdr) with
        | none => drop3 s p
        | some k =>
          if !tagOk (some k) p then drop3 s p
          else
            let nh : W128 := BitVec.ofNat 128 (natOfWords p.payload)
            if !issueOk s p then refuseOpen s p k stReplay
            else
              let s := countNotime s p
              if inRecovery s && hKeyc p.hdr != keyUpdate then refuseOpen s p k stAuthFail
              else if p.payload.length ≠ 4 then refuseOpen s p k stBadLength
              else if s.smb.nhHist.contains nh then refuseOpen s p k stReplay
              else if !s.sec.entropyOk then refuseOpen s p k stInternal
              else match roomFor s p.via with
                | none => refuseOpen s p k stBusy
                | some (n, t) => openSession t p k n

/-- SESSION_OPEN (R35). An open sent inside an open session is a known opcode in no state to be
carried out there: it is refused with BAD_PARAM (log 34). -/
def execSessionOpen (p : Smb) (s : State) : Out1 :=
  act s fun s =>
    if hSess p.hdr = 15 then openPath p s
    else hostCommand 0x0001 (fun _ _ s => .no s stBadParam) p s

/-- SESSION_CLOSE (R37, R45): the reply is tagged under the closing session's key. A relayed slot
closes only when its sender withdraws it. -/
def sessionCloseRule : Handler := withLen 0 fun c _ s =>
  ⟨stOk, [], s, false, fun t => if c.sess.rail.isSome then t else closeSess t c.sess⟩

def execSessionClose (p : Smb) (s : State) : Out1 := smibenRow 0x0002 sessionCloseRule p s

/-- SESSION_IDLE_CLOSE (R36): time runs on until the session has been idle for longer than IDLE. A
tile does not time relayed sessions (R37). -/
def execSessionIdleClose (n : Nat) (s : State) : Out1 :=
  act s fun s =>
    match findSess s ⟨n, none⟩ with
    | some x =>
      let s1 := toLt (x.lastAt + idleNs s + 4) s
      closeSess s1 x.ref
    | none => s

/-- SESSION_ANNOUNCE (R37): a tile takes or gives up the slot named by SESS and RAIL, and passes the
announcement on; a sender passes on its twin's. A tile without the class key keeps the slot, whose
packets then fail step 4. The announcement carries no level: until its first command the session has the highest
level the tile accepts (log 93). -/
def execSessionAnnounce (rail : Side) (n keyc : Nat) (na : BitVec 16) (side : Side) (nh nd : W128)
    (withdraw : Bool) (s : State) : Out1 :=
  act s fun s =>
    let m : CtlBody := .announce rail n keyc na side nh nd withdraw
    if s.id.sender then
      if rail = s.id.side then s else linkCast s (List.range 8) m
    else
      let r : SRef := ⟨n, some rail⟩
      let s1 := linkCast (closeSess s r) [1, 2] m
      if withdraw ∨ 8 ≤ n then s1
      else
        let x : Session :=
          { ref := r, serial := s1.smb.opened + 1, keyc := keyc
            key := (loadedKey s keyc).map (fun k => sessionKey k n na side nh nd)
            level := smbHigh s, lastAt := lt s, hi := 0, win := 0, dseq := 0, recent := []
            queued := [], notes := [], passed := [], src := .relay rail }
        { s1 with smb := { s1.smb with sess := x :: s1.smb.sess, opened := s1.smb.opened + 1 } }

/-! ### PING, CLAIM, RELEASE, NOTICE_FETCH -/

/-- PING (R301). -/
def pingRule : Handler := fun _ p s =>
  if 16 < p.payload.length then .no s stBadLength
  else .ok s (wt80 s.time.valid (now s) ++ p.payload)

def execPing (p : Smb) (s : State) : Out1 := smibenRow 0x0003 pingRule p s

/-- CLAIM (R44, R45). On a takeover the displaced session receives an event with the domain and the
new number. -/
def claimRule : Handler := withLen 2 fun c p s =>
  let d := fld (pw p 0) 1 0
  let n := pw p 1
  if d = 3 ∨ n = 0 then .no s stBadParam
  else
    let mine : Option Owner := some ⟨c.sess, n⟩
    match ownerOf s d with
    | none => .ok (setOwner s d mine) []
    | some o =>
      if o.sess = c.sess then .ok (setOwner s d mine) []
      else if o.claim < n then
        .ok (eventTo (setOwner s d mine) o.sess 0x0004 0 [w32 d, n]) []
      else .noW s stNotOwner [o.claim]

def execClaim (p : Smb) (s : State) : Out1 := smibenRow 0x0004 claimRule p s

/-- RELEASE (R45). -/
def releaseRule : Handler := withLen 1 fun c p s =>
  let d := fld (pw p 0) 1 0
  if d = 3 then .no s stBadParam
  else match ownerOf s d with
    | none => .ok s []
    | some o => if o.sess = c.sess then .ok (setOwner s d none) [] else .no s stNotOwner

def execRelease (p : Smb) (s : State) : Out1 := smibenRow 0x0005 releaseRule p s

/-- A kept notification sent again under a new device SEQ (R49, R301). -/
def sendAgain (c : CmdRef) (q : Packet) (s : State) : State :=
  (sendIn s c.sess 3 (hLevel q.hdr) (hOpcode q.hdr) (hEcho q.hdr) (hIssue q.hdr) (hStatus q.hdr)
    (q.hdr.getLsbD 186) q.payload none).1

/-- NOTICE_FETCH (R49). -/
def noticeFetchRule : Handler := withLen 1 fun c p s =>
  match (findSess s c.sess).bind (fun x => look (pw p 0) x.notes) with
  | none => .no s stNotInState
  | some q => ⟨stOk, [], s, false, sendAgain c q⟩

def execNoticeFetch (p : Smb) (s : State) : Out1 := smibenRow 0x0006 noticeFetchRule p s

/-! ### RESET and the commands that hand over first -/

/-- A command whose effect hands over first (R301): with nothing held it takes effect at once; with
no standby ready it is refused unless forced; otherwise its reply waits for the handover. -/
def followRes (c : CmdRef) (s : State) (op : Nat) (arg : Word) (force : Bool) : Res :=
  let go : Res := ⟨followStatus op, [], s, false, fun t => followEffect t (some c) op arg⟩
  if !s.pair.holding then go
  else if s.pair.handover.isSome || !standbyReady s then
    if force then go else .no s stNotInState
  else .later (startHandover s (.follow (some c) op (arg ||| flagAt force 31)))

/-- RESET (R301). -/
def resetRule : Handler := withLen 1 fun c p s => followRes c s 0x0008 0 (bit (pw p 0) 0)

def execReset (p : Smb) (s : State) : Out1 := smibenRow 0x0008 resetRule p s

/-! ### ENROL and UNENROL (01 R20, R21; 13 R301) -/

/-- The place word in words 0 and 1 of a payload. -/
def placeArg (p : Smb) : BitVec 64 := BitVec.ofNat 64 ((pw p 0).toNat * 2 ^ 32 + (pw p 1).toNat)

/-- The node address as it will stand once the ENROL and UNENROL writes accepted before have been carried out
(02 R40). -/
def willNa (s : State) : Option (BitVec 16) :=
  (s.fl.queue ++ s.fl.deferred).foldl (fun n x => match x.op with
    | .enrol na => some na
    | .unenrol => none
    | _ => n) s.id.na

/-- What ENROL does on the device it reaches. -/
def enrolHere (c : CmdRef) (na : BitVec 16) (s : State) : Res :=
  match willNa s with
  | some n => if n = na then .ok s [] else .no s stNotInState
  | none =>
    let (t, st) := flashAsk s (.enrol na) (some c) 2 false
    if st = stPending then .pend t else .no t st

/-- The addresses a sender's enrolment table holds or awaits (01 R21, R23). -/
def enrolAll (s : State) : List (BitVec 16 × BitVec 64) :=
  s.flume.enrolling.foldl (fun l e => if l.contains (e.na, e.place) then l else l ++ [(e.na, e.place)]) s.flume.enrolled

/-- ENROL at a sender for a place below it: the table judges it, with the addresses still being enrolled (02 R40),
then it is routed by the place and the side mask, and the answers are gathered. -/
def enrolBelow (c : CmdRef) (p : Smb) (na : BitVec 16) (pl : BitVec 64) (s : State) : Res :=
  let go : Res := .later (relayTo { s with flume := { s.flume with
    enrolling := ⟨na, pl, sidesOf (fld (pw p 2) 1 0), c⟩ :: s.flume.enrolling } } 0x0010 p [(na, pl)])
  match (enrolAll s).find? (fun e => e.1 == na) with
  | some e => if e.2 = pl then go else .noW s stConflict [conflictWord 0x0A 1 na.toNat]
  | none => if 512 ≤ (enrolAll s).length then .no s stBadParam else go

/-- ENROL (01 R20, R21). Over MGMT a tile carries it out only where the place word is its own and the side mask
names it (13 R301; log 50). -/
def enrolRule : Handler := withLen 3 fun c p s =>
  let pl := placeClean (placeArg p)
  let na : BitVec 16 := BitVec.ofNat 16 (fld (pw p 2) 31 16)
  let m := fld (pw p 2) 1 0
  if m = 0 ∨ !placeOk pl then .no s stBadParam
  else if s.id.sender then
    if plHop pl = 0 then
      if (sidesOf m).contains s.id.side then enrolHere c na s else .no s stBadParam
    else enrolBelow c p na pl s
  else if routeOf pl ≠ routeOf s.id.place ∨ !s.id.placeOk ∨ !(sidesOf m).contains s.id.side then
    .no s stBadParam
  else enrolHere c na s

def execEnrol (p : Smb) (s : State) : Out1 := smibenRow 0x0010 enrolRule p s

/-- VALID of SYS.NA cleared, the settings record to follow. -/
def unenrolHere (s : State) : State :=
  (flashAsk { s with id := { s.id with na := none } } .unenrol none 2 false).1

/-- UNENROL (01 R20). A sender routes it by its own NA or by its enrolment table. -/
def unenrolRule : Handler := withLen 1 fun _ p s =>
  let na : BitVec 16 := BitVec.ofNat 16 (fld (pw p 0) 31 16)
  let m := fld (pw p 0) 1 0
  if m = 0 then .no s stBadParam
  else if willNa s = some na then
    if (sidesOf m).contains s.id.side then .ok (unenrolHere s) [] else .no s stBadParam
  else if s.id.sender then
    match (enrolAll s).find? (fun e => e.1 == na) with
    | some e => .later (relayTo s 0x0011 p [e])
    | none => .no s stBadParam
  else .no s stBadParam

def execUnenrol (p : Smb) (s : State) : Out1 := smibenRow 0x0011 unenrolRule p s

/-! ### Unknown opcodes -/

/-- UNKNOWN_OPCODE (R296): a code that no table lists, or one not known in recovery mode. -/
def execUnknownOpcode (p : Smb) (s : State) : Out1 :=
  act s fun s =>
    let op := hOpcode p.hdr
    if (opSpec op).isSome && !(inRecovery s && !knownInRecovery op) then s
    else hostCommand op (fun _ _ s => .no s stBadOpcode) p s

/-! ### Gathers (R50) -/

/-- A place of a sender enrolled under an address (01 R21). -/
def enrolPut (s : State) (na : BitVec 16) (pl : BitVec 64) : State :=
  { s with flume := { s.flume with
    enrolled := (na, pl) :: s.flume.enrolled.filter (fun e => e.2 ≠ pl)
    enrolling := s.flume.enrolling.filter (fun e => e.na ≠ na) } }

/-- An address taken out of the enrolment table, with the tile rectangle it gave a right to (01 R21, R23); a rectangle
staged for it ends at the canvas latch (02 R40). Where an UNENROL names one side only, the position leaves the table
all the same (log 50). -/
def enrolDrop (s : State) (na : BitVec 16) : State :=
  { s with
    flume := { s.flume with
      enrolled := s.flume.enrolled.filter (fun e => e.1 ≠ na)
      enrolling := s.flume.enrolling.filter (fun e => e.na ≠ na) }
    canvas := { s.canvas with rects := s.canvas.rects.filter (fun r => r.na ≠ na) } }

/-- The ENROL a packet from the place `route` answers, while the side it came from may still take the address. -/
def enrolOf (s : State) (route : BitVec 40) (p : Packet) (side : Side) : Option Enrolling :=
  s.flume.enrolling.find? (fun e => (liveSess s e.ref).isSome && e.ref.sess == ⟨hSess p.hdr, none⟩
    && e.ref.seq == hEcho p.hdr && routeOf e.place == route && e.sides.contains side)

/-- The enrolment table of a sender after a device's answer to ENROL, a reply or a notification, be it too late for the
summary: an ENROL counts at its first OK, or at a PENDING that no notification will follow (log 50); a side that
answers otherwise will not take the address, and one that answers PENDING may. -/
def enrolLearnt (s : State) (route : BitVec 40) (p : Packet) : State :=
  let side := if hSides p.hdr = 2 then Side.B else Side.A
  let st := hStatus p.hdr
  match enrolOf s route p side with
  | none => s
  | some e =>
    if st = stOk || (st = stPending && e.ref.nonote) then enrolPut s e.na e.place
    else if st = stPending then s
    else enrolLess s e.ref (· == side)

/-- The target of a gather that a packet from a device answers: by its side and the place its control packet came
from (06 R129). -/
def answerer (g : Gather) (route : BitVec 40) (p : Packet) : Option GTarget :=
  let x := if hSides p.hdr = 2 then Side.B else Side.A
  g.targets.find? (fun t => t.side = x && (look t g.answers).isNone && routeOf t.place == route)

/-- The device clock a notification names, with its VALID (02 R47). -/
def noteInstant (p : Packet) : Nat × Bool :=
  (clkOfWords ((p.payload.getD 0 0) <<< 16) (p.payload.getD 1 0) (p.payload.getD 2 0), bit (p.payload.getD 0 0) 31)

/-- A safety session whose device has answered under its key: the command was accepted there, which renews the session at
the sender that relayed it and names where its notifications go (02 R33, R36; log 93). -/
def renewRelayed (s : State) (g : Gather) (k st : Nat) : State :=
  if g.ref.keyc = keySafety ∧ k = 2 ∧ st ≠ stReplay then
    updSess s g.ref.sess (fun y => { y with lastAt := lt s, src := g.via })
  else s

/-- A notification that comes before the summary reply of its command, kept for the gather of notifications that
follows (R50). -/
def takeEarly (s : State) (g : Gather) (route : BitVec 40) (p : Packet) : State :=
  let side := if hSides p.hdr = 2 then Side.B else Side.A
  let (at_, ok) := noteInstant p
  match g.targets.find? (fun t => t.side == side && routeOf t.place == route && (look t g.early).isNone) with
  | none => s
  | some t => { s with smb := { s.smb with gathers := s.smb.gathers.map (fun y =>
      if y.id = g.id then
        { g with early := (t, hStatus p.hdr, at_, ok) :: g.early, earlyAt := some (g.earlyAt.getD (lt s)) }
      else y) } }

/-- An answer of the one device a command names passes on to where the command came from, its notification to where the
session last sent a command from (R33). -/
def takeSingle (s : State) (x : Session) (g : Gather) (p : Packet) : State :=
  let k := hKind p.hdr
  let s2 := passAnswer s x p (if k = 2 then g.via else sessVia s x.ref)
  let s3 := if k = 2 then updSess s2 x.ref (fun y => { y with
      recent := y.recent.map (fun e => if e.1 = g.ref.seq then (e.1, some p) else e) })
    else s2
  if k = 3 ∨ hStatus p.hdr ≠ stPending ∨ g.ref.nonote then
    { s3 with smb := { s3.smb with gathers := s3.smb.gathers.filter (fun y => y.id ≠ g.id) } }
  else s3

/-- An answer taken into the gather it belongs to (R50): the summary follows the last one. -/
def takeAnswer (s : State) (x : Session) (g : Gather) (t : GTarget) (p : Packet) : State :=
  let k := hKind p.hdr
  let st := hStatus p.hdr
  let s1 := renewRelayed (if g.ref.opcode = 0x0011 ∧ k = 2 ∧ st = stOk then enrolDrop s t.na else s) g k st
  if g.single then takeSingle s1 x g p
  else
    let (at_, ok) := if k = 3 then noteInstant p else (0, false)
    let g1 := { noteTaken g t st at_ ok with
      deadline := if g.deadline = 0 then lt s1 + gatherNs s1 else g.deadline }
    let s2 := { s1 with smb := { s1.smb with
      gathers := s1.smb.gathers.map (fun y => if y.id = g.id then g1 else y) } }
    if g1.answers.length = g1.targets.length then endGather s2 g1 else s2

/-- A packet of a device on its way to a host arrives at the sender from the place `route` (R33, R50): an answer to a
single device passes on to where the command came from, the others are gathered, and a late one is discarded. Events
pass on. -/
def deviceAnswer (s0 : State) (route : BitVec 40) (p : Packet) : State :=
  match findSess s0 ⟨hSess p.hdr, none⟩ with
  | none => s0
  | some x =>
    if hKind p.hdr = 4 then passAnswer s0 x p x.src
    else
      let s := enrolLearnt s0 route p
      let note := hKind p.hdr == 3
      let mine (g : Gather) : Bool := g.ref.sess == x.ref && g.ref.serial == x.serial && g.ref.seq == hEcho p.hdr
      match s.smb.gathers.find? (fun g => mine g && (g.single || g.notes == note)) with
      | some g => match answerer g route p with
        | some t => takeAnswer s x g t p
        | none => s
      | none => match s.smb.gathers.find? (fun g => mine g && note) with
        | some g => takeEarly s g route p
        | none => s

/-- SUMMARY_GATHER_TIMEOUT (R50). -/
def execSummaryGatherTimeout (n : Nat) (s : State) : Out1 :=
  act s fun s =>
    match s.smb.gathers.find? (fun g => g.id == n && !g.single && g.deadline != 0) with
    | some g => endGather (toLt g.deadline s) g
    | none => s

/-! ### The MGMT port (R33, R34) -/

/-- The bytes of a packet on the wire (R29). -/
def packetBytes (p : Packet) : List Byte :=
  bytesOf 32 p.hdr ++ bytesOfWords p.payload ++ bytesOf 16 p.tag

/-- MGMT_WRITE_PACKET (R34): the packet takes the command buffer, to be checked as the command it
is; a packet written while the buffer is held is dropped under class 2. -/
def execMgmtWritePacket (p : Smb) (s : State) : Out1 :=
  act s fun s =>
    if s.smb.cmdBuf.isSome then smbDrop s 2 else { s with smb := { s.smb with cmdBuf := some p } }

/-- MGMT_READ_PACKET (R33): a 2-byte length and the oldest waiting packet, or a length of 0. MGMT_INT_N rises with the
last packet read. -/
def execMgmtReadPacket (s : State) : Out1 :=
  act s fun s =>
    match s.smb.mgmtOut with
    | [] => emit s (.busRead [0, 0])
    | p :: r =>
      let b := packetBytes p
      let t := emit { s with smb := { s.smb with mgmtOut := r } }
        (.busRead (bytesOf 2 (BitVec.ofNat 16 b.length) ++ b))
      if r = [] then emit t (.pin pinMgmtInt true) else t

/-- The MGMT status byte: bit 0 the device can take a command, bit 1 a packet is waiting. -/
def mgmtStatus (s : State) : Byte :=
  (if s.smb.cmdBuf.isSome then 0 else 1) + (if s.smb.mgmtOut = [] then 0 else 2)

/-- MGMT_READ_STATUS (R33). -/
def execMgmtReadStatus (s : State) : Out1 := act s fun s => emit s (.busRead [mgmtStatus s])

end Sys2Proof.Machine
end

