-- ==== Sys2Proof/Machine/FlashOps.lean ====
section
/-! DEFINITION. What the flash operations write: settings records and Badger records (19 R416,
R418; 08 R186), firmware slots and their verification (19 R405, R408 to R410), and the request of a
write of the settings record. -/

namespace Sys2Proof.Machine

/-! ### Settings records (R416, R418) -/

/-- The kept values in effect of the settings record (14 R324). -/
def settingsNow (s : State) : List (Nat × Word) :=
  s.par.filter (fun e => match findRow s.id.sender e.1 with
    | some r => r.kept == .settings
    | none => false)

/-- The content of the settings record a write makes now. -/
def settingsBody (s : State) (seq : Word) : SetRec :=
  { ver := s.fl.fw.setVer, seq := seq, kept := s.fl.saved, na := s.id.na
    enrolled := s.flume.enrolled
    regions := s.flume.regions.map (fun r => (r.num, r.words))
    watches := s.flume.watches.map (fun w => (w.num, w.words))
    policies := s.lamp.policies.map (fun p => (p.region, p.pol)) }

/-- SEQ of a copy; 0 where there is none. -/
def setSeq (r : Option SetRec) : Word := match r with | some x => x.seq | none => 0

/-- Both settings copies written: first the copy with the lower SEQ, taking the highest SEQ plus 1,
then the other with SEQ plus 2 (R416). -/
def writeSettings (s : State) : State :=
  let a := setSeq s.fl.setA
  let b := setSeq s.fl.setB
  let m := if a < b then b else a
  if a ≤ b then
    { s with fl := { s.fl with
      setA := some (settingsBody s (m + 1)), setB := some (settingsBody s (m + 2)) } }
  else
    { s with fl := { s.fl with
      setB := some (settingsBody s (m + 1)), setA := some (settingsBody s (m + 2)) } }

/-- A write of the settings record raised: during a trial it waits for FW_CONFIRM (R418). -/
def settingsAsk (s : State) (op : FlashOp) (ref : Option CmdRef) : State × Nat :=
  if s.fl.trial then
    let x : FlashItem := { id := s.fl.next, op := op, ref := ref, ready := true }
    ({ s with fl := { s.fl with next := s.fl.next + 1, deferred := s.fl.deferred ++ [x] } }, stPending)
  else flashAsk s op ref 2 false

/-! ### Badger records (08 R186; 19 R418) -/

/-- SEQ of a Badger copy. -/
def bdgSeq (r : Option BdgRec) : Word := match r with | some x => x.seq | none => 0

/-- A change applied to the content of a Badger record. -/
def bdgApply (c : BdgChange) (r : BdgRec) : BdgRec :=
  match c with
  | .params l => { r with kept := l.foldl (fun k e => insertKey e.1 e.2 k) r.kept }
  | .define f w => { r with fields := insertKey f w r.fields }
  | .remove f => { r with fields := r.fields.filter (fun e => e.1 ≠ f) }
  | .glyph g => { r with glyphs := g :: r.glyphs.filter (fun x => x.index ≠ g.index) }
  | .erase i => { r with glyphs := r.glyphs.filter (fun x => x.index ≠ i) }

/-- A Badger record written: both copies as settings copies are; in a trial the trial copy alone,
the one with the lower SEQ at the first such write (R418). -/
def writeBadger (s : State) (f : BdgRec → BdgRec) : State :=
  let n := f { s.fl.bdgNow with ver := s.fl.fw.bdgVer }
  let a := bdgSeq s.fl.bdgA
  let b := bdgSeq s.fl.bdgB
  let m := if a < b then b else a
  let put (t : State) (k : Nat) (q : Word) : State :=
    if k = 0 then { t with fl := { t.fl with bdgNow := n, bdgA := some { n with seq := q } } }
    else { t with fl := { t.fl with bdgNow := n, bdgB := some { n with seq := q } } }
  let low := if a ≤ b then 0 else 1
  if s.fl.trial then
    let k := s.fl.trialCopy.getD low
    let t := put s k (m + 1)
    { t with fl := { t.fl with trialCopy := some k } }
  else put (put s low (m + 1)) (1 - low) (m + 2)

/-! ### Firmware slots (R405, R407 to R410) -/

/-- The slot that is not running. -/
def otherSlot (s : State) : Nat := 1 - s.fl.run

/-- Slot `k` of the flash. -/
def slotOf (s : State) (k : Nat) : Slot := if k = 0 then s.fl.slotA else s.fl.slotB

/-- Slot `k` replaced. -/
def setSlot (s : State) (k : Nat) (x : Slot) : State :=
  if k = 0 then { s with fl := { s.fl with slotA := x } }
  else { s with fl := { s.fl with slotB := x } }

/-- Blocks of an image of `len` bytes. -/
def blocksOf (len : Nat) : Nat := cdiv len 4096

/-- A slot's state: WRITTEN is read from the block map (R407). -/
def slotState (s : State) (k : Nat) : Nat :=
  let b := bootCur s
  if b.st k = 1 then
    if (List.range (blocksOf (b.len k))).all (fun i => (slotOf s k).marked.contains i) then 2 else 1
  else if s.fl.trial && k == s.fl.run then 4
  else b.st k

/-- The words of a slot's image of `len` bytes. -/
def imageWords (x : Slot) (len : Nat) : List Word :=
  ((List.range (blocksOf len)).flatMap (fun i => (look i x.data).getD (List.replicate 1024 0))).take
    (cdiv len 4)

/-- Word `i` of a slot's image. -/
def imgWord (x : Slot) (i : Nat) : Word :=
  ((look (i / 1024) x.data).getD []).getD (i % 1024) 0

/-- The header of a slot's image (R405). -/
def headerOf (x : Slot) : ImgHdr :=
  { version := imgWord x 1
    roles := fld (imgWord x 2) 31 24
    steps := fld (imgWord x 2) 23 16
    rollback := fld (imgWord x 2) 15 8
    smbHigh := fld (imgWord x 3) 31 24
    flHigh := fld (imgWord x 3) 23 16
    setVer := fld (imgWord x 3) 15 8
    setMin := fld (imgWord x 3) 7 0
    bdgVer := fld (imgWord x 4) 31 24
    bdgMin := fld (imgWord x 4) 23 16
    len := (imgWord x 5).toNat }

/-- The header checks of R410 against the size and version given, or none where they are not known:
0, or the WHY of the failure. -/
def headerWhy (s : State) (x : Slot) (given : Option (Nat × Word)) : Nat :=
  let h := headerOf x
  let role := if s.id.sender then h.roles / 2 % 2 == 1 else h.roles % 2 == 1
  let ok := imgWord x 0 == 0x4D4B4657 && role && (h.steps >>> s.id.step) % 2 == 1
    && (match given with | some (l, v) => h.len == l && h.version == v | none => true)
  if !ok then 2 else if h.rollback < s.otp.rollback then 3 else 0

/-- Verification of a slot under a signature (R410): 0, or the WHY of the failure. -/
def verifyWhy (s : State) (x : Slot) (sig : List Word) (given : Option (Nat × Word)) : Nat :=
  let len := match given with | some (l, _) => l | none => (headerOf x).len
  if !Config.slhVerify s.otp.vkey (imageWords x len) sig then 1 else headerWhy s x given

/-- Whether a download is open with its credits held. -/
def dlOpen (s : State) : Bool := s.fl.dl.isSome

/-- The slot that is not running with its entry in the boot record, and whether a download is open. -/
structure FwView where
  st : Nat
  len : Nat
  ver : Word
  slot : Slot
  dl : Bool

/-- Whether every block of the image is marked. -/
def FwView.full (v : FwView) : Bool := (List.range (blocksOf v.len)).all (fun i => v.slot.marked.contains i)

/-- WRITING or WRITTEN (R407). -/
def FwView.writing (v : FwView) : Bool := v.st == 1

/-- What a queued operation on firmware leaves (R408 to R410). -/
def FwView.after (s : State) (v : FwView) (x : FlashItem) : FwView :=
  match x.op with
  | .fwBegin size ver next =>
    if next = 0 then { v with st := 1, len := size, ver := ver, slot := { v.slot with marked := [] }, dl := true }
    else { v with dl := true }
  | .fwBlock off data => { v with slot := { v.slot with
      data := put (off / 4096) data v.slot.data, marked := insertNat (off / 4096) v.slot.marked } }
  | .fwVerified sig => { v with
      st := if verifyWhy s v.slot sig (some (v.len, v.ver)) = 0 then 3 else 6, dl := false }
  | .fwAbort => { v with st := if v.st = 1 then 0 else v.st, dl := false }
  | _ => v

/-- The slot that is not running as it stands. -/
def fwNow (s : State) : FwView :=
  let k := otherSlot s
  let b := bootCur s
  { st := b.st k, len := b.len k, ver := b.ver k, slot := slotOf s k, dl := dlOpen s }

/-- The slot that is not running as it will stand once the flash operations raised before have been carried out
(02 R40). -/
def fwSoon (s : State) : FwView := s.fl.queue.foldl (FwView.after s) (fwNow s)

/-- The first offset of a view whose block is not marked. -/
def FwView.next (v : FwView) : Nat :=
  match (List.range (blocksOf v.len)).find? (fun i => !v.slot.marked.contains i) with
  | some i => 4096 * i
  | none => v.len

/-- What is wrong with an FW_BLOCK of `n` words at offset `off` (R409); 0 where nothing is. -/
def FwView.blockWhy (v : FwView) (off n : Nat) : Nat :=
  if !v.dl || !v.writing then stNotInState
  else if off % 4096 ≠ 0 ∨ v.len ≤ off ∨ n ≠ cdiv (min 4096 (v.len - off)) 4 then stBadParam
  else stOk

/-! ### FWU status words (R424) -/

def fwuStsWord (s : State) : Word :=
  flagAt (s.fl.run == 1) 31 ||| flagAt s.fl.trial 30
    ||| mkFld 29 28 (bootCur s).marks ||| flagAt s.fl.migFail 27 ||| flagAt s.fl.fallback 26
    ||| flagAt (dlOpen s) 25 ||| mkFld 15 8 s.fl.loops

def fwuSlotWord (s : State) (k : Nat) : Word :=
  let b := bootCur s
  let st := slotState s k
  mkFld 31 28 st ||| flagAt (b.active == k) 27 ||| mkFld 23 16 (if st = 6 then b.why k else 0)
    ||| mkFld 12 0 (slotOf s k).marked.length

def fwuVerWord (s : State) (k : Nat) : Word :=
  if slotState s k = 0 then 0 else (bootCur s).ver k

/-- The confirmation deadline in ms of operating time (R413). -/
def trialEnd (s : State) : Nat := (bootCur s).armTime + 60000 * getF s fwuCfg 31 16

/-- Seconds to the deadline. -/
def confLeft (s : State) : Nat := if s.fl.trial then (trialEnd s - opTime s) / 1000 else 0

/-! ### Event records on flash (20 R425, R428) -/

/-- A record as its 32 words (20 R425). -/
def recWords (r : Rec) : List Word :=
  let snap := (r.snap ++ List.replicate (16 - r.snap.length) 0).take 16
  let body := [w32 (r.trig * 2 ^ 16 + min 16 r.snap.length * 2 ^ 8)
      ||| flagAt r.valid 7 ||| flagAt (r.side == .B) 6 ||| flagAt r.sender 5, r.pcc, r.rseq]
    ++ wordsOfNat 5 (r.optime % 2 ^ 48 * 2 ^ 112 + r.wt / 10 ^ 9 % 2 ^ 48 * 2 ^ 64
      + r.wt % 10 ^ 9 * 2 ^ 32 + r.epoch.toNat * 2 ^ 24 + r.na.toNat)
  let all := body ++ snap ++ [r.fwver] ++ List.replicate 6 0
  all ++ [crc32 (bytesOfWords all)]

/-- A record put at the head of the archive: the sector after the head is kept erased, which
discards the oldest 32 records it held (20 R428). -/
def arcPut (s : State) (r : Rec) : State :=
  let h := s.rcd.arcHead
  { s with rcd := { s.rcd with
    archive := (r :: s.rcd.archive).take (262144 - 64 + h % 32 + 1)
    arcHead := (h + 1) % 262144 } }

/-- The unarchived records of the ring copied to the archive in RSEQ order (20 R428). Once the ring
has room again, a loss of records is recorded under trigger 0x0C20. -/
def archiveAll (s : State) : State :=
  let l := (s.rcd.ring.take s.rcd.unarch).reverse
  let s1 := l.foldl arcPut s
  let lost := s.rcd.lostNow
  let s2 := { s1 with rcd := { s1.rcd with unarch := 0, lostNow := 0 } }
  if lost = 0 then s2 else record s2 0x0C20 [w32 lost]

end Sys2Proof.Machine
end

