-- ==== Sys2Proof/Machine/Firmware.lean ====
section
/-! DEFINITION. Firmware download, verification, activation, trial and recovery (19; 13 R312, R316),
and the end of a flash operation (19 R404). -/

namespace Sys2Proof.Machine

/-! ### Download (R408, R409) -/

/-- The credits of a download returned. -/
def closeDownload (s : State) : State :=
  creditReturn { s with fl := { s.fl with dl := none } }
    (fun o => match o with | .download _ _ _ _ => true | _ => false)

/-- An FW_VERIFY at the head of the flash queue with its credits begins: the download's credits return (R408). -/
def fwTurn (s : State) : State :=
  match flashHead s with
  | some x => (match x.op with | .fwVerified _ => closeDownload s | _ => s)
  | none => s

/-- The flash operation of the command `c` has its credits. -/
def fwReady (s : State) (c : CmdRef) : State :=
  fwTurn { s with fl := { s.fl with
    queue := s.fl.queue.map (fun x => if x.ref = some c then { x with ready := true } else x) } }

/-- The flash operation of the command `c` refused its credits: it leaves the queue, and the command hears of it
(17 R376). -/
def fwNoCredit (s : State) (c : CmdRef) : State :=
  notify (fwTurn { s with fl := { s.fl with queue := s.fl.queue.filter (fun x => x.ref ≠ some c) } }) c stNoCredit []

/-- A download opened, its boot record in the flash queue. -/
def openDownload (s : State) (c : CmdRef) (size : Nat) (ver : Word) (next : Nat) : State :=
  flashPut { s with fl := { s.fl with dl := some (lt s) } } (.fwBegin size ver next) (some c) true

/-- The credits of a waiting FW_BEGIN have come: its download opens. Where another has opened it before, they go
back. -/
def downloadGranted (s : State) (c : CmdRef) : State :=
  if dlOpen s then
    fwReady (creditReturn s (fun o => match o with | .download d _ _ _ => d == c | _ => false)) c
  else fwReady { s with fl := { s.fl with dl := some (lt s) } } c

/-- FW_BEGIN (R408), judged on the slot as the operations queued before it leave it (02 R40). -/
def fwBeginRule : Handler := withLen 3 fun c p s =>
  let size := (pw p 0).toNat
  let ver := pw p 1
  let v := fwSoon s
  if size = 0 ∨ 16777216 < size ∨ s.fl.trial then .no s stBadParam
  else if nvStop s then .no (nvRefuse s) stNvHeld
  else
    let next := if bit (pw p 2) 0 && v.writing && v.len == size && v.ver == ver then v.next else 0
    if dlOpen s && v.dl then .pend (openDownload s c size ver next)
    else match sluiceAsk s (.download c size ver next) 2 5 0 with
      | (t, .granted _) => .pend (openDownload t c size ver next)
      | (t, .waiting _) => .pend (flashPut t (.fwBegin size ver next) (some c) false)
      | (t, .refused) => .no t stNoCredit

def execFwBegin (p : Smb) (s : State) : Out1 := smibenRow 0x0B01 fwBeginRule p s

/-- FW_BLOCK (R409), judged on the slot as the operations queued before it leave it (02 R40). -/
def fwBlockRule : Handler := fun c p s =>
  let off := (pw p 0).toNat
  let data := p.payload.drop 1
  let why := (fwSoon s).blockWhy off data.length
  if p.payload = [] then .no s stBadLength
  else if why ≠ stOk then .no s why
  else
    let (t, st) := flashAsk s (.fwBlock off data) (some c) 2 true
    if st = stPending then .pend { t with fl := { t.fl with dl := t.fl.dl.map (fun _ => lt t) } } else .no t st

def execFwBlock (p : Smb) (s : State) : Out1 := smibenRow 0x0B02 fwBlockRule p s

/-- DOWNLOAD_IDLE_TIMEOUT (R408): after 10 minutes without an FW_BLOCK the credits return, and the
slot stays WRITING. -/
def execDownloadIdleTimeout (s : State) : Out1 :=
  act s fun s =>
    match s.fl.dl with
    | some t => closeDownload (toLt (t + 600 * 10 ^ 9) s)
    | none => s

/-! ### Verification (R410) -/

/-- FW_VERIFY (R410): the verification takes its turn in the flash queue once it has its credits (R404). -/
def fwVerifyRule : Handler := withLen 1964 fun c p s =>
  let v := fwSoon s
  if !(v.writing && v.full) then .no s stNotInState
  else if nvStop s then .no (nvRefuse s) stNvHeld
  else match sluiceAsk s (.verify c) 2 8 0 with
    | (t, .granted _) => .pend (fwTurn (flashPut t (.fwVerified p.payload) (some c) true))
    | (t, .waiting _) => .pend (flashPut t (.fwVerified p.payload) (some c) false)
    | (t, .refused) => .no t stNoCredit

/-- What a verification finds when it runs (R410): the slot VERIFIED with its signature stored, or BAD with the reason;
NOT_IN_STATE where a block written before it has failed. -/
def verifySlot (s : State) (k : Nat) (sig : List Word) : State × Nat :=
  let b := bootCur s
  if slotState s k ≠ 2 then (s, stNotInState)
  else
    let why := verifyWhy s (slotOf s k) sig (some (b.len k, b.ver k))
    if why = 0 then (bootWrite (setSlot s k { slotOf s k with sig := sig }) (fun b => b.setSt k 3 0), stOk)
    else (bootWrite s (fun b => b.setSt k 6 why), stAuthFail)

def execFwVerify (p : Smb) (s : State) : Out1 := smibenRow 0x0B03 fwVerifyRule p s

/-- FW_STATUS (R424). -/
def fwStatusRule : Handler := withLen 0 fun _ _ s =>
  .ok s [fwuStsWord s, fwuSlotWord s 0, fwuSlotWord s 1, fwuVerWord s 0, fwuVerWord s 1, w32 (confLeft s)]

def execFwStatus (p : Smb) (s : State) : Out1 := smibenRow 0x0B04 fwStatusRule p s

/-! ### Activation, trial and confirmation (R411, R413, R414) -/

/-- Whether two levels differ by more than 1. -/
def farLevel (a b : Nat) : Bool := decide (a + 1 < b) || decide (b + 1 < a)

/-- FW_ACTIVATE (R411). -/
def fwActivateRule : Handler := withLen 1 fun c p s =>
  let k := otherSlot s
  let h := headerOf (slotOf s k)
  let force := bit (pw p 0) 0
  if slotState s k ≠ 3 ∨ s.fl.trial ∨ nvStop s then .no s stNotInState
  else if (farLevel h.smbHigh s.fl.fw.smbHigh || farLevel h.flHigh s.fl.fw.flHigh) && !force then
    .no s stNotInState
  else followRes c s 0x0B05 (w32 k) force

def execFwActivate (p : Smb) (s : State) : Out1 := smibenRow 0x0B05 fwActivateRule p s

/-- FW_CONFIRM (R413, R414, R419). -/
def fwConfirmRule : Handler := withLen 0 fun c _ s =>
  if !s.fl.trial || s.fl.migFail || decide (trialEnd s ≤ opTime s) then .no s stNotInState
  else
    let (t, st) := flashAsk s .fwConfirm (some c) 2 true
    if st = stPending then .pend { t with fl := { t.fl with confirming := true } } else .no t st

def execFwConfirm (p : Smb) (s : State) : Out1 := smibenRow 0x0B06 fwConfirmRule p s

/-- The fallback from a trial, with its reason (R413): a handover if the device holds and its twin is
ready, the MARKs, the restart. -/
def fallBack (s : State) (why : Nat) : State :=
  handoverThen { s with fl := { s.fl with failWhy := why } } none 0x0B07 0

/-- An operation on the slot that is not running. -/
def isFwOp (o : FlashOp) : Bool :=
  match o with
  | .fwBegin _ _ _ | .fwBlock _ _ | .fwVerified _ | .fwAbort => true
  | _ => false

/-- FW_ABORT (R409, R413): the download closes behind the operations queued before, in the order of 02 R48. -/
def fwAbortRule : Handler := withLen 0 fun _ _ s =>
  if s.fl.trial then ⟨stOk, [], s, false, fun t => fallBack t 4⟩
  else
    let busy := flashBusy s isFwOp && !nvStop s
    let s1 := if busy then s else closeDownload s
    if busy || (fwSoon s).writing then .ok (flashAsk s1 .fwAbort none 2 busy).1 []
    else .ok s1 []

def execFwAbort (p : Smb) (s : State) : Out1 := smibenRow 0x0B07 fwAbortRule p s

/-- TRIAL_DEADLINE (R413): time runs on to the deadline. A confirmation accepted before it holds it
off. -/
def execTrialDeadline (s : State) : Out1 :=
  act s fun s =>
    if s.fl.trial && !s.fl.confirming then
      fallBack (toLt (lt s + (trialEnd s - opTime s) * 10 ^ 6) s) 5
    else s

/-- MIGRATION_FALLBACK (R419): MIGWAIT seconds after the start. -/
def execMigrationFallback (s : State) : Out1 :=
  act s fun s =>
    if s.fl.trial && s.fl.migFail then
      fallBack (toLt (getF s fwuCfg 15 8 * 10 ^ 9) s) 6
    else s

/-- BOOT_LOOP_CLEAR (R412): after 60 s of running. -/
def execBootLoopClear (s : State) : Out1 :=
  act s fun s =>
    if inRecovery s then s
    else
      let t := toLt (60 * 10 ^ 9) s
      { t with fl := { t.fl with loops := 0 } }

/-! ### Recovery (R420 to R422) -/

/-- RECOVERY_ENTER (R421). -/
def recoveryEnterRule : Handler := withLen 1 fun c p s =>
  followRes c s 0x0F01 0 (bit (pw p 0) 0)

def execRecoveryEnter (p : Smb) (s : State) : Out1 := smibenRow 0x0F01 recoveryEnterRule p s

/-- RECOVERY_WRITE (R422). -/
def recoveryWriteRule : Handler := withLen 1025 fun _ p s =>
  let slot := fld (pw p 0) 31 31
  let off := fld (pw p 0) 23 0
  if !inRecovery s then .no s stNotInState
  else if 4096 ≤ off then .no s stBadParam
  else
    let data := p.payload.drop 1
    let (t, st) := flashAsk s (.recoveryWrite slot off data) none 2 true
    if st = stPending then
      .ok { t with fl := { t.fl with staged := put (slot * 4096 + off) data t.fl.staged } } []
    else .no t st

def execRecoveryWrite (p : Smb) (s : State) : Out1 := smibenRow 0x0F02 recoveryWriteRule p s

/-- The slot as it stands once the staged blocks have been programmed. -/
def slotStaged (s : State) (k : Nat) : Slot :=
  s.fl.staged.foldr (fun e x =>
    if e.1 / 4096 = k ∧ e.1 < 8192 then
      { x with data := put (e.1 % 4096) e.2 x.data, marked := insertNat (e.1 % 4096) x.marked }
    else x) (slotOf s k)

/-- RECOVERY_BOOT (R422). -/
def recoveryBootRule : Handler := withLen 1965 fun c p s =>
  let k := fld (pw p 0) 31 31
  let x := slotStaged s k
  let len := (headerOf x).len
  if !inRecovery s then .no s stNotInState
  else if !(List.range (blocksOf len)).all (fun i => (look i x.data).isSome) || len == 0 then
    .no s stNotInState
  else
    let (t, st) := flashAsk s (.recoveryBoot k (p.payload.drop 1)) (some c) 2 true
    if st = stPending then .pend t else .no t st

def execRecoveryBoot (p : Smb) (s : State) : Out1 := smibenRow 0x0F03 recoveryBootRule p s

/-! ### The end of a flash operation (R404) -/

/-- A record change of the Badger record written: its effect waits for an edge (08 R170; 14 R321). -/
def badgerWritten (s : State) (c : BdgChange) (ref : Option CmdRef) : State :=
  let s1 := writeBadger s (bdgApply c)
  match ref with
  | some r => proposeCmd s1 r (.badger c)
  | none => propose s1 (idOfItem 0 0 0) (.badger c) none

/-- Trigger snapshot words of the clear record (20 R430): session and key class, SEQ, areas, the
number of records removed. -/
def clearWords (c : Clearing) (n : Nat) : List Word :=
  [w32 (c.ref.sess.num * 256 + c.ref.keyc), c.ref.seq, flagAt c.ring 0 ||| flagAt c.archive 1, w32 n]

/-- REC_CLEAR ends (20 R430). Records written after it was accepted are kept. -/
def clearDone (s0 : State) (c : Clearing) : State :=
  let s := if c.ring then archiveAll s0 else s0
  let old (r : Rec) : Bool := r.pcc != rd s evrPcc || decide (r.rseq < c.mark)
  let ring' := if c.ring then s.rcd.ring.filter (fun r => !old r) else s.rcd.ring
  let arc' := if c.archive then s.rcd.archive.filter (fun r => !old r) else s.rcd.archive
  let n := (s.rcd.ring.length - ring'.length) + (s.rcd.archive.length - arc'.length)
  let r := mkRec s 0x0C01 (clearWords c n)
  let s1 := { s with rcd := { s.rcd with
    ring := ring', unarch := min s.rcd.unarch ring'.length, archive := arc', clearing := none } }
  if c.archive then
    let h := (s1.rcd.arcHead / 32 + 1) * 32 % 262144
    let s2 := arcPut { s1 with rcd := { s1.rcd with arcHead := h } } r
    wr (bump s2 evrWritten) evrRseq (rd s2 evrRseq + 1)
  else putRec s1 r

/-- The cache entry of a board as its data in effect give it (18 R399, R401). -/
def cacheOf (s : State) (b : Nat) : Option CacheEntry :=
  (s.cal.boards[b]?).map fun x =>
    { board := b, serial := x.serial, pw := x.pw, ph := x.ph
      table := s.img.tables.getD b [], matrix := x.matrix }

/-- The pixels of board `b` in raster order of the board (09 LMP.BOARD; 18 R399). -/
def boardPixels (s : State) (b : Nat) : List Nat :=
  let w := rd s (lmpBoard + b)
  let x0 := 16 * fld w 30 25
  let y0 := 16 * fld w 24 19
  let wd := 16 * fld w 18 12
  let ht := 16 * fld w 11 6
  (List.range ht).flatMap fun y => (List.range wd).map fun x => (y0 + y) * picW s + x0 + x

/-- MATRIX_SAVE: the matrix sections of the cache written from SRAM (18 R399; 13 R311). -/
def saveMatrix (s : State) : State :=
  { s with fl := { s.fl with cache := s.fl.cache.map (fun e =>
    { e with matrix := (boardPixels s e.board).map (fun px =>
        (look px s.img.matrix).getD (List.replicate 9 0)) }) } }

/-- The calibration record of the values in effect (18 R395). -/
def calNow (s : State) : CalRec :=
  { ver := 1, trim := s.cal.trim, lanes := (List.range 18).map (fun l => (l, s.cal.lanes.getD l 0))
    sensors := s.cal.sensors, gain := s.cal.gain, zero := s.cal.zero }

/-- The effect of a flash operation that completed. -/
def flashEffect (s : State) (x : FlashItem) : State :=
  let k := otherSlot s
  match x.op with
  | .enrol na =>
    let t := { s with id := { s.id with na := some na } }
    notifyO (writeSettings t) x.ref stOk []
  | .unenrol => writeSettings { s with id := { s.id with na := none } }
  | .paramSave l =>
    let t := { s with fl := { s.fl with saved := l } }
    notifyO (setF (writeSettings t) sysSettings 7 0 stOk) x.ref stOk []
  | .settings => notifyO (writeSettings s) x.ref stOk []
  | .badger c => badgerWritten s c x.ref
  | .matrixSave => notifyO (saveMatrix s) x.ref stOk []
  | .cache b =>
    match cacheOf s b with
    | some e =>
      let t := { s with fl := { s.fl with
        cache := e :: s.fl.cache.filter (fun y => y.board ≠ b) } }
      notifyO t x.ref stOk []
    | none => s
  | .calRecord st =>
    let r := calNow s
    let t := { s with fl := { s.fl with calA := some r, calB := some r } }
    notifyO { t with cal := { t.cal with recBad := false, changed := false } } x.ref st []
  | .fwBegin size ver next =>
    let t := if next = 0 then
        bootWrite (setSlot s k { slotOf s k with marked := [] })
          (fun b => (b.setSt k 1 0).setImg k ver size)
      else s
    notifyO t x.ref stOk [w32 (if next = 0 then 0 else (fwNow s).next)]
  | .fwBlock off data =>
    let why := (fwNow s).blockWhy off data.length
    if why ≠ stOk then notifyO s x.ref why []
    else
      let y := slotOf s k
      let t := setSlot s k { y with
        data := put (off / 4096) data y.data, marked := insertNat (off / 4096) y.marked }
      notifyO t x.ref stOk []
  | .fwVerified sig =>
    let (t, st) := verifySlot s k sig
    notifyO (creditReturn t (fun o => match o with | .verify _ => true | _ => false)) x.ref st []
  | .fwConfirm =>
    let t := bootWrite s (fun b =>
      { ((b.setSt s.fl.run 5 0).setSt k 5 0) with active := s.fl.run })
    let t := { t with otp := { t.otp with rollback := max t.otp.rollback t.fl.fw.rollback } }
    let t := t.fl.deferred.foldl (fun u d => match d.op with
      | .enrol na => { u with id := { u.id with na := some na } }
      | .unenrol => { u with id := { u.id with na := none } }
      | .paramSave l => { u with fl := { u.fl with saved := l } }
      | _ => u) t
    let t := writeBadger (writeSettings { t with fl := { t.fl with trial := false } }) (fun r => r)
    let d := t.fl.deferred
    let t := { t with fl := { t.fl with confirming := false, deferred := [], trialCopy := none } }
    let heard := (d ++ [x]).filterMap (fun y => y.ref.map (fun c => (c, ())))
    (inPassedOrder t heard).foldl (fun u e => notify u e.1 stOk []) (creditReturn t (fun o => o == .trial))
  | .fwAbort =>
    let t := closeDownload s
    if (bootCur s).st k = 1 then bootWrite t (fun b => b.setSt k 0 0) else t
  | .bootMark slot why =>
    if why = 0 then
      let h := headerOf (slotOf s slot)
      bootWrite s (fun b => { ((b.setSt slot 5 0).setImg slot h.version h.len) with active := slot })
    else
      let t := bootWrite s (fun b =>
        { b.setSt slot 6 why with active := if b.active = slot then s.fl.run else b.active })
      recEventX t .wall xFirmware [w32 slot, w32 why]
  | .recoveryWrite slot off data =>
    let y := slotOf s slot
    setSlot s slot { y with data := put off data y.data, marked := insertNat off y.marked }
  | .recoveryBoot slot sig =>
    let y := slotOf s slot
    if verifyWhy s y sig none = 0 then
      let h := headerOf y
      let t := bootWrite (setSlot s slot { y with sig := sig })
        (fun b => { ((b.setSt slot 5 0).setImg slot h.version h.len) with active := slot })
      let u := notifyO t x.ref stOk []
      resetIn { u with fl := { u.fl with recReq := false, loops := 0 } } (10 ^ 7) causeActivate
    else notifyO s x.ref stAuthFail []
  | .archive => archiveAll s
  | .recClear =>
    match s.rcd.clearing with
    | some c => notifyO (clearDone s c) x.ref stOk []
    | none => s

/-- The end of a flash operation that failed: the command's notification carries INTERNAL. A block
whose read-back differs stays unmarked and is recorded (R409). -/
def flashFailed (s : State) (x : FlashItem) : State :=
  let s1 := match x.op with
    | .fwBlock off _ => recordX s xFlash [w32 off]
    | .fwConfirm => { s with fl := { s.fl with confirming := false } }
    | .recClear => { s with rcd := { s.rcd with clearing := none } }
    | .paramSave _ => setF s sysSettings 7 0 stInternal
    | .fwVerified _ =>
      creditReturn s (fun o => match o with | .verify _ => true | _ => false)
    | _ => s
  let s2 := notifyO s1 x.ref stInternal []
  match x.op with
  | .fwConfirm => if trialEnd s2 ≤ opTime s2 then fallBack s2 5 else s2
  | _ => s2

/-- FLASH_OPERATION_DONE (R404): the operation in progress ends, its effect follows, its credits
return, and the next operation starts. -/
def execFlashOperationDone (ok : Bool) (s : State) : Out1 :=
  act s fun s =>
    match flashHead s with
    | none => s
    | some x =>
      let s1 := flashDrop s x
      fwTurn (if ok then flashEffect s1 x else flashFailed s1 x)

end Sys2Proof.Machine
end

