-- ==== Sys2Proof/Machine/Recorder.lean ====
section
/-! DEFINITION. The recorder commands and timers (20 R427 to R430; 13 R313). Timed snapshots stand
with the comparators. -/

namespace Sys2Proof.Machine

/-- EVR.RING and EVR.ARCH (20 R438). -/
def evrRingWord (s : State) : Word := mkFld 25 16 s.rcd.head ||| mkFld 10 0 s.rcd.unarch
def evrArchWord (s : State) : Word := flagAt s.rcd.clearing.isSome 31 ||| mkFld 17 0 s.rcd.arcHead

/-- The 32 words of slot `i` of an area of `n` slots whose head is `head` and whose records are
`l`, newest first; an empty slot reads `empty` (R429). -/
def slotWords (l : List Rec) (head n i : Nat) (empty : Word) : List Word :=
  match l[(head + n - 1 - i) % n]? with
  | some r => recWords r
  | none => List.replicate 32 empty

/-- REC_READ (R429; 13 R313). -/
def recReadRule : Handler := withLen 3 fun _ p s =>
  let arc := bit (pw p 0) 0
  let n := if arc then 262144 else 1024
  let i := (pw p 1).toNat
  let c := fld (pw p 2) 5 0
  if n ≤ i ∨ c = 0 then .no s stBadParam
  else
    let k := min c (n - i)
    let one (j : Nat) : List Word :=
      if arc then slotWords s.rcd.archive s.rcd.arcHead n (i + j) 0xFFFFFFFF
      else slotWords s.rcd.ring s.rcd.head n (i + j) 0
    if replyRoom s p.via < 4 * (1 + 32 * c) then .no s stBadLength
    else .ok s (w32 k :: (List.range k).flatMap one)

def execRecRead (p : Smb) (s : State) : Out1 := smibenRow 0x0C01 recReadRule p s

/-- REC_CLEAR (R430). -/
def recClearRule : Handler := withLen 2 fun c p s =>
  let ring := bit (pw p 0) 0
  let arc := bit (pw p 0) 1
  if pw p 1 ≠ rd s evrPcc then .no s stBadParam
  else if s.rcd.clearing.isSome then .no s stBusy
  else if nvStop s && ring && !arc && s.rcd.unarch == 0 then
    let k : Clearing := ⟨c, true, false, rd s evrRseq⟩
    ⟨stPending, [], s, false, fun t => notify (clearDone t k) c stOk []⟩
  else
    let (t, st) := flashAsk s .recClear (some c) 2 false
    if st = stPending then
      .pend { t with rcd := { t.rcd with clearing := some ⟨c, ring, arc, rd t evrRseq⟩ } }
    else .no t st

def execRecClear (p : Smb) (s : State) : Out1 := smibenRow 0x0C02 recClearRule p s

/-- ARCHIVE_COPY (R428): the unarchived records are copied under class 2 credits; under the write
stop, or while a clear runs, they wait in the ring. -/
def execArchiveCopy (s : State) : Out1 :=
  act s fun s =>
    if nvStop s || s.rcd.clearing.isSome || s.rcd.unarch == 0 || flashBusy s (· == .archive) then s
    else
      let s1 := (flashAsk s .archive none 2 false).1
      match flashHead s1 with
      | some x => if x.op = .archive then archiveAll (flashDrop s1 x) else s1
      | none => s1

/-- When the next checkpoint falls due, in local time (R427). -/
def ckptDue (s : State) : Nat := s.rcd.ckpt + getF s evrCfg 23 16 * 60 * 10 ^ 9

/-- CHECKPOINT_TIMER (R427): every EVR.CFG.CKPT minutes the checkpoint record, trigger 0x0002. -/
def execCheckpointTimer (s : State) : Out1 :=
  act s fun s =>
    let t := toLt (ckptDue s) s
    record { t with rcd := { t.rcd with ckpt := lt t } } 0x0002 []

end Sys2Proof.Machine
end

