-- ==== Sys2Proof/Machine/Security.lean ====
section
/-! DEFINITION. Identity, keys, life cycle, tamper and the secure bank (20 R432 to R437; 16 R359;
13 R315). -/

namespace Sys2Proof.Machine

/-! ### Key slots (R432) -/

/-- The slots of a class. -/
def slotsOf (s : State) (cls : Nat) : List (W256 × Bool) :=
  if cls = keyHost then s.otp.host else if cls = keySafety then s.otp.safety else s.otp.update

/-- The slots of a class replaced. -/
def setSlots (s : State) (cls : Nat) (l : List (W256 × Bool)) : State :=
  if cls = keyHost then { s with otp := { s.otp with host := l } }
  else if cls = keySafety then { s with otp := { s.otp with safety := l } }
  else { s with otp := { s.otp with update := l } }

/-- The key of a class: the highest written slot that is not revoked. -/
def slotKey (s : State) (cls : Nat) : Option W256 :=
  ((slotsOf s cls).reverse.find? (fun e => !e.2)).map (·.1)

/-- Every used slot revoked (R436, R437). -/
def revokeAll (s : State) : State :=
  let r (l : List (W256 × Bool)) := l.map (fun e => (e.1, true))
  { s with otp := { s.otp with
    host := r s.otp.host, safety := r s.otp.safety, update := r s.otp.update } }

/-- K_prov (R432). -/
def kprovOf (s : State) : Option W256 :=
  if s.otp.kdevRevoked then none
  else some (hmac s.otp.kdev (label [0x50, 0x52, 0x56, 0x31] ++ bytesOf 16 s.otp.serial))

/-- The keys loaded into the secure bank (R432), unless a tamper withholds them (R437). -/
def loadKeys (s : State) : State :=
  if s.sec.hold || s.sec.wiping then s
  else { s with sec := { s.sec with
    keys := [1, 2, 3].filterMap (fun c => (slotKey s c).map (fun k => (c, k)))
    kprov := kprovOf s } }

/-- A key's fingerprint (R434). -/
def fingerprint (k : W256) : Word :=
  w32 ((hmac k (label [0x4B, 0x46, 0x50, 0x31])).toNat >>> 224)

/-- Every session that satisfies `f` closed. -/
def closeWhere (s : State) (f : Session → Bool) : State :=
  ((s.smb.sess.filter f).map (·.ref)).foldl closeSess s

/-- The byte address of a word of a bank (16 R351); the secure bank stands above the map, at the place bank 64 would have. -/
def sramAddr (bank word : Nat) : Nat := 524288 * bank + 8 * word

/-- SECURE_WIPE (16 R359): the bank's content goes; a march on bank 64 ends without restoring. -/
def wipe (s : State) : State :=
  { s with
    sec := { s.sec with keys := [], kprov := none, wiping := true, wipeAt := lt s, tamperWipe := false }
    smb := { s.smb with nhHist := [] }
    sram := { s.sram with
      active := s.sram.active.filter (fun e => e.1 ≠ 64)
      mem := s.sram.mem.filter (fun e => decide (e.1 < sramAddr 64 0))
      poisoned := s.sram.poisoned.filter (fun a => decide (a < sramAddr 64 0)) } }

/-! ### Status words (R438) -/

def secStsWord (s : State) : Word :=
  mkFld 31 29 s.otp.lcs
    ||| mkFld 28 26 ((s.sec.keys.map (fun e => 2 ^ (e.1 - 1))).sum)
    ||| flagAt s.sec.tamperLow 25 ||| flagAt s.sec.hold 24

def secSlotsWord (s : State) : Word :=
  mkFld 20 16 s.otp.host.length ||| mkFld 12 8 s.otp.safety.length
    ||| mkFld 4 0 s.otp.update.length

/-! ### Commands -/

/-- SYS.ROLE (01 R12). -/
def roleWord (s : State) : Word :=
  mkFld 7 4 s.id.step ||| flagAt (s.id.side == .B) 1 ||| flagAt s.id.sender 0

/-- DEV_INFO (13 R315). -/
def devInfoRule : Handler := withLen 0 fun _ _ s =>
  .ok s (wordsOfNat 4 s.otp.serial.toNat ++ [w32 s.otp.lcs, w32 s.id.step, s.fl.fw.version])

def execDevInfo (p : Smb) (s : State) : Out1 := smibenRow 0x0D01 devInfoRule p s

/-- Bytes 0 to 95 of the attestation report (R435) as 24 words. -/
def attestBody (s : State) (nonce : List Word) : List Word :=
  let key (c : Nat) : Word := match slotKey s c with | some k => fingerprint k | none => 0
  let has (c : Nat) : Nat := if (slotKey s c).isSome then 2 ^ c else 0
  [0x4D4B4154] ++ wordsOfNat 4 s.otp.serial.toNat ++ nonce
    ++ [w32 (s.otp.lcs * 2 ^ 24 + (roleWord s).toNat % 256 * 2 ^ 16 + s.otp.rollback % 256 * 2 ^ 8
          + (has 1 + has 2 + has 3)),
        s.fl.fw.version, fwuVerWord s 0, fwuVerWord s 1, key 1, key 2, key 3, rd s evrPcc]
    ++ wordsOfNat 2 (opTime s % 2 ^ 48 * 2 ^ 16 + min 65535 (rd s secTampers).toNat)
    ++ wt80 s.time.valid (now s) ++ [0, 0]

/-- ATTEST (R435). -/
def attestRule : Handler := withLen 4 fun c p s =>
  if !s.sec.entropyOk then .no s stInternal
  else match openKey s c.keyc with
    | none => .no s stInternal
    | some k =>
      let b := attestBody s p.payload
      let katt := hmac k (label [0x41, 0x54, 0x54, 0x31] ++ bytesOf 16 s.otp.serial)
      .ok s (b ++ wordsOfNat 8 (hmac katt (bytesOfWords b)).toNat)

def execAttest (p : Smb) (s : State) : Out1 := smibenRow 0x0D02 attestRule p s

/-- The bytes a wrap's KEK and tag cover after their labels (R434). -/
def wrapBytes (s : State) (cls : Nat) (nonce : W128) : List Byte :=
  bytesOf 16 s.otp.serial ++ [BitVec.ofNat 8 cls] ++ bytesOf 16 nonce

/-- KEY_PROVISION (R434). -/
def keyProvisionRule : Handler := withLen 17 fun c p s =>
  let cls := fld (pw p 0) 1 0
  let nonce : W128 := BitVec.ofNat 128 (natOfWords ((p.payload.drop 1).take 4))
  let wrapped : W256 := BitVec.ofNat 256 (natOfWords ((p.payload.drop 5).take 8))
  let tag : W128 := BitVec.ofNat 128 (natOfWords ((p.payload.drop 13).take 4))
  if cls = 0 then .no s stBadParam
  else
    let w := (slotKey s cls).getD s.otp.kdev
    let want := trunc16 (hmac w (label [0x54, 0x41, 0x47, 0x31] ++ wrapBytes s cls nonce
      ++ bytesOf 32 wrapped))
    if want ≠ tag ∨ s.sec.wiping then .no (record s 0x0D11 [w32 cls]) stAuthFail
    else if s.sec.kpNonces.contains nonce ∨ 16 ≤ (slotsOf s cls).length then .no s stBadParam
    else if nvStop s then .no (nvRefuse s) stNvHeld
    else if s.sec.job.isSome then .no s stBusy
    else
      let kek := hmac w (label [0x57, 0x52, 0x50, 0x31] ++ wrapBytes s cls nonce)
      .pend { s with sec := { s.sec with
        kpNonces := (nonce :: s.sec.kpNonces).take 16
        job := some (.key c cls (wrapped ^^^ kek)) } }

def execKeyProvision (p : Smb) (s : State) : Out1 := smibenRow 0x0D10 keyProvisionRule p s

/-- The transitions R436 allows. -/
def lifeStep (a b : Nat) : Bool :=
  (a == 0 && b == 1) || (a == 1 && b == 2) || (decide (a ≤ 2) && (b == 3 || b == 4))
    || (a == 3 && b == 4)

/-- LIFECYCLE_SET (R436). -/
def lifecycleSetRule : Handler := withLen 2 fun c p s =>
  let target := fld (pw p 0) 2 0
  if 5 ≤ target ∨ pw p 1 ≠ w32 s.otp.serial.toNat then .no s stBadParam
  else if !lifeStep s.otp.lcs target then .no s stNotInState
  else if target = 1 ∧ !([1, 2, 3].all (fun k => (slotKey s k).isSome)) then .no s stNotInState
  else if nvStop s then .no (nvRefuse s) stNvHeld
  else if s.sec.job.isSome then .no s stBusy
  else followRes c s 0x0D20 (w32 target) false

def execLifecycleSet (p : Smb) (s : State) : Out1 := smibenRow 0x0D20 lifecycleSetRule p s

/-! ### One-time programming, wipe and tamper -/

/-- OTP_PROGRAM_DONE (R434, R436). RETURN accepts the sessions under K_prov, which are those of the classes without a
key; SCRAPPED accepts none. -/
def execOtpProgramDone (s : State) : Out1 :=
  act s fun s =>
    match s.sec.job with
    | none => s
    | some (.key c cls k) =>
      let slot := (slotsOf s cls).length
      let s1 := setSlots { s with sec := { s.sec with job := none } } cls
        (slotsOf s cls ++ [(k, false)])
      let s2 := record (loadKeys s1) 0x0D10 [w32 cls, w32 slot, fingerprint k]
      closeWhere (notify s2 c stOk []) (fun x => x.keyc == cls)
    | some (.life c target) =>
      let old := s.otp.lcs
      let s1 := { s with
        sec := { s.sec with job := none }, otp := { s.otp with lcs := target } }
      let s2 := if 3 ≤ target then revokeAll s1 else s1
      let s3 := if target = 4 then { s2 with otp := { s2.otp with kdevRevoked := true } } else s2
      let s4 := record s3 0x0D20 [w32 old, w32 target, w32 c.sess.num]
      let s5 := wipe (notify s4 c stOk [])
      if 3 ≤ target then closeWhere s5 (fun x => target == 4 || (slotKey s x.keyc).isSome) else s5

/-- A tamper taken (R437): the wipe, the sessions, the counter and the record; then the action. -/
def tamper (s : State) : State :=
  let s1 := record (bump (closeWhere (wipe s) (fun _ => true)) secTampers) 0x0D01 []
  let a := getF s1 secTamper 1 0
  let s2 := { s1 with sec := { s1.sec with tamperSeen := true, tamperWipe := true, hold := a == 1 || s1.sec.hold } }
  if a = 2 then revokeAll s2 else s2

/-- TAMPER_ASSERT (R437): one that arrives during the wipe of a tamper, or while TAMPER_N is still low, counts once with
it; one that arrives during a wipe of another cause is taken, and wipes anew. -/
def execTamperAssert (s : State) : Out1 :=
  act s fun s =>
    let s1 := { s with sec := { s.sec with tamperLow := true, highSince := none } }
    if s.sec.tamperLow || (s.sec.wiping && s.sec.tamperWipe) then s1 else tamper s1

/-- TAMPER_RELEASE (R437). -/
def execTamperRelease (s : State) : Out1 :=
  act s fun s =>
    if s.sec.tamperLow then
      record { s with sec := { s.sec with tamperLow := false, highSince := some (lt s) } } 0x0D02 []
    else s

/-- TAMPER_KEY_RELOAD (R437): under ACT LOG, once TAMPER_N has been high for 1 s. -/
def execTamperKeyReload (s : State) : Out1 :=
  act s fun s =>
    match s.sec.highSince with
    | some t =>
      if getF s secTamper 1 0 = 0 ∧ s.sec.tamperSeen then
        let s1 := toLt (t + 10 ^ 9) s
        loadKeys { s1 with sec := { s1.sec with tamperSeen := false, highSince := none } }
      else s
    | none => s

/-- ENTROPY_HEALTH_CHANGE (R432). -/
def execEntropyHealthChange (pass : Bool) (s : State) : Out1 :=
  act s fun s => { s with sec := { s.sec with entropyOk := pass } }

end Sys2Proof.Machine
end

