-- ==== Sys2Proof/Machine/Ingest.lean ====
section
/-! DEFINITION. Stream table, reception and ST 2022-7 merge of a sender (03 R59 to R68). -/

namespace Sys2Proof.Machine

/-! ### The definition words (R59) -/

def sdW (w : List Word) (i : Nat) : Word := w.getD i 0
def sdId (w : List Word) : Nat := fld (sdW w 0) 31 24
def sdPaths (w : List Word) : Nat := fld (sdW w 0) 23 22
def sdIface (w : List Word) (b : Bool) : Nat := if b then fld (sdW w 0) 18 16 else fld (sdW w 0) 21 19
def sdUdp (w : List Word) (b : Bool) : Nat := if b then fld (sdW w 1) 15 0 else fld (sdW w 1) 31 16
def sdPt (w : List Word) : Nat := fld (sdW w 2) 6 0
def sdSsrc (w : List Word) : Word := sdW w 3
def sdSamp (w : List Word) : Nat := fld (sdW w 4) 31 28
def sdDepth (w : List Word) : Nat := fld (sdW w 4) 27 26
def sdColor (w : List Word) : Nat := fld (sdW w 4) 25 24
def sdTcs (w : List Word) : Nat := fld (sdW w 4) 23 21
def sdFull (w : List Word) : Bool := bit (sdW w 4) 20
def sdWidth (w : List Word) : Nat := fld (sdW w 5) 31 16
def sdHeight (w : List Word) : Nat := fld (sdW w 5) 15 0
def sdNum (w : List Word) : Nat := fld (sdW w 6) 31 16
def sdDen (w : List Word) : Nat := fld (sdW w 6) 15 0
def sdMerge (w : List Word) : Nat := fld (sdW w 7) 15 8
def sdHold (w : List Word) : Bool := bit (sdW w 7) 7
def sdBufs (w : List Word) : Nat := fld (sdW w 7) 3 0
def sdBlock (w : List Word) : Bool := bit (sdW w 4) 19

/-- A definition with its reserved bits 0 (R59; 00 R4). -/
def sdClean (w : List Word) : List Word :=
  w.zipIdx.map fun e =>
    if e.2 = 0 then e.1 &&& 0xFFFF0000 else if e.2 = 2 then e.1 &&& 0x7F
    else if e.2 = 4 then e.1 &&& 0xFFF80000 else if e.2 = 7 then e.1 &&& 0xFF8F else e.1

/-- Group and source address of a path. -/
def sdGroup (w : List Word) (b : Bool) : BitVec 128 :=
  BitVec.ofNat 128 (natOfWords ((w.drop (if b then 16 else 8)).take 4))
def sdSource (w : List Word) (b : Bool) : BitVec 128 :=
  BitVec.ofNat 128 (natOfWords ((w.drop (if b then 20 else 12)).take 4))

/-- Whether a path is used. -/
def sdUses (w : List Word) (b : Bool) : Bool :=
  if b then sdPaths w / 2 % 2 == 1 else sdPaths w % 2 == 1

/-- Samples per pixel S (R65). -/
def sdS (w : List Word) : Nat := if sdSamp w = 0 then 2 else 3

/-- Bits per pixel B (R61). -/
def sdBits (w : List Word) : Nat := sdS w * (8 + 2 * sdDepth w)

/-- Samples of a line. -/
def lineLen (w : List Word) : Nat := sdWidth w * sdS w

/-- The pitch of a line in the ingest pool in bytes (R65). -/
def pitch (w : List Word) : Nat := cdiv (sdWidth w * sdS w * 3) 128 * 64

/-- Units of 64 KiB a slot takes (R65). -/
def slotUnits (w : List Word) : Nat := cdiv (pitch w * sdHeight w) 65536

/-- The bytes of a line of a frame in the ingest pool: 12-bit samples packed little-end-first, padded to the pitch
(R65). A sample not received reads 0. -/
def lineBytes (w : List Word) (line : List (Nat × Samp)) : List Byte :=
  let b := packSamps ((List.range (lineLen w)).map (fun i => (look i line).getD 0))
  b ++ List.replicate (pitch w - b.length) 0

/-- Bits of a sample on the wire. -/
def sampBits (w : List Word) : Nat := 8 + 2 * sdDepth w

/-- Octets of an ST 2110-20 pixel group (log 94). -/
def pgOctets (w : List Word) : Nat :=
  if sdSamp w = 0 then 4 + sdDepth w else if sdDepth w = 0 then 3 else if sdDepth w = 1 then 15 else 9

/-- The samples of sample row data, most significant bit first, widened to 12 bits: 8-bit values to 16·v and 10-bit
values to 4·v (R65). -/
def widened (w : List Word) (l : List Byte) : List Samp :=
  let d := sampBits w
  let n := natOfBytes l
  (List.range (8 * l.length / d)).map fun i =>
    BitVec.ofNat 12 (((n >>> (8 * l.length - d * (i + 1))) % 2 ^ d) <<< (12 - d))

/-- The runs of samples of a packet: line, index of the first sample, samples (R63). -/
def runsOf (w : List Word) : List SrdHdr → List Byte → List (Nat × Nat × List Samp)
  | [], _ => []
  | h :: r, d => (h.line, h.offset * sdS w, widened w (d.take h.len)) :: runsOf w r (d.drop h.len)

/-- Whether the sample row data headers of a packet are well formed: progressive, continued up to the last, whole
pixel groups, and in block packing mode whole blocks of 180 octets (R58, R59; log 94). -/
def srdOk (w : List Word) (r : RtpPkt) : Bool :=
  let sum := (r.srd.map (·.len)).sum
  r.srd.all (fun h => !h.second && h.len % pgOctets w == 0)
    && r.srd.dropLast.all (·.cont) && (match r.srd.getLast? with | some h => !h.cont | none => false)
    && (if sdBlock w then decide (sum ≤ r.data.length) && r.data.length % 180 == 0 else sum == r.data.length)

/-! ### The checks of R60 and R61 -/

/-- The streams that are defined. -/
def defined (s : State) : List Stream := s.net.streams.filter (fun x => x.st != 0)

/-- A defined stream. -/
def streamOf (s : State) (id : Nat) : Option Stream := (defined s).find? (fun x => x.id == id)

/-- Pool units of a slot list. -/
def unitsOf (l : List SrcSlot) : Nat := (l.map (·.units)).sum

/-- Pool units a stream holds. -/
def streamUnits (x : Stream) : Nat := unitsOf x.slots

/-- Free units of the ingest pool, ING.POOL_FREE (R65). -/
def poolFree (s : State) : Nat :=
  getF s memPoolIng 31 0 - (s.net.streams.map streamUnits).sum

/-- Whether an interface is enabled and exists in its port's mode (R52). -/
def ifacePresent (s : State) (i : Nat) : Bool :=
  let m := match s.net.ports[i / 4]? with | some p => p.mode | none => 0
  bit (rd s (netIfCtrl + 16 * i)) 31 && (m == 2 || (m != 0 && i % 4 == 0))

/-- The line rate of an interface in bit/s. -/
def lineRate (s : State) (i : Nat) : Nat :=
  let m := match s.net.ports[i / 4]? with | some p => p.mode | none => 0
  if m = 1 then 100 * 10 ^ 9 else if m = 2 then 25 * 10 ^ 9 else 10 * 10 ^ 9

/-- A sum of fractions a / b not above `lim`. -/
def fracSumLe (l : List (Nat × Nat)) (lim : Nat) : Bool :=
  let (n, d) := l.foldl (fun e x => (e.1 * x.2 + x.1 * e.2, e.2 * x.2)) (0, 1)
  decide (n ≤ lim * d)

/-- P of a definition as a fraction. -/
def pixRate (w : List Word) : Nat × Nat := (sdWidth w * sdHeight w * sdNum w, max 1 (sdDen w))

/-- The loads 1.06 × P × B of the paths of a definition on an interface. -/
def pathLoads (w : List Word) (i : Nat) : List (Nat × Nat) :=
  [false, true].filterMap fun b =>
    if sdUses w b && sdIface w b == i then
      some (106 * (pixRate w).1 * sdBits w, 100 * (pixRate w).2) else none

/-- The word index of the first field out of its range, or of an interface that is disabled or
absent. -/
def rangeWord (s : State) (w : List Word) : Option Nat :=
  let badIf (b : Bool) : Bool := sdUses w b && !ifacePresent s (sdIface w b)
  if 64 ≤ sdId w ∨ sdPaths w = 0 ∨ badIf false ∨ badIf true
      ∨ (sdPaths w = 3 ∧ sdIface w false = sdIface w true ∧ sdGroup w false = sdGroup w true) then some 0
  else if sdPt w < 96 then some 2
  else if 2 < sdSamp w ∨ 2 < sdDepth w ∨ 1 < sdColor w ∨ 3 < sdTcs w
      ∨ (sdTcs w = 3 ∧ ¬(sdSamp w = 2 ∧ sdColor w = 0)) then some 4
  else if sdWidth w < 16 ∨ 16384 < sdWidth w ∨ sdHeight w < 16 ∨ 8640 < sdHeight w
      ∨ (sdSamp w = 0 ∧ sdWidth w % 2 = 1) then some 5
  else if sdDen w = 0 ∨ sdNum w < sdDen w ∨ 240 * sdDen w < sdNum w then some 6
  else if sdMerge w < 1 ∨ 50 < sdMerge w ∨ sdBufs w < 3 ∨ 8 < sdBufs w
      ∨ sdBufs w - 2 < cdiv (sdMerge w * sdNum w) (1000 * sdDen w) then some 7
  else none

/-- Whether a path of one definition overlaps a path of another (R60). -/
def pathsOverlap (v w : List Word) : Bool :=
  [false, true].any fun a => [false, true].any fun b =>
    sdUses v a && sdUses w b && sdIface v a == sdIface w b && sdGroup v a == sdGroup w b
      && sdUdp v a == sdUdp w b
      && (sdSource v a == sdSource w b || sdSource v a == 0 || sdSource w b == 0)

/-- The first data word of a refusal of STREAM_DEFINE (R60, R61): none if it passes. For an overlap
it names word 0 and the other stream; for a rate the first word of the sum concerned (log 35). -/
def streamRefusal (s : State) (w : List Word) : Option Word :=
  let others := (defined s).filter (fun x => x.id != sdId w)
  match rangeWord s w with
  | some i => some (w32 i)
  | none =>
    match others.find? (fun x => pathsOverlap w x.words) with
    | some x => some (w32 (x.id * 256))
    | none =>
      let all := w :: others.map (·.words)
      if 2000000000 * (pixRate w).2 < (pixRate w).1 then some 5
      else if !fracSumLe (all.map pixRate) 8000000000 then some 5
      else if !(List.range 8).all (fun i =>
          fracSumLe (all.flatMap (fun v => pathLoads v i)) (lineRate s i)) then some 0
      else
        let mine := match streamOf s (sdId w) with | some x => streamUnits x | none => 0
        if poolFree s + mine < slotUnits w * sdBufs w then some 7 else none

/-! ### Defining and removing -/

/-- An empty slot. -/
def slotFree (i units : Nat) : SrcSlot :=
  { idx := i, units := units, words := [], opened := 0, dies := false, st := .free, ts := 0, aTime := 0, src := none
    suspect := false, notime := false, first := 0, seen := [], counted := [], window := none, lines := [], loss := []
    order := 0, readyAt := 0, old := false, fresh := (0, []), early := 0 }

/-- The newest ready or reading frame of a slot list. -/
def newestOf (l : List SrcSlot) : Option SrcSlot :=
  (l.filter (fun x => x.st == .ready || x.st == .reading)).foldl (fun m x => match m with
    | none => some x
    | some y => if y.order < x.order then some x else some y) none

/-- The stream list with stream `x` in its place. -/
def setStream (s : State) (x : Stream) : State :=
  { s with net := { s.net with streams := x :: s.net.streams.filter (fun y => y.id != x.id) } }

/-- Memberships of stream `id` joined or left: two unsolicited reports 1 s apart, the first due at once. A group that
a path of another stream still uses with the same source is not left (R57, R61). -/
def memberChange (s : State) (id : Nat) (w : List Word) (leave : Bool) : State :=
  [false, true].foldl (fun t b =>
    let shared := (defined t).any (fun x => x.id != id && [false, true].any (fun c => sdUses x.words c
      && sdIface x.words c == sdIface w b && sdGroup x.words c == sdGroup w b
      && sdSource x.words c == sdSource w b))
    if !sdUses w b || (leave && shared) then t
    else
      let m : Member :=
        { iface := sdIface w b, group := sdGroup w b, source := sdSource w b, left := 2
          next := some (lt t), answer := none, leave := leave }
      { t with net := { t.net with members := m :: t.net.members.filter (fun y =>
        !(y.iface == m.iface && y.group == m.group && y.source == m.source)) } }) s

/-- The stream status words of ID `m` cleared (R68). -/
def clearIng (s : State) (m : Nat) : State :=
  wr (wr (wr (wr s (ingSts + 4 * m) 0) (ingRecov + 4 * m) 0) (ingUnrec + 4 * m) 0) (ingDiff + 4 * m) 0

/-- A definition takes effect (R61): the newest ready frame of a replaced stream stays available, if
the pool can hold both; a filling frame is discarded. A newest frame that is being read stays until its read ends, and
no older one beside it; a replaced definition still awaiting its reports is notified with NOT_IN_STATE (log 35). -/
def defineStream (s : State) (w0 : List Word) (c : CmdRef) : State :=
  let w := sdClean w0
  let id := sdId w
  let need := slotUnits w * sdBufs w
  let prev := s.net.streams.find? (fun x => x.id == id)
  let oldPer := match prev with | some x => slotUnits x.words | none => 0
  let held := match prev with | some x => streamUnits x | none => 0
  let keepOk := decide (need + oldPer ≤ poolFree s + held)
  let kept : List SrcSlot := match prev with
    | none => []
    | some x =>
      let reading := x.slots.filter (fun y => y.st == .reading)
      let newest : List SrcSlot := match newestOf x.slots with
        | some n => if keepOk && n.st == SlotSt.ready then [n] else []
        | none => []
      reading.map (fun y => { y with old := true, dies := true })
        ++ newest.map (fun y => { y with old := true })
  let s1 := match prev with
    | some x => if x.st != 0 then notifyO (memberChange s id x.words true) x.ref stNotInState [] else s
    | none => s
  let x : Stream :=
    { id := id, words := w, st := 1, lock := none, lastA := none, lastB := none, upA := false
      upB := false, firstA := [], firstB := [], clash := false, tsusp := false, joinA := false
      joinB := false, ref := some c, announced := false, closed := [], refused := [], suspects := 0, wrong := 0, unread := []
      since := lt s, upTo := none
      slots := (List.range (sdBufs w)).map (fun i => slotFree i (slotUnits w)) ++ kept }
  memberChange (clearIng (setStream s1 x) id) id w false

/-- STREAM_DEFINE (R59 to R61). -/
def streamDefineRule : Handler := withLen 24 fun c p s =>
  match streamRefusal s p.payload with
  | some w => .noW s stBadParam [w]
  | none => .pend (defineStream s p.payload c)

def execStreamDefine (p : Smb) (s : State) : Out1 := smibenRow 0x0201 streamDefineRule p s

/-- STREAM_REMOVE (R61, R66, R68): the groups are left and the slots freed; a slot being read is freed when
its read ends. The counters stay until the ID is defined again. -/
def streamRemoveRule : Handler := withLen 1 fun _ p s =>
  let id := fld (pw p 0) 31 24
  if 64 ≤ id then .no s stBadParam
  else match streamOf s id with
    | none => .ok s []
    | some x =>
      let reading := (x.slots.filter (fun y => y.st == .reading)).map
        (fun y => { y with old := true, dies := true })
      let s1 := notifyO (memberChange s id x.words true) x.ref stNotInState []
      let rest := s1.net.streams.filter (fun y => y.id != id)
      let y := { x with st := 0, slots := reading, upA := false, upB := false, clash := false
                        tsusp := false, ref := none }
      .ok { s1 with net := { s1.net with streams := if reading = [] then rest else y :: rest } } []

def execStreamRemove (p : Smb) (s : State) : Out1 := smibenRow 0x0202 streamRemoveRule p s

/-- STREAM_READ (13 R305). -/
def streamReadRule : Handler := withLen 1 fun _ p s =>
  match streamOf s (fld (pw p 0) 31 24) with
  | some x => .ok s x.words
  | none => .no s stNotInState

def execStreamRead (p : Smb) (s : State) : Out1 := smibenRow 0x0203 streamReadRule p s

/-! ### Reception (R62 to R67) -/

/-- ING.STS of stream `m` (R68); INCOMPLETE is kept in the parameter file. -/
def ingStsWord (s : State) (m : Nat) : Word :=
  let n := getF s (ingSts + 4 * m) 15 0
  match streamOf s m with
  | none => w32 n
  | some x => mkFld 31 28 x.st ||| flagAt x.upA 27 ||| flagAt x.upB 26 ||| flagAt x.clash 25
      ||| flagAt x.tsusp 24 ||| w32 n

/-- A frame became ready: the Owl watches of its stream are queued; a check not begun gives way to
the newer frame (10 R232). -/
def queueOwl (s : State) (id : Nat) (ts : Word) : State :=
  let ws := (s.flume.watches.filter (fun w => fld (w.words.getD 0 0) 22 17 == id)).map (·.num)
  let old := s.flume.owlQueue.any (fun e => ws.contains e.1)
  let s1 := { s with flume := { s.flume with
    owlQueue := s.flume.owlQueue.filter (fun e => !ws.contains e.1) ++ ws.map (fun w => (w, id, ts)) } }
  if old then bump s1 owlSkip else s1

/-- A timestamp put at the head of a short history. -/
def histPut (ts : Word) (l : List Word) : List Word := (ts :: l.filter (fun y => y ≠ ts)).take 32

/-- The packets never received that a frame accounts for when it is done with (R68): those between what was accounted for
before and its first packet, unless an earlier frame still fills and will account for them, and the places before
`last` that no packet marked. -/
def neverCame (x : Stream) (f : SrcSlot) (last : Nat) : Nat :=
  let gap := match x.upTo with | some u => (sdiff f.first u).toNat | none => 0
  let behind := x.slots.any (fun y => !y.old && y.st == .filling && decide (0 < sdiff f.ts y.ts))
  let past := match x.upTo with | some u => decide (0 < sdiff u f.first) | none => false
  (if behind then 0 else gap - f.early)
    + (if past then 0 else last - ((f.seen.map (·.1)).eraseDups.filter (fun p => decide (p < last))).length)

/-- The number of places of a frame up to the last one seen. -/
def placesSeen (f : SrcSlot) : Nat := f.seen.foldl (fun m e => max m (e.1 + 1)) 0

/-- The packets of a stream accounted for up to place `last` of a frame. -/
def accounted (x : Stream) (f : SrcSlot) (last : Nat) : Stream :=
  let e := f.first + w32 last
  { x with upTo := match x.upTo with
      | some u => if 0 < sdiff e u then some e else some u
      | none => some e }

/-- FRAME_READY (R63, R66, R67): the frame takes its readiness order and source time; the first one
brings the stream up and lets the old definition's frame go. -/
def frameReady (s : State) (x : Stream) (f : SrcSlot) (loss : List Nat) : State :=
  let n := s.net.orders + 1
  let src := if f.notime then none else some (sourceTime f.ts f.aTime)
  let sus := match src with | some v => !plausible s f.aTime v | none => false
  let g := { f with st := .ready, order := n, readyAt := now s, loss := loss, src := src, suspect := sus }
  let slots := (x.slots.filter (fun y => !(y.old && y.st == .ready))).map
    (fun y => if y.old then { y with dies := true } else if y.idx = f.idx then g else y)
  let y := { x with
    slots := slots, st := 3, announced := true, closed := histPut f.ts x.closed
    tsusp := x.tsusp || sus || f.notime, suspects := x.suspects + (if sus then 1 else 0) }
  let s1 := setStream { s with net := { s.net with orders := n } } y
  let s2 := if x.announced then s1 else recEventX s1 .wall xStream [w32 x.id, 1]
  queueOwl s2 x.id f.ts

/-- Whether every active line of a frame has been written whole. -/
def lineFull (w : List Word) (f : SrcSlot) (l : Nat) : Bool :=
  match look l f.lines with
  | some v => decide (lineLen w ≤ v.length)
  | none => false

def frameFull (w : List Word) (f : SrcSlot) : Bool :=
  (List.range (sdHeight w)).all (lineFull w f)

/-- Samples written into a frame. -/
def writeRuns (w : List Word) (f : SrcSlot) (runs : List (Nat × Nat × List Samp)) : SrcSlot :=
  runs.foldl (fun g r =>
    if sdHeight w ≤ r.1 then g
    else
      let line := (look r.1 g.lines).getD []
      let pairs := (r.2.2.zipIdx.map (fun e => (r.2.1 + e.2, e.1))).filter
        (fun e => decide (e.1 < lineLen w))
      { g with lines := put r.1 (pairs.foldl (fun m e => insertKey e.1 e.2 m) line) g.lines }) f

/-- The slot a new frame takes: a FREE one, else the oldest READY one that is not the newest
(R66). -/
def takeSlot (x : Stream) : Option SrcSlot :=
  let own := x.slots.filter (fun y => !y.old)
  match own.find? (fun y => y.st == .free) with
  | some y => some y
  | none =>
    let ready := own.filter (fun y => y.st == .ready)
    let newest := match newestOf own with | some n => n.order | none => 0
    (ready.filter (fun y => y.order != newest)).foldl (fun m y => match m with
      | none => some y
      | some z => if y.order < z.order then some y else some z) none

/-- The frames of the current definition that hold a slot. -/
def ownFrames (x : Stream) : List SrcSlot := x.slots.filter (fun y => !y.old && y.st != .free)

/-- A slot of the current definition changed. -/
def putSlot (x : Stream) (g : SrcSlot) : Stream :=
  { x with slots := x.slots.map (fun y => if y.idx = g.idx && !y.old then g else y) }

/-- The path differential after a frame's first packet on a path (R63, R68): the first packets of the frames of the
last 2 s are held for each path. -/
def pathDiff (s : State) (x : Stream) (b : Bool) (ts : Word) : State × Stream :=
  let mine := if b then x.firstB else x.firstA
  let theirs := if b then x.firstA else x.firstB
  if (look ts mine).isSome then (s, x)
  else
    let l := (ts, lt s) :: mine.filter (fun e => decide (lt s - e.2 ≤ 2 * 10 ^ 9))
    let y := if b then { x with firstB := l } else { x with firstA := l }
    match look ts theirs with
    | none => (s, y)
    | some o =>
      let late := Int.ofNat (lt s) - Int.ofNat o
      let d := clampI (-1000000) 1000000 (fdiv (if b then late else -late) 1000)
      let s1 := wr s (ingDiff + 4 * x.id) (wInt d)
      if sdMerge x.words * 10 ^ 6 < late.natAbs then (recEventX s1 .wall xStream [w32 x.id, 2, wInt d], y) else (s1, y)

/-- The places below `n` that the other path has supplied and path `b` has passed over, not counted yet (R68). -/
def passedOver (f : SrcSlot) (b : Bool) (n : Nat) : List Nat :=
  ((f.seen.filter (fun e => e.2 != b && decide (e.1 < n))).map (·.1)).filter
    (fun q => !f.counted.contains q && !f.seen.contains (q, b))

/-- Whether a path of a stream is used and down: no accepted packet for 100 ms (R63). -/
def pathSilent (s : State) (x : Stream) (b : Bool) : Bool :=
  sdUses x.words b && !(if b then x.upB else x.upA) && decide (x.since + 10 ^ 8 ≤ lt s)

/-- A place of a frame delivered by path `b`, with the number of packets now known to be missing on one path and
supplied by the other. `passed`: the other path has gone on to a later frame, or is down. -/
def noteSeen (f : SrcSlot) (place : Nat) (b passed : Bool) (t : Nat) : SrcSlot × Nat :=
  let f1 := { f with
    seen := if f.seen.contains (place, b) then f.seen else (place, b) :: f.seen
    fresh := if b then (t, place :: (if f.fresh.1 = t then f.fresh.2 else [])) else f.fresh }
  let a := passedOver f1 b place
  let gone := passed || f1.seen.any (fun e => e.2 != b && decide (place < e.1))
  let o := if gone && !f1.seen.contains (place, !b) && !f1.counted.contains place then [place] else []
  ({ f1 with counted := a ++ o ++ f1.counted }, (a ++ o).length)

/-- A packet of path `b` with timestamp `ts` arrives: the merge windows of earlier frames open, and what path `b` has
passed over in them counts as supplied by the other path (R63, R68). -/
def passFrames (s : State) (x : Stream) (b : Bool) (ts : Word) : State × Stream :=
  let early (y : SrcSlot) : Bool := !y.old && y.st != .free && decide (0 < sdiff ts y.ts)
  let miss (y : SrcSlot) : List Nat := if early y then passedOver y b 262144 else []
  let n := (x.slots.map (fun y => (miss y).length)).sum
  let go (y : SrcSlot) : SrcSlot :=
    if early y then
      { y with counted := miss y ++ y.counted
               window := if y.st == .filling && y.window.isNone then some (lt s) else y.window }
    else y
  (bumpN s (ingRecov + 4 * x.id) n, { x with slots := x.slots.map go })

/-- MERGE in ns. -/
def mergeNs (x : Stream) : Nat := sdMerge x.words * 10 ^ 6

/-- The extended sequence number (R62). -/
def eseq (r : RtpPkt) : Word := r.ext ++ r.seq

/-- Path `b` of a stream goes down: the packets of the frames it holds that only the other path supplied are missing on
it (R68). -/
def pathMisses (s : State) (x : Stream) (b : Bool) : State × Stream :=
  let miss (y : SrcSlot) : List Nat := if y.old || y.st == .free then [] else passedOver y b 262144
  (bumpN s (ingRecov + 4 * x.id) (x.slots.map (fun y => (miss y).length)).sum,
    { x with slots := x.slots.map (fun y => { y with counted := miss y ++ y.counted }) })

/-- Path A's copy of a packet whose copy on path B was written in the same tick takes its place (R63). -/
def pathAFirst (s : State) (x : Stream) (f : SrcSlot) (b : Bool) (place : Nat) (r : RtpPkt) : SrcSlot :=
  if !b && f.fresh.1 == lt s && f.fresh.2.contains place && (f.st == .filling || f.st == .ready) then
    writeRuns x.words f (runsOf x.words r.srd r.data)
  else f

/-- An accepted packet of path `b` of a frame that holds a slot: written to its place while the frame fills; a packet in
the tick of the close or after it is late, one already marked a duplicate (R63), which is discarded unless it is path
A's copy of one that path B brought in the same tick. -/
def landPacket (s : State) (x : Stream) (f : SrcSlot) (b : Bool) (r : RtpPkt) : State :=
  let place := (eseq r - f.first).toNat
  let passed := pathSilent s x (!b)
    || (ownFrames x).any (fun y => decide (0 < sdiff y.ts f.ts) && y.seen.any (fun e => e.2 != b))
  let known := f.seen.any (fun e => e.1 == place)
  let late := match f.window with | some o => decide (o + mergeNs x ≤ lt s) | none => false
  let f1 := if r.marker && f.window.isNone && f.st == .filling then { f with window := some (lt s) } else f
  if f.st != .filling || late then
    if known then
      let (g, n) := noteSeen (pathAFirst s x f b place r) place b passed (lt s)
      setStream (bumpN s (ingRecov + 4 * x.id) n) (putSlot x g)
    else setStream s x
  else if 262144 ≤ place then
    bump (setStream s (putSlot x { f1 with early := f1.early + (if 2 ^ 31 ≤ place then 1 else 0) })) (ingUnrec + 4 * x.id)
  else
    let (g, n) := noteSeen (pathAFirst s x f1 b place r) place b passed (lt s)
    let s1 := bumpN s (ingRecov + 4 * x.id) n
    if known then setStream s1 (putSlot x g)
    else
      let h := writeRuns x.words g (runsOf x.words r.srd r.data)
      let y := putSlot x h
      if frameFull x.words h then
        frameReady (bumpN s1 (ingUnrec + 4 * x.id) (neverCame y h 0)) (accounted y h (placesSeen h)) h []
      else setStream s1 y

/-- A packet of a frame that found no slot is accounted for (R66, R68). -/
def passedBy (x : Stream) (r : RtpPkt) : Stream :=
  let e := eseq r + 1
  { x with upTo := x.upTo.map (fun u => if 0 < sdiff e u then e else u) }

/-- The first packet of a frame: it takes a slot, or is not received (R66). `window` is the instant its merge window
opened, if a later frame has begun. -/
def openFrame (s : State) (x : Stream) (b : Bool) (r : RtpPkt) (window : Option Nat) : State :=
  match takeSlot x with
  | none => bump (setStream s { passedBy x r with refused := histPut r.ts x.refused }) (ingUnrec + 4 * x.id)
  | some f =>
    let g : SrcSlot := { slotFree f.idx f.units with
      words := x.words, opened := lt s, st := .filling, ts := r.ts, aTime := if s.time.valid then now s else lt s
      notime := !s.time.valid, first := eseq r, window := window }
    landPacket s { putSlot x g with tsusp := x.tsusp || !s.time.valid } g b r

/-- The path of a defined stream a packet belongs to: interface, group, source and UDP port match (R62). -/
def matchPath (s : State) (r : RtpPkt) : Option (Stream × Bool) :=
  (defined s).findSome? fun x => ([false, true].find? (fun b => sdUses x.words b && sdIface x.words b == r.iface
    && sdGroup x.words b == r.group && (sdSource x.words b == 0 || sdSource x.words b == r.src)
    && sdUdp x.words b == r.udp)).map (fun b => (x, b))

/-- The number of an address as the interfaces hold it: an IPv4-mapped one by its low 32 bits (R59). -/
def hostAddr (a : BitVec 128) : Nat := if a.toNat >>> 32 = 0xFFFF then a.toNat % 2 ^ 32 else a.toNat

/-- Whether an address is a multicast group. -/
def isGroup (a : BitVec 128) : Bool :=
  if a.toNat >>> 32 = 0xFFFF then a.toNat % 2 ^ 32 / 2 ^ 28 == 14 else a.toNat / 2 ^ 120 == 255

/-- A packet takes its place in the receiver buffer of its port (R63): while DRAM takes no writes the buffer fills up to
2 MiB; none where it is full.
A packet counts its sample data, 6 bytes per row header and 14 more (log 112, DESIGN CHOICE). -/
def rxTake (s : State) (r : RtpPkt) : Option State :=
  let p := r.iface / 4
  let n := if s.dram.frozenAt.isNone then 0 else (look p s.net.rxHeld).getD 0 + r.data.length + 6 * r.srd.length + 14
  if 2 ^ 21 < n then none else some { s with net := { s.net with rxHeld := put p n s.net.rxHeld } }

/-- What an accepted packet does (R63, R66): it lands in its frame, opens a frame, or comes late. A frame older than the
newest may still open until its own merge window, open since the first packet of a later frame, has run out. -/
def takePacket (s : State) (x : Stream) (b : Bool) (r : RtpPkt) : State :=
  let own := ownFrames x
  let later (t : Word) : Bool := decide (0 < sdiff t r.ts)
  match own.find? (fun y => y.ts == r.ts) with
  | some f => landPacket s x f b r
  | none =>
    if x.refused.contains r.ts then bump (setStream s (passedBy x r)) (ingUnrec + 4 * x.id)
    else if x.closed.contains r.ts then setStream s x
    else match ((own.filter (fun y => later y.ts)).map (·.opened)).min? with
      | some o => if o + mergeNs x ≤ lt s then setStream s x else openFrame s x b r (some o)
      | none => if (x.closed ++ x.refused).any later then setStream s x else openFrame s x b r none

/-- RTP_PACKET_RECEIVED (R58, R62, R63): the VLAN, the stream path, the receiver buffer, the acceptance checks, the path
state, then the packet's place in its frame. -/
def execRtpPacketReceived (r : RtpPkt) (s : State) : Out1 :=
  act s fun s =>
    if !s.id.sender || !bit (rd s (netIfCtrl + 16 * r.iface)) 31 then s
    else if !vlanOk s r.iface r.vlan then dropFrame s 0
    else match matchPath s r with
      | none =>
        if isGroup r.group then dropFrame s 1
        else if holdsAddr s r.iface (hostAddr r.group) then dropFrame s 6 else s
      | some (x, b) => match rxTake s r with
        | none => bump s (ingUnrec + 4 * x.id)
        | some s =>
          let bad (y : Stream) : State := dropFrame (setStream s { y with wrong := y.wrong + 1 }) 7
          let want := if sdSsrc x.words = 0 then x.lock else some (sdSsrc x.words)
          let foreign := match want with | some v => v != r.ssrc | none => false
          if r.version ≠ 2 ∨ r.ptype ≠ sdPt x.words ∨ !srdOk x.words r then bad x
          else if foreign then bad { x with clash := true }
          else
            let x1 := { x with
              lock := if sdSsrc x.words = 0 then some r.ssrc else x.lock
              lastA := if b then x.lastA else some (lt s)
              lastB := if b then some (lt s) else x.lastB
              upA := x.upA || !b, upB := x.upB || b
              st := if x.st = 4 then (if x.announced then 3 else 2) else x.st }
            let (s1, x2) := pathDiff s x1 b r.ts
            let (s2, x3) := passFrames s1 x2 b r.ts
            takePacket s2 x3 b r

/-- SSRC_LOCK_RELEASE (R62): 1 s after the last packet of the lock. -/
def execSsrcLockRelease (id : Nat) (_pathB : Bool) (s : State) : Out1 :=
  act s fun s =>
    match streamOf s id with
    | none => s
    | some x =>
      if x.lock.isNone then s
      else
        let last := max (x.lastA.getD 0) (x.lastB.getD 0)
        setStream (toLt (last + 10 ^ 9) s) { x with lock := none, upTo := none }

/-- PATH_DOWN (R63): 100 ms after the last accepted packet of a path.
Before the first frame STATE stays 2 with both paths down (log 113, DESIGN CHOICE). -/
def execPathDown (id : Nat) (b : Bool) (s : State) : Out1 :=
  act s fun s =>
    match streamOf s id with
    | none => s
    | some x =>
      let up := if b then x.upB else x.upA
      match (if b then x.lastB else x.lastA) with
      | none => s
      | some t =>
        if !up then s
        else
          let y := if b then { x with upB := false } else { x with upA := false }
          let (s1, y1) := pathMisses (toLt (t + 10 ^ 8) s) y b
          let z := if y.upA || y.upB then y1 else { y1 with st := if y.st = 3 then 4 else y.st, upTo := none }
          recEventX (setStream s1 z) .wall xPathDown [w32 id, flagAt b 0]

/-- LOSS_POLICY (R64): a frame that closed incomplete is filled from the newest ready frame of its definition (log 35),
or discarded. A line that the fill could not read stays unfilled and marked (15 R337). -/
def lossPolicy (s : State) (x : Stream) (f : SrcSlot) : State :=
  let bad := (List.range (sdHeight x.words)).filter (fun l => !lineFull x.words f l)
  if sdHold x.words then
    setStream s { putSlot x (slotFree f.idx f.units) with closed := histPut f.ts x.closed }
  else
    let src := newestOf (x.slots.filter (fun y => !y.old))
    let fill (g : SrcSlot) (l : Nat) : SrcSlot :=
      match src with
      | some n => if x.unread.contains l then g else { g with lines := put l ((look l n.lines).getD []) g.lines }
      | none => g
    frameReady s { x with unread := [] } (bad.foldl fill f) bad

/-- The place after the last packet of a frame that closes incomplete: that of the first packet of the next frame or,
while none has begun, after the last one seen (R68). -/
def frameEnd (x : Stream) (f : SrcSlot) : Nat :=
  let next := (((ownFrames x).filter (fun y => decide (0 < sdiff y.ts f.ts))).map
    (fun y => (y.first - f.first).toNat)).filter (fun n => decide (n < 2 ^ 31))
  next.min?.getD (placesSeen f)

/-- MERGE_WINDOW_CLOSE (R63): MERGE ms after the window opened. -/
def execMergeWindowClose (id : Nat) (ts : Word) (s : State) : Out1 :=
  act s fun s =>
    match streamOf s id with
    | none => s
    | some x =>
      match x.slots.find? (fun y => !y.old && y.st == .filling && y.ts == ts) with
      | none => s
      | some f =>
        match f.window with
        | none => s
        | some w =>
          let s1 := toLt (w + mergeNs x) s
          let n := frameEnd x f
          lossPolicy (bumpN (bumpF s1 (ingSts + 4 * id) 15 0) (ingUnrec + 4 * id) (neverCame x f n)) (accounted x f n) f

end Sys2Proof.Machine
end

