-- ==== Sys2Proof/Machine/Net.lean ====
section
/-! DEFINITION. Network ports and interfaces of a sender: port modes, link state, addresses, group
membership and the frame classes (03 R52 to R58; 14 R327). -/

namespace Sys2Proof.Machine

/-! ### Port modes and link (R52, R53, R54, R327) -/

/-- Network port `p` changed. -/
def setNetPort (s : State) (p : Nat) (x : NetPort) : State :=
  { s with net := { s.net with ports := s.net.ports.set p x } }

/-- The sub-ports of a mode, one interface each (R52). -/
def subPorts (mode : Nat) : List Nat := if mode = 0 then [] else if mode = 2 then [0, 1, 2, 3] else [0]

/-- Bit `k` of a number set to `b`. -/
def bitTo (v k : Nat) (b : Bool) : Nat :=
  if b then v ||| (1 <<< k) else v ^^^ (v &&& (1 <<< k))

/-- NET.PORT_STS_p (14 R327). -/
def portStsWord (s : State) (p : Nat) : Word :=
  let x := netPort s p
  mkFld 31 30 x.mode ||| mkFld 29 26 (if x.mode = 2 then x.fec else 0) ||| flagAt x.training.isSome 25
    ||| mkFld 21 18 x.link ||| mkFld 17 14 x.align

/-- NET.IF_STS of interface `i` (R54). -/
def ifStsWord (s : State) (i : Nat) : Word :=
  let st (f : Nat) : Nat :=
    match s.net.addrs.find? (fun a => a.iface == i && a.fam == f) with
    | some a => a.st
    | none => 0
  mkFld 7 6 (st 2) ||| mkFld 5 4 (st 1) ||| mkFld 3 2 (st 0) ||| flagAt (ifLink s i) 0

/-- A granted mode change (R53): the port drops its link and retrains in the new mode for at most
2 s. -/
def startPortMode (s : State) (p mode fec : Nat) (c : CmdRef) : State :=
  setNetPort s p
    { mode := mode, fec := fec, training := some (c, lt s + 2 * 10 ^ 9), link := 0, align := 0 }

/-- Whether a mode change of port `p` is in progress or waits for its credits. -/
def portChanging (s : State) (p : Nat) : Bool :=
  (netPort s p).training.isSome
    || (s.slu.waiting ++ s.slu.granted).any (fun c => match c.op with
      | .portMode q _ _ _ => q == p
      | _ => false)

/-- PORT_MODE (R53; 17 R374, R375; log 36). The reply leaves before the port drops. -/
def portModeRule : Handler := withLen 1 fun c p s =>
  let w := pw p 0
  let port := fld w 24 24
  let mode := fld w 17 16
  let fec := fld w 3 0
  let need := standingWith s (pipesOn (rd s cmpCanvas))
    ((s.net.ports.map (·.mode)).set port mode) (getF s lmpCfg 31 30)
  if portChanging s port then .no s stBusy
  else if getF s pwrChip 31 16 < need then .noW s stConflict [conflictWord 0x08 1 need]
  else match sluiceAsk s (.portMode port mode fec c) 1 3 0 with
    | (t, .refused) => .no t stNoCredit
    | (t, .waiting _) => .pend t
    | (t, .granted _) => ⟨stPending, [], t, false, fun u => startPortMode u port mode fec c⟩

def execPortMode (p : Smb) (s : State) : Out1 := smibenRow 0x0210 portModeRule p s

/-- PORT_RETRAIN_COMPLETE (R53): every interface of the new mode has link, or 2 s have passed. -/
def execPortRetrainComplete (p : Nat) (s : State) : Out1 :=
  act s fun s =>
    let x := netPort s p
    match x.training with
    | none => s
    | some (c, d) =>
      let up := (subPorts x.mode).all (fun k => (x.link >>> k) % 2 == 1)
      let s1 := setNetPort (if up then s else toLt d s) p { x with training := none }
      notify (creditReturn s1 (fun o => match o with
        | .portMode q _ _ _ => q == p
        | _ => false)) c stOk []

/-- NET_LINK_CHANGE (R54, R327): a sub-port of the mode in effect gains or loses link. -/
def execNetLinkChange (i : Nat) (link align : Bool) (s : State) : Out1 :=
  act s fun s =>
    let x := netPort s (i / 4)
    if s.id.sender && (subPorts x.mode).contains (i % 4) && decide (i < 8) then
      setNetPort s (i / 4) { x with
        link := bitTo x.link (i % 4) link
        align := bitTo x.align (i % 4) (align && fecUsed x (i % 4)) }
    else s

/-! ### Addresses (R54, R56) -/

/-- Whether an interface uses an address of a family. -/
def addrUsed (s : State) (i f : Nat) : Bool :=
  let w := rd s (netIfCtrl + 16 * i)
  s.id.sender && bit w 31 && (if f = 0 then bit w 30 else bit w 29) && addrOf s i f != 0

/-- An address entry put in place of the old one. -/
def setAddr (s : State) (a : NetAddr) : State :=
  { s with net := { s.net with
    addrs := a :: s.net.addrs.filter (fun x => !(x.iface == a.iface && x.fam == a.fam)) } }

/-- Duplicate-address probing of an address begins again, or the address is given up (R54). -/
def startDad (s : State) (i f : Nat) : State :=
  if addrUsed s i f then
    setAddr s { iface := i, fam := f, st := 1, probes := 0, announced := 0, defended := none
                next := some (lt s) }
  else
    { s with net := { s.net with
      addrs := s.net.addrs.filter (fun x => !(x.iface == i && x.fam == f)) } }

/-- An address in conflict: not used; probing restarts after 60 s (R56). -/
def addrConflict (s : State) (a : NetAddr) : State :=
  setAddr s { a with st := 3, probes := 0, announced := 0, defended := none
                     next := some (lt s + 60 * 10 ^ 9) }

/-- The random interval of 1 to 2 s between probes (R56). -/
def probeGap (n : Nat) : Nat := min (2 * 10 ^ 9) (max (10 ^ 9) n)

/-- DAD_TIMER (R56): the next probe or announcement of an address, its confirmation, or the restart
of probing after a conflict. -/
def execDadTimer (i f n : Nat) (s : State) : Out1 :=
  act s fun s =>
    match s.net.addrs.find? (fun a => a.iface == i && a.fam == f) with
    | none => s
    | some a =>
      match a.next with
      | none => s
      | some d =>
        let s1 := toLt d s
        let t := lt s1
        let k := if a.st = 3 then 0 else a.probes
        let want := if f = 0 then 3 else 1
        if a.st = 2 then
          emit (setAddr s1 { a with announced := 2, next := none }) (.net i (txTag s i) (.arpAnnounce f))
        else if k < want then
          let gap := if f ≠ 0 then 10 ^ 9 else if k + 1 < want then probeGap n else 2 * 10 ^ 9
          emit (setAddr s1 { a with st := 1, probes := k + 1, next := some (t + gap) })
            (.net i (txTag s i) (.arpProbe f))
        else if f = 0 then
          emit (setAddr s1 { a with st := 2, announced := 1, next := some (t + 2 * 10 ^ 9) })
            (.net i (txTag s i) (.arpAnnounce f))
        else setAddr s1 { a with st := 2, next := none }

/-- ARP_ND_RECEIVED (R54, R56, R58). `op` is 1 for a request or solicitation, 2 for a reply or
advertisement, 3 for a probe; `addr` is the address it is about. A held IPv6 address that is dropped is handled as a
conflict while probing: state 3, and probing again after 60 s (log 95). -/
def execArpNdReceived (at_ : NetIn) (f op : Nat) (mac : BitVec 48) (addr : BitVec 128) (s : State) : Out1 :=
  act s fun s =>
    let i := at_.iface
    if !s.id.sender || !bit (rd s (netIfCtrl + 16 * i)) 31 then s
    else if !vlanOk s i at_.vlan then dropFrame s 0
    else match netToken s i 3 with
      | none => dropFrame s 3
      | some s =>
        match s.net.addrs.find? (fun a =>
            a.iface == i && (a.fam == 0) == (f == 0) && addrOf s i a.fam == addr) with
        | none => s
        | some a =>
          let foreign := mac != ifMac s i
          if a.st = 1 then
            if op = 2 ∨ (op = 3 ∧ foreign) then
              recordX (addrConflict s a) xAddrConflict [w32 i, w32 a.fam]
            else s
          else if a.st ≠ 2 then s
          else if op = 2 ∧ foreign then
            if a.fam ≠ 0 then addrConflict s a
            else match a.defended with
              | some t =>
                if lt s - t < 10 ^ 10 then addrConflict s a
                else emitNet (setAddr s { a with defended := some (lt s) }) i (.arpAnnounce 0)
              | none => emitNet (setAddr s { a with defended := some (lt s) }) i (.arpAnnounce 0)
          else if op = 2 then s
          else emitNet s i (.arpReply a.fam addr)

/-! ### Group membership (R57) -/

/-- Whether a group is an IPv6 one: an IPv4 group is written IPv4-mapped (R59). -/
def groupV6 (g : BitVec 128) : Bool := g.toNat >>> 32 != 0xFFFF

/-- The place of an older querier version in `Net.compat`. -/
def compatKey (i : Nat) (v6 : Bool) (ver : Nat) : Nat := 8 * i + (if v6 then 4 else 0) + ver

/-- The version of the reports of an interface for a family: the oldest of which a querier is present, until it has been
silent for the time the RFCs give it (log 95); 3 without one. -/
def compatOf (s : State) (i : Nat) (v6 : Bool) : Nat :=
  ([1, 2].find? (fun v => decide (lt s < (look (compatKey i v6 v) s.net.compat).getD 0))).getD 3

/-- How long an older querier counts as present, in ns: two query intervals of 125 s and a maximum response time
(log 95). -/
def compatNs (maxResp : Nat) : Nat := 250 * 10 ^ 9 + maxResp

/-- IGMP_MLD_QUERY (R57, R58): each member group of the family that the query names, with one of the sources it names
if any, and every one for a general query, is reported after a random delay within the maximum response time (both in ns here); an older querier puts the interface
into the compatibility mode of its family. -/
def execIgmpMldQuery (a : NetIn) (q : GroupQuery) (maxResp delay : Nat) (s : State) : Out1 :=
  act s fun s =>
    let i := a.iface
    if !s.id.sender || !bit (rd s (netIfCtrl + 16 * i)) 31 then s
    else if !vlanOk s i a.vlan then dropFrame s 0
    else match netToken s i 4 with
      | none => dropFrame s 4
      | some s =>
        let at_ := lt s + min delay maxResp
        let soon (n : Option Nat) : Nat := match n with
          | some t => min t at_
          | none => at_
        let named (m : Member) : Bool := q.group == 0 || m.group == q.group
          && (q.sources.isEmpty || m.source == 0 || q.sources.contains m.source)
        let members := s.net.members.map (fun m =>
          if m.iface = i ∧ groupV6 m.group = q.v6 ∧ !m.leave ∧ named m then
            { m with answer := some (soon m.answer) }
          else m)
        { s with net := { s.net with
          members := members
          compat := if q.compat = 1 ∨ q.compat = 2 ∧ !q.v6 then
              put (compatKey i q.v6 q.compat) (lt s + compatNs maxResp) s.net.compat
            else s.net.compat } }

/-- Marks the paths of a stream whose first report has gone; when every path has one, the
STREAM_DEFINE takes its notification (R61). -/
def joinPaths (s : State) (m : Member) (x : Stream) : State :=
  let hit (b : Bool) : Bool := sdUses x.words b && sdIface x.words b == m.iface && sdGroup x.words b == m.group
    && sdSource x.words b == m.source
  let a := x.joinA || hit false
  let b := x.joinB || hit true
  let y := { x with joinA := a, joinB := b }
  if x.ref.isSome ∧ (a || !sdUses x.words false) ∧ (b || !sdUses x.words true) then
    notifyO (setStream s { y with st := if x.st = 1 then 2 else x.st, ref := none }) x.ref stOk []
  else setStream s y

/-- The PTP multicast groups, 224.0.1.129 and FF0E::181 (11 R243). -/
def ptpGroup4 : BitVec 128 := 0xFFFFE0000181
def ptpGroup6 : BitVec 128 := 0xFF0E0000000000000000000000000181

/-- The PTP memberships that the enabled domain slots want: the group of its family on each interface of its IFMASK. -/
def ptpWanted (s : State) : List (Nat × BitVec 128) :=
  ((List.range 2).filter (ptpOn s)).flatMap fun d =>
    let w := ptpCfg s d
    ((List.range 8).filter (fun i => bit w (16 + i))).map (fun i => (i, if bit w 28 then ptpGroup6 else ptpGroup4))

/-- The PTP groups joined and left as the domain slots ask: each change sends two reports (R57). -/
def ptpGroups (s : State) : State :=
  let want := (ptpWanted s).eraseDups
  let mine (m : Member) : Bool := (m.group == ptpGroup4 || m.group == ptpGroup6) && m.source == 0
  let change (leave : Bool) (i : Nat) (g : BitVec 128) : Member :=
    { iface := i, group := g, source := 0, left := 2, next := some (lt s), answer := none, leave := leave }
  let kept := s.net.members.map (fun m =>
    if mine m && !m.leave && !want.contains (m.iface, m.group) then change true m.iface m.group else m)
  let new := want.filter (fun e => !kept.any (fun m => mine m && !m.leave && m.iface == e.1 && m.group == e.2))
  let rest := kept.filter (fun m => !(mine m && m.leave && new.contains (m.iface, m.group)))
  { s with net := { s.net with members := new.map (fun e => change false e.1 e.2) ++ rest } }

/-- When a membership next reports: an unsolicited report, or the answer to a query. -/
def Member.due (m : Member) : Option Nat :=
  match m.next, m.answer with
  | some a, some b => some (min a b)
  | some a, none => some a
  | none, o => o

/-- The report of a membership (R57), in the version of the querier present: an older one joins the whole group, leaves
it only with the last membership of the group on the interface, and under IGMPv1 not at all. Without a confirmed
address it carries the unspecified source. -/
def reportOf (s : State) (m : Member) : Option NetMsg :=
  let ver := compatOf s m.iface (groupV6 m.group)
  let anon := !s.net.addrs.any (fun a => a.iface == m.iface && a.st == 2)
  let more := s.net.members.any (fun y => y.iface == m.iface && y.group == m.group && !y.leave)
  if ver = 3 then some (.member 3 m.group m.source (!m.leave) anon)
  else if m.leave && (more || (ver == 1 && !groupV6 m.group)) then none
  else some (.member ver m.group 0 (!m.leave) anon)

/-- MEMBERSHIP_REPORT_TIMER (R57, R61): a report due for a membership, unsolicited or answering a query. -/
def execMembershipReportTimer (i : Nat) (k : Membership) (s : State) : Out1 :=
  act s fun s =>
    let g := k.group
    match s.net.members.find? (fun m => m.iface == i && m.group == g && m.source == k.source) with
    | none => s
    | some m => match m.due with
      | none => s
      | some d =>
        let s1 := toLt d s
        let asked := m.answer == some d
        let left := if asked then m.left else m.left - 1
        let m1 := if asked then { m with answer := none }
          else { m with left := left, next := if left = 0 then none else some (lt s1 + 10 ^ 9) }
        let rest := s1.net.members.filter (fun y => !(y == m))
        let s2 := { s1 with net := { s1.net with
          members := if m.leave && left == 0 then rest else m1 :: rest } }
        let s3 := match reportOf s2 m with | some n => emitNet s2 i n | none => s2
        if m.leave then s3 else (defined s3).foldl (fun t x => joinPaths t m x) s3

/-! ### Frame classes (R58) -/

/-- A frame of a policed class: dropped without a token. -/
def policedFrame (s : State) (i cls : Nat) : State := (netToken s i cls).getD (dropFrame s cls)

/-- The MAC addresses of the all-hosts, solicited-node and PTP groups (R58; 11 R243). -/
def knownGroup (m : BitVec 48) : Bool :=
  [0x01005E000001, 0x333300000001, 0x01005E000181, 0x333300000181].contains m.toNat || m.toNat / 2 ^ 24 == 0x3333FF

/-- What becomes of a frame that no other command carries (R58): its class by the FCS, the VLAN tag, the destination and
what it holds. UDP to the Smiben port in IP fragments falls under class 4 of 02 R42; a PTP frame of this kind is a
Management or Signaling message (11 R243). -/
def sortFrame (s : State) (a : NetIn) (f : EthFrame) : State :=
  if !f.fcsOk || !vlanOk s a.iface a.vlan then dropFrame s 0
  else match f.kind with
    | .pause => dropFrame s 8
    | .arp =>
      if !f.dst.getLsbD 40 && f.dst != ifMac s a.iface then dropFrame s 0 else policedFrame s a.iface 3
    | k =>
      if f.dst = BitVec.allOnes 48 then dropFrame s 2
      else if !f.dst.getLsbD 40 && f.dst != ifMac s a.iface then dropFrame s 0
      else match k with
        | .nd => policedFrame s a.iface 3
        | .igmp | .mld => policedFrame s a.iface 4
        | .echo => policedFrame s a.iface 5
        | .otherIcmp => dropFrame s 5
        | .ptp => dropFrame s 9
        | .tcp => dropFrame s 6
        | .udp dst port frag =>
          if f.dst.getLsbD 40 then (if knownGroup f.dst then s else dropFrame s 1)
          else if !holdsAddr s a.iface dst then s
          else if port = 319 ∨ port = 320 then policedFrame s a.iface 9
          else if port ≠ getF s sysSmbPort 15 0 then dropFrame s 6
          else if frag then smbDrop s 4 else s
        | _ => if f.dst.getLsbD 40 && !knownGroup f.dst then dropFrame s 1 else s

/-- NET_FRAME_DROP (R58). -/
def execNetFrameDrop (a : NetIn) (f : EthFrame) (s : State) : Out1 :=
  act s fun s =>
    if s.id.sender && decide (a.iface < 8) && bit (rd s (netIfCtrl + 16 * a.iface)) 31 then sortFrame s a f else s

/-- ICMP_ECHO_REQUEST (R54, R58): to a confirmed address, policed and answered, on the link or through the gateway. -/
def execIcmpEchoRequest (a : NetIn) (ip : Addrs) (body : List Byte) (s : State) : Out1 :=
  act s fun s =>
    let i := a.iface
    if !s.id.sender || !bit (rd s (netIfCtrl + 16 * i)) 31 then s
    else if !vlanOk s i a.vlan then dropFrame s 0
    else if !holdsAddr s i (hostAddr ip.dst) then s
    else match netToken s i 5 with
      | none => dropFrame s 5
      | some s => match nextHop s i (hostAddr ip.src) with
        | some h => emitNet s i (.echoReply h ip.src body)
        | none => s

/-- PAUSE_FRAME (R53, R58): ignored and counted. -/
def execPauseFrame (i : Nat) (s : State) : Out1 :=
  act s fun s => if s.id.sender && decide (i < 8) then dropFrame s 8 else s

end Sys2Proof.Machine
end

