-- ==== Sys2Proof/Machine/Regions.lean ====
section
/-! DEFINITION. Weir regions of a sender (10 R221 to R223): the definitions, the part of each that a
tile holds, and the REGION_SET messages. -/

namespace Sys2Proof.Machine

/-! ### The four words (R221) -/

def rgNum (w : List Word) : Nat := fld (w.getD 0 0) 31 20
def rgEn (w : List Word) : Bool := bit (w.getD 0 0) 19
def rgStalewd (w : List Word) : Bool := bit (w.getD 0 0) 18
def rgIncok (w : List Word) : Bool := bit (w.getD 0 0) 17
def rgXb (w : List Word) : Nat := fld (w.getD 1 0) 31 16
def rgYb (w : List Word) : Nat := fld (w.getD 1 0) 15 0
def rgWb (w : List Word) : Nat := fld (w.getD 2 0) 31 16
def rgHb (w : List Word) : Nat := fld (w.getD 2 0) 15 0
def rgLimit (w : List Word) : Nat := fld (w.getD 3 0) 31 16
def rgSrcmax (w : List Word) : Nat := fld (w.getD 3 0) 15 0

/-- A definition with its reserved bits 0 (00 R4). -/
def rgClean (w : List Word) : List Word := w.modify 0 (fun x => x &&& 0xFFFE0000)

/-- The ranges of R221. -/
def rgRangeOk (w : List Word) : Bool :=
  decide (1 ≤ rgWb w ∧ rgWb w ≤ 2048) && decide (1 ≤ rgHb w ∧ rgHb w ≤ 1024)
    && decide (20 ≤ rgLimit w ∧ rgLimit w ≤ 60000) && decide (20 ≤ rgSrcmax w ∧ rgSrcmax w ≤ 60000)

/-- The overlap of a region with a tile rectangle in tile blocks: left, top, width, height. -/
def regionPart (w : List Word) (r : Rect) : Option (Nat × Nat × Nat × Nat) :=
  let x0 := max (rgXb w) r.xb
  let y0 := max (rgYb w) r.yb
  let x1 := min (rgXb w + rgWb w) (r.xb + r.wtb)
  let y1 := min (rgYb w + rgHb w) (r.yb + r.htb)
  if x0 < x1 ∧ y0 < y1 then some (x0 - r.xb, y0 - r.yb, x1 - x0, y1 - y0) else none

/-! ### REGION_SET (R223) -/

/-- The 16 bytes of a REGION_SET. -/
def regionSetBytes (m : RegionSet) : List Byte :=
  let fl : Nat := (if m.en then 128 else 0) + (if m.stalewd then 64 else 0)
  [0x23, BitVec.ofNat 8 fl] ++ bytesOf 2 (BitVec.ofNat 16 m.region)
    ++ [BitVec.ofNat 8 m.xb, BitVec.ofNat 8 m.yb, BitVec.ofNat 8 m.wb, BitVec.ofNat 8 m.hb]
    ++ bytesOf 2 (BitVec.ofNat 16 m.limit) ++ List.replicate 6 0

/-- The message that gives a tile its part of a region, or takes the region from it. -/
def regionSetFor (w : List Word) (p : Option (Nat × Nat × Nat × Nat)) : RegionSet :=
  match p with
  | some (x, y, a, b) =>
    { region := rgNum w, en := true, stalewd := rgStalewd w, xb := x, yb := y, wb := a, hb := b
      limit := rgLimit w }
  | none =>
    { region := rgNum w, en := false, stalewd := false, xb := 0, yb := 0, wb := 0, hb := 0, limit := 0 }

/-- The place of a node address in the enrolment table. -/
def placeOfNa (s : State) (na : BitVec 16) : Option (BitVec 64) :=
  (s.flume.enrolled.find? (fun e => e.1 == na)).map (·.2)

/-- A REGION_SET sent down the chain of a place, with the definition that caused it. -/
def sendRegionSet (s : State) (pl : BitVec 64) (m : RegionSet) (cause : Option CmdRef) : State :=
  linkSendFor s (plChain pl) (.bytes 3 false false (routeOf pl) s.id.side (regionSetBytes m)) cause

/-- The change of one region sent to the tile of a rectangle: `old` and `new` are its words before
and after. -/
def sendRegionChange (s : State) (r : Rect) (old new : Option (List Word)) (cause : Option CmdRef) : State :=
  match placeOfNa s r.na with
  | none => s
  | some pl =>
    let before := old.bind (fun w => regionPart w r)
    match new with
    | some w =>
      match regionPart w r with
      | some p => sendRegionSet s pl (regionSetFor w (some p)) cause
      | none => if before.isSome then sendRegionSet s pl (regionSetFor w none) cause else s
    | none => match old with
      | some w => if before.isSome then sendRegionSet s pl (regionSetFor w none) cause else s
      | none => s

/-- The whole region set of a tile sent to it. -/
def sendRegions (s : State) (r : Rect) : State :=
  s.flume.regions.foldl (fun t g => sendRegionChange t r none (some g.words) none) s

/-- The region set of a tile after its rectangle changed from `old` to `new`. -/
def sendRectChange (s : State) (old : Option Rect) (new : Rect) : State :=
  s.flume.regions.foldl (fun t g =>
    match placeOfNa t new.na with
    | none => t
    | some pl =>
      match (if new.wtb = 0 then none else regionPart g.words new) with
      | some p => sendRegionSet t pl (regionSetFor g.words (some p)) none
      | none =>
        if (old.bind (fun r => regionPart g.words r)).isSome then
          sendRegionSet t pl (regionSetFor g.words none) none
        else t) s

/-- Whether a REGION_SET that a definition caused waits for its acknowledgement. -/
def regionInFlight (s : State) (c : CmdRef) : Bool :=
  s.link.ports.any (fun p => p.unacked.any (fun u => u.item.cause == some c)
    || p.waiting.any (fun i => i.cause == some c))

/-- The definitions all of whose REGION_SETs have been acknowledged take their notification (R222). -/
def regionsAcked (s : State) : State :=
  let ready := s.flume.defining.filter (fun e => !regionInFlight s e.2)
  let s1 := { s with flume := { s.flume with
    defining := s.flume.defining.filter (fun e => regionInFlight s e.2) } }
  ready.foldl (fun t e => notifyAt t e.2 stOk (edgeAfter t (now t)) []) s1

/-! ### REGION_DEFINE (R221, R222) -/

/-- A defined region of a sender. -/
def regionOf (s : State) (g : Nat) : Option Region := s.flume.regions.find? (fun x => x.num == g)

/-- Whether a definition would make a tile rectangle overlap more than 256 regions. -/
def tooManyRegions (s : State) (w : List Word) : Bool :=
  s.canvas.rects.any fun r =>
    (regionPart w r).isSome &&
      decide (256 ≤ (s.flume.regions.filter (fun g => g.num != rgNum w
        && (regionPart g.words r).isSome)).length)

/-- A change of the sections that commands of a sender keep in the settings record; refused by the
write stop it is counted and the record keeps its copy (19 R416; 17 R372). -/
def keepSettings (s : State) : State := (settingsAsk s .settings none).1

/-- REGION_DEFINE (R221 to R223). -/
def regionDefineRule : Handler := withLen 4 fun c p s =>
  let w := rgClean p.payload
  let g := rgNum w
  let old := regionOf s g
  let tell (new : Option (List Word)) (t : State) : State :=
    t.canvas.rects.foldl (fun u r => sendRegionChange u r (old.map (·.words)) new (some c)) t
  let rest := s.flume.regions.filter (fun x => x.num != g)
  if !rgEn w then
    match old with
    | none => .ok s []
    | some _ =>
      let s1 := keepSettings { s with flume := { s.flume with regions := rest } }
      ⟨stOk, [], s1, false, tell none⟩
  else if !rgRangeOk w then .no s stBadParam
  else if getF s cmpCanvas 27 16 < rgXb w + rgWb w ∨ getF s cmpCanvas 10 0 < rgYb w + rgHb w then
    .no s stBadParam
  else if tooManyRegions s w then .no s stBadParam
  else
    let x : Region := match old with
      | some o => { o with words := w }
      | none => { num := g, words := w, fails := [], vouched := [] }
    let s1 := keepSettings { s with flume := { s.flume with
      regions := x :: rest, defining := s.flume.defining ++ [(g, c)] } }
    ⟨stPending, [], s1, false, fun t => regionsAcked (tell (some w) t)⟩

def execRegionDefine (p : Smb) (s : State) : Out1 := smibenRow 0x0401 regionDefineRule p s

end Sys2Proof.Machine
end

