-- ==== Sys2Proof/Machine/Canvas.lean ====
section
/-! DEFINITION. Canvas composition of a sender (04 R69 to R92) and the detection of changed blocks
(05 R93 to R96). -/

namespace Sys2Proof.Machine

/-! ### Bands (R71) -/

/-- The canvas a set of tables describes: pipelines, size in blocks, rate, layers. -/
structure Tables where
  pipes : Nat
  wb : Nat
  hb : Nat
  num : Nat
  den : Nat
  layers : List (List Word)
  deriving DecidableEq, Repr

/-- A word of a settings list as it will stand: the value of the last staged change, or the word in
effect. -/
def soonPar (s : State) (i : Nat) : Word :=
  s.changes.foldl (fun w c => match c.what with
    | .params l => (look i l.reverse).getD w
    | _ => w) (rd s i)

/-- The layer words in effect. -/
def layersNow (s : State) : List (List Word) := s.canvas.layers.map (·.words)

/-- The layer words as they will stand at the latch of a command accepted now: every change accepted before reaches that
latch, and a set taken by COMMIT_AT if its target frame has come by then (R78, R80). -/
def layersSoon (s : State) : List (List Word) :=
  let e := edgeAfter s (now s)
  s.changes.foldl (fun l c => match c.what with
    | .layer n w => l.set n w
    | .commit _ t sets => if t ≤ e then sets.foldl (fun l e => l.set e.1 e.2) l else l
    | _ => l) (layersNow s)

/-- The tables a parameter lookup and a layer list describe. -/
def tablesOf (g : Nat → Word) (layers : List (List Word)) : Tables :=
  let c := g cmpCanvas
  let r := g cmpRate
  { pipes := max 1 (fld c 31 28), wb := fld c 27 16, hb := fld c 10 0
    num := max 1 (fld r 31 16), den := max 1 (fld r 15 0), layers := layers }

/-- The tables in effect. -/
def tablesNow (s : State) : Tables := tablesOf (rd s) (layersNow s)

/-- The tables as they will stand. -/
def tablesSoon (s : State) : Tables := tablesOf (soonPar s) (layersSoon s)

/-- The first block column of band `p`. -/
def bandStart (t : Tables) (p : Nat) : Nat := t.wb * p / t.pipes

/-- The width of band `p` in blocks. -/
def bandWidth (t : Tables) (p : Nat) : Nat := bandStart t (p + 1) - bandStart t p

/-! ### Layer words (R76) -/

def lyW (l : List Word) (i : Nat) : Word := l.getD i 0
def lyEn (l : List Word) : Bool := bit (lyW l 0) 31
def lySolid (l : List Word) : Bool := bit (lyW l 0) 30
def lyNosrc (l : List Word) : Bool := bit (lyW l 0) 29
def lyAligned (l : List Word) : Bool := bit (lyW l 0) 28
def lyStream (l : List Word) : Nat := fld (lyW l 0) 27 22
def lyAlpha (l : List Word) : Nat := fld (lyW l 0) 21 13
def lyNearest (l : List Word) : Bool := bit (lyW l 0) 12
def lySx (l : List Word) : Nat := fld (lyW l 1) 31 16
def lySy (l : List Word) : Nat := fld (lyW l 1) 15 0
def lySw (l : List Word) : Nat := fld (lyW l 2) 31 16
def lySh (l : List Word) : Nat := fld (lyW l 2) 15 0
def lyDx (l : List Word) : Nat := fld (lyW l 3) 31 16
def lyDy (l : List Word) : Nat := fld (lyW l 3) 15 0
def lyDw (l : List Word) : Nat := fld (lyW l 4) 31 16
def lyDh (l : List Word) : Nat := fld (lyW l 4) 15 0
def lyDelay (l : List Word) : Nat := fld (lyW l 7) 19 0

/-- The colour of a layer as wall codes. -/
def lyColour (l : List Word) : Nat × Nat × Nat :=
  (fld (lyW l 5) 27 16, fld (lyW l 5) 11 0, fld (lyW l 6) 11 0)

/-- Taps of a kernel for `s` source samples onto `d` (R81): horizontally Th, vertically Nv (R83). -/
def taps (nearest : Bool) (s d : Nat) : Nat := if nearest then 1 else max 4 (cdiv (4 * s) (max 1 d))

/-- Whether a layer is an enabled video layer. -/
def lyVideo (l : List Word) : Bool := lyEn l && !lySolid l

/-- The width in pixels of the part of a layer's destination that lies in band `p`. -/
def segWidth (t : Tables) (p : Nat) (l : List Word) : Nat :=
  let a := 16 * bandStart t p
  let b := a + 16 * bandWidth t p
  min b (lyDx l + lyDw l) - max a (lyDx l)

/-- The line buffers needed on row `y` of band `p` (R83). -/
def lbufAt (t : Tables) (p y : Nat) : Nat :=
  ((t.layers.filter (fun l => lyVideo l && decide (0 < segWidth t p l)
      && decide (lyDy l ≤ y) && decide (y < lyDy l + lyDh l))).map
    (fun l => taps (lyNearest l) (lySh l) (lyDh l))).sum

/-- The rows on which the sum of band `p` can rise. -/
def lbufRows (t : Tables) (p : Nat) : List Nat :=
  (t.layers.filter (fun l => lyVideo l && decide (0 < segWidth t p l))).foldl
    (fun m l => insertNat (lyDy l) m) []

/-- CMP.LBUF_p: the largest buffer sum over the rows of band `p`. -/
def lbufMax (t : Tables) (p : Nat) : Nat := (lbufRows t p).foldl (fun m y => max m (lbufAt t p y)) 0

/-- CMP.LOAD_p: the load of band `p` (R84). -/
def bandLoad (t : Tables) (p : Nat) : Nat :=
  16 * t.hb * (16 * bandWidth t p + 32) +
    (t.layers.map fun l =>
      let wo := segWidth t p l
      if !lyEn l || wo == 0 then 0
      else if lySolid l then lyDh l * wo
      else
        let ws := cdiv (lySw l * wo) (max 1 (lyDw l)) + taps (lyNearest l) (lySw l) (lyDw l)
        lySh l * (ws + 32) + lyDh l * wo).sum

/-- CMP.BUDGET: the load budget per band (R84). -/
def loadBudget (t : Tables) : Nat :=
  let c := 2000000000 * t.den / t.num
  c - c / 16

/-- The data word of a refusal under R83. -/
def whyWord (why band row : Nat) : Word := setFld (setFld (w32 row) 31 24 why) 23 16 band

/-- The line-buffer and load rules over every band: none where they hold, else the data word. -/
def loadRefusal (t : Tables) : Option Word :=
  let bands := List.range t.pipes
  match bands.findSome? (fun p => ((lbufRows t p).find? (fun y => decide (32 < lbufAt t p y))).map
      (fun y => whyWord 1 p y)) with
  | some w => some w
  | none => (bands.find? (fun p => decide (loadBudget t < bandLoad t p))).map (fun p => whyWord 2 p 0)

/-- The scaling limits of R81. -/
def scaleOk (l : List Word) : Bool :=
  decide (lyDw l ≤ 16 * lySw l) && decide (lySw l ≤ 16 * lyDw l)
    && decide (lyDh l ≤ 16 * lySh l) && decide (lySh l ≤ 8 * lyDh l)

/-- Whether the destination of a layer lies inside the canvas. -/
def lyInside (t : Tables) (l : List Word) : Bool :=
  decide (lyDx l + lyDw l ≤ 16 * t.wb) && decide (lyDy l + lyDh l ≤ 16 * t.hb)

/-- The reserved bits of the layer words are 0. -/
def lyReservedOk (l : List Word) : Bool :=
  fld (lyW l 0) 11 0 == 0 && fld (lyW l 5) 31 28 == 0 && fld (lyW l 5) 15 12 == 0
    && fld (lyW l 6) 31 12 == 0 && fld (lyW l 7) 31 20 == 0

/-- The ranges of the layer fields (R76, R77); SX and SW are even for a stream that is 4:2:2 when LAYER_SET is judged
(log 97). -/
def lyRangeOk (s : State) (l : List Word) : Bool :=
  let sub := match streamOf s (lyStream l) with
    | some x => !lySolid l && sdSamp x.words == 0
    | none => false
  decide (lyAlpha l ≤ 256) && decide (1 ≤ lySw l ∧ lySw l ≤ 16384)
    && decide (1 ≤ lySh l ∧ lySh l ≤ 8640) && decide (1 ≤ lyDw l ∧ lyDw l ≤ 32768)
    && decide (1 ≤ lyDh l ∧ lyDh l ≤ 16384) && decide (lyDelay l ≤ 1000000)
    && !(sub && (lySx l % 2 == 1 || lySw l % 2 == 1))

/-- The refusal of a layer put into the tables `t` in place `n` (R77): none if it passes. A disabled
layer is checked only for reserved bits, and a solid one takes no part in the scaling limits of R81 (log 97). -/
def layerRefusal (s : State) (t : Tables) (n : Nat) (l : List Word) : Option Word :=
  if !lyReservedOk l then some (whyWord 4 0 0)
  else if !lyEn l then none
  else if !lyRangeOk s l then some (whyWord 4 0 0)
  else if !lySolid l && (streamOf s (lyStream l)).isNone then some (whyWord 5 0 0)
  else if !lyInside t l then some (whyWord 6 0 0)
  else if !scaleOk l then some (whyWord 3 0 0)
  else loadRefusal { t with layers := t.layers.set n l }

/-! ### Layer commands (R77, R79, R80) -/

/-- LAYER_SET (R77, R79): held, or applied at the next canvas frame. -/
def layerSetRule : Handler := withLen 9 fun c p s =>
  let n := fld (pw p 0) 4 0
  let hold := bit (pw p 0) 8
  let l := p.payload.drop 1
  let t := tablesSoon s
  let t1 := if hold then
      { t with layers := s.canvas.held.foldr (fun e m => m.set e.1 e.2) t.layers }
    else t
  if pw p 0 &&& ~~~0x11F ≠ 0 then .noW s stBadParam [whyWord 4 0 0]
  else match layerRefusal s t1 n l with
    | some w => .noW s stBadParam [w]
    | none =>
      if hold then
        .ok { s with canvas := { s.canvas with held := put n l s.canvas.held } } []
      else if s.canvas.held.any (fun e => e.1 == n) then .no s stNotInState
      else .pend (proposeCmd s c (.layer n l))

def execLayerSet (p : Smb) (s : State) : Out1 := smibenRow 0x0301 layerSetRule p s

/-- The sets taken by COMMIT_AT that wait. -/
def takenSets (s : State) : List EdgeChange :=
  s.changes.filter (fun c => match c.what with | .commit _ _ _ => true | _ => false)

/-- COMMIT_AT (R80): LATE when the latch of the target frame has passed, or falls in this tick. -/
def commitAtRule : Handler := withLen 1 fun c p s =>
  let t := pw p 0
  if !s.time.valid then .no s stNotInState
  else if 8 * 10 ^ 9 < 4 * sdiff t (nowW s) then .no s stBadParam
  else if s.canvas.held = [] then .ok s []
  else if 4 ≤ (takenSets s).length then .no s stBusy
  else
    let at_ := nearClk (now s) t
    let late := decide (decision s (instantAt (rate s) at_) ≤ now s)
    .pend (proposeCmd { s with canvas := { s.canvas with held := [] } } c
      (.commit late at_ s.canvas.held.reverse))

def execCommitAt (p : Smb) (s : State) : Out1 := smibenRow 0x0310 commitAtRule p s

/-- HOLD_DISCARD (R79). -/
def holdDiscardRule : Handler := withLen 0 fun _ _ s =>
  .ok { s with canvas := { s.canvas with held := [] } } []

def execHoldDiscard (p : Smb) (s : State) : Out1 := smibenRow 0x0311 holdDiscardRule p s

/-! ### Tile rectangles (R72) -/

/-- What a staged TILE_RECT comes to at its latch: a rectangle requires an enrolled NA, which an UNENROL may have taken
since (01 R23; 02 R40). -/
def rectStatus (s : State) (r : Rect) : Nat :=
  if s.flume.enrolled.any (fun e => e.1 == r.na) then stOk else stBadParam

/-- The rectangles as they will stand. -/
def rectsSoon (s : State) : List Rect :=
  (s.canvas.stagedRects.filter (fun e => rectStatus s e.1 == stOk)).foldl (fun l e =>
    let rest := l.filter (fun r => r.na != e.1.na)
    if e.1.wtb = 0 then rest else e.1 :: rest) s.canvas.rects

/-- Whether two rectangles overlap. -/
def rectsOverlap (a b : Rect) : Bool :=
  decide (a.xb < b.xb + b.wtb) && decide (b.xb < a.xb + a.wtb)
    && decide (a.yb < b.yb + b.htb) && decide (b.yb < a.yb + a.htb)

/-- TILE_RECT (R72). -/
def tileRectRule : Handler := withLen 3 fun c p s =>
  let r : Rect :=
    { na := BitVec.ofNat 16 (fld (pw p 0) 31 16), xb := fld (pw p 1) 31 16, yb := fld (pw p 1) 15 0
      wtb := fld (pw p 2) 31 16, htb := fld (pw p 2) 15 0, fresh := true }
  let t := tablesSoon s
  let empty := r.wtb == 0
  let others := (rectsSoon s).filter (fun x => x.na != r.na)
  if !s.flume.enrolled.any (fun e => e.1 == r.na) then .no s stBadParam
  else if (r.wtb == 0) != (r.htb == 0) || decide (64 < r.wtb) || decide (48 < r.htb) then
    .no s stBadParam
  else if !empty && !(decide (r.xb + r.wtb ≤ t.wb) && decide (r.yb + r.htb ≤ t.hb)) then
    .no s stBadParam
  else if !empty && (others.any (fun x => rectsOverlap x r) || decide (512 ≤ others.length)) then
    .no s stBadParam
  else
    .pend { s with canvas := { s.canvas with
      stagedRects := s.canvas.stagedRects ++ [(r, now s, c)] } }

def execTileRect (p : Smb) (s : State) : Out1 := smibenRow 0x0320 tileRectRule p s

/-- The rectangle of a node address. -/
def rectOf (s : State) (na : BitVec 16) : Option Rect := s.canvas.rects.find? (fun r => r.na == na)

/-- RECT_READ (R72). -/
def rectReadRule : Handler := withLen 1 fun _ p s =>
  match rectOf s (BitVec.ofNat 16 (fld (pw p 0) 31 16)) with
  | none => .no s stNotInState
  | some r => .ok s [mkFld 31 16 r.na.toNat, mkFld 31 16 r.xb ||| w32 r.yb, mkFld 31 16 r.wtb ||| w32 r.htb]

def execRectRead (p : Smb) (s : State) : Out1 := smibenRow 0x0321 rectReadRule p s

/-! ### The latch (R73 to R75, R78) -/

/-- Whether the source window of a layer fits a stream's frame (R78). -/
def windowFits (l w : List Word) : Bool :=
  decide (lySx l + lySw l ≤ sdWidth w) && decide (lySy l + lySh l ≤ sdHeight w)

/-- The frame a video layer picks at the latch of the frame that starts at `e` (R74), and whether the
pick is early. A frame that became READY in the tick of the latch is not seen. The window must fit the definition of the
stream and that of the frame; under ALIGNED a frame without a plausible source time always qualifies (log 97). -/
def pickFor (s : State) (l : List Word) (e : Nat) : Option (LPick × Bool) :=
  match streamOf s (lyStream l) with
  | none => none
  | some x =>
    if !windowFits l x.words then none
    else
      let ready := x.slots.filter (fun y => y.st == .ready && decide (y.readyAt < now s) && windowFits l y.words)
      let best (m : List SrcSlot) (newer : Bool) : Option SrcSlot :=
        m.foldl (fun b y => match b with
          | none => some y
          | some z => if (newer && decide (z.order < y.order)) || (!newer && decide (y.order < z.order))
                      then some y else some z) none
      let mk (y : SrcSlot) : LPick := { stream := x.id, ts := y.ts, slot := y.idx, readyAt := y.readyAt, words := y.words }
      if !lyAligned l then (best ready true).map (fun y => (mk y, false))
      else
        let lim := e - 1000 * lyDelay l
        let ok := ready.filter (fun y => y.suspect || y.notime || (match y.src with
          | some v => decide (v ≤ lim)
          | none => false))
        match best ok true with
        | some y => some (mk y, false)
        | none => (best ready false).map (fun y => (mk y, true))

/-- Whether two picks name the same frame. -/
def samePick (a b : LPick) : Bool := a.stream == b.stream && a.ts == b.ts && a.slot == b.slot

/-- A layer after its pick: source state, early and repeat counts; the flag tells a change into or
out of the no-source state. -/
def latchLayer (s : State) (e : Nat) (y : Layer) : Layer × Bool :=
  let was := y.src == 3
  if !lyEn y.words then ({ y with src := 0, pick := none }, was)
  else if lySolid y.words then ({ y with src := Config.solidSrc % 4, pick := none }, was)
  else match pickFor s y.words e with
    | none => ({ y with src := 3, pick := none }, !was)
    | some (p, early) =>
      let again := match y.pick with | some q => samePick p q | none => false
      ({ y with
          src := if again then 2 else 1
          early := if early then min 65535 (y.early + 1) else y.early
          repeats := if again then sat32 (y.repeats + 1) else y.repeats
          pick := some p }, was)

/-- The picked slots READING (R74). -/
def markReading (s : State) (picks : List (Option LPick)) : State :=
  let hit (x : Stream) (y : SrcSlot) : Bool := picks.any (fun p => match p with
    | some q => q.stream == x.id && q.ts == y.ts && q.slot == y.idx
    | none => false)
  let f (x : Stream) : Stream :=
    let slots := x.slots.map (fun y =>
      if y.st == .ready && hit x y then { y with st := .reading } else y)
    { x with slots := slots }
  { s with net := { s.net with streams := s.net.streams.map f } }

/-- The read of a frame ended: its slots are READY again, a slot of a replaced or removed stream is
freed (R66). -/
def endReading (s : State) : State :=
  let f (x : Stream) : Stream :=
    let slots := (x.slots.filter (fun y => !(y.dies && y.st == .reading))).map
      (fun y => if y.st == .reading then { y with st := .ready } else y)
    { x with slots := slots }
  { s with net := { s.net with
    streams := (s.net.streams.map f).filter (fun x => x.st != 0 || x.slots != []) } }

/-- What a change does to a sender at its latch. -/
def latchChange (s : State) (c : EdgeChange) : State :=
  let layer (t : State) (n : Nat) (w : List Word) : State :=
    let layers := t.canvas.layers.modify n (fun y => { y with words := w })
    { t with canvas := { t.canvas with layers := layers } }
  match c.what with
  | .params l => l.foldl (fun t e => wr t e.1 e.2) s
  | .layer n w => layer s n w
  | .commit _ _ sets => sets.foldl (fun t e => layer t e.1 e.2) s
  | _ => s

/-- The rectangles staged strictly before the latch applied; one that is in effect already stays as it is. -/
def latchRects (s : State) (d : Nat) : State :=
  let (due0, wait) := s.canvas.stagedRects.partition (fun e => decide (e.2.1 < d))
  let due := due0.filter (fun e => (rectStatus s e.1) == stOk)
  let one (t : State) (r : Rect) : State :=
    let rest := t.canvas.rects.filter (fun x => x.na != r.na)
    let old := t.canvas.rects.find? (fun x => x.na == r.na)
    if old.map (fun o => (o.xb, o.yb, o.wtb, o.htb)) = some (r.xb, r.yb, r.wtb, r.htb) then t else
    let u := { t with
      canvas := { t.canvas with rects := if r.wtb = 0 then rest else r :: rest }
      flume := { t.flume with dmg := if r.wtb = 0 then t.flume.dmg.filter (fun x => x.na != r.na)
        else t.flume.dmg } }
    sendRectChange u old r
  let s1 := { s with canvas := { s.canvas with stagedRects := wait } }
  due.foldl (fun t e => one t e.1) s1

/-- A composition that has not finished by the next latch is abandoned (R75). -/
def abandonCanvas (s : State) : State :=
  match s.canvas.composing with
  | none => s
  | some l =>
    endReading (recordX (bump { s with canvas := { s.canvas with composing := none } } cmpAbandon)
      xAbandon [wt32 l.start])

/-- Records of layers that came into or left the no-source state (R78). -/
def recordSources (s : State) (l : List (Layer × Bool)) (n : Nat) : State :=
  match l with
  | [] => s
  | (y, was) :: r =>
    let is := y.src == 3
    recordSources (if was != is then recordX s xSource [w32 n, flagAt is 0] else s) r (n + 1)

/-- CANVAS_LATCH (R73, R74, R75, R78): time runs on to the latch of the next canvas frame. At throttle step
2 a frame with an odd schedule index is not composed (17 R383). -/
def execCanvasLatch (s : State) : Out1 :=
  act s fun s =>
    if !s.id.sender || s.canvas.latched.isSome then s
    else
      let e := nextEdge s
      let d := decision s e
      let s1 := abandonCanvas (toClk d s)
      let due := s1.changes.filter (dueAt s1 e)
      let rectRefs := (s1.canvas.stagedRects.filter (fun x => decide (x.2.1 < d))).map
        (fun x => (x.2.2, rectStatus s1 x.1))
      let s2 := due.foldl latchChange { s1 with changes := s1.changes.filter (fun c => !dueAt s1 e c) }
      let s3 := latchRects s2 d
      let ys := s3.canvas.layers.map (fun y => (latchLayer s3 e y, y.src == 3))
      let s4 := recordSources s3 (ys.map (fun z => (z.1.1, z.2))) 0
      let layers := ys.map (fun z => z.1.1)
      let picks := layers.map (·.pick)
      let t := tablesNow s4
      let hot := decide (2 ≤ throttleStep s4) && instantIdx (rate s4) e % 2 == 1
      let off := t.wb == 0 || t.hb == 0 || s4.dram.state != 2 || hot
      let l : Latched :=
        { start := e, pipes := t.pipes, wb := t.wb, hb := t.hb
          bg := (BitVec.ofNat 12 (getF s4 cmpBgRg 27 16), BitVec.ofNat 12 (getF s4 cmpBgRg 11 0),
            BitVec.ofNat 12 (getF s4 cmpBgB 11 0))
          white := getF s4 cmpSdrWhite 13 0, hlg := getF s4 cmpHlgPeak 13 0
          layers := t.layers, picks := picks, skip := off
          notes := due.filterMap (fun c => c.ref.map (fun r => (r, match c.what with
            | .commit late _ _ => if late then stLate else stOk
            | _ => stOk))) ++ rectRefs }
      let s5 := { (if hot then bump s4 thmSkipped else s4) with
        canvas := { s4.canvas with layers := layers, latched := some l } }
      if off then s5 else markReading s5 picks

/-- CANVAS_FRAME_START (R73, R75, R96; 11 R255): composition begins, the applied changes are
notified. A newest frame not delivered is overwritten while a delivery holds an older one. -/
def execCanvasFrameStart (s : State) : Out1 :=
  act s fun s =>
    match s.canvas.latched with
    | none => s
    | some l =>
      let s1 := toClk l.start s
      let s2 := { s1 with
        time := { s1.time with lastEdge := some (l.start, lt s1), stepWait := false }
        canvas := { s1.canvas with latched := none, composing := if l.skip then none else some l } }
      let lost := !l.skip && s2.flume.delivery.isSome && s2.canvas.undelivered
        && s2.canvas.newest.isSome
      let s3 := if lost then
          bump { s2 with canvas := { s2.canvas with newest := none, undelivered := false } } flmSkip
        else s2
      let s4 := edgeTrig (enterDue (adoptAtStart s3 l.start) l.start)
      (inPassedOrder s4 l.notes).foldl (fun t n => notify t n.1 n.2 []) s4

/-! ### Source samples (R65, R81, R82) -/

/-- The stored sample of channel `ch` at pixel `x` of a line: for YCbCr the channels are Y, Cb, Cr.
A sample never written reads 0 (log 38). -/
def storedAt (samp ch x : Nat) (line : List (Nat × Samp)) : Int :=
  let i :=
    if samp = 2 then 3 * x + ch
    else if samp = 1 then 3 * x + (if ch = 0 then 1 else if ch = 1 then 0 else 2)
    else 4 * (x / 2) + (if ch = 0 then 1 + 2 * (x % 2) else if ch = 1 then 0 else 2)
  Int.ofNat ((look i line).getD 0).toNat

/-- The 4:4:4 sample at column `n` of the window, chroma interpolated (R81). -/
def windowAt (l w : List Word) (ch n : Nat) (line : List (Nat × Samp)) : Int :=
  let samp := sdSamp w
  let x := lySx l + n
  let v := storedAt samp ch x line
  if samp = 0 ∧ ch ≠ 0 ∧ n % 2 = 1 then
    let next := if n + 1 < lySw l then storedAt samp ch (x + 1) line else v
    (v + next + 1) / 2
  else v

/-- An index held within a window of `n` samples. -/
def clampN (i : Int) (n : Nat) : Nat := (clampI 0 (Int.ofNat n - 1) i).toNat

/-- The position p(i) of output sample `i` when `s` samples make `d` (R81). -/
def scalePos (s d i : Nat) : Int :=
  let hs : Int := Int.ofNat ((s * 2 ^ 20 + d / 2) / max 1 d)
  Int.ofNat i * hs + (hs - 2 ^ 20) / 2

/-- The source indices one output sample reads, with their coefficients (R81, R82). -/
def scaleTaps (nearest : Bool) (s d i : Nat) : List (Nat × Int) :=
  let p := scalePos s d i
  if nearest then [(clampN ((p + 2 ^ 19) / 2 ^ 20) s, 4096)]
  else
    let n := taps false s d
    let f := (p / 2 ^ 14 % 64).toNat
    (scaleCoefs n f s d).zipIdx.map
      (fun e => (clampN (p / 2 ^ 20 + tapLo n + Int.ofNat e.2) s, e.1))

/-- One scaled sample (R82). -/
def scaleSum (ts : List (Nat × Int)) (f : Nat → Int) : Int :=
  clampI 0 4095 (((ts.map (fun t => t.2 * f t.1)).foldl (· + ·) 0 + 2048) / 4096)

/-- The scaled sample of channel `ch` of a layer at column `i` and row `j` of its destination. -/
def scaledAt (l w : List Word) (lines : List (Nat × List (Nat × Samp))) (ch i j : Nat) : Int :=
  scaleSum (scaleTaps (lyNearest l) (lySh l) (lyDh l) j) fun r =>
    let line := (look (lySy l + r) lines).getD []
    scaleSum (scaleTaps (lyNearest l) (lySw l) (lyDw l) i) (fun n => windowAt l w ch n line)

/-! ### Colour conversion (R86 to R89) -/

/-- A triple of linear values or codes. -/
structure Rgb where
  r : Int
  g : Int
  b : Int
  deriving DecidableEq, Repr

/-- Samples normalised and converted to R', G', B' codes (R86). -/
def toCodes (w : List Word) (a b c : Int) : Rgb :=
  let full := sdFull w
  let y (v : Int) : Int := if full then v else clampI 0 4095 (((v - 256) * 4095 + 1752) / 3504)
  let ch (v : Int) : Int :=
    if full then v - 2048 else clampI (-2048) 2047 (((v - 2048) * 4095 + 1792) / 3584)
  if sdSamp w = 2 then ⟨y a, y b, y c⟩
  else
    let k : Int × Int × Int × Int :=
      if sdColor w = 0 then (25802, 3069, 7670, 30402) else (24160, 2696, 9361, 30825)
    let cb := ch b
    let cr := ch c
    ⟨clampI 0 4095 (y a + (k.1 * cr + 8192) / 16384),
     clampI 0 4095 (y a - (k.2.1 * cb + k.2.2.1 * cr + 8192) / 16384),
     clampI 0 4095 (y a + (k.2.2.2 * cb + 8192) / 16384)⟩

/-- Codes converted to linear light in the stream's primaries (R87, R88). -/
def toLinear (w : List Word) (white peak : Nat) (v : Rgb) : Rgb :=
  let t (c : Int) : Int := transfer (sdTcs w) c.toNat white
  let e : Rgb := ⟨t v.r, t v.g, t v.b⟩
  if sdTcs w = 2 then
    let k : Int × Int × Int := if sdColor w = 1 then (4304, 11108, 972) else (3483, 11718, 1183)
    let ys := (k.1 * e.r + k.2.1 * e.g + k.2.2 * e.b + 8192) / 16384
    let f := hlgF (ys / 4096).toNat peak
    let o (x : Int) : Int := (x * f + 32768) / 65536
    ⟨o e.r, o e.g, o e.b⟩
  else e

/-- BT.709 primaries converted to BT.2020 (R89). -/
def toWide (w : List Word) (v : Rgb) : Rgb :=
  if sdColor w = 1 then v
  else
    let m (a b c : Int) : Int := min 16777215 ((a * v.r + b * v.g + c * v.b + 8192) / 16384)
    ⟨m 10280 5395 709, m 1132 15065 187, m 269 1442 14673⟩

/-- The linear triple of wall codes. -/
def lpqTriple (c : Nat × Nat × Nat) : Rgb :=
  ⟨Int.ofNat (lpq c.1), Int.ofNat (lpq c.2.1), Int.ofNat (lpq c.2.2)⟩

/-! ### Blending (R90) -/

/-- The slot a pick names. -/
def pickSlot (s : State) (p : LPick) : Option SrcSlot :=
  (s.net.streams.find? (fun x => x.id == p.stream)).bind
    (fun x => x.slots.find? (fun y => y.idx == p.slot && y.ts == p.ts && y.st == .reading))

/-- Whether a layer's destination contains a canvas pixel. -/
def covers (l : List Word) (x y : Nat) : Bool :=
  decide (lyDx l ≤ x) && decide (x < lyDx l + lyDw l) && decide (lyDy l ≤ y)
    && decide (y < lyDy l + lyDh l)

/-- What a layer draws at a pixel: opacity and linear value, or nothing. -/
def layerAt (s : State) (lat : Latched) (l : List Word) (p : Option LPick) (x y : Nat) :
    Option (Nat × Rgb) :=
  if !lyEn l || !covers l x y then none
  else if lySolid l then some (lyAlpha l, lpqTriple (lyColour l))
  else match p with
    | none => if lyNosrc l then none else some (256, lpqTriple (lyColour l))
    | some q =>
      let lines := match pickSlot s q with | some f => f.lines | none => []
      let at_ (ch : Nat) : Int := scaledAt l q.words lines ch (x - lyDx l) (y - lyDy l)
      some (lyAlpha l, toWide q.words
        (toLinear q.words lat.white lat.hlg (toCodes q.words (at_ 0) (at_ 1) (at_ 2))))

/-- One blend step. -/
def blend1 (a : Nat) (l acc : Int) : Int := (Int.ofNat a * l + (256 - Int.ofNat a) * acc + 128) / 256

/-- A triple blended over another. -/
def blendOver (a : Nat) (v acc : Rgb) : Rgb := ⟨blend1 a v.r acc.r, blend1 a v.g acc.g, blend1 a v.b acc.b⟩

/-- The wall codes a layer that draws at a pixel brings there unchanged: its colour, or the samples of a full-range
12-bit RGB PQ BT.2020 window at a ratio of exactly 1 (R91). -/
def codesAt (s : State) (l : List Word) (p : Option LPick) (x y : Nat) : Option (Nat × Nat × Nat) :=
  if lySolid l then some (lyColour l)
  else match p with
    | none => some (lyColour l)
    | some q =>
      let w := q.words
      if sdSamp w = 2 ∧ sdDepth w = 2 ∧ sdColor w = 1 ∧ sdTcs w = 1 ∧ sdFull w ∧ lySw l = lyDw l ∧ lySh l = lyDh l then
        let lines := match pickSlot s q with | some f => f.lines | none => []
        let at_ (ch : Nat) : Nat := (scaledAt l w lines ch (x - lyDx l) (y - lyDy l)).toNat
        some (at_ 0, at_ 1, at_ 2)
      else none

/-- The accumulator of a pixel: its linear values, and the wall codes whose LPQ they are where nothing has been mixed. -/
structure PixAcc where
  v : Rgb
  codes : Option (Nat × Nat × Nat)
  deriving DecidableEq, Repr

/-- One layer over the accumulator (R90). An opaque layer brings its own codes; one of opacity 0 leaves the accumulator
as it is. -/
def accLayer (s : State) (lat : Latched) (x y : Nat) (acc : PixAcc) (e : List Word × Option LPick) : PixAcc :=
  match layerAt s lat e.1 e.2 x y with
  | none => acc
  | some (a, c) =>
    { v := blendOver a c acc.v
      codes := if a = 256 then codesAt s e.1 e.2 x y else if a = 0 then acc.codes else none }

/-- The three wall codes of a canvas pixel (R90). Codes that nothing has mixed are returned unchanged (R91; log 25). -/
def canvasPixel (s : State) (lat : Latched) (x y : Nat) : List Samp :=
  let c0 := (lat.bg.1.toNat, lat.bg.2.1.toNat, lat.bg.2.2.toNat)
  let acc := (lat.layers.zip lat.picks).foldl (accLayer s lat x y) { v := lpqTriple c0, codes := some c0 }
  let code (f : Nat × Nat × Nat → Nat) (v : Int) : Nat := match acc.codes with | some c => f c | none => wallCode v
  [code (·.1) acc.v.r, code (·.2.1) acc.v.g, code (·.2.2) acc.v.b].map (BitVec.ofNat 12)

/-- The samples of a canvas block in raster order (05 R93). -/
def canvasBlock (s : State) (lat : Latched) (bx by_ : Nat) : List Samp :=
  (List.range 16).flatMap fun r => (List.range 16).flatMap fun c =>
    canvasPixel s lat (16 * bx + c) (16 * by_ + r)

/-- Whether a layer touches a canvas row (R92). -/
def touches (s : State) (l : List Word) (p : Option LPick) (y : Nat) : Bool :=
  lyVideo l && decide (lyDy l ≤ y) && decide (y < lyDy l + lyDh l) &&
    (match p with
      | none => !lyNosrc l
      | some q => match pickSlot s q with
        | none => false
        | some f => (scaleTaps (lyNearest l) (lySh l) (lyDh l) (y - lyDy l)).any
            (fun t => f.loss.contains (lySy l + t.1)))

/-- The incomplete flag of a block (R92). -/
def incFlag (s : State) (lat : Latched) (bx by_ : Nat) : Bool :=
  (lat.layers.zip lat.picks).any fun e =>
    let l := e.1
    lyAlpha l != 0 && decide (lyDx l < 16 * bx + 16) && decide (16 * bx < lyDx l + lyDw l)
      && (List.range 16).any (fun r => touches s l e.2 (16 * by_ + r))

/-- The composed canvas frame with its BSIGs and flags. -/
def compose (s : State) (lat : Latched) : CanvasFrame :=
  let at_ := (List.range (lat.hb * lat.wb)).map (fun i => (i % lat.wb, i / lat.wb))
  let blocks := at_.map (fun e => canvasBlock s lat e.1 e.2)
  { start := lat.start, done := now s, layers := lat.layers, picks := lat.picks, wb := lat.wb, hb := lat.hb
    blocks := blocks, bsigs := blocks.map (fun b => crc32c (packSamps b))
    incs := at_.map (fun e => incFlag s lat e.1 e.2) }

/-! ### Damage (05 R94, R95) -/

/-- The index in a canvas of block `i` of a rectangle. -/
def rectBlock (wb : Nat) (r : Rect) (i : Nat) : Nat :=
  (r.yb + i / max 1 r.wtb) * wb + r.xb + i % max 1 r.wtb

/-- The damage state of a tile's rectangle; new ones hold nothing. -/
def dmgOf (s : State) (na : BitVec 16) : TileDmg :=
  (s.flume.dmg.find? (fun x => x.na == na)).getD
    { na := na, pending := [], incs := [], since := [], carried := [], resync := false, failRun := 0, lastFail := none, reachable := true }

/-- The damage state of a tile put in place. -/
def setDmg (s : State) (x : TileDmg) : State :=
  { s with flume := { s.flume with dmg := x :: s.flume.dmg.filter (fun y => y.na != x.na) } }

/-- The blocks of a rectangle that changed in a frame (R94): a sample differs from the previous
completed frame, the incomplete flag differs from that of the copy last delivered, or the rectangle
is new or changed. A previous frame of another size, or none, makes every block differ. -/
def changedBlocks (s : State) (f : CanvasFrame) (r : Rect) : List Nat :=
  let d := dmgOf s r.na
  (List.range (r.wtb * r.htb)).filter fun i =>
    let k := rectBlock f.wb r i
    let same := match s.canvas.prev with
      | some o => o.wb == f.wb && o.hb == f.hb && o.blocks[k]? == f.blocks[k]?
      | none => false
    r.fresh || !same || (f.incs.getD k false != d.incs.contains i)

/-- PENDING bits set for a completed frame. -/
def setPending (s : State) (f : CanvasFrame) : State :=
  s.canvas.rects.foldl (fun t r =>
    let ch := changedBlocks t f r
    let d := dmgOf t r.na
    setDmg t { d with
      pending := ch.foldl (fun l i => insertNat i l) (if r.fresh then [] else d.pending)
      since := ch.map (fun i => (i, f.done)) ++ (if r.fresh then [] else d.since)
      incs := if r.fresh then [] else d.incs
      carried := if r.fresh then [] else d.carried }) s

/-- CANVAS_FRAME_COMPLETE (R75, R92, R96; 05 R94): the frame in composition becomes the newest
completed one, unless the latch of the next frame has come. -/
def execCanvasFrameComplete (s : State) : Out1 :=
  act s fun s =>
    match s.canvas.composing with
    | none => s
    | some l =>
      if decision s (nextEdge s) ≤ now s then abandonCanvas s
      else
        let f := compose s l
        let s1 := setPending s f
        let s2 := bump s1 cmpFrames
        let rects := s2.canvas.rects.map (fun r => { r with fresh := false })
        endReading { s2 with
          canvas := { s2.canvas with
            composing := none, newest := some f, undelivered := true, prev := some f, rects := rects }
          flume := { s2.flume with canvasReady := some (lt s2) } }

end Sys2Proof.Machine
end

