-- ==== Sys2Proof/Machine/Badger.lean ====
section
/-! DEFINITION. The Badger layer, the pattern engines and the test pattern of a tile (08): the
commands that define, feed and read them, what an edge does to them, and what they draw. -/

namespace Sys2Proof.Machine

/-! ### A field definition (R169) -/

/-- Word `i` of a list of words. -/
def wAt (w : List Word) (i : Nat) : Word := w.getD i 0

def fdNum (w : List Word) : Nat := fld (wAt w 0) 31 24
def fdKind (w : List Word) : Nat := fld (wAt w 0) 23 20
def fdScale (w : List Word) : Nat := fld (wAt w 0) 19 18 + 1
def fdAlign (w : List Word) : Nat := fld (wAt w 0) 17 16
def fdX (w : List Word) : Nat := fld (wAt w 1) 31 16
def fdY (w : List Word) : Nat := fld (wAt w 1) 15 0
def fdW (w : List Word) : Nat := fld (wAt w 2) 31 16
def fdH (w : List Word) : Nat := fld (wAt w 2) 15 0
def fdSet (w : List Word) : Nat := fld (wAt w 3) 31 28
def fdThick (w : List Word) : Nat := fld (wAt w 3) 27 24
def fdCells (w : List Word) : Nat := fld (wAt w 3) 23 16
def fdDp (w : List Word) : Nat := fld (wAt w 3) 15 12
def fdBlinks (w : List Word) (st : Nat) : Bool := bit (wAt w 3) (8 + st)
def fdLz (w : List Word) : Bool := bit (wAt w 3) 7
def fdPlus (w : List Word) : Bool := bit (wAt w 3) 6
def fdLife (w : List Word) : Nat := fld (wAt w 4) 31 16
def fdBgc (w : List Word) : Nat := fld (wAt w 4) 15 12
def fdFgc (w : List Word) (st : Nat) : Nat := fld (wAt w 5) (19 + 4 * st) (16 + 4 * st)
def fdBga (w : List Word) : Nat := fld (wAt w 5) 15 7

/-- Kinds of field. -/
def kText : Nat := 1
def kNumber : Nat := 2
def kSymbol : Nat := 3
def kFrame : Nat := 4

/-- Words with their reserved bits cleared. -/
def maskWords (m w : List Word) : List Word := List.zipWith (· &&& ·) m w

/-- The bits that R169 gives a meaning. -/
def fieldMask : List Word :=
  [0xFFFF0000, 0xFFFFFFFF, 0xFFFFFFFF, 0xFFFFFFC0, 0xFFFFF000, 0xFFFFFF80]

/-- Cell width and height of a ROM glyph set (R172). -/
def cellOf (set : Nat) : Nat × Nat :=
  if set = 0 then (8, 16) else if set = 1 then (16, 32) else if set = 2 then (32, 32) else (12, 24)

/-- Whether a rectangle of pixels lies in the picture. -/
def inPicture (s : State) (x y w h : Nat) : Bool :=
  decide (x + w ≤ picW s) && decide (y + h ≤ picH s)

/-- The conditions of R169 and R170 on a definition. -/
def fieldOk (s : State) (w : List Word) : Bool :=
  let k := fdKind w
  let c := fdCells w
  let cell := cellOf (fdSet w)
  decide (fdNum w ≤ 43) && decide (1 ≤ k) && decide (k ≤ 4) && decide (fdAlign w ≤ 2)
    && decide (1 ≤ fdW w) && decide (fdW w ≤ 1024) && decide (1 ≤ fdH w) && decide (fdH w ≤ 768)
    && decide (fdDp w ≤ 6) && decide (fdBga w ≤ 256)
    && (fdLife w == 0 || (decide (100 ≤ fdLife w) && decide (fdLife w ≤ 60000)))
    && (if k = kFrame then decide (1 ≤ fdThick w) else fdThick w == 0)
    && (if k = kText then (fdSet w == 0 || fdSet w == 3) && decide (1 ≤ c) && decide (c ≤ 32)
        else if k = kNumber then
          (fdSet w == 0 || fdSet w == 1 || fdSet w == 3) && decide (1 ≤ c) && decide (c ≤ 16)
        else c == 0)
    && inPicture s (fdX w) (fdY w) (fdW w) (fdH w)
    && (decide (kNumber < k)
      || (decide (c * cell.1 * fdScale w ≤ fdW w) && decide (cell.2 * fdScale w ≤ fdH w)))
    && (k != kFrame || (decide (2 * fdThick w ≤ fdW w) && decide (2 * fdThick w ≤ fdH w)))

/-- The defined field `n`. -/
def fieldAt (s : State) (n : Nat) : Option Field := s.bdg.fields.find? (fun f => f.num == n)

/-- The fields with `f` in place of the one of its number, in increasing number (R166). -/
def insertField (f : Field) : List Field → List Field
  | [] => [f]
  | g :: r => if f.num < g.num then f :: g :: r
              else if f.num = g.num then f :: r else g :: insertField f r

/-- A field set. -/
def setField (s : State) (f : Field) : State :=
  { s with bdg := { s.bdg with fields := insertField f s.bdg.fields } }

/-- A Badger record write raised (R170; 17 R375: class 1). -/
def badgerAsk (s : State) (c : BdgChange) (ref : CmdRef) : Res :=
  let (t, st) := flashAsk s (.badger c) (some ref) 1 false
  if st = stPending then .pend t else .no t st

/-- FIELD_DEFINE (R169, R170). -/
def fieldDefineRule : Handler := withLen 6 fun c p s =>
  let w := maskWords fieldMask p.payload
  if !fieldOk s w then .no s stBadParam else badgerAsk s (.define (fdNum w) w) c

def execFieldDefine (p : Smb) (s : State) : Out1 := smibenRow 0x0501 fieldDefineRule p s

/-- FIELD_REMOVE (R171). A field whose definition waits to be stored is removed after it. -/
def fieldRemoveRule : Handler := withLen 1 fun c p s =>
  let n := fld (pw p 0) 31 24
  let coming := flashBusy s (fun o => match o with | .badger (.define f _) => f == n | _ => false)
    || s.changes.any (fun x => match x.what with | .badger (.define f _) => f == n | _ => false)
  if 43 < n then .no s stBadParam
  else if (fieldAt s n).isNone && !coming then .ok s []
  else badgerAsk s (.remove n) c

def execFieldRemove (p : Smb) (s : State) : Out1 := smibenRow 0x0502 fieldRemoveRule p s

/-- FIELD_READ (R171). -/
def fieldReadRule : Handler := withLen 1 fun _ p s =>
  match fieldAt s (fld (pw p 0) 31 24) with
  | some f => .ok s f.words
  | none => .no s stNotInState

def execFieldRead (p : Smb) (s : State) : Out1 := smibenRow 0x0503 fieldReadRule p s

/-! ### Glyphs (R172 to R174) -/

/-- Whether a code names a ROM glyph (R172). -/
def romCodeOk (c : Nat) : Bool :=
  let i := c % 4096
  let latin := (decide (0x20 ≤ i) && decide (i ≤ 0x7E)) || (decide (0xA0 ≤ i) && decide (i ≤ 0xFF))
  match c / 4096 with
  | 0 => latin
  | 1 => (decide (0x30 ≤ i) && decide (i ≤ 0x39)) || [0x20, 0x23, 0x2B, 0x2D, 0x2E, 0x3A].contains i
  | 2 => decide (i ≤ 0x3F)
  | 3 => latin
  | _ => false

/-- The coverage words of a glyph of `gw` × `gh` pixels. -/
def glyphLen (gw gh : Nat) : Nat := cdiv (gw * gh) 8

/-- The reply words of GLYPH_ROM_READ after word 0. -/
def romWords (c : Nat) : List Word :=
  let cell := cellOf (c / 4096)
  (List.range (glyphLen cell.1 cell.2)).map (fun i => (Config.romGlyph c).getD i 0)

/-- GLYPH_ROM_READ (R173). -/
def glyphRomReadRule : Handler := withLen 1 fun _ p s =>
  let c := fld (pw p 0) 15 0
  if !romCodeOk c then .no s stBadParam
  else
    let cell := cellOf (c / 4096)
    .ok s (w32 (cell.1 * 256 + cell.2) :: romWords c)

def execGlyphRomRead (p : Smb) (s : State) : Out1 := smibenRow 0x0660 glyphRomReadRule p s

/-- BDG.ROMSIG (R173). -/
def romSigWord : Word :=
  crcWords (((List.range 0x4000).filter romCodeOk).flatMap romWords)

/-- Width and height in a size code. -/
def gWidth (g : Glyph) : Nat := g.size / 256
def gHeight (g : Glyph) : Nat := g.size % 256

/-- 64-byte units of store of a glyph (R174). -/
def glyphUnits (gw gh : Nat) : Nat := cdiv (cdiv (gw * gh) 2) 64

/-- The Badger record as it will stand once every accepted change has been stored (02 R40, R48). -/
def badgerSoon (s : State) : BdgRec :=
  s.fl.queue.foldl (fun r x => match x.op with | .badger c => bdgApply c r | _ => r) s.fl.bdgNow

/-- The user glyphs as they will stand. -/
def glyphsSoon (s : State) : List Glyph := (badgerSoon s).glyphs

/-- Units of a list of glyphs. -/
def unitsUsed (l : List Glyph) : Nat := (l.map (fun g => glyphUnits (gWidth g) (gHeight g))).sum


/-! ### Value packets (R175, R176) -/

/-- The two codes of a TEXT data word. -/
def textCodes (l : List Word) : List Nat := l.flatMap (fun w => [fld w 31 16, fld w 15 0])

/-- The codes before the first 0x0000. -/
def textRun (l : List Word) : List Nat := (textCodes l).takeWhile (· != 0)

/-- Whether data words fit a field's KIND, SET and CELLS, with the user glyphs that are stored (R175). -/
def dataFits (glyphs : List Glyph) (f : List Word) (l : List Word) : Bool :=
  let k := fdKind f
  if k = kNumber then l.length == 1
  else if k = kFrame then l.length == 0
  else if k = kSymbol then
    let c := fld (wAt l 0) 15 0
    l.length == 1 && (romCodeOk c
      || (c / 4096 == 8 && glyphs.any (fun g => g.index == c % 4096)))
  else
    let run := textRun l
    decide (1 ≤ l.length) && decide (l.length ≤ 16)
      && run.all (fun c => c / 4096 == fdSet f && romCodeOk c)
      && ((textCodes l).drop run.length).all (· == 0)
      && decide (run.length ≤ fdCells f)

/-- The entries that follow word 1, none where they do not add up (R175). -/
def parseValues : Nat → List Word → Option (List ValEnt)
  | 0, [] => some []
  | 0, _ => none
  | _ + 1, [] => none
  | n + 1, w :: r =>
    let k := fld w 21 16
    if r.length < k then none
    else
      let e : ValEnt := { field := fld w 31 24, vstate := fld w 23 22, words := r.take k }
      (parseValues n (r.drop k)).map (e :: ·)

/-- Whether entry `e` offends, the fields in `seen` having been named before it. Fields and glyphs are judged as the
definitions accepted before will leave them (02 R40). -/
def entryBad (r : BdgRec) (seen : List Nat) (e : ValEnt) : Bool :=
  match look e.field r.fields with
  | none => true
  | some w => seen.contains e.field || !dataFits r.glyphs w e.words

/-- The position of the first entry that offends. -/
def firstBad (b : BdgRec) : Nat → List Nat → List ValEnt → Option Nat
  | _, _, [] => none
  | k, seen, e :: r => if entryBad b seen e then some k else firstBad b (k + 1) (e.field :: seen) r

/-- The data words that field `n`, defined by `w`, will show once every accepted value and change has taken effect (02
R40); none where it will not be live. -/
def dataSoon (s : State) (n : Nat) (w : List Word) : Option (List Word) :=
  let now_ : Option (List Word) := match fieldAt s n with
    | some f => if f.live && fdKind f.words == fdKind w then some f.data else none
    | none => none
  s.changes.foldl (fun d c => match c.what with
    | .values _ ents => (ents.reverse.find? (fun e => e.field == n && dataFits (glyphsSoon s) w e.words)).elim d
        (fun e => some e.words)
    | .expire k => if k = n then none else d
    | _ => d) now_

/-- The word of R25 for a user glyph that a field's value shows, as it will stand: the lowest-numbered such field (01
R27). -/
def glyphConflict (s : State) (i : Nat) : Option Word :=
  ((badgerSoon s).fields.find? (fun e => fdKind e.2 == kSymbol
    && (dataSoon s e.1 e.2).any (fun l => fld (wAt l 0) 15 0 == 0x8000 + i))).map (fun e => conflictWord 0x09 1 e.1)

/-- GLYPH_WRITE (R174). -/
def glyphWriteRule : Handler := fun c p s =>
  let w := pw p 0
  let i := fld w 25 16
  let gw := fld w 15 8
  let gh := fld w 7 0
  let soon := glyphsSoon s
  let rest := soon.filter (fun g => g.index ≠ i)
  let resized := soon.any (fun g => g.index == i && g.size != gw * 256 + gh)
  if p.payload.length = 0 then .no s stBadLength
  else if gw = 0 ∨ 64 < gw ∨ gh = 0 ∨ 64 < gh then .no s stBadParam
  else if p.payload.length ≠ 1 + glyphLen gw gh then .no s stBadLength
  else if 4096 < unitsUsed rest + glyphUnits gw gh then .no s stBadParam
  else match glyphConflict s i with
    | some x =>
      if resized then .noW s stConflict [x]
      else badgerAsk s (.glyph ⟨i, gw * 256 + gh, p.payload.drop 1⟩) c
    | none => badgerAsk s (.glyph ⟨i, gw * 256 + gh, p.payload.drop 1⟩) c

def execGlyphWrite (p : Smb) (s : State) : Out1 := smibenRow 0x0520 glyphWriteRule p s

/-- GLYPH_ERASE (R174). -/
def glyphEraseRule : Handler := withLen 1 fun c p s =>
  let i := fld (pw p 0) 9 0
  match glyphConflict s i with
  | some x => .noW s stConflict [x]
  | none => badgerAsk s (.erase i) c

def execGlyphErase (p : Smb) (s : State) : Out1 := smibenRow 0x0521 glyphEraseRule p s

/-- An expiry scheduled at the first edge at or after clock `d` (R178). -/
def expireSoon (s : State) (n : Nat) : State :=
  let s1 := match fieldAt s n with | some f => setField s { f with exp := true } | none => s
  propose s1 (idOfItem 2 n 3) (.expire n) none

/-- Whether the accepted definition of field `n` is still to take effect: the field has none, or one of another KIND. -/
def definitionWaits (s : State) (n : Nat) : Bool :=
  match look n (badgerSoon s).fields with
  | none => false
  | some w => match fieldAt s n with
    | some f => fdKind f.words != fdKind w
    | none => true

/-- A field named by a packet accepted now: its deadline starts anew, and one that has been reached
still expires it (R178). In lockstep the deadline that the packet found is kept until the twin's ACCEPT has come. A
definition that waits takes the acceptance with it. -/
def renewField (s0 : State) (n : Nat) : State :=
  let s := if definitionWaits s0 n then
      { s0 with bdg := { s0.bdg with early := put n (now s0) s0.bdg.early } } else s0
  match fieldAt s n with
  | none => s
  | some f =>
    let late := match f.deadline with | some d => decide (d ≤ now s) && !f.due | none => false
    let s1 := if late then expireSoon s n else s
    let life := fdLife f.words
    setField s1 { f with
      lastAcc := some (now s)
      deadline := if life = 0 then none else some (now s + life * 10 ^ 6)
      due := false
      exp := f.exp || late
      prior := match f.deadline with
        | some d => if named s && !late && !f.due then (now s, d) :: f.prior else f.prior
        | none => f.prior }

/-- A field named by a packet that the pair accepted at clock `at_`, the later of its two acceptances, and this device
at `own` (R177): a deadline reached by then expires the field, and the new one counts from then. -/
def renewTo (s0 : State) (own at_ n : Nat) : State :=
  let s := if look n s0.bdg.early = some own then
      { s0 with bdg := { s0.bdg with early := put n at_ s0.bdg.early } } else s0
  match fieldAt s n with
  | none => s
  | some f =>
    let late := f.prior.any (fun e => e.1 == own && decide (e.2 ≤ at_))
    let life := fdLife f.words
    let mine := f.lastAcc == some own
    let s1 := setField s { f with
      prior := f.prior.filter (fun e => e.1 != own)
      lastAcc := if mine then some at_ else f.lastAcc
      deadline := if mine && f.deadline.isSome then some (at_ + life * 10 ^ 6) else f.deadline }
    if late then expireSoon s1 n else s1

/-- The two ACCEPTs of a value packet are held: R178 is applied to the later tick (R177; 12 R280). -/
def renewPaired (s : State) (c : EdgeChange) (tick : Word) : State :=
  match c.what with
  | .values _ ents =>
    ents.foldl (fun t e => renewTo t c.acc (nearClk (now s) (laterW (wt32 c.acc) tick)) e.field) s
  | _ => s

/-- A value packet scheduled; the twin's ACCEPT may have come before. -/
def proposeValues (s : State) (c : CmdRef) (a : Word) (ents : List ValEnt) : State :=
  let t := proposeCmd s c (.values a ents)
  match t.changes.find? (fun x => x.ref == some c) with
  | some x => match x.partner with
    | some tick => renewPaired t x tick
    | none => t
  | none => t

/-- What is wrong with the AT of a value packet: wall time is not valid, or AT lies more than 8 s ahead or more than 1 s
past. -/
def atFault (s : State) (a : Word) : Option Nat :=
  if a = 0 then none
  else if !s.time.valid then some stNotInState
  else if 8 * 10 ^ 9 < 4 * sdiff a (nowW s) ∨ 4 * sdiff a (nowW s) < -(10 ^ 9) then some stBadParam
  else none

/-- BADGER_VALUES (R175, R176). The status of a packet that fails by an entry and by its AT is a free value (log 43). -/
def badgerValuesRule : Handler := fun c p s =>
  let none32 : List Word := [0xFFFFFFFF]
  let at_ := pw p 0
  let n := fld (pw p 1) 31 16
  if p.payload.length < 2 then .noW s stBadLength none32
  else match parseValues n (p.payload.drop 2) with
    | none => .noW s stBadLength none32
    | some ents =>
      if n = 0 ∨ 44 < n then .noW s stBadParam none32
      else match firstBad (badgerSoon s) 0 [] ents, atFault s at_ with
        | none, none => .pend (proposeValues (ents.foldl (fun t e => renewField t e.field) s) c at_ ents)
        | some k, none => .noW s stBadParam [w32 k]
        | none, some st => .noW s st none32
        | some k, some st =>
          let (f, t) := takeFree s
          if Config.timeFirst f then .noW t st none32 else .noW t stBadParam [w32 k]

def execBadgerValues (p : Smb) (s : State) : Out1 := smibenRow 0x0510 badgerValuesRule p s

/-- FIELD_DEADLINE (R178): the deadline of a field is reached with no packet accepted before it. -/
def execFieldDeadline (n : Nat) (s : State) : Out1 :=
  act s fun s =>
    match fieldAt s n with
    | none => s
    | some f =>
      match f.deadline with
      | some d =>
        if f.due then s
        else
          let s1 := toClk d s
          expireSoon (setField s1 { f with due := true }) n
      | none => s

/-! ### Overlay buffers (R168) -/

/-- The buffers held among 0 to 43. -/
def heldBufs (s : State) : List Nat :=
  s.bdg.fields.map (·.buf) ++ s.bdg.engines.filterMap (·.buf) ++ s.bdg.test.buf.toList

/-- The free buffers among 0 to 43, lowest first. -/
def freeBufs (s : State) : List Nat := (List.range 44).filter (fun b => !(heldBufs s).contains b)

/-- The word of R25 for an engine or test pattern that finds no buffer. -/
def bufferConflict (s : State) : Word :=
  conflictWord 0x06 1 ((s.bdg.fields.map (·.buf)).foldl max 0)

/-- Engine `n`. -/
def engineAt (s : State) (n : Nat) : Engine := s.bdg.engines.getD n engineOff

/-- Engine `n` set. -/
def setEngine (s : State) (n : Nat) (e : Engine) : State :=
  { s with bdg := { s.bdg with engines := s.bdg.engines.set n e } }

/-- Whether an engine, or the test pattern (16), is on once every accepted setting has been carried out (02 R40): a set
that waits counts as it will stand. -/
def onSoon (s : State) (k : Nat) : Bool :=
  let of_ (on : Bool) (w : EdgeWhat) : Bool :=
    match w with
    | .engine n l => if n = k then fld (wAt l 0) 27 26 != 0 else on
    | .test l => if k = 16 then fld (wAt l 0) 31 30 != 0 else on
    | _ => on
  let has := if k = 16 then s.bdg.test.buf.isSome else (engineAt s k).buf.isSome
  (s.changes.map (·.what) ++ s.heavy.map (·.what)).foldl of_ has

/-- Buffers among 0 to 43 that fields, engines and the test pattern will hold by what has been accepted. -/
def heldSoon (s : State) : Nat :=
  (badgerSoon s).fields.length + ((List.range 17).filter (onSoon s)).length

/-- Whether an engine, or the test pattern (16), that is to come on finds no buffer. -/
def noBuffer (s : State) (k : Nat) : Bool := !onSoon s k && decide (44 ≤ heldSoon s)

/-! ### Pattern engines and the test pattern (R187 to R189) -/

def enNum (w : List Word) : Nat := fld (wAt w 0) 31 28
def enMode (w : List Word) : Nat := fld (wAt w 0) 27 26
def enDir (w : List Word) : Nat := fld (wAt w 0) 25 24
def enLevel (w : List Word) : Nat := fld (wAt w 0) 23 20
def enDuty (w : List Word) : Nat := fld (wAt w 0) 19 12
def enBw (w : List Word) : Nat := fld (wAt w 0) 11 4
def enPeriod (w : List Word) : Nat := fld (wAt w 3) 31 16
def enOffset (w : List Word) : Nat := fld (wAt w 3) 15 0
def enAmax (w : List Word) : Nat := fld (wAt w 5) 20 12
def enColour (w : List Word) : Nat × Nat × Nat :=
  (fld (wAt w 4) 27 16, fld (wAt w 4) 11 0, fld (wAt w 5) 11 0)

/-- The bits that R187 and R189 give a meaning. -/
def engineMask : List Word :=
  [0xFFFFFFF0, 0xFFFFFFFF, 0xFFFFFFFF, 0xFFFFFFFF, 0x0FFF0FFF, 0x001FFFFF]
def testMask : List Word := [0xC0FF0000, 0x0FFF0FFF, 0x00000FFF]

/-- The ranges of R187, in every mode. -/
def engineOk (s : State) (w : List Word) : Bool :=
  decide (1 ≤ fdW w) && decide (fdW w ≤ 1024) && decide (1 ≤ fdH w) && decide (fdH w ≤ 768)
    && inPicture s (fdX w) (fdY w) (fdW w) (fdH w)
    && decide (20 ≤ enPeriod w) && decide (enPeriod w ≤ 10000) && decide (enOffset w < enPeriod w)
    && decide (enAmax w ≤ 256) && decide (1 ≤ enDuty w) && decide (1 ≤ enBw w)

/-- ENGINE_SET (R187, R168). -/
def engineSetRule : Handler := withLen 6 fun c p s =>
  let w := maskWords engineMask p.payload
  if !engineOk s w then .no s stBadParam
  else if enMode w ≠ 0 ∧ noBuffer s (enNum w) then
    .noW s stConflict [bufferConflict s]
  else .pend (proposeCmd s c (.engine (enNum w) w))

def execEngineSet (p : Smb) (s : State) : Out1 := smibenRow 0x0630 engineSetRule p s

def tpKind (w : List Word) : Nat := fld (wAt w 0) 31 30
def tpPitch (w : List Word) : Nat := fld (wAt w 0) 23 16
def tpColour (w : List Word) : Nat × Nat × Nat :=
  (fld (wAt w 1) 27 16, fld (wAt w 1) 11 0, fld (wAt w 2) 11 0)

/-- The credits of a full recompute asked for a change (07 R152; 17 R375): granted, the change takes
its edge from now; waiting, it takes it from the grant. -/
def askRecompute (s : State) (id : ChangeId) (what : EdgeWhat) (ref : Option CmdRef) (lamp : Nat) :
    State × Nat :=
  let n := s.slu.next
  match sluiceAsk s (.recompute n) 2 20 lamp with
  | (s1, .granted _) => (proposeWith s1 id what ref (some n), stPending)
  | (s1, .waiting _) => ({ s1 with heavy := s1.heavy ++ [⟨n, id, what, ref⟩] }, stPending)
  | (s1, .refused) => (s1, stNoCredit)

/-- The credits of recompute `n` granted: its change takes its edge from now (07 R152). -/
def heavyGranted (s : State) (n : Nat) : State :=
  match s.heavy.find? (fun h => h.num == n) with
  | none => s
  | some h =>
    proposeWith { s with heavy := s.heavy.filter (fun x => x.num != n) } h.id h.what h.ref (some n)

/-- The credits of recompute `n` refused after its wait: the change is dropped (17 R376). -/
def heavyRefused (s : State) (n : Nat) : State :=
  match s.heavy.find? (fun h => h.num == n) with
  | none => s
  | some h =>
    notifyO { s with heavy := s.heavy.filter (fun x => x.num != n) } h.ref stNoCredit []

/-- TEST_PATTERN (R189, R168): a full recompute; G does not change, so that I′ of 17 R380 is I and no
lamp credits are asked. -/
def testPatternRule : Handler := withLen 3 fun c p s =>
  let w := maskWords testMask p.payload
  if tpPitch w < 2 then .no s stBadParam
  else if tpKind w ≠ 0 ∧ noBuffer s 16 then .noW s stConflict [bufferConflict s]
  else
    let (t, st) := askRecompute s (idOfCmd c) (.test w) (some c) 0
    if st = stPending then .pend t else .no t st

def execTestPattern (p : Smb) (s : State) : Out1 := smibenRow 0x0638 testPatternRule p s

/-! ### What an edge does (R168, R170, R176, R178) -/

/-- The loss of an overlay buffer to field `n`: counted and recorded (01 R28). -/
def bufferLost (s : State) (b item n : Nat) : State :=
  recordX (bump s (sysArbLoss + 5)) xBufLost [w32 b, w32 item, w32 n]

/-- A buffer taken from a lower rank (R168; 01 R26, R27 code 0x06): that of the test pattern, else that of the enabled
engine of the highest number from `low` on. The loser stops, for field `n`. -/
def seizeBuf (s : State) (low n : Nat) : Option (State × Nat) :=
  match s.bdg.test.buf with
  | some b =>
    some (bufferLost { s with bdg := { s.bdg with test := { words := [0, 0, 0], st := 2, buf := none } } } b 16 n, b)
  | none =>
    ((List.range 16).reverse.find? (fun k => decide (low ≤ k) && (engineAt s k).buf.isSome)).map fun k =>
      let e := engineAt s k
      let b := e.buf.getD 0
      (bufferLost (setEngine s k { e with st := 2, buf := none }) b k n, b)

/-- A buffer for field `n` (R168): the lowest free one, or one of a lower rank. -/
def fieldBuf (s : State) (n : Nat) : State × Nat :=
  match (freeBufs s).head? with
  | some b => (s, b)
  | none => (seizeBuf s 0 n).getD (s, 0)

/-- A field that starts not live, with the deadline of the packets accepted for its definition (R170, R178). -/
def fieldStart (s : State) (n : Nat) (w : List Word) (b : Nat) : Field :=
  let l := look n s.bdg.early
  { num := n, words := w, vstate := 0, data := [], live := false, expired := false
    deadline := if fdLife w = 0 then none else l.map (· + fdLife w * 10 ^ 6)
    due := false, lastAcc := l, exp := false, buf := b, prior := [] }

/-- A field definition takes effect (R170). One of the same KIND keeps the deadline also where LIFE changes to or from
0 (log 117, DESIGN CHOICE). -/
def applyDefine (s0 : State) (n : Nat) (w : List Word) : State :=
  let s := { s0 with bdg := { s0.bdg with early := del n s0.bdg.early } }
  match fieldAt s n with
  | some f =>
    if fdKind f.words = fdKind w then setField s { f with words := w }
    else setField s (fieldStart s0 n w f.buf)
  | none =>
    let (s1, b) := fieldBuf s n
    setField s1 (fieldStart s0 n w b)

/-- A change of the Badger record takes effect. -/
def applyBadger (s : State) (c : BdgChange) : State :=
  match c with
  | .params l => l.foldl (fun t e => wr t e.1 e.2) s
  | .define n w => applyDefine s n w
  | .remove n => { s with bdg := { s.bdg with fields := s.bdg.fields.filter (fun f => f.num ≠ n) } }
  | .glyph g => { s with bdg := { s.bdg with
      glyphs := g :: s.bdg.glyphs.filter (fun x => x.index ≠ g.index) } }
  | .erase i => { s with bdg := { s.bdg with glyphs := s.bdg.glyphs.filter (fun x => x.index ≠ i) } }

/-- The buffer and the number of the field that holds the highest-numbered one: it stands for the fields that took the
last buffers (01 R28). -/
def lastField (s : State) : Nat × Nat :=
  let b := (s.bdg.fields.map (·.buf)).foldl max 0
  (b, match s.bdg.fields.find? (fun f => f.buf == b) with | some f => f.num | none => 0)

/-- An engine or the test pattern (16) that finds no buffer at its edge loses to a field (01 R26, R28). -/
def noBufferLeft (s : State) (item : Nat) : State := bufferLost s (lastField s).1 item (lastField s).2

/-- An engine setting takes effect. Where fields have taken the last buffers since it was accepted, the test pattern
loses, then a higher-numbered engine, and at last the engine itself reads LOST (01 R26, R27). -/
def applyEngine (s : State) (n : Nat) (w : List Word) : State :=
  if enMode w = 0 then setEngine s n { words := w, st := 0, buf := none }
  else match (engineAt s n).buf, (freeBufs s).getLast? with
    | some b, _ => setEngine s n { words := w, st := 1, buf := some b }
    | none, some b => setEngine s n { words := w, st := 1, buf := some b }
    | none, none => match seizeBuf s (n + 1) (lastField s).2 with
      | some (t, b) => setEngine t n { words := w, st := 1, buf := some b }
      | none => noBufferLeft (setEngine s n { words := w, st := 2, buf := none }) n

/-- A test pattern setting takes effect. -/
def applyTest (s : State) (w : List Word) : State :=
  let put (e : Engine) : State := { s with bdg := { s.bdg with test := e } }
  if tpKind w = 0 then put { words := w, st := 0, buf := none }
  else match s.bdg.test.buf, (freeBufs s).getLast? with
    | some b, _ => put { words := w, st := 1, buf := some b }
    | none, some b => put { words := w, st := 1, buf := some b }
    | none, none => noBufferLeft (put { words := [0, 0, 0], st := 2, buf := none }) 16

/-- Field n's AGE in ms (R190). -/
def fieldAge (s : State) (f : Field) : Nat :=
  match f.lastAcc with
  | some t => min 65535 ((now s - t) / 10 ^ 6)
  | none => 0

/-- A field expires at this edge (R178), unless it has been removed or has started anew since that was scheduled. -/
def applyExpire (s : State) (n : Nat) : State :=
  match fieldAt s n with
  | none => s
  | some f =>
    let w := [w32 (n * 2 ^ 24), nowW s, w32 (fieldAge s f)]
    if !f.exp then s
    else recEvent (bump (setField s { f with live := false, expired := true, exp := false }) bdgExpire) .safety 0x0502 w

/-- One value entry takes effect; one whose field is gone, or is of another kind now, is dropped and
counted (R176). `at_` is the acceptance of its packet, from which a field defined since counts (R178). -/
def applyValue (at_ : Nat) (s : State) (e : ValEnt) : State :=
  match fieldAt s e.field with
  | none => bump s bdgValIgn
  | some f =>
    if !dataFits s.bdg.glyphs f.words e.words then bump s bdgValIgn
    else
      let life := fdLife f.words
      let g := if f.lastAcc.isSome then f else { f with
        lastAcc := some at_, deadline := if life = 0 then none else some (at_ + life * 10 ^ 6) }
      setField s { g with vstate := e.vstate, data := e.words, live := true, expired := false }

/-- Whether a value packet applies LATE at edge `e` (R176). -/
def valuesLate (s : State) (a : Word) (e : Nat) : Bool :=
  a != 0 && decide (instantAt (rate s) (nearClk (now s) a) < e)

/-- A value packet accepted at clock `at_` takes effect at edge `e`. -/
def applyValues (s : State) (a : Word) (ents : List ValEnt) (at_ e : Nat) : State :=
  let s1 := ents.foldl (applyValue at_) s
  if valuesLate s a e then bump s1 bdgValLate else s1

/-- An event of R185 with its record. -/
def safetyNote (s : State) (cause : Nat) (w2 w3 : Word) : State :=
  recEvent s .safety 0x0501 [w32 (cause * 2 ^ 24), nowW s, w2, w3]

/-- The lowest-numbered field whose rectangle holds one of the pixels x0 to x0 + n - 1 of row y. -/
def fieldTouched (s : State) (y x0 n : Nat) : Option Nat :=
  (s.bdg.fields.find? (fun f =>
    let w := f.words
    decide (fdY w ≤ y) && decide (y < fdY w + fdH w)
      && decide (fdX w < x0 + n) && decide (x0 < fdX w + fdW w))).map (·.num)

/-- Whether a pixel lies in the rectangle of a defined field (R184). -/
def inField (s : State) (x y : Nat) : Bool := (fieldTouched s y x 1).isSome

/-! ### Rendering (R179 to R182, R188, R189) -/

/-- Palette entry `k` in linear light. -/
def palRgb (s : State) (k : Nat) : Rgb :=
  let w := rd s (bdgPalRg + 2 * k)
  lpqTriple (fld w 27 16, fld w 11 0, getF s (bdgPalB + 2 * k) 11 0)

/-- The decimal digits of a number as character codes, most significant first. -/
def digitsOf (n : Nat) : List Nat := (Nat.toDigits 10 n).map (·.toNat)

/-- A list padded on the left with "0" to `n`. -/
def padZero (n : Nat) (l : List Nat) : List Nat := List.replicate (n - l.length) 0x30 ++ l

/-- The characters of a NUMBER (R179). -/
def numberText (w : List Word) (v : Int) : List Nat :=
  let s0 := padZero (fdDp w + 1) (digitsOf v.natAbs)
  let s1 := if fdDp w = 0 then s0
    else s0.take (s0.length - fdDp w) ++ [0x2E] ++ s0.drop (s0.length - fdDp w)
  let sign := if v < 0 then [0x2D] else if 0 < v ∧ fdPlus w then [0x2B] else []
  let s2 := if fdLz w then padZero (fdCells w - sign.length) s1 else s1
  let text := sign ++ s2
  if fdCells w < text.length then List.replicate (fdCells w) 0x23 else text

/-- The glyph codes a live field lays out (R179). -/
def fieldCodes (f : Field) : List Nat :=
  let k := fdKind f.words
  if k = kText then (textRun f.data).take (fdCells f.words)
  else if k = kNumber then
    (numberText f.words (wAt f.data 0).toInt).map (fun c => fdSet f.words * 4096 + c)
  else if k = kSymbol then [fld (wAt f.data 0) 15 0]
  else []

/-- The size and coverage words of a glyph code. -/
def glyphOf (s : State) (c : Nat) : (Nat × Nat) × List Word :=
  if c / 4096 = 8 then
    match s.bdg.glyphs.find? (fun g => g.index == c % 4096) with
    | some g => ((gWidth g, gHeight g), g.words)
    | none => ((0, 0), [])
  else (cellOf (c / 4096), romWords c)

/-- The coverage of pixel (x, y) of a glyph `gw` pixels wide (R174). -/
def coverage (gw : Nat) (l : List Word) (x y : Nat) : Nat :=
  let i := y * gw + x
  let b := 24 - 8 * (i / 2 % 4)
  fld (l.getD (i / 8) 0) (if i % 2 = 0 then b + 3 else b + 7) (if i % 2 = 0 then b else b + 4)

/-- A glyph placed on the picture: left, top, size, scale, coverage words. -/
structure Placed where
  x : Int
  y : Int
  gw : Nat
  gh : Nat
  scale : Nat
  words : List Word

/-- The glyphs of a live field with their places (R179). -/
def layoutOf (s : State) (f : Field) : List Placed :=
  let w := f.words
  let codes := fieldCodes f
  let sc := fdScale w
  let first := (glyphOf s (codes.headD 0)).1
  let cell := if fdKind w = kSymbol then first else cellOf (fdSet w)
  let row : Int := Int.ofNat (codes.length * cell.1 * sc)
  let slack : Int := Int.ofNat (fdW w) - row
  let al := if fdKind w = kNumber then 2 else if fdKind w = kSymbol then 1 else fdAlign w
  let left : Int := Int.ofNat (fdX w) + (if al = 0 then 0 else if al = 1 then slack / 2 else slack)
  let top : Int := Int.ofNat (fdY w) + (Int.ofNat (fdH w) - Int.ofNat (cell.2 * sc)) / 2
  codes.zipIdx.map (fun e =>
    let g := glyphOf s e.1
    { x := left + Int.ofNat (e.2 * cell.1 * sc), y := top, gw := g.1.1, gh := g.1.2, scale := sc
      words := g.2 })

/-- The coverage a placed glyph gives pixel (x, y). -/
def placedCov (g : Placed) (x y : Nat) : Nat :=
  let dx := Int.ofNat x - g.x
  let dy := Int.ofNat y - g.y
  if 0 ≤ dx ∧ 0 ≤ dy ∧ dx < Int.ofNat (g.gw * g.scale) ∧ dy < Int.ofNat (g.gh * g.scale) then
    coverage g.gw g.words (dx.toNat / g.scale) (dy.toNat / g.scale)
  else 0

/-- Whether a pixel of a rectangle lies in its `n` outermost rings. -/
def inRings (n x0 y0 w h x y : Nat) : Bool :=
  decide (x < x0 + n) || decide (y < y0 + n) || decide (x0 + w ≤ x + n) || decide (y0 + h ≤ y + n)

/-- Whether the not-live stripes draw NLC at an offset from the rectangle's corner (R181). -/
def stripe (dx dy : Nat) : Bool := decide ((dx + dy) % 16 < 8)

/-- Whether a live field's value is drawn at an edge of time `t` (R182). -/
def shown (f : Field) (t : Nat) : Bool := !fdBlinks f.words f.vstate || t / 500000000 % 2 == 0

/-- One pixel of a field over what lies beneath it (R180, R181). -/
def drawField (s : State) (f : Field) (lay : List Placed) (t x y : Nat) (acc : Rgb) : Rgb :=
  let w := f.words
  let inside := decide (fdX w ≤ x) && decide (x < fdX w + fdW w) && decide (fdY w ≤ y)
    && decide (y < fdY w + fdH w)
  let ring := inRings (fdThick w) (fdX w) (fdY w) (fdW w) (fdH w) x y
  if !inside then acc
  else if !f.live then
    if stripe (x - fdX w) (y - fdY w) then
      if fdKind w = kFrame ∧ !ring then acc else palRgb s (getF s bdgCfg 3 0)
    else if fdKind w = kFrame then acc else palRgb s (fdBgc w)
  else
    let a1 := if fdBga w = 0 then acc else blendOver (fdBga w) (palRgb s (fdBgc w)) acc
    if !shown f t then a1
    else
      let cov := if fdKind w = kFrame then (if ring then 15 else 0)
        else lay.foldl (fun m g => max m (placedCov g x y)) 0
      if cov = 0 then a1
      else blendOver ((cov * 273 + 8) / 16) (palRgb s (fdFgc w f.vstate)) a1

/-- The opacity of an engine at pixel (x, y) at an edge of time `t` (R188). -/
def engineA (w : List Word) (t x y : Nat) : Nat :=
  let p := enPeriod w * 10 ^ 6
  let ph := (t + enOffset w * 10 ^ 6) % max 1 p
  let amax := enAmax w
  if enMode w = 1 then (if ph * 256 < enDuty w * p then amax else 0)
  else if enMode w = 2 then
    let u := ph * 512 / max 1 p
    (amax * (if u ≤ 256 then u else 512 - u) + 128) / 256
  else
    let b2 := 2 * enBw w
    let k := ph * b2 / max 1 p
    let d := if enDir w = 0 then x - fdX w else if enDir w = 1 then fdX w + fdW w - 1 - x
      else if enDir w = 2 then y - fdY w else fdY w + fdH w - 1 - y
    if (d + b2 - k % max 1 b2) % max 1 b2 < enBw w then amax else 0

/-- Whether engine `e` runs and its rectangle holds pixel (x, y). -/
def engineHits (e : Engine) (x y : Nat) : Bool :=
  let w := e.words
  e.st == 1 && decide (fdX w ≤ x) && decide (x < fdX w + fdW w) && decide (fdY w ≤ y)
    && decide (y < fdY w + fdH w)

/-- The engines in the order in which they are drawn (R166). -/
def engineOrder (s : State) : List Engine :=
  (List.range 16).flatMap fun l => s.bdg.engines.filter (fun e => e.st == 1 && enLevel e.words == l)

/-- The test pattern over a pixel (R189). -/
def drawTest (s : State) (x y : Nat) (acc : Rgb) : Rgb :=
  let w := s.bdg.test.words
  let c := lpqTriple (tpColour w)
  if s.bdg.test.st ≠ 1 then acc
  else if tpKind w = 1 then c
  else if tpKind w = 2 then
    (if x % max 1 (tpPitch w) = 0 ∨ y % max 1 (tpPitch w) = 0 then c else acc)
  else
    let d : Int := Int.ofNat (max 1 (picW s - 1))
    let n : Int := Int.ofNat x
    ⟨c.r * n / d, c.g * n / d, c.b * n / d⟩

/-- The frame drawn while no Badger record was found at power-up (R186), in colour 3 of the reset
palette. -/
def drawRecBad (s : State) (x y : Nat) (acc : Rgb) : Rgb :=
  if s.bdg.recBad && inRings 4 0 0 (picW s) (picH s) x y && stripe x y then lpqTriple (2378, 1900, 0)
  else acc

/-! ### What changed at an edge (R167) -/

/-- What a field draws depends on nothing else than this: its definition, its value and state while live, its blink
phase, and the glyph and the palette entries it uses. -/
def fieldView (s : State) (t : Nat) (f : Field) : List Word :=
  let w := f.words
  let pal (k : Nat) : List Word := [rd s (bdgPalRg + 2 * k), rd s (bdgPalB + 2 * k)]
  let glyph := if fdKind w = kSymbol then (glyphOf s (fld (wAt f.data 0) 15 0)).2 else []
  flagAt f.live 0 :: w ++
    (if f.live then [w32 f.vstate, flagAt (shown f t) 0] ++ f.data ++ glyph ++ pal (fdFgc w f.vstate)
        ++ (if fdBga w = 0 then [] else pal (fdBgc w))
      else pal (getF s bdgCfg 3 0) ++ (if fdKind w = kFrame then [] else pal (fdBgc w)))

/-- The blocks of a rectangle of pixels, by block number. -/
def blocksOfRect (s : State) (x y w h : Nat) : List Nat :=
  let wt := getF s tilGeom 14 8
  if w = 0 ∨ h = 0 then []
  else
    (List.range (getF s tilGeom 5 0)).flatMap fun by_ => (List.range wt).filterMap fun bx =>
      if bx ≤ (x + w - 1) / 16 ∧ x / 16 ≤ bx ∧ by_ ≤ (y + h - 1) / 16 ∧ y / 16 ≤ by_ then
        some (by_ * wt + bx)
      else none

/-- The blocks of the rectangle of definition words. -/
def blocksOfWords (s : State) (w : List Word) : List Nat :=
  blocksOfRect s (fdX w) (fdY w) (fdW w) (fdH w)

/-- The blocks that fields and engines change between the last edge, drawn at the time that it noted, in state `a` and
the edge of time `t` in state `b`. -/
def itemsChanged (a b : State) (t : Nat) : List Nat :=
  let (t0, had) := a.bdg.drawn.getD (t, false)
  let field (n : Nat) : List Nat :=
    let va := (fieldAt a n).map (fieldView a t0)
    let vb := (fieldAt b n).map (fieldView b t)
    if va = vb then []
    else (match fieldAt a n with | some f => blocksOfWords b f.words | none => [])
      ++ (match fieldAt b n with | some f => blocksOfWords b f.words | none => [])
  let engine (n : Nat) : List Nat :=
    let ea := engineAt a n
    let eb := engineAt b n
    let moving := eb.st == 1 && (had != b.time.has || decide (2 ≤ enMode eb.words)
      || engineA eb.words t0 0 0 != engineA eb.words t 0 0)
    if ea.words = eb.words ∧ ea.st = eb.st ∧ !moving then []
    else (if ea.st = 1 then blocksOfWords b ea.words else [])
      ++ (if eb.st = 1 then blocksOfWords b eb.words else [])
  (List.range 44).flatMap field ++ (List.range 16).flatMap engine

/-! ### Status words (R190) -/

def bdgStsWord (s : State) : Word :=
  mkFld 31 24 s.bdg.fields.length ||| mkFld 23 16 (s.bdg.fields.filter (·.live)).length
    ||| mkFld 15 8 (freeBufs s).length ||| flagAt s.bdg.recBad 7

def bdgGlyphWord (s : State) : Word :=
  mkFld 31 16 s.bdg.glyphs.length ||| w32 (4096 - unitsUsed s.bdg.glyphs)

/-- BDG.FIELD_n.STATE. -/
def fieldState (f : Field) : Nat := if f.live then 2 else if f.expired then 3 else 1

def bdgFieldWord (s : State) (n : Nat) : Word :=
  match fieldAt s n with
  | none => 0
  | some f => mkFld 31 30 (fieldState f) ||| mkFld 29 28 f.vstate ||| w32 (fieldAge s f)

def bdgEngWord (s : State) (n w : Nat) : Word :=
  let e := engineAt s n
  if w < 6 then wAt e.words w
  else if w = 6 then mkFld 31 30 e.st ||| w32 (e.buf.getD 0)
  else 0

/-- FSIG (10 R236). -/
def fsigNow (s : State) : Word :=
  crc32c (s.bdg.fields.flatMap fun f =>
    [BitVec.ofNat 8 f.num, BitVec.ofNat 8 (fieldState f), BitVec.ofNat 8 f.vstate]
      ++ (if f.live || f.expired then bytesOfWords f.data else []))

end Sys2Proof.Machine
end

