-- ==== Sys2Proof/Machine/Flume.lean ====
section
/-! DEFINITION. Flume at the sender: deliveries, the emitter, repair and reports, the vouching of Weir,
and the check of PROOF messages (05 R97 to R112; 10 R224, R225, R237). -/

namespace Sys2Proof.Machine

/-! ### Rates, levels and latencies (R105, R112; 06 R119) -/

/-- The turns of a place word. -/
def turnsOf (pl : BitVec 64) : List Nat := (List.range (min 4 (plTurns pl))).map (plTurn pl)

/-- The place at hop `h` on the path of a place (01 R16). -/
def placeAt (pl : BitVec 64) (h : Nat) : BitVec 64 :=
  let t := (turnsOf pl).filter (fun x => decide (x < h))
  BitVec.ofNat 64 (plChain pl <<< 61 + t.length <<< 56 + h <<< 48
    + (t.zipIdx.map (fun e => e.1 <<< (42 - 6 * e.2))).sum)

/-- Whether place `pl` is place `top` or lies below it. -/
def atOrBelow (top pl : BitVec 64) : Bool :=
  plChain top == plChain pl && decide (plHop top ≤ plHop pl)
    && (turnsOf pl).filter (fun x => decide (x < plHop top)) == turnsOf top

/-- FLM.CH_BW_c: the lowest Flume rate in Mb/s among the trained links of a chain, branches included, a link that went
down left out, halved while
a crossing is active on the chain of either rail (06 R119). The link above a tile has the rate that the tile's tFWD
tells (06 R126). A chain whose own port is bridged has TW at 48,000 Mb/s in its place (06 R134). -/
def chainBw (s : State) (c : Nat) : Nat :=
  match s.link.ports.find? (fun x => x.p == c) with
  | none => 0
  | some x =>
    if !chainOpen s c then 0
    else
      let lanes := if x.lanes2 then 2 else 1
      let first := if x.st = 5 then 24000 * lanes else if x.st = 3 then 9600 * lanes else 48000
      let trained := s.flume.hops.filter (fun e => !s.flume.lost.contains e.1) ++ s.flume.later
      let below := (trained.filter (fun e => plChain e.1 == c)).map
        (fun e => lanes * (if e.2.2 = 1024 then 9600 else 24000))
      let r := below.foldl min first
      if s.link.crossChains.any (fun e => e.1 == c) then r / 2 else r

/-- The time `bytes` bytes take on a chain, in ns. -/
def flightNs (s : State) (c bytes : Nat) : Nat := cdiv (bytes * 8000) (max 1 (chainBw s c))

/-- The latency of a path from the UP latency and tFWD of its tiles, nearest first (06 R126, R127): the links, tFWD
of each tile between the sender and the last, and 6.8 µs where a tile sends on at a lower rate than it receives. -/
def pathLat : List (Nat × Nat) → Nat
  | [] => 0
  | [e] => e.1
  | e :: f :: r => e.1 + e.2 + (if f.2 = 1024 ∧ e.2 ≠ 1024 then 6800 else 0) + pathLat (f :: r)

/-- What the crossings at a break change for a place (06 R137). -/
def changeAt (e : LatChange) (pl : BitVec 64) : Int :=
  if !atOrBelow e.below pl then 0
  else e.change + (if pl = e.below then 0 else if (turnsOf pl).contains (plHop e.below) then e.br else e.dn)

/-- The calibrated latency to a place (06 R127, R137): that of its path, with the changes of the crossings of this
rail above it; 0 while the latency of a tile of the path is not known. -/
def latTo (s : State) (pl : BitVec 64) : Nat :=
  let path := (List.range (plHop pl)).map (fun i => look (placeAt pl (i + 1)) s.flume.hops)
  let base : Int := if path.all (·.isSome) then Int.ofNat (pathLat (path.map (·.getD (0, 0)))) else 0
  let ch := (s.flume.changes.filter (fun e => e.rail == s.id.side)).map (fun e => changeAt e pl)
  (base + ch.sum).toNat

/-- The level of packets to a place: none where the two have no level in common (R112). A place whose
levels are not known is taken at this device's own. -/
def levelTo (s : State) (pl : BitVec 64) : Option Nat :=
  match look pl s.flume.levels with
  | none => some (ownHigh s)
  | some (hi, lo) => if hi < ownLow s ∨ ownHigh s < lo then none else some (min hi (ownHigh s))

/-- The level of commits and certificates on a chain: the lowest among its tiles. -/
def chainLevel (s : State) (c : Nat) : Nat :=
  s.flume.levels.foldl (fun m e =>
    if plChain e.1 = c then (match levelTo s e.1 with | some l => min m l | none => m) else m) (ownHigh s)

/-- FLM.FRAME. -/
def lastFrame (s : State) : BitVec 16 := BitVec.ofNat 16 (getF s flmFrame 15 0)

/-- The header of a packet to every tile of a chain. -/
def bcastHdr (s : State) (typ c : Nat) (frame : BitVec 16) : FlumeHdr :=
  { typ := typ, level := chainLevel s c, side := s.id.side, bcast := true, frame := frame, dna := 0
    route := BitVec.ofNat 40 (c <<< 37), length := 0 }

/-- Bytes sent on a chain counted in FLM.CH_KIB_c. -/
def countKib (s : State) (c bytes : Nat) : State :=
  let n := (look c s.flume.residue).getD 0 + bytes
  let s1 := { s with flume := { s.flume with residue := put c (n % 1024) s.flume.residue } }
  bumpN s1 (flmChKib + 4 * c) (n / 1024)

/-- A Flume packet of header `h` and body `b` leaves on a chain, paced to FLM.CH_BW_c (06 R119). -/
def flumeSend (s : State) (c : Nat) (h : FlumeHdr) (b : List Byte) : State :=
  let n := 16 + b.length
  let s1 := countKib s c n
  let t := max (lt s) ((look c s.flume.pace).getD 0) + flightNs s c n
  flumeSendOn { s1 with flume := { s1.flume with pace := put c t s1.flume.pace } } c (flumePkt s.id.side h b)

/-! ### Starting a delivery (R95, R97, R98, R108) -/

/-- Runs of seven. -/
def sevens : Nat → List Nat → List (List Nat)
  | 0, _ => []
  | _ + 1, [] => []
  | n + 1, l => l.take 7 :: sevens n (l.drop 7)

/-- The packets of a send set. -/
def packetsOf (l : List Nat) : List PktPlan :=
  (sevens l.length l).zipIdx.map (fun e => { pidx := e.2, blocks := e.1, tries := 0 })

/-- What a delivery sends the tile of a rectangle. -/
def tilePlan (s : State) (r : Rect) : Option (Nat × TilePlan) :=
  let d := dmgOf s r.na
  match placeOfNa s r.na with
  | none => none
  | some pl =>
    let all := List.range (r.wtb * r.htb)
    let l := if d.resync then all else d.pending
    if l = [] ∨ !d.reachable ∨ !chainOpen s (plChain pl) ∨ (levelTo s pl).isNone then none
    else some (plChain pl,
      { na := r.na, full := d.resync, pkts := packetsOf l, sent := 0, repairs := [], received := false
        failed := false, edge := none })

/-- Tile plans in increasing node address. -/
def insertPlan (x : TilePlan) : List TilePlan → List TilePlan
  | [] => [x]
  | y :: r => if x.na.toNat < y.na.toNat then x :: y :: r else y :: insertPlan x r

/-- The chains of a delivery. -/
def chainPlans (s : State) : List ChainPlan :=
  let ps := s.canvas.rects.filterMap (tilePlan s)
  (List.range 8).filterMap fun c =>
    let l := (ps.filter (fun e => e.1 == c)).foldl (fun m e => insertPlan e.2 m) []
    if l = [] then none else some { chain := c, tiles := l, committed := none, repeats := 0, again := none }

/-- Blocks of a plan. -/
def planBlocks (t : TilePlan) : List Nat := t.pkts.flatMap (·.blocks)

/-- Whether any block is PENDING (R97). -/
def anyPending (s : State) : Bool := s.canvas.rects.any (fun r => (dmgOf s r.na).pending != [])

/-- PENDING cleared for a delivery of frame `f`, and the flags of the copies it sends kept (R95). A tile that is sent
none of its changes, because nothing can be sent to it now, is in RESYNC: its next delivery is FULL (R108; log 107). -/
def clearPending (s : State) (f : CanvasFrame) (plans : List ChainPlan) : State :=
  let flags (r : Rect) (d : TileDmg) (sent : List Nat) : List Nat :=
    (d.incs.filter (fun i => !sent.contains i))
      ++ sent.filter (fun i => f.incs.getD (rectBlock f.wb r i) false)
  s.canvas.rects.foldl (fun t r =>
    let d := dmgOf t r.na
    let sent := (plans.flatMap (·.tiles)).filter (fun p => p.na == r.na) |>.flatMap planBlocks
    setDmg t { d with
      pending := [], incs := flags r d sent, resync := d.resync || (sent == [] && d.pending != []) }) s

/-- A delivery of the completed frame `f` starts (R97). -/
def startDelivery (s : State) (f : CanvasFrame) : State :=
  let plans := chainPlans s
  let frame : BitVec 16 := if plans = [] then lastFrame s else lastFrame s + 1
  let d : Delivery :=
    { frame := frame, start := lt s, canvas := f, chains := plans, pt := none, epoch := s.time.epoch
      ready := f.done
      lats := (plans.flatMap (·.tiles)).filterMap (fun t => (placeOfNa s t.na).map (fun pl => (pl, latTo s pl))) }
  let s1 := clearPending s f plans
  let s2 := setF (bump s1 flmDeliv) flmFrame 15 0 frame.toNat
  { s2 with
    canvas := { s2.canvas with undelivered := false }
    flume := { s2.flume with
      delivery := if plans = [] then none else some d, canvasReady := none, unread := [] } }

/-! ### The messages of a coordinated delivery (12 R286, R287) -/

/-- The picks of a canvas frame (12 R287). -/
def framePicks (f : CanvasFrame) : List Pick :=
  ((f.layers.zip f.picks).zipIdx.filter (fun e => lyVideo e.1.1)).map (fun e =>
    { layer := e.2, stream := lyStream e.1.1, ts := e.1.2.map (·.ts) })

/-- The incomplete blocks of a frame. -/
def frameIncs (f : CanvasFrame) : List (Nat × Nat) :=
  (f.incs.zipIdx.filter (fun e => e.1)).map (fun e => (e.2 % max 1 f.wb, e.2 / max 1 f.wb))

/-- The canvas frame of a start that the sender delivers or still holds. -/
def frameOf (s : State) (start : Word) : Option CanvasFrame :=
  match s.flume.delivery with
  | some d => if wt32 d.canvas.start = start then some d.canvas else
      s.canvas.newest.filter (fun f => wt32 f.start == start)
  | none => s.canvas.newest.filter (fun f => wt32 f.start == start)

/-- Whether block (x, y) intersects the destination of a layer. -/
def blockMeets (l : List Word) (x y : Nat) : Bool :=
  decide (lyDx l < 16 * x + 16) && decide (16 * x < lyDx l + lyDw l)
    && decide (lyDy l < 16 * y + 16) && decide (16 * y < lyDy l + lyDh l)

/-- The layers whose pick differs between the twins or has no source on either (R287). -/
def unequalLayers (own twin : List Pick) : List Nat :=
  ((own ++ twin).filter (fun p =>
    let a := own.find? (fun x => x.layer == p.layer)
    let b := twin.find? (fun x => x.layer == p.layer)
    a != b || p.ts.isNone)).map (·.layer)

/-- DSIG of every tile rectangle (R287). -/
def dsigs (s : State) (f : CanvasFrame) (x : CoDeliv) : List (BitVec 16 × Word) :=
  let own := x.picks.getD []
  let twin := x.twinPicks.getD []
  let bad := (unequalLayers own twin).filterMap (fun n => f.layers[n]?)
  let incs := x.incs.getD [] ++ x.twinIncs.getD []
  let unequal (k : Nat) : Bool :=
    let bx := k % max 1 f.wb
    let by_ := k / max 1 f.wb
    incs.contains (bx, by_) || bad.any (fun l => blockMeets l bx by_)
  s.canvas.rects.map (fun r =>
    (r.na, crcWords ((List.range (r.wtb * r.htb)).map (fun i =>
      let k := rectBlock f.wb r i
      if unequal k then 0 else f.bsigs.getD k 0))))

/-- A coordinated delivery replaced, or dropped once it has been compared. -/
def setCo (s : State) (start : Word) (x : Option CoDeliv) : State :=
  { s with pair := { s.pair with
    codeliv := x.toList ++ (s.pair.codeliv.filter (fun y => y.start != start)).take 7 } }

/-- The coordinated delivery of a start. -/
def coOf (s : State) (start : Word) : CoDeliv :=
  (s.pair.codeliv.find? (fun x => x.start == start)).getD
    { start := start, picks := none, incs := none, overflow := false, twinPicks := none, twinIncs := none
      twinOverflow := false, own := none, twin := none }

/-- The DSIGs of both twins compared per tile. -/
def compareDsigs (s : State) (x : CoDeliv) : State :=
  match x.own, x.twin with
  | some a, some b =>
    let diff := (a.filter (fun e => look e.1 b != some e.2)).map (fun e => e.1.toNat)
    let s1 := setCo s x.start none
    let s2 := if s1.pair.resolution.isSome then s1 else bump s1 pairCompared
    if diff = [] then s2 else startResolution s2 diff
  | _, _ => setCo s x.start (some x)

/-- Once both twins' picks are held, the DSIGs are sent; with an overflow the delivery is not compared. -/
def tryDsigs (s : State) (x : CoDeliv) : State :=
  if x.picks.isNone || x.twinPicks.isNone || x.own.isSome then compareDsigs s x
  else if x.overflow || x.twinOverflow then bump (setCo s x.start none) pairNocmp
  else match frameOf s x.start with
    | none => bump (setCo s x.start none) pairNocmp
    | some f =>
      let d := dsigs s f x
      compareDsigs (twinSend s (.canvsig x.start d)) { x with own := some d }

/-- CANVAS sent for a coordinated delivery, and the delivery noted for comparison. -/
def sendCanvas (s : State) (f : CanvasFrame) : State :=
  let w := wt32 f.start
  let incs := frameIncs f
  let many := decide (4096 < incs.length)
  let x := { coOf s w with picks := some (framePicks f), incs := some (incs.take 4096), overflow := many }
  tryDsigs (twinSend s (.canvas w (framePicks f) (incs.take 4096) many)) x

/-- Whether a canvas frame that has started is neither latched, nor in composition, nor completed: the sender has abandoned
it (04 R75). -/
def abandoned (s : State) (w : Word) : Bool :=
  let same (l : Option Latched) : Bool := l.any (fun x => wt32 x.start == w)
  decide (nearClk (now s) w ≤ now s) && !same s.canvas.latched && !same s.canvas.composing

/-- DELIVERY_START (R97; 12 R286). In lockstep the lead sends DELIV and CANVAS; the standby delivers
the frame DELIV named, or its newest one where it no longer holds that frame, which is then not
compared. -/
def execDeliveryStart (s : State) : Out1 :=
  act s fun s =>
    match s.canvas.newest with
    | none => s
    | some f =>
      if !s.id.sender || s.flume.delivery.isSome || !s.canvas.undelivered || !anyPending s then s
      else if s.pair.mode ≠ 1 then startDelivery s f
      else if s.pair.holding then
        let s1 := startDelivery s f
        sendCanvas (twinSend s1 (.deliv (wt32 f.start) (lastFrame s1))) f
      else match s.pair.deliv with
        | none => s
        | some (w, _) =>
          let s1 := { s with pair := { s.pair with deliv := none } }
          if wt32 f.start = w then sendCanvas (startDelivery s1 f) f
          else if decide (0 < sdiff (wt32 f.start) w) || abandoned s w then bump (startDelivery s1 f) pairNocmp
          else s

/-! ### The emitter (R98, R101, R104, R105, R107, R109) -/

/-- Bytes of a region packet and of a commit (R101, R104). -/
def regionBytes (n : Nat) : Nat := 24 + 1160 * n
def commitBytes (n : Nat) : Nat := 24 + 8 * n

/-- A block of a delivery as a region packet carries it. -/
def blockOut (f : CanvasFrame) (r : Rect) (lvl i : Nat) : BlockIn :=
  let k := rectBlock f.wb r i
  { bx := i % max 1 r.wtb, by_ := i / max 1 r.wtb, bsig := f.bsigs.getD k 0
    inc := 2 ≤ lvl && f.incs.getD k false, data := packSamps (f.blocks.getD k []) }

/-- The header of the region packets of a tile in a delivery. -/
def regionHdr (s : State) (d : Delivery) (pl : BitVec 64) (na : BitVec 16) : FlumeHdr :=
  { typ := 1, level := (levelTo s pl).getD 1, side := s.id.side, bcast := false, frame := d.frame, dna := na
    route := routeOf pl, length := 0 }

/-- A region packet of a delivery. -/
def regionPkt (s : State) (d : Delivery) (r : Rect) (pl : BitVec 64) (t : TilePlan) (p : PktPlan)
    (repair : Bool) : RegionPkt :=
  { pidx := p.pidx, repair := repair, full := t.full
    blocks := p.blocks.map (blockOut d.canvas r ((levelTo s pl).getD 1)) }

/-- The commit entry of a tile (R104). -/
def commitEnt (s : State) (d : Delivery) (t : TilePlan) : CommitEnt :=
  let sigs := match rectOf s t.na with
    | some r => (planBlocks t).map (fun i => d.canvas.bsigs.getD (rectBlock d.canvas.wb r i) 0)
    | none => []
  { na := t.na, full := t.full, npkt := t.pkts.length, tsig := crcWords sigs }

/-- Bytes a chain still has to send in a delivery, its commit among them. -/
def bytesLeft (c : ChainPlan) : Nat :=
  if c.committed.isSome then 0
  else commitBytes c.tiles.length
    + (c.tiles.flatMap (fun t => (t.pkts.drop t.sent).map (fun p => regionBytes p.blocks.length))).sum

/-- The largest latency to a tile of a chain's commit (R105), as at the start of the delivery (06 R137). -/
def maxLat (s : State) (d : Delivery) (c : ChainPlan) : Nat :=
  c.tiles.foldl (fun m t => match placeOfNa s t.na with
    | some pl => max m ((look pl d.lats).getD (latTo s pl))
    | none => m) 0

/-- PT (R105), set once for all chains that commit: for a chain whose commit has not left, Tc is the instant at
which its last bit will leave (log 40); a chain that is no longer open sends none. -/
def presentation (s : State) (d : Delivery) : State × Nat :=
  let t (c : ChainPlan) : Nat :=
    (match c.committed with
      | some x => x
      | none => now s + flightNs s c.chain (bytesLeft c)) + maxLat s d c
  let l := d.chains.filter (fun c => c.committed.isSome || chainOpen s c.chain)
  let pte := cdiv (l.foldl (fun m c => max m (t c)) 0 + 1000 * getF s flmPtCfg 15 0) 4 * 4
  if getF s flmPtCfg 16 16 = 0 then (s, pte)
  else
    let fixed := d.canvas.start + 1000 * getF s flmPtFixed 23 0
    if fixed < pte then (bump s flmSlip, pte) else (s, fixed)

/-- The chain plan of a delivery replaced. -/
def setChain (s : State) (d : Delivery) (c : ChainPlan) : State :=
  { s with flume := { s.flume with
    delivery := some { d with chains := d.chains.map (fun y => if y.chain = c.chain then c else y) } } }

/-- A tile plan of a chain replaced. -/
def setTile (c : ChainPlan) (t : TilePlan) : ChainPlan :=
  { c with tiles := c.tiles.map (fun y => if y.na = t.na then t else y) }

/-- The clock of PT of a delivery. -/
def ptClk (s : State) (d : Delivery) : Option Nat := d.pt.map (nearClk (now s))

/-- Whether a packet of `bytes` bytes sent now on a chain reaches a place no later than PT (R107). -/
def inTime (s : State) (d : Delivery) (c bytes : Nat) (pl : BitVec 64) : Bool :=
  match ptClk s d with
  | none => true
  | some p => decide (now s + flightNs s c bytes + latTo s pl ≤ p)

/-- The certificates waiting on a chain leave in one packet. -/
def emitCerts (s : State) (c : Nat) (l : List CertEnt) : State :=
  let now_ := l.take 1024
  let rest := l.drop 1024
  let s1 := { s with flume := { s.flume with
    certs := if rest = [] then del c s.flume.certs else put c rest s.flume.certs } }
  flumeSend s1 c (bcastHdr s1 3 c (lastFrame s1))
    (certBody { issue := nowW s1, epoch := s1.time.epoch, ents := now_ })

/-- The commit of a chain leaves; the first of a delivery fixes PT, and a repeat that can no longer arrive by PT stays
out (R107). `committed` is the instant at which the last bit of the commit sent last leaves. -/
def emitCommit (s : State) (d : Delivery) (c : ChainPlan) : State :=
  if (match c.again with
    | some pl => !inTime s d c.chain (commitBytes c.tiles.length) pl
    | none => false) then setChain s d { c with again := none }
  else
  let (s1, d1) := match d.pt with
    | some _ => (s, d)
    | none =>
      let (t, p) := presentation s d
      (t, { d with pt := some (wt32 p), epoch := t.time.epoch })
  let n := commitBytes c.tiles.length
  let c1 := { c with committed := some (now s1 + flightNs s1 c.chain n), again := none }
  let s2 := if c.again.isSome then bump s1 (flmChRepair + 4 * c.chain) else s1
  flumeSend (setChain s2 d1 c1) c.chain (bcastHdr s2 2 c.chain d1.frame)
    (commitBody { pt := d1.pt.getD 0, epoch := d1.epoch, ents := c.tiles.map (commitEnt s2 d1) })

/-- A tile put into RESYNC for its delivery `frame`, counted once (R108); the third FAILED delivery in a row writes a
record. -/
def resyncTile (s : State) (na frame : BitVec 16) : State :=
  let d := dmgOf s na
  if d.lastFail = some frame then setDmg s { d with resync := true }
  else
    let s1 := setDmg s { d with resync := true, failRun := d.failRun + 1, lastFail := some frame }
    let s2 := match placeOfNa s na with
      | some pl => bump s1 (flmChFail + 4 * plChain pl)
      | none => s1
    if d.failRun + 1 = 3 then recordX s2 xReach [w32 na.toNat] else s2

/-- The blocks of a packet, as canvas blocks. -/
def pktCanvas (d : Delivery) (r : Rect) (p : PktPlan) : List Nat := p.blocks.map (rectBlock d.canvas.wb r)

/-- Whether the emitter's read of a packet's blocks failed, and the state with those reads used up (15 R337). -/
def pktUnread (s : State) (d : Delivery) (r : Rect) (p : PktPlan) : Bool :=
  (pktCanvas d r p).any (fun b => s.flume.unread.contains b)
def readAgain (s : State) (d : Delivery) (r : Rect) (p : PktPlan) : State :=
  { s with flume := { s.flume with unread := s.flume.unread.filter (fun b => !(pktCanvas d r p).contains b) } }

/-- A repair copy leaves, if it can still arrive by PT (R107). A copy whose blocks cannot be read either fails the
tile's delivery (15 R337). -/
def emitRepair (s : State) (d : Delivery) (c : ChainPlan) (t : TilePlan) (i : Nat) : State :=
  let s1 := setChain s d (setTile c { t with repairs := t.repairs.filter (fun k => k != i) })
  match rectOf s t.na, placeOfNa s t.na, t.pkts[i]? with
  | some r, some pl, some p =>
    if pktUnread s1 d r p then
      resyncTile (setChain (readAgain s1 d r p) d
        (setTile c { t with repairs := [], failed := true })) t.na d.frame
    else if (dmgOf s t.na).reachable && inTime s d c.chain (regionBytes p.blocks.length) pl then
      flumeSend (bump s1 (flmChRepair + 4 * c.chain)) c.chain (regionHdr s d pl t.na)
        (regionBody (regionPkt s d r pl t p true))
    else s1
  | _, _, _ => s1

/-- The next region packet of a tile leaves; a tile that cannot be reached is sent nothing (R108), and a packet whose
blocks cannot be read stays out, its PIDX lost (15 R337). -/
def emitRegion (s : State) (d : Delivery) (c : ChainPlan) (t : TilePlan) : State :=
  let s1 := setChain s d (setTile c { t with sent := t.sent + 1 })
  match rectOf s t.na, placeOfNa s t.na, t.pkts[t.sent]? with
  | some r, some pl, some p =>
    if pktUnread s1 d r p then readAgain s1 d r p
    else if (dmgOf s t.na).reachable then
      flumeSend s1 c.chain (regionHdr s d pl t.na) (regionBody (regionPkt s d r pl t p false))
    else s1
  | _, _, _ => s1

/-- The next Flume packet of a chain: certificates, then repairs, then the commit once every region packet has
gone, then region packets (R98). -/
def emitNext (s : State) (c : Nat) : State :=
  match look c s.flume.certs with
  | some (e :: l) => emitCerts s c (e :: l)
  | _ =>
    match s.flume.delivery with
    | none => s
    | some d =>
      match d.chains.find? (fun x => x.chain == c) with
      | none => s
      | some x =>
        match x.tiles.find? (fun t => t.repairs != []) with
        | some t => emitRepair s d x t (t.repairs.headD 0)
        | none =>
          match x.tiles.find? (fun t => decide (t.sent < t.pkts.length)) with
          | some t => emitRegion s d x t
          | none => if x.committed.isNone || x.again.isSome then emitCommit s d x else s

/-- The local time at which the packet in progress on a port ends. -/
def portBusy (s : State) (p : Nat) : Nat := match upPort s p with | some x => x.busy | none => 0

/-- The control packets that go ahead of Flume at a packet boundary of a chain port (06 R120): at most 16 before the
window is full. -/
def ctlFirst : Nat → State → Nat → State
  | 0, s, _ => s
  | n + 1, s, c =>
    match upPort s c with
    | none => s
    | some x =>
      if x.waiting = [] ∨ 16 ≤ x.unacked.length ∨ 100000 ≤ 25 * ctlShare x (lt s) then s
      else
        let t := boundary s c
        ctlFirst n (toLt (portBusy t c) t) c

/-- FLUME_EMIT (R98; 06 R119, R120): time runs on to the packet boundary, control packets that go ahead leave, then
the next Flume packet. With none of them a chain stays idle (R111). -/
def execFlumeEmit (c : Nat) (s : State) : Out1 :=
  act s fun s =>
    if !s.id.sender || !chainOpen s c || !flumeWaits s c then s
    else
      let p := if s.link.guests.contains c then 8 else c
      let s1 := toLt (max (portBusy s p) ((look c s.flume.pace).getD 0)) s
      emitNext (if p = 8 then s1 else ctlFirst 16 s1 c) c

/-! ### Upstream packets at a tile (06 R128) -/

/-- The packet that UP takes next: the tile's own first, then those of DN, then those of BR, each in the order in
which they came. -/
def nextUp (l : List (Nat × LinkPkt)) : Option (Nat × LinkPkt) :=
  match l.find? (fun e => e.1 == 0) with
  | some e => some e
  | none => match l.find? (fun e => e.1 == 1) with
    | some e => some e
    | none => l.head?

/-- The port that carries a tile's upstream traffic: UP, or TW where UP is bridged (06 R136). -/
def upWay (s : State) : Nat := if s.link.guests.contains 0 then 8 else 0

/-- With no packet in progress on UP the next waiting one leaves. -/
def upDrain (s : State) : State :=
  match nextUp s.link.upQueue with
  | none => s
  | some e =>
    if (upPort s (upWay s)).isNone ∨ lt s < portBusy s (upWay s) then s
    else flumeSendOn { s with link := { s.link with upQueue := s.link.upQueue.erase e } } 0 e.2

/-- An upstream packet of rank 0 own, 1 from DN or 2 from BR: it leaves on UP, waits in the 32 KiB queue while UP is
busy, or is dropped where the queue is full. -/
def sendUp (s : State) (rank : Nat) (k : LinkPkt) : State :=
  if (s.link.upQueue.map (fun e => e.2.len)).sum + k.len ≤ 32768 then
    upDrain { s with link := { s.link with upQueue := s.link.upQueue ++ [(rank, k)] } }
  else rxDrop s

/-! ### NACK, report and timeout (R103, R105 to R108; 11 R258) -/

/-- The packets a NACK names. -/
def nackList (ranges : List (Nat × Nat)) : List Nat :=
  ranges.flatMap (fun e => (List.range (min (e.2 + 1) 439 - e.1)).map (fun i => e.1 + i))

/-- A packet dropped for its level (R112): counted at a tile, and the first of a wall-clock second recorded. Mark 100
of the recorder keeps the second. -/
def levelDrop (s : State) (level : Nat) : State :=
  let s1 := if s.id.sender then s else bump s flmRxDrop
  if s1.rcd.marks.contains (100, nowSec s1) then s1
  else recordX { s1 with rcd := { s1.rcd with
    marks := (100, nowSec s1) :: s1.rcd.marks.filter (fun m => m.1 != 100) } } xReach [w32 level]

/-- A packet that fails R118 counted at the port it came by. -/
def countBad (s : State) (port : Nat) (k : LinkPkt) : State :=
  if linkGood k then s else bump s (clnAt clnPortCrcerr port)

/-- An upstream Flume packet of type `t` for chain `c` of a sender (R100, R112; 06 R118): what its header and body do,
where it is sound, of a level this device accepts, and from a tile of the chain. -/
def upstreamIn (c t : Nat) (k : LinkPkt) (f : FlumeHdr → List Byte → State → State) (s : State) : State :=
  if !s.id.sender then s
  else match flumeBody k t with
    | none => s
    | some (h, b) =>
      if h.level < ownLow s ∨ ownHigh s < h.level then levelDrop s h.level
      else if h.route.toNat / 2 ^ 37 ≠ c then s
      else f h b s

/-- What a NACK for packets of a tile does (R107): each named packet is queued at most TRIES times in a delivery, and
not while its repair is queued. -/
def takeNack (c : Nat) (h : FlumeHdr) (b : List Byte) (s : State) : State :=
  match s.flume.delivery, readNack b with
  | some d, some ranges =>
    match d.chains.find? (fun x => x.chain == c), decide (d.frame = h.frame) with
    | some x, true =>
      match x.tiles.find? (fun t => t.na == h.dna) with
      | none => s
      | some t =>
        let tries := getF s flmRepair 23 20
        let want := (nackList ranges).filter (fun i =>
          decide (i < t.sent) && !t.repairs.contains i
            && (match t.pkts[i]? with | some p => decide (p.tries < tries) | none => false))
        let pkts := t.pkts.map (fun p =>
          if want.contains p.pidx then { p with tries := p.tries + 1 } else p)
        setChain s d (setTile x { t with repairs := t.repairs ++ want, pkts := pkts })
    | _, _ => s
  | _, _ => s

/-- NACK_RECEIVED (R107). -/
def execNackReceived (c : Nat) (a : LinkStart) (data : List (BitVec 64)) (e : LinkTerm) (s : State) : Out1 :=
  act s fun s =>
    let k := LinkPkt.of a data e
    countBad (if ownRail s k then upstreamIn c 4 k (takeNack c) s else s) c k

/-- A report as this sender takes it (11 R258): its EDGE under this epoch, or a FAILED report. -/
def reportHere (s : State) (r : Report) : Report :=
  if r.epoch = s.time.epoch then r
  else match s.time.lastStep with
    | some (t, dl) =>
      if r.epoch = s.time.prevEpoch ∧ lt s - t ≤ 8 * 10 ^ 9 then { r with edge := shiftW dl r.edge }
      else { r with kind := 3 }
    | none => { r with kind := 3 }

/-- The instant of the timeout of a tile's RECEIVED report: TMO after the commit's last bit, the latency both ways
and 1 µs (R107). -/
def reportDue (s : State) (pl : BitVec 64) (tc : Nat) : Nat :=
  tc + 2 * latTo s pl + 1000 + 1000 * getF s flmRepair 15 0

/-- The commit of a chain queued once more, within TRIES and PT (R107). -/
def commitAgain (s : State) (d : Delivery) (x : ChainPlan) (pl : BitVec 64) : State :=
  if x.again.isNone && decide (x.repeats < getF s flmRepair 23 20)
      && inTime s d x.chain (commitBytes x.tiles.length) pl then
    setChain s d { x with repeats := x.repeats + 1, again := some pl }
  else s

/-- A RECEIVED report of a tile: the latest EDGE kept, and a RESYNC ended by a FULL delivery; in the tick of its
timeout the report is late and the commit goes again (R105, R107, R108). -/
def takeReceived (s : State) (d : Delivery) (x : ChainPlan) (t : TilePlan) (r : Report) : State :=
  let ek := match s.flume.ek with
    | some e => laterW e r.edge
    | none => r.edge
  let y := setTile x { t with received := true, edge := some r.edge }
  let s1 := setChain s d y
  let s2 := { s1 with flume := { s1.flume with ek := some ek } }
  let s3 := if t.full then setDmg s2 { dmgOf s2 t.na with resync := false } else s2
  match placeOfNa s t.na, x.committed with
  | some pl, some tc =>
    if 4 * cdiv (reportDue s pl tc) 4 = now s then
      commitAgain s3 { d with chains := d.chains.map (fun z => if z.chain = y.chain then y else z) } y pl
    else s3
  | _, _ => s3

/-- What a report does (R105, R106, R108). -/
def takeReport (c : Nat) (h : FlumeHdr) (b : List Byte) (s : State) : State :=
  match readReport h.frame b with
  | none => s
  | some r0 =>
    let r := reportHere s r0
    let known := s.canvas.rects.any (fun x => x.na == h.dna)
    match s.flume.delivery with
    | none => if known && r.kind == 3 then resyncTile s h.dna r.frame else s
    | some d =>
      match d.chains.find? (fun x => x.chain == c) with
      | none => if known && r.kind == 3 then resyncTile s h.dna r.frame else s
      | some x =>
        match x.tiles.find? (fun t => t.na == h.dna) with
        | none => if known && r.kind == 3 then resyncTile s h.dna r.frame else s
        | some t =>
          if r.frame ≠ d.frame then (if r.kind = 3 then resyncTile s h.dna r.frame else s)
          else if r.kind = 3 then
            resyncTile (setChain s d (setTile x { t with failed := true })) h.dna r.frame
          else if r.kind = 1 ∧ !t.received ∧ !t.failed then takeReceived s d x t r
          else s

/-- REPORT_RECEIVED (R105, R106, R108). -/
def execReportReceived (c : Nat) (a : LinkStart) (r : LinkRest) (s : State) : Out1 :=
  act s fun s =>
    let k : LinkPkt := ⟨a, r⟩
    countBad (if ownRail s k then upstreamIn c 5 k (takeReport c) s else s) c k

/-- REPAIR_TIMEOUT (R107): TMO after the instant at which RECEIVED is expected, the commit goes again,
within TRIES and PT. -/
def execRepairTimeout (c : Nat) (na : BitVec 16) (s : State) : Out1 :=
  act s fun s =>
    match s.flume.delivery with
    | none => s
    | some d =>
      match d.chains.find? (fun x => x.chain == c), placeOfNa s na with
      | some x, some pl =>
        match x.tiles.find? (fun t => t.na == na), x.committed with
        | some t, some tc =>
          if t.received || x.again.isSome then s
          else commitAgain (toClk (reportDue s pl tc) s) d x pl
        | _, _ => s
      | _, _ => s

/-! ### The edge of a delivery (R105, R108; 10 R225, R237) -/

/-- Ek of a delivery whose commits have left: the first frame edge at or after PT, or a later EDGE
named in a RECEIVED report. A chain that nothing can be sent on holds up no delivery; one that has no other chain
ends at once (log 99). -/
def deliveryEdge (s : State) (d : Delivery) : Option Nat :=
  if d.chains.any (fun c => c.committed.isNone && chainOpen s c.chain) then none
  else match ptClk s d with
    | none => some (now s)
    | some p =>
      let first := instantAt (rate s) p
      match s.flume.ek with
      | some e => some (max first (nearClk (now s) e))
      | none => some first

/-- The expected MAPSIG of a proof record for a rectangle of `n` blocks (10 R237). -/
def expectedSig (x : ProofRec) (n : Nat) : Word :=
  crcWords ((List.range n).map (fun i => (look i x.bsigs).getD 0))

/-- The proof record of a tile. -/
def proofOf (s : State) (na : BitVec 16) : ProofRec :=
  (s.flume.proofs.find? (fun x => x.na == na)).getD
    { na := na, bsigs := [], frames := [], last := none, verdict := 2, at_ := 0 }

/-- The proof record of a tile put in place. -/
def setProof (s : State) (x : ProofRec) : State :=
  { s with flume := { s.flume with
    proofs := x :: s.flume.proofs.filter (fun y => y.na != x.na) } }

/-- Whether a tile is of level 1: it has no proofs (R112; 10 R237). -/
def levelOne (s : State) (na : BitVec 16) : Bool :=
  match placeOfNa s na with
  | some pl => (match look pl s.flume.levels with | some (hi, _) => decide (hi < 2) | none => false)
  | none => false

/-- A tile that reported RECEIVED at the edge of its delivery: the proof record and the changes its
rectangle still waits for. -/
def tileApplied (s : State) (d : Delivery) (t : TilePlan) : State :=
  match rectOf s t.na with
  | none => s
  | some r =>
    let old := proofOf s t.na
    let sigs := (planBlocks t).map (fun i => (i, d.canvas.bsigs.getD (rectBlock d.canvas.wb r i) 0))
    let base := if t.full then [] else old.bsigs
    let x := { old with bsigs := sigs.foldl (fun m (e : Nat × Word) => put e.1 e.2 m) base }
    let y := { x with frames := ((d.frame, expectedSig x (r.wtb * r.htb)) :: old.frames).take 2 }
    let g := dmgOf s t.na
    setDmg (setProof s y) { g with
      failRun := 0
      since := g.since.filter (fun e => !((planBlocks t).contains e.1 && decide (e.2 ≤ d.ready))) }

/-- The blocks that a delivery changed: of each its edge, which is now, and its FRAME (10 R225). -/
def markCarried (s : State) (d : Delivery) : State :=
  (d.chains.flatMap (·.tiles)).foldl (fun t x =>
    let g := dmgOf t x.na
    let l := planBlocks x
    let rest := g.carried.filter (fun e => !l.contains e.1)
    setDmg t { g with carried := l.map (fun i => (i, lt s, d.frame)) ++ rest }) s

/-- DELIVERY_EDGE_REACHED (R105, R108; 10 R237): time runs on to Ek. -/
def execDeliveryEdgeReached (s : State) : Out1 :=
  act s fun s =>
    match s.flume.delivery with
    | none => s
    | some d =>
      match deliveryEdge s d with
      | none => s
      | some e =>
        let s1 := toClk e s
        let tiles := d.chains.flatMap (·.tiles)
        let s2 := tiles.foldl (fun t x =>
          if x.received && !x.failed then tileApplied t d x
          else resyncTile t x.na d.frame) s1
        let s3 := markCarried s2 d
        let s4 := { s3 with flume := { s3.flume with delivery := none, ek := none } }
        if s4.flume.yieldOn && s4.dram.state == 2 && s4.flume.dmg.all (fun t => !t.resync) then
          railYield s4 false
        else s4

/-! ### RESYNC_REQ, latencies, reachability (07 R162; 06 R137; R108) -/

/-- RESYNC and PENDING over the whole rectangle of a tile (07 R162). -/
def resyncAll (s : State) (na : BitVec 16) : State :=
  match rectOf s na with
  | none => s
  | some r =>
    let d := dmgOf s na
    setDmg s { d with resync := true, pending := List.range (r.wtb * r.htb) }

/-- RESYNC_REQ_RECEIVED (07 R162). -/
def execResyncReqReceived (na : BitVec 16) (_reason : Nat) (s : State) : Out1 :=
  act s fun s => if s.id.sender then resyncAll s na else s

/-- The rectangles of the tiles at a place and below it. -/
def rectsBelow (s : State) (top : BitVec 64) : List Rect :=
  s.canvas.rects.filter (fun r => match placeOfNa s r.na with
    | some pl => atOrBelow top pl
    | none => false)

/-- The UP link of a place is down (06 R119). -/
def linkLost (s : State) (pl : BitVec 64) : State :=
  { s with flume := { s.flume with lost := pl :: s.flume.lost.filter (fun l => l != pl) } }

/-- The tiles at a place and below it cannot be reached (R108). -/
def lostBelow (s : State) (top : BitVec 64) : State :=
  (rectsBelow s top).foldl (fun t r =>
    setDmg t { dmgOf t r.na with reachable := false, resync := true }) (linkLost s top)

/-- Whether crossings bridge the break above a place of this rail (06 R137). -/
def bridged (s : State) (pl : BitVec 64) : Bool :=
  s.flume.changes.any (fun e => e.rail == s.id.side && e.below == pl)

/-- Whether a break that nothing bridges cuts a place off. -/
def cutAt (s : State) (pl : BitVec 64) : Bool :=
  s.flume.lost.any (fun l => atOrBelow l pl && !bridged s l)

/-- A crossing becomes known (06 R137): its part in the change of latencies, the halved rate of the chain and, on this
rail, the link that is down. -/
def crossKnown (s : State) (e : LatChange) : State :=
  let s1 := { s with
    flume := { s.flume with changes := s.flume.changes ++ [e] }
    link := { s.link with crossChains :=
      (e.chain, e.rail) :: s.link.crossChains.filter (fun x => x != (e.chain, e.rail)) } }
  if e.rail = s.id.side then linkLost s1 e.below else s1

/-- The levels of a place learned (R112): a tile with no level in common is recorded when that is learned. -/
def learnLevels (s : State) (pl : BitVec 64) (hi lo : Nat) : State :=
  let s0 := { s with flume := { s.flume with levels := put pl (hi, lo) s.flume.levels } }
  let s1 := (s0.flume.proofs.filter (fun x => levelOne s0 x.na)).foldl (fun t x =>
    setProof t { x with verdict := 2 }) s0
  if (levelTo s1 pl).isNone ∧ look pl s.flume.levels ≠ some (hi, lo) then
    recordX s1 xReach (wordsOfNat 2 pl.toNat)
  else s1

/-- A tile's report after a training of its UP (06 R127): its latencies and levels are adopted, while crossings still
bridge its link for when they end (06 R138); it takes its whole region set (10 R223), and with the tiles below it that
were cut off it is reachable again, to take a FULL delivery (R108). -/
def hopReport (s : State) (pl : BitVec 64) (lat fwd hi lo : Nat) : State :=
  let new := (look pl s.flume.hops).isNone
  let s0 := if bridged s pl then
      { s with flume := { s.flume with later := put pl (lat, fwd) s.flume.later } }
    else { s with flume := { s.flume with
      hops := put pl (lat, fwd) s.flume.hops, lost := s.flume.lost.filter (fun l => l != pl) } }
  let s1 := learnLevels s0 pl hi lo
  let near (r : Rect) : Bool := match placeOfNa s1 r.na with | some x => !cutAt s1 x | none => false
  ((rectsBelow s1 pl).filter near).foldl (fun t r =>
    let here := placeOfNa t r.na == some pl
    let d := dmgOf t r.na
    let t1 := if !d.reachable || (here && new) then
        setDmg t { d with reachable := true, resync := true } else t
    if here || !d.reachable then sendRegions t1 r else t1) s1

/-- LATENCY_REPORT_RECEIVED (06 R127, R135, R137): what a tile reports after a training, the part of a crossing
device in the change of latency beyond the break, which also halves the rate of the chain, or a break that cannot
be bridged. -/
def execLatencyReportReceived (c : Nat) (pl : BitVec 64) (m : LatReport) (s : State) : Out1 :=
  act s fun s =>
    if !s.id.sender then s
    else match m with
      | .hop lat fwd hi lo => hopReport s pl lat fwd hi lo
      | .crossed rail change dn br =>
        crossKnown s { chain := c, rail := rail, below := pl, change := change, dn := dn, br := br }
      | .lost => lostBelow s pl

/-! ### Vouching (10 R224, R225) -/

/-- K_g (10 R224). -/
def certPeriod (w : List Word) : Nat := max 1 (min 20 (rgLimit w / 25))

/-- Whether a region is due at the certificate instant `t`. -/
def certDue (w : List Word) (t : Nat) : Bool :=
  t / 5000000 % certPeriod w == rgNum w % certPeriod w

/-- Whether a layer's destination intersects a region. -/
def layerMeets (l w : List Word) : Bool :=
  decide (lyDx l < 16 * (rgXb w + rgWb w)) && decide (16 * rgXb w < lyDx l + lyDw l)
    && decide (lyDy l < 16 * (rgYb w + rgHb w)) && decide (16 * rgYb w < lyDy l + lyDh l)

/-- Whether block `i` of a rectangle lies in a region. -/
def blockIn (w : List Word) (r : Rect) (i : Nat) : Bool :=
  let x := r.xb + i % max 1 r.wtb
  let y := r.yb + i / max 1 r.wtb
  decide (rgXb w ≤ x) && decide (x < rgXb w + rgWb w) && decide (rgYb w ≤ y) && decide (y < rgYb w + rgHb w)

/-- The rectangles of the tiles of a chain. -/
def chainRects (s : State) (c : Nat) : List Rect :=
  s.canvas.rects.filter (fun r => match placeOfNa s r.na with
    | some pl => plChain pl == c
    | none => false)

/-- The failed conditions of a region on a chain at instant `c` (10 R225). -/
def vouchFails (s : State) (g : Region) (n c : Nat) : Nat :=
  let w := g.words
  let T := period (rate s)
  let rects := chainRects s n
  let bad0 := match s.canvas.prev with
    | some f => !(decide (f.done < c) && decide (c - f.done < 3 * T))
    | none => true
  let bad1 := s.canvas.layers.any (fun y =>
    lyVideo y.words && lyAlpha y.words != 0 && layerMeets y.words w
      && (y.src == 3 || (match y.pick with
        | some p => decide (p.readyAt + 10 ^ 6 * rgSrcmax w ≤ c)
        | none => false)))
  let bad2 := !rgIncok w && rects.any (fun r => (dmgOf s r.na).incs.any (blockIn w r))
  let bad3 := s.flume.watches.any (fun x => x.st == 2 && g.num != 0xFFF && fld (x.words.getD 3 0) 11 0 == g.num)
  let bad4 := rects.any (fun r => (dmgOf s r.na).since.any (fun e =>
    blockIn w r e.1 && decide (e.2 + 10 ^ 6 * getF s weirCfg 15 0 ≤ c)))
  (if bad0 then 1 else 0) + (if bad1 then 2 else 0) + (if bad2 then 4 else 0) + (if bad3 then 8 else 0)
    + (if bad4 then 16 else 0)

/-- A region replaced in the table. -/
def setRegion (s : State) (g : Region) : State :=
  { s with flume := { s.flume with
    regions := s.flume.regions.map (fun x => if x.num = g.num then g else x) } }

/-- LASTF (10 R225): the FRAME of the latest delivery that changed a block of the region on the chain; 0 before the
first one. -/
def lastfOf (s : State) (w : List Word) (n c : Nat) : BitVec 16 :=
  let rects := chainRects s n
  let all := rects.flatMap (fun r => (dmgOf s r.na).carried.filter (fun e => blockIn w r e.1))
  let last := (all.foldl (fun m e => if m.1 ≤ e.2.1 then e.2 else m) (0, 0)).2
  match s.flume.delivery with
  | some d =>
    let reached := match deliveryEdge s d with | some e => decide (e ≤ c) | none => false
    let hit := (d.chains.flatMap (·.tiles)).any (fun x =>
      rects.any (fun r => r.na == x.na && (planBlocks x).any (fun b => blockIn w r b)))
    if reached && hit then d.frame else last
  | none => last

/-- A due region vouched for or withheld on a chain (10 R225, R239). -/
def vouch (s : State) (c : Nat) (num n : Nat) : State :=
  match regionOf s num with
  | none => s
  | some g =>
    if !(chainRects s n).any (fun r => (regionPart g.words r).isSome) then s
    else
      let f := vouchFails s g n c
      let was := g.vouched.contains n
      let g1 := { g with
        fails := put n f g.fails
        vouched := if f = 0 then n :: g.vouched.filter (fun k => k != n)
          else g.vouched.filter (fun k => k != n) }
      let s1 := setRegion s g1
      if f = 0 then
        let e : CertEnt := { region := num, lastf := lastfOf s g.words n c }
        bump { s1 with flume := { s1.flume with
          certs := put n ((look n s1.flume.certs).getD [] ++ [e]) s1.flume.certs } } weirSent
      else
        let s2 := bump s1 weirWithheld
        if was then record s2 0x0403 [w32 num, w32 n, w32 f] else s2

/-- CERT_INSTANT (10 R224, R225): time runs on to the next instant of the 5 ms grid. -/
def execCertInstant (s : State) : Out1 :=
  act s fun s =>
    if !s.id.sender then s
    else
      let t := (now s / 5000000 + 1) * 5000000
      let due := (s.flume.regions.filter (fun g => certDue g.words t)).map (·.num)
      due.foldl (fun u g => (List.range 8).foldl (fun v n =>
        if chainOpen v n then vouch v t g n else v) u) (toClk t s)

/-! ### Proofs (10 R237, R238) -/

/-- The verdict of a PROOF against a record (10 R237). -/
def proofVerdict (x : ProofRec) (m : ProofMsg) : Nat :=
  if m.faults then 4
  else match x.frames.find? (fun e => e.1 == m.frame) with
    | some e => if e.2 = m.mapsig then 1 else 3
    | none => 2

/-- PROOF_RECEIVED (10 R237, R239). -/
def execProofReceived (m : ProofMsg) (s : State) : Out1 :=
  act s fun s =>
    if !s.id.sender || (placeOfNa s m.na).isNone then s
    else
      let x := proofOf s m.na
      let v := if levelOne s m.na then 2 else proofVerdict x m
      let s1 := setProof s { x with last := some m, verdict := v, at_ := lt s }
      let na := w32 m.na.toNat
      let fr := w32 m.frame.toNat
      if v = 4 then record (bump s1 proofFault) 0x0421 [na, fr]
      else if v = 3 then
        let want := (look m.frame x.frames).getD 0
        resyncAll (recEvent (bump s1 proofMismatch) .wall 0x0420 [na, fr, m.mapsig, want]) m.na
      else s1

/-- PROOF_SILENCE_TIMEOUT (10 R237): 2 s after the last PROOF of a tile. -/
def execProofSilenceTimeout (na : BitVec 16) (s : State) : Out1 :=
  act s fun s =>
    match s.flume.proofs.find? (fun x => x.na == na) with
    | none => s
    | some x =>
      if x.last.isNone then s
      else setProof (toLt (x.at_ + 2 * 10 ^ 9) s) { x with verdict := 2 }

end Sys2Proof.Machine
end

