-- ==== Sys2Proof/Machine/Weir.lean ====
section
/-! DEFINITION. Weir at a tile (10 R223, R226 to R230): the regions it holds, certificates, deadlines,
the stale mark, and REGION_READ of both roles (R238). -/

namespace Sys2Proof.Machine

/-! ### Regions held -/

/-- The region of a number that the tile holds. -/
def heldRegion (s : State) (n : Nat) : Option TRegion := s.weir.regions.find? (fun r => r.set.region == n)

/-- A held region replaced in place. -/
def setHeld (s : State) (r : TRegion) : State :=
  { s with weir := { s.weir with
    regions := s.weir.regions.map (fun x => if x.set.region = r.set.region then r else x) } }

/-- Whether a region covers a block of the tile. -/
def setCovers (m : RegionSet) (bx by_ : Nat) : Bool :=
  decide (m.xb ≤ bx) && decide (bx < m.xb + m.wb) && decide (m.yb ≤ by_) && decide (by_ < m.yb + m.hb)

/-- The map the pipeline reads, of the image store or of the quarter store (07 R164). -/
def frontMap (s : State) : List MapEnt := if s.img.qInUse then s.img.qfMap else s.img.front

/-- The blocks of a region, by block number. -/
def regionBlocks (s : State) (m : RegionSet) : List Nat :=
  blocksOfRect s (16 * m.xb) (16 * m.yb) (16 * m.wb) (16 * m.hb)

/-- Whether a block of a region has an image fault (07 R161). -/
def regionFault (s : State) (m : RegionSet) : Bool :=
  (regionBlocks s m).any (fun b => match (frontMap s)[b]? with | some e => e.fault | none => false)

/-- The age of a region in ms (R230). -/
def regionAge (s : State) (r : TRegion) : Nat :=
  match r.issue with
  | some t => sat32 ((now s - t) / 10 ^ 6)
  | none => 0xFFFFFFFF

/-- WEIR.T_STS. -/
def weirStsWord (s : State) : Word :=
  mkFld 31 16 (s.weir.regions.filter (·.stale)).length ||| mkFld 8 0 s.weir.regions.length

/-! ### REGION_SET (R223) -/

/-- REGION_SET_RECEIVED: it waits for the first edge whose decision instant follows its receipt. -/
def execRegionSetReceived (r : RegionSet) (s : State) : Out1 :=
  act s fun s =>
    if s.id.sender then s
    else { s with weir := { s.weir with sets := s.weir.sets ++ [(r, now s)] } }

/-- A REGION_SET applied at edge `e`. -/
def applyRegionSet (s : State) (e : Nat) (m : RegionSet) : State :=
  match heldRegion s m.region with
  | some r =>
    if m.en then
      setHeld s { r with
        set := m, deadline := match r.issue with | some t => some (t + m.limit * 10 ^ 6) | none => r.deadline }
    else
      let s1 := { s with
        weir := { s.weir with regions := s.weir.regions.filter (fun x => x.set.region ≠ m.region) }
        lamp := { s.lamp with policies := s.lamp.policies.filter (fun p => p.region ≠ m.region) } }
      if s.lamp.policies.any (fun p => p.region == m.region) then keepSettings s1 else s1
  | none =>
    if m.en && decide (s.weir.regions.length < 256) then
      let r : TRegion :=
        { set := m, stale := true, deadline := none, issue := none, staleAt := some (now s)
          es := some e, honoured := none, marked := true }
      { s with weir := { s.weir with regions := s.weir.regions ++ [r] } }
    else s

/-- The REGION_SETs whose receipt precedes the decision instant of edge `e` applied at it. -/
def applyRegionSets (s : State) (e : Nat) : State :=
  let due := s.weir.sets.filter (fun x => decide (x.2 < decision s e))
  let rest := s.weir.sets.filter (fun x => !decide (x.2 < decision s e))
  due.foldl (fun t x => applyRegionSet t e x.1) { s with weir := { s.weir with sets := rest } }

/-! ### Certificates (R226; 05 R109) -/

/-- Whether the applied FRAME is at or after LASTF (05 R109). -/
def frameReached (s : State) (lastf : BitVec 16) : Bool :=
  match s.img.applied with
  | some f => decide (0 ≤ (f - lastf).toInt)
  | none => false

/-- Whether an entry for a held region is honoured. -/
def honours (s : State) (c : CertPkt) (e : CertEnt) (r : TRegion) : Bool :=
  !s.weir.frozen && frameReached s e.lastf && !s.img.inFailed && c.epoch == s.time.epoch
    && decide (4 * sdiff c.issue (nowW s) ≤ 10000) && !regionFault s r.set

/-- A FRESH region whose deadline is reached becomes STALE in this tick; the edge from which it is
marked is to come (R228). -/
def regionStale (s : State) (n : Nat) : State :=
  match heldRegion s n with
  | none => s
  | some r =>
    if r.stale then s
    else propose (setHeld s { r with
        stale := true, es := none
        staleAt := some (match r.deadline with | some d => min d (now s) | none => now s) })
      (idOfItem 3 n 1) (.region n true) none

/-- A FRESH region whose deadline lies in this tick or before it is STALE before a certificate of the tick is looked
at: the certificate is late (R228 item 1). -/
def staleByNow (s : State) (n : Nat) : State :=
  match heldRegion s n with
  | some r => match r.deadline with
    | some d => if d ≤ now s then regionStale s n else s
    | none => s
  | none => s

/-- Whether a return of region `n` to FRESH is already scheduled. -/
def freshPending (s : State) (n : Nat) : Bool :=
  s.changes.any (fun c => match c.what with | .region r st => r == n && !st | _ => false)

/-- One entry of a certificate. -/
def certEntry (c : CertPkt) (s0 : State) (e : CertEnt) : State :=
  let s := staleByNow s0 e.region
  match heldRegion s e.region with
  | none => s
  | some r =>
    if honours s c e r then
      let t := nearClk (now s) c.issue
      let d := t + r.set.limit * 10 ^ 6
      let s1 := bump (setHeld s { r with
        deadline := some (match r.deadline with | some x => max x d | none => d)
        issue := some t, honoured := some (now s) }) weirHonoured
      let later := match r.staleAt with | some x => decide (x < now s) | none => true
      if r.stale && later && !freshPending s e.region then
        propose s1 (idOfItem 3 e.region 2) (.region e.region false) none
      else s1
    else
      let s1 := bump s weirRefused
      if c.epoch ≠ s.time.epoch ∧ s.weir.epochMark ≠ some (nowSec s) then
        record { s1 with weir := { s1.weir with epochMark := some (nowSec s) } } 0x0430
          [w32 e.region, c.epoch.zeroExtend 32, s.time.epoch.zeroExtend 32]
      else s1

/-- The header and body of a Flume packet of type `t` that a tile accepts (05 R100 steps 2 to 4, R112): of this rail,
sound, of a level it accepts, and for its chain or, where it is not broadcast, for its place and node address. What
is dropped has been counted when the packet was routed (FLUME_PACKET_FORWARD). -/
def tileIn (s : State) (t : Nat) (k : LinkPkt) : Option (FlumeHdr × List Byte) :=
  if s.id.sender || inRecovery s || !ownRail s k then none
  else match flumeBody k t with
    | none => none
    | some (h, b) =>
      let mine := if t = 1 then !h.bcast && h.route == routeOf s.id.place && some h.dna == s.id.na
        else h.bcast && h.route.toNat / 2 ^ 37 == plChain s.id.place
      if mine && decide (ownLow s ≤ h.level) && decide (h.level ≤ ownHigh s) then some (h, b) else none

/-- CERTIFICATE_RECEIVED (R226). -/
def execCertificateReceived (a : LinkStart) (r : LinkRest) (s : State) : Out1 :=
  act s fun s =>
    match tileIn s 3 ⟨a, r⟩ with
    | none => s
    | some (_, b) => match readCert b with
      | some c => c.ents.foldl (certEntry c) s
      | none => s

/-! ### Deadlines (R227, R228) -/

/-- REGION_DEADLINE (R228). -/
def execRegionDeadline (n : Nat) (s : State) : Out1 :=
  act s fun s =>
    match heldRegion s n with
    | none => s
    | some r =>
      match r.deadline with
      | some d => if r.stale then s else regionStale (toClk d s) n
      | none => s

/-- The event of a change of a region (R230). -/
def regionEvent (s : State) (r : TRegion) (st : Nat) : State :=
  event s .both (0x0400 + st)
    [mkFld 31 20 r.set.region ||| mkFld 19 18 st, nowW s, w32 (regionAge s r)]

/-- A STALE region marked from edge `e` on: counted, recorded, reported (R230, R239). -/
def markRegion (s : State) (e : Nat) (r : TRegion) : State :=
  let s1 := bump (setHeld s { r with marked := true, es := some e }) weirEntries
  let s2 := record s1 0x0401 [w32 r.set.region, w32 (regionAge s r)
    , match r.deadline with | some d => wt32 d | none => 0, weirStsWord s1]
  regionEvent s2 r 1

/-- A region FRESH from edge `e` on. -/
def freshRegion (s : State) (r : TRegion) : State :=
  let s1 := bump (setHeld s { r with stale := false, marked := false }) weirEntries
  regionEvent (record s1 0x0402 [w32 r.set.region, w32 (regionAge s r), nowW s]) r 2

/-- What a scheduled change of a region does at edge `e`; the flag tells that it must wait for a later
edge (R228). -/
def applyRegion (s : State) (e n : Nat) (stale : Bool) : State × Bool :=
  match heldRegion s n with
  | none => (s, false)
  | some r =>
    if stale then (if r.stale && !r.marked then markRegion s e r else s, false)
    else if !r.stale then (s, false)
    else
      let after := match r.es with | some x => decide (x < e) | none => !r.marked
      let ahead := match r.deadline with | some d => decide (e < d) | none => false
      if !ahead then (s, false) else if after then (freshRegion s r, false) else (s, true)

/-- Regions held STALE by a rejoin, marked at the edge it named (11 R252). -/
def markWaiting (s : State) (e : Nat) : State :=
  (s.weir.regions.filter (fun r => r.stale && !r.marked
    && (match r.es with | some x => decide (x ≤ e) | none => false))).foldl
    (fun t r => markRegion t e r) s

/-! ### The mark map (R229) -/

/-- Whether a strict policy acts on a block: mark or withdraw at least `pol` (09 R213). -/
def policyOn (s : State) (pol bx by_ : Nat) : Bool :=
  s.lamp.policies.any (fun p => p.inFault && decide (pol ≤ p.pol)
    && (match heldRegion s p.region with | some r => setCovers r.set bx by_ | none => false))

/-- The mark code of a block: 0 none, 1 AGE, 2 LAMP. -/
def blockMark (s : State) (bx by_ : Nat) : Nat :=
  if s.weir.regions.any (fun r => r.marked && setCovers r.set bx by_) then 1
  else if policyOn s 2 bx by_ then 2 else 0

/-- Whether items 1 to 3 of 08 R166 are withdrawn over a block. -/
def blockWithdrawn (s : State) (bx by_ : Nat) : Bool :=
  policyOn s 3 bx by_
    || s.weir.regions.any (fun r => r.marked && r.set.stalewd && setCovers r.set bx by_)

/-- The palette entry of a mark. -/
def markPal (s : State) (mark : Nat) : Nat := if mark = 1 then getF s weirMark 7 4 else getF s weirMark 3 0

/-- The stale mark over a pixel. -/
def drawMark (s : State) (mark x y : Nat) (acc : Rgb) : Rgb :=
  if mark = 0 ∨ 4 ≤ (x + y) % 16 then acc else palRgb s (markPal s mark)

/-- The blocks whose mark, or whose withdrawal, differs between two states. -/
def marksChanged (a b : State) : List Nat :=
  let wt := getF b tilGeom 14 8
  let col (t : State) (m : Nat) : List Word :=
    [rd t (bdgPalRg + 2 * markPal t m), rd t (bdgPalB + 2 * markPal t m)]
  let recol (m : Nat) : Bool := m != 0 && col a m != col b m
  (List.range (wt * getF b tilGeom 5 0)).filter fun k =>
    let x := k % max 1 wt
    let y := k / max 1 wt
    blockMark a x y != blockMark b x y || blockWithdrawn a x y != blockWithdrawn b x y
      || recol (blockMark b x y)

/-- Regions withdrawn, under 09 R213 or under STALEWD. -/
def withdrawnCount (s : State) : Nat :=
  (s.weir.regions.filter (fun r => (r.marked && r.set.stalewd)
    || s.lamp.policies.any (fun p => p.region == r.set.region && p.inFault && p.pol == 3))).length

/-! ### REGION_READ (R238) -/

/-- The reply of a tile. -/
def regionWords (s : State) (n : Nat) : List Word :=
  match heldRegion s n with
  | none => [0, 0, 0, 0, 0, 0xFFFFFFFF]
  | some r =>
    let fault := s.lamp.policies.any (fun p => p.region == n && p.inFault && decide (2 ≤ p.pol))
    let mark := if r.marked then 1 else if fault then 2 else 0
    wordsOfBytes (regionSetBytes r.set)
      ++ [mkFld 31 30 (if r.stale then 1 else 2) ||| mkFld 29 28 mark, w32 (regionAge s r)]

/-- REGION_READ. -/
def regionReadRule : Handler := withLen 1 fun _ p s =>
  let n := fld (pw p 0) 11 0
  if s.id.sender then
    match regionOf s n with
    | none => .no s stNotInState
    | some g => .ok s (g.words ++ (List.range 8).map (fun c => w32 ((look c g.fails).getD 0)))
  else .ok s (regionWords s n)

def execRegionRead (p : Smb) (s : State) : Out1 := smibenRow 0x0402 regionReadRule p s

end Sys2Proof.Machine
end

