-- ==== Sys2Proof/Machine/Image.lean ====
section
/-! DEFINITION. The image store of a tile: deliveries as they land (05 R102 to R106), the block maps
(07 R141 to R150, R164), the arithmetic of a pixel (07 R155 to R160), MATRIX_WRITE, and the reload of
a matrix row (07 R163). -/

namespace Sys2Proof.Machine

/-! ### Maps and slots (07 R141 to R144) -/

/-- WT, HT and the number of blocks of the picture. -/
def tileWt (s : State) : Nat := getF s tilGeom 14 8
def tileHt (s : State) : Nat := getF s tilGeom 5 0
def tileNb (s : State) : Nat := tileWt s * tileHt s

/-- An entry that holds nothing. -/
def entNone : MapEnt := { bsig := 0, valid := false, inc := false, fault := false, dirty := false, slot := 0 }

/-- The map a delivery lands in. -/
def backMap (s : State) (q : Bool) : List MapEnt := if q then s.img.qbMap else s.img.back

/-- The back map replaced. -/
def setBack (s : State) (q : Bool) (m : List MapEnt) : State :=
  if q then { s with img := { s.img with qbMap := m } } else { s with img := { s.img with back := m } }

/-- The front map replaced. -/
def setFront (s : State) (m : List MapEnt) : State :=
  if s.img.qInUse then { s with img := { s.img with qfMap := m } }
  else { s with img := { s.img with front := m } }

/-- Slots put on the free list, and what they held dropped. -/
def freeSlots (s : State) (l : List Nat) : State :=
  { s with img := { s.img with
    free := s.img.free ++ l
    slots := s.img.slots.filter (fun e => !l.contains e.1) } }

/-- The slots of DIRTY entries freed: a delivery fails or is ended (R144). -/
def discardOpen (s : State) (o : OpenDeliv) : State :=
  let s1 := if o.quarter then s
    else freeSlots s ((s.img.back.filter (fun e => e.dirty)).map (·.slot))
  { s1 with img := { s1.img with open_ := none } }

/-- Every slot of the pool. -/
def poolSlots (s : State) : Nat := 2 * tileNb s + 64

/-- The image store laid out anew for the picture of TIL.GEOM (R141, R164): both maps invalid, an open
delivery discarded with no report. -/
def layImage (s : State) : State :=
  let n := tileNb s
  let blank := List.replicate n entNone
  { s with img := { s.img with
    total := if s.img.ready then poolSlots s else 0
    free := if s.img.ready then List.range (poolSlots s) else []
    slots := [], front := blank, back := blank, qFront := [], qBack := [], qfMap := blank
    qbMap := blank, open_ := none, cursor := 0 } }

/-- RESYNC_REQ (R162): at most one until a FULL delivery has been reported RECEIVED. -/
def askResync (s : State) (reason : Nat) : State :=
  if s.img.resyncSent then s
  else sendResync { s with img := { s.img with resyncSent := true } } reason

/-- DRAM is trained: with a picture the pool is laid out and the image store becomes ready (R141, R164). -/
def storeReady (s : State) : State :=
  if tileNb s = 0 then s
  else
    let s1 := { s with img := { s.img with ready := true } }
    askResync { s1 with img := { s1.img with
      total := poolSlots s1, free := List.range (poolSlots s1), slots := []
      front := List.replicate (tileNb s1) entNone, back := List.replicate (tileNb s1) entNone } } 2

/-- A picture of another size (R141): the store is laid out anew, in DRAM once DRAM is trained, and the tile asks for
its whole rectangle. -/
def newPicture (s : State) : State :=
  let ready := s.dram.state == 2 && tileNb s != 0
  let s1 := layImage { s with img := { s.img with ready := ready } }
  if ready then askResync s1 2 else s1

/-! ### Reports and NACKs (05 R103, R106) -/

/-- TSIG over the BSIGs landed, in PIDX and descriptor order (05 R104). -/
def landedSig (o : OpenDeliv) : Word :=
  crcWords ((o.landed.foldr (fun e acc => insertKey e.1 e.2 acc) []).flatMap (·.2))

/-- Whether every packet the commit names has landed. -/
def allLanded (o : OpenDeliv) : Bool :=
  match o.commit with
  | some (_, n, _, _) => (List.range n).all (fun i => o.landed.any (fun e => e.1 == i))
  | none => false

/-- The header of a tile's own packet of type `typ` (05 R99).
LEVEL is that of the delivery the packet is about (log 114, DESIGN CHOICE). -/
def tileHdr (s : State) (typ level : Nat) (frame : BitVec 16) : FlumeHdr :=
  { typ := typ, level := level, side := s.id.side, bcast := false, frame := frame, dna := naOr0 s
    route := placeRoute s, length := 0 }

/-- A report packet. -/
def reportPkt (s : State) (level : Nat) (r : Report) : LinkPkt :=
  flumePkt s.id.side (tileHdr s 5 level r.frame) (reportBody r)

/-- A report sent, kept for a duplicate of its commit (05 R104, R106). -/
def sendReport (s : State) (o : OpenDeliv) (kind : Nat) (late : Bool) (edge : Nat) : State :=
  let r : Report :=
    { kind := kind, late := late, npkt := o.landed.length
      tsig := if allLanded o && decide (2 ≤ o.level) then landedSig o else 0
      edge := wt32 edge, epoch := s.time.epoch, frame := o.frame }
  let s1 := { s with img := { s.img with lastReport := put o.frame (o.level, r) s.img.lastReport } }
  sendUp s1 0 (reportPkt s o.level r)

/-- A delivery fails: reported once, with the WT32 of edge or tick `at_` (05 R106). -/
def failOpen (s : State) (o : OpenDeliv) (at_ : Nat) : State :=
  let s1 := discardOpen s o
  let s2 := { s1 with img := { s1.img with
    failedFrame := some o.frame, inFailed := true, ended := o.frame :: s1.img.ended } }
  bump (sendReport s2 o 3 false at_) flmRxFail

/-- The open delivery ends with a newer one: FAILED if nothing has been reported (05 R102). -/
def endOpen (s : State) (o : OpenDeliv) : State :=
  if o.recv.isSome then
    let s1 := discardOpen s o
    { s1 with img := { s1.img with ended := o.frame :: s1.img.ended } }
  else failOpen s o (now s)

/-- Runs of consecutive numbers of a rising list. -/
def rangesOf : List Nat → List (Nat × Nat)
  | [] => []
  | a :: r =>
    match rangesOf r with
    | (x, y) :: t => if x = a + 1 then (a, y) :: t else (a, a) :: (x, y) :: t
    | [] => [(a, a)]

/-- A NACK for the indices below `n` that have not landed: sixteen ranges, the rest later
(05 R103). -/
def sendNack (s : State) (o : OpenDeliv) (n : Nat) : State × OpenDeliv :=
  let miss := (List.range n).filter (fun i => !o.landed.any (fun e => e.1 == i))
  let all := rangesOf miss
  let rs := all.take 16
  if rs = [] then (s, { o with named := [], more := false })
  else
    let names := miss.filter (fun i => rs.any (fun r => decide (r.1 ≤ i) && decide (i ≤ r.2)))
    (bumpN (sendUp s 0 (flumePkt s.id.side (tileHdr s 4 o.level o.frame) (nackBody rs))) flmRxLost names.length
    , { o with named := names, more := decide (16 < all.length) })

/-- The index expected next. -/
def nextPidx (o : OpenDeliv) : Nat := o.landed.foldl (fun m e => max m (e.1 + 1)) 0

/-- The open delivery put in place. -/
def putOpen (s : State) (o : OpenDeliv) : State := { s with img := { s.img with open_ := some o } }

/-- The swap edge of a delivery received now with presentation time `pt` (07 R147). -/
def swapEdge (s : State) (pt : Nat) : Nat := max (edgeAfter s (now s)) (edgeFrom s pt)

/-- The delivery judged once its packets and its commit are held (05 R104; 07 R147). -/
def judgeOpen (s : State) (o : OpenDeliv) : State :=
  match o.commit, o.pt with
  | some (_, _, tsig, _), some pt =>
    if !allLanded o || o.recv.isSome || o.exhausted || o.failNext then putOpen s o
    else if landedSig o ≠ tsig then failOpen (putOpen s o) o (now s)
    else
      let e := swapEdge s pt
      let o1 := { o with recv := some (now s, e) }
      let s1 := putOpen s o1
      let s2 := if o.full then { s1 with img := { s1.img with resyncSent := false } } else s1
      sendReport s2 o1 1 false e
  | _, _ => putOpen s o

/-! ### Opening and landing (05 R102; 07 R143, R145, R164) -/

/-- A delivery opens. Until a FULL delivery lands in DRAM, deliveries land in the quarter store. -/
def openDelivery (s : State) (frame : BitVec 16) (full : Bool) (level : Nat) : State × OpenDeliv :=
  let q := !(s.img.ready && (full || !s.img.qInUse))
  let src := if q then s.img.qfMap else s.img.front
  let m := if full then List.replicate (tileNb s) entNone
    else src.map (fun e => { e with dirty := false })
  let o : OpenDeliv :=
    { frame := frame, full := full, level := level, landed := [], quarter := q, commit := none
      named := [], more := false, pt := none, recv := none, exhausted := false, failNext := false
      lastAt := lt s }
  let s1 := setBack s q m
  let s2 := if q then
      { s1 with img := { s1.img with qBack := if full then [] else s1.img.qFront } }
    else s1
  ({ s2 with img := { s2.img with ended := s2.img.ended.filter (· != frame), open_ := some o } }, o)

/-- Whether a FRAME is dropped as older or failed (05 R102; 07 R148). -/
def frameOld (s : State) (f : BitVec 16) : Bool :=
  (match s.img.applied with | some a => decide ((f - a).toInt ≤ 0) | none => false)
    || s.img.ended.contains f
    || (match s.img.open_ with | some o => decide ((f - o.frame).toInt < 0) | none => false)

/-- The delivery that takes a packet or commit: the open one, or a new one for it. -/
def delivFor (s : State) (f : BitVec 16) (full : Bool) (level : Nat) : State × OpenDeliv :=
  match s.img.open_ with
  | some o =>
    if 0 < (f - o.frame).toInt ∨ (full ∧ !o.full) then openDelivery (endOpen s o) f full level
    else (s, o)
  | none => openDelivery s f full level

/-- A block reduced to 8 × 8 pixels (07 R164). -/
def quarterOf (l : List Samp) : List Samp :=
  (List.range 8).flatMap fun j => (List.range 8).flatMap fun i => (List.range 3).map fun c =>
    let v (dx dy : Nat) : Nat := (l.getD (((2 * j + dy) * 16 + 2 * i + dx) * 3 + c) 0).toNat
    BitVec.ofNat 12 ((v 0 0 + v 1 0 + v 0 1 + v 1 1 + 2) / 4)

/-- One block of a packet of a level landed: a slot is taken unless the block has landed in this delivery already. -/
def landBlock (o : OpenDeliv) (level : Nat) (s : State) (b : BlockIn) : State :=
  let i := b.by_ * tileWt s + b.bx
  let m := backMap s o.quarter
  let was := m.getD i entNone
  let inc := b.inc && decide (2 ≤ level)
  let ent (slot : Nat) : MapEnt :=
    { bsig := b.bsig, valid := true, inc := inc, fault := false, dirty := true, slot := slot }
  if was.dirty then s
  else if o.quarter then
    let s1 := setBack s true (m.set i (ent 0))
    { s1 with img := { s1.img with qBack := put i (quarterOf (unpackSamps b.data)) s1.img.qBack } }
  else match s.img.free with
    | [] => s
    | k :: r =>
      let s1 := setBack s false (m.set i (ent k))
      { s1 with img := { s1.img with free := r, slots := put k b.data s1.img.slots } }

/-- A packet whose blocks pass their check landed (05 R102 step 3; 07 R145). -/
def landPacketTile (s : State) (o : OpenDeliv) (r : RegionPkt) : State :=
  let m := backMap s o.quarter
  let need := (r.blocks.filter (fun b => !(m.getD (b.by_ * tileWt s + b.bx) entNone).dirty)).length
  if o.exhausted then putOpen s o
  else if !o.quarter && decide (s.img.free.length < need) then
    recordX (putOpen s { o with exhausted := true }) xPool
      [w32 s.img.free.length, w32 s.img.total, o.frame.zeroExtend 32]
  else
    let s1 := r.blocks.foldl (landBlock o o.level) s
    let gap := decide (nextPidx o < r.pidx)
    let o1 := { o with landed := o.landed ++ [(r.pidx, r.blocks.map (·.bsig))] }
    let lim := max (nextPidx o1) (match o.commit with | some (_, n, _, _) => n | none => 0)
    let again := o.more && o.named.all (fun i => o1.landed.any (fun e => e.1 == i))
    let (s2, o2) := if gap || again then sendNack s1 o1 lim else (s1, o1)
    judgeOpen s2 o2

/-- Whether a block fails the check of its packet: its BSIG differs, or it lies outside the picture (05 R102). -/
def blockFails (s : State) (b : BlockIn) : Bool :=
  crc32c b.data != b.bsig || decide (tileWt s ≤ b.bx) || decide (tileHt s ≤ b.by_)

/-- What an accepted region packet does (05 R102): one with a failing block is as lost, an older one is dropped, and
any other lands in its delivery. -/
def takeRegion (s : State) (h : FlumeHdr) (r : RegionPkt) : State :=
  let bad := (r.blocks.filter (blockFails s)).length
  if bad ≠ 0 then bumpN s flmRxBadsig bad
  else if frameOld s h.frame then rxDrop s
  else
    let (s1, o0) := delivFor s h.frame r.full h.level
    let o := { o0 with lastAt := lt s1, level := h.level }
    if o.landed.any (fun e => e.1 == r.pidx) then putOpen s1 o else landPacketTile s1 o r

/-- REGION_PACKET_RECEIVED (05 R102). -/
def execRegionPacketReceived (a : LinkStart) (r : LinkRest) (s : State) : Out1 :=
  act s fun s =>
    match tileIn s 1 ⟨a, r⟩ with
    | none => s
    | some (h, b) => match readRegion b with
      | some r => takeRegion s h r
      | none => s

/-! ### Commits (05 R104; 07 R149; 11 R258) -/

/-- PT of a commit as a clock, and whether the delivery fails at the next edge instead. -/
def commitPt (s : State) (c : CommitPkt) : Nat × Bool :=
  let recent : Bool := match s.time.lastStep with
    | some (t, _) => decide (lt s - t ≤ 8 * 10 ^ 9)
    | none => false
  let d : Int := match s.time.lastStep with | some (_, x) => x | none => 0
  let judge (w : Word) : Nat × Bool :=
    let x := 4 * sdiff w (nowW s)
    (nearClk (now s) w, decide (x < -(10 ^ 9)) || decide (8 * 10 ^ 9 < x))
  if c.epoch = s.time.epoch then judge c.pt
  else if c.epoch = s.time.prevEpoch ∧ recent = true then judge (shiftW d c.pt)
  else (nearClk (now s) c.pt, true)

/-- The report last sent for a FRAME that a duplicate commit names: that of the open delivery, once it is received, of
the last applied or of the last failed FRAME (05 R104). -/
def reportFor (s : State) (f : BitVec 16) : Option (Nat × Report) :=
  let known := (match s.img.open_ with | some o => o.frame == f && o.recv.isSome | none => false)
    || s.img.applied == some f || s.img.failedFrame == some f
  if known then look f s.img.lastReport else none

/-- What a commit that lists the tile does (05 R104). -/
def takeCommit (s : State) (h : FlumeHdr) (c : CommitPkt) (e : CommitEnt) : State :=
  match reportFor s h.frame with
  | some (l, r) => sendUp s 0 (reportPkt s l r)
  | none =>
    if frameOld s h.frame then rxDrop s
    else
      let (s1, o0) := delivFor s h.frame e.full h.level
      let (pt, fail) := match o0.commit with
        | some _ => (o0.pt.getD 0, o0.failNext)
        | none => commitPt s c
      let o := { o0 with
        lastAt := lt s1, commit := some (c.pt, e.npkt, e.tsig, now s1), pt := some pt
        failNext := o0.failNext || fail }
      if allLanded o || o.exhausted then judgeOpen s1 o
      else
        let (s2, o2) := sendNack s1 o (max (nextPidx o) e.npkt)
        putOpen s2 o2

/-- COMMIT_RECEIVED (05 R104): a tile that is not listed takes nothing from it. -/
def execCommitReceived (a : LinkStart) (r : LinkRest) (s : State) : Out1 :=
  act s fun s =>
    match tileIn s 2 ⟨a, r⟩ with
    | none => s
    | some (h, b) => match readCommit b with
      | none => s
      | some c => match c.ents.find? (fun e => some e.na == s.id.na) with
        | some e => takeCommit s h c e
        | none => match s.img.open_ with
          | some o => if o.frame = h.frame then putOpen s { o with lastAt := lt s } else s
          | none => s

/-- DELIVERY_IDLE_FAIL (05 R106): packets landed, no commit, and nothing of its FRAME for 1 s. -/
def execDeliveryIdleFail (s : State) : Out1 :=
  act s fun s =>
    match s.img.open_ with
    | none => s
    | some o =>
      if o.commit.isSome || o.landed.isEmpty then s
      else
        let s1 := toLt (o.lastAt + 10 ^ 9) s
        failOpen s1 o (now s1)

/-! ### The swap (07 R147 to R150) -/

/-- The slots of outgoing front entries that the back map does not keep (R144). -/
def outgoing (f b : List MapEnt) : List Nat :=
  (f.zip b).filterMap (fun e =>
    if e.1.valid && !(e.2.valid && e.2.slot == e.1.slot) then some e.1.slot else none)

/-- The blocks whose front entry changes with a swap (R151). -/
def swapBlocks (f b : List MapEnt) : List Nat :=
  ((f.zip b).zipIdx.filter (fun e => let x := e.1.1; let y := e.1.2;
    (x.valid != y.valid) || (y.valid && (y.dirty || x.slot != y.slot)))).map (·.2)

/-- Whether a delivery swaps LATE at edge `e`. -/
def swapLate (s : State) (pt e : Nat) : Bool := decide (instantAt (rate s) pt < e)

/-- Every word of the banks that `p` names reads zero with valid check bits (16 R357, R360). -/
def clearBanks (s : State) (p : Nat → Bool) : State :=
  { s with sram := { s.sram with
    mem := s.sram.mem.filter (fun e => !p (e.1 / 524288))
    poisoned := s.sram.poisoned.filter (fun a => !p (a / 524288)) } }

/-- The banks of the quarter store released, or woken again (16 R356, R357); either way what they held is gone. -/
def quarterBanks (s0 : State) (on : Bool) : State :=
  let s := clearBanks s0 (fun k => decide (40 ≤ k) && decide (k ≤ 43))
  let f (k : Nat) (b : Bank) : Bank :=
    if 40 ≤ k ∧ k ≤ 43 then { b with owner := if on then 4 else 0, on := on, clear := on } else b
  { s with sram := { s.sram with banks := s.sram.banks.mapIdx f } }

/-- The exchange of the two copies at edge `e` (R148, R164); the blocks it changes. -/
def swapOpen (s : State) (o : OpenDeliv) (e : Nat) : State × List Nat :=
  let late := swapLate s (o.pt.getD 0) e
  let old := frontMap s
  let new := backMap s o.quarter
  let moved := s.img.qInUse && !o.quarter
  let blocks := if moved then List.range (tileNb s) else swapBlocks old new
  let clean := new.map (fun x => { x with dirty := false })
  let s1 := if o.quarter then
      { s with img := { s.img with qfMap := clean, qbMap := old, qFront := s.img.qBack } }
    else freeSlots { s with img := { s.img with front := clean, back := s.img.front } }
      (outgoing s.img.front new)
  let s2 := { s1 with img := { s1.img with
    open_ := none, applied := some o.frame, inFailed := false, level := o.level
    ended := s1.img.ended.filter (fun f => decide (0 < (f - o.frame).toInt))
    qInUse := s1.img.qInUse && o.quarter
    service := if o.quarter then max 2 s1.img.service else 3
    qFront := if o.quarter then s1.img.qFront else []
    qBack := if o.quarter then s1.img.qBack else [] } }
  let s3 := bump (setF (setF s2 flmRxFrame 31 31 1) flmRxFrame 15 0 o.frame.toNat) tilSwaps
  let s4 := if late then bump s3 flmRxLate else s3
  let s4 := if moved then quarterBanks s4 false else s4
  let s5 := if o.full then { s4 with weir := { s4.weir with frozen := false } } else s4
  (sendReport s5 o 2 late e, blocks)

/-- What edge `e` does to the open delivery (R147 to R150; 05 R106): `busy` tells that an earlier pass
still runs. -/
def edgeDelivery (s : State) (e : Nat) (busy : Bool) : State × List Nat :=
  match s.img.open_ with
  | none => (s, [])
  | some o =>
    if o.failNext then (failOpen s o e, [])
    else match o.pt with
      | none => (s, [])
      | some pt =>
        if e < pt then (s, [])
        else if o.exhausted then (failOpen s o e, [])
        else match o.recv with
          | none => (failOpen s o e, [])
          | some (t, named) =>
            if t < decision s e ∧ named ≤ e ∧ !busy then swapOpen s o e else (s, [])

/-! ### The arithmetic of a pixel (07 R155 to R158) -/

/-- QK (R156). -/
def qkOf (peak : Nat) : Nat :=
  let n := 65535 * 2 ^ 24 * 10000
  let d := 16777215 * max 1 peak
  (2 * n + d) / (2 * d)

/-- G (R156). -/
def limitG (bright slg : Nat) : Nat := (bright * slg + 16384) / 2 ^ 15

/-- The limit of a pixel inside a Badger field (08 R184). -/
def limitField (s : State) (g : Nat) : Nat :=
  max g (min (getF s bdgCfg 31 16) (getF s tilSlg 15 0))

/-- The identity in Q2.14. -/
def identX : List Int := [16384, 0, 0, 0, 16384, 0, 0, 0, 16384]

/-- The coefficients of a board without a table or a temperature. -/
def coefIdent : Coef := { g := [32768, 32768, 32768], x := identX }

/-- Row `c` of a 3 × 3 matrix applied to a triple. -/
def matRow (m : List Int) (c : Nat) (l : Rgb) : Int :=
  m.getD (3 * c) 0 * l.r + m.getD (3 * c + 1) 0 * l.g + m.getD (3 * c + 2) 0 * l.b

/-- A matrix applied, rounded and held within the linear range. -/
def matApply (m : List Int) (l : Rgb) : Rgb :=
  let f (c : Nat) : Int := clampI 0 16777215 ((matRow m c l + 8192) / 2 ^ 14)
  ⟨f 0, f 1, f 2⟩

/-- The three grayscale values of a pixel (R156). -/
def pixelQ (m : List Int) (k : Coef) (g qk : Nat) (l : Rgb) : List (BitVec 16) :=
  let b := matApply k.x (matApply m l)
  let q (c : Nat) (v : Int) : BitVec 16 :=
    let e := min ((Int.ofNat (k.g.getD c 0) * v + 16384) / 2 ^ 15) 16777215
    let f := (Int.ofNat g * e + 16384) / 2 ^ 15
    BitVec.ofNat 16 (min ((f * Int.ofNat qk + 8388608) / 2 ^ 24) 65535).toNat
  [q 0 b.r, q 1 b.g, q 2 b.b]

/-- TIL.AVG_M. -/
def avgM (s : State) : List Int :=
  ((List.range 5).flatMap fun k =>
    [signed 16 (getF s (tilAvgM + k) 31 16), signed 16 (getF s (tilAvgM + k) 15 0)]).take 9

/-- The matrix of a pixel (R160, R163). -/
def matrixOf (s : State) (px : Nat) : List Int :=
  if s.img.pixm && s.img.written.contains px && !s.img.avgRows.contains (px / max 1 (picW s))
      && !s.img.lostPx.contains px then
    (look px s.img.matrix).getD (avgM s)
  else avgM s

/-- Whether the tile-average matrix is in use: for some pixel no matrix is loaded. -/
def avgInUse (s : State) : Bool :=
  !s.img.pixm || !s.img.avgRows.isEmpty || !s.img.lostPx.isEmpty || decide (s.img.written.length < picW s * picH s)

/-- The enabled boards. -/
def boardsOn (s : State) : List Nat := (List.range 16).filter (fun b => bit (rd s (lmpBoard + b)) 31)

/-- The enabled board that covers a block (09 R220). -/
def boardAt (s : State) (bx by_ : Nat) : Option Nat :=
  (boardsOn s).find? (fun b =>
    let w := rd s (lmpBoard + b)
    decide (fld w 30 25 ≤ bx) && decide (bx < fld w 30 25 + fld w 18 12)
      && decide (fld w 24 19 ≤ by_) && decide (by_ < fld w 24 19 + fld w 11 6))

/-- The coefficients of a block (R158). -/
def coefAt (s : State) (bx by_ : Nat) : Coef :=
  match boardAt s bx by_ with
  | some b => s.img.coef.getD b coefIdent
  | none => coefIdent

/-- The coefficients of a table at temperature `t` (R157). -/
def interpolate (l : List TPoint) (t : Int) : Coef :=
  let pt (k : Nat) : TPoint := l.getD k ⟨0, [], []⟩
  let whole (p : TPoint) : Coef := { g := p.g.map Int.toNat, x := p.x }
  if t < (pt 0).t then whole (pt 0)
  else if (pt 7).t ≤ t then whole (pt 7)
  else
    let k := ((List.range 8).filter (fun k => decide ((pt k).t ≤ t))).foldl max 0
    let a := pt k
    let b := pt (k + 1)
    let w := (t - a.t) * 256 / (b.t - a.t)
    let mix (u v : Int) : Int := (u * (256 - w) + v * w + 128) / 256
    { g := (List.zipWith mix a.g b.g).map Int.toNat, x := List.zipWith mix a.x b.x }

/-- The coefficients a board's table and temperature give now (R157, R158). -/
def coefNow (s : State) (b : Nat) : Coef :=
  match (s.img.temps.getD b ⟨none, false, none⟩).t with
  | some t => if s.img.tabOk.getD b false then interpolate (s.img.tables.getD b []) t else coefIdent
  | none => coefIdent

/-! ### The content of a block (07 R155, R161, R164) -/

/-- A linear triple of three samples of a block in raster order. -/
def linAt (l : List Samp) (i : Nat) : Rgb :=
  let c (k : Nat) : Nat := (l.getD (3 * i + k) 0).toNat
  lpqTriple (c 0, c 1, c 2)

/-- Linear black. -/
def black : Rgb := ⟨0, 0, 0⟩

/-- What the pass reads of block `b`: none for an image fault, else the linear content by pixel. A block that bears FAULT
is read again like any other. -/
def blockContent (s : State) (b : Nat) : Option (Nat → Rgb) :=
  let e := (frontMap s).getD b entNone
  if !e.valid then some (fun _ => black)
  else if s.img.qInUse then
    let l := (look b s.img.qFront).getD []
    some (fun i => linAt l (i / 16 / 2 * 8 + i % 16 / 2))
  else
    let d := (look e.slot s.img.slots).getD []
    if crc32c d = e.bsig then
      let l := unpackSamps d
      some (fun i => linAt l i)
    else none

/-- One pixel composed (08 R166): content, test pattern, engines, stale marks, fields. -/
def composePixel (s : State) (t : Nat) (fields : List (Field × List Placed)) (x y : Nat) (c : Rgb) : Rgb :=
  let bx := x / 16
  let by_ := y / 16
  let low :=
    if blockWithdrawn s bx by_ then black
    else
      let a := drawTest s x y c
      if !s.time.has then a
      else (engineOrder s).foldl (fun acc e =>
        if engineHits e x y then blendOver (engineA e.words t x y) (lpqTriple (enColour e.words)) acc
        else acc) a
  let m := drawMark s (blockMark s bx by_) x y low
  fields.foldl (fun acc f => drawField s f.1 f.2 t x y acc) (drawRecBad s x y m)

/-- The lamp values of block `b` at an edge of time `t`: (lamp, value); none for an image fault. -/
def blockLamps (s : State) (t b : Nat) : Option (List (Nat × BitVec 16)) :=
  match blockContent s b with
  | none => none
  | some content =>
    let bx := b % max 1 (tileWt s)
    let by_ := b / max 1 (tileWt s)
    let k := coefAt s bx by_
    let g := limitG (getF s tilBright 15 0) (getF s tilSlg 15 0)
    let qk := (rd s tilQk).toNat
    let fields := s.bdg.fields.map (fun f => (f, layoutOf s f))
    some ((List.range 256).flatMap fun i =>
      let x := 16 * bx + i % 16
      let y := 16 * by_ + i / 16
      let l := composePixel s t fields x y (content i)
      let gp := if inField s x y then limitField s g else g
      ((pixelQ (matrixOf s (y * picW s + x)) k gp qk l).zipIdx.map
        (fun v => (lampNo s x y v.2, v.1))))

/-! ### MATRIX_WRITE (07 R160) -/

/-- Coefficients of a MATRIX_WRITE: nine signed 16-bit values a pixel. -/
def coefsOf (n : Nat) (l : List Word) : List (List Int) :=
  let b := bytesOfWords l
  let v (i : Nat) : Int := signed 16 (natOfBytes ((b.drop (2 * i)).take 2))
  (List.range n).map fun p => (List.range 9).map fun j => v (9 * p + j)

/-- Bytes of the staging buffer in use. -/
def stagedBytes (s : State) : Nat := (s.img.staging.map (fun w => 18 * w.coef.length)).sum

/-- MATRIX_WRITE. -/
def matrixWriteRule : Handler := fun c p s =>
  let y := fld (pw p 0) 25 16
  let x0 := fld (pw p 0) 9 0
  let n := fld (pw p 1) 31 16
  if p.payload.length < 2 then .no s stBadLength
  else if n = 0 ∨ 448 < n ∨ picH s ≤ y ∨ picW s < x0 + n then .no s stBadParam
  else if p.payload.length ≠ 2 + cdiv (18 * n) 4 then .no s stBadLength
  else if 65536 < stagedBytes s + 18 * n then .no s stBusy
  else
    let w : MatWrite := { y := y, x0 := x0, coef := coefsOf n (p.payload.drop 2), ref := c }
    .pend { s with img := { s.img with staging := s.img.staging ++ [w] } }

def execMatrixWrite (p : Smb) (s : State) : Out1 := smibenRow 0x0A40 matrixWriteRule p s

/-- A staged MATRIX_WRITE written into the matrix (R160; 08 R185); its notification follows with those of its edge. -/
def applyMatrix (s : State) (w : MatWrite) : State :=
  let px (i : Nat) : Nat := w.y * picW s + w.x0 + i
  let new := w.coef.zipIdx.map (fun e => (px e.2, e.1))
  let hit (k : Nat) : Bool := decide (px 0 ≤ k) && decide (k < px w.coef.length)
  let s1 := { s with img := { s.img with
    matrix := new ++ s.img.matrix.filter (fun e => !hit e.1)
    written := new.map (·.1) ++ s.img.written.filter (fun k => !hit k)
    lostPx := s.img.lostPx.filter (fun k => !hit k) } }
  match fieldTouched s w.y w.x0 w.coef.length with
  | some f => safetyNote s1 4 (mkFld 31 16 w.y ||| w32 w.x0) (mkFld 31 16 w.coef.length ||| w32 f)
  | none => s1

/-- The blocks a staged MATRIX_WRITE touches. -/
def matrixBlocks (s : State) (w : MatWrite) : List Nat := blocksOfRect s w.x0 w.y w.coef.length 1

/-! ### Reload of a matrix row (07 R163) -/

/-- The coefficients of pixel row `row` in the flash copy. -/
def cacheRow (s : State) (row : Nat) : List (Nat × List Int) :=
  s.fl.cache.flatMap fun e =>
    ((boardPixels s e.board).zip e.matrix).filter (fun p => p.1 / max 1 (picW s) == row)

/-! ### Status words (07 R165) -/

def tilStsWord (s : State) : Word :=
  mkFld 31 28 s.img.service ||| flagAt s.img.pixm 27 ||| flagAt s.img.ready 26
    ||| flagAt ((frontMap s).any (·.fault)) 25
    ||| w32 (((List.range 16).filter (fun b => s.img.tabOk.getD b false)).map (2 ^ ·)).sum

def tilPoolWord (s : State) : Word := mkFld 31 16 s.img.total ||| w32 s.img.free.length

def tilBtempWord (s : State) (b : Nat) : Word :=
  match s.img.temps.getD b ⟨none, false, none⟩ with
  | ⟨some t, subst, _⟩ => flagAt true 31 ||| flagAt subst 30 ||| w32 (unsigned 16 t)
  | ⟨none, _, _⟩ => 0

/-- MAPSIG (10 R236). -/
def mapsigNow (s : State) : Word :=
  crcWords ((frontMap s).map (fun e => if e.valid then e.bsig else 0))

end Sys2Proof.Machine
end

