-- ==== Sys2Proof/Machine/Lamp.lean ====
section
/-! DEFINITION. The lamp port of a tile (09): scan and blank slots, writes and shows, proofs and failed
lamps, strict regions, lamp drive, keep-alive pulses, the lamp service bus; board temperatures and
their coefficients (07 R157, R158). -/

namespace Sys2Proof.Machine

/-! ### Failed lamps and proof age (R209, R210) -/

/-- What is known of lamp `n`: a lamp without an entry of its own follows its group-row. -/
def lampX (s : State) (n : Nat) : LampX :=
  match s.lamp.lamps.find? (fun x => x.lamp == n) with
  | some x => x
  | none => { lamp := n, openFail := false, shortFail := false, openCnt := 0, shortCnt := 0
              pass := look (groupRowOf s n) s.lamp.rowPass }

/-- Whether a lamp differs from what its group-row says of it. -/
def lampOwn (s : State) (x : LampX) : Bool :=
  x.openFail || x.shortFail || x.openCnt != 0 || x.shortCnt != 0
    || x.pass != look (groupRowOf s x.lamp) s.lamp.rowPass

/-- What is known of lamps replaced. -/
def setLamps (s : State) (l : List LampX) : State :=
  let rest := s.lamp.lamps.filter (fun y => !l.any (fun x => x.lamp == y.lamp))
  let all := (l.filter (lampOwn s) ++ rest).foldr (fun x acc => insertKey x.lamp x acc) []
  { s with lamp := { s.lamp with lamps := all.map (·.2) } }

/-- Whether a lamp is failed. -/
def lampFailed (x : LampX) : Bool := x.openFail || x.shortFail

/-- MAXAGE in ns. -/
def maxAge (s : State) : Nat := 10 ^ 6 * fld (lampNow s lmpProofAge) 15 0

/-- Whether the proof age of a lamp has run out (R210). -/
def ageOut (s : State) (x : LampX) : Bool :=
  lampFailed x || (match x.pass with | some t => decide (maxAge s ≤ lt s - t) | none => true)

/-- The lamps of a picture. -/
def lampCount (s : State) : Nat := 3 * picW s * picH s

/-- The failed lamps in increasing number. -/
def failedLamps (s : State) : List LampX := s.lamp.lamps.filter lampFailed

/-- The entry of a lamp as LAMP_FAILS gives it (R211). -/
def failWord (s : State) (n : Nat) (short : Bool) : Word :=
  let px := n / 3
  mkFld 31 22 (px % max 1 (picW s)) ||| mkFld 21 12 (px / max 1 (picW s)) ||| mkFld 11 10 (n % 3)
    ||| flagAt short 9

/-! ### Strict regions (R212, R213) -/

/-- The lamps of the pixels of a region's part of the picture. -/
def regionLamps (s : State) (m : RegionSet) : List Nat :=
  (List.range (lampCount s)).filter (fun n =>
    let px := n / 3
    setCovers m (px % max 1 (picW s) / 16) (px / max 1 (picW s) / 16))

/-- Whether a region is in fault now. A region the tile does not hold has no pixel. -/
def faultNow (s : State) (region : Nat) : Bool :=
  match heldRegion s region with
  | some r => (regionLamps s r.set).any (fun n => ageOut s (lampX s n))
  | none => false

/-- What the last change of a region's fault on its way makes of it. -/
def faultSoon (s : State) (region : Nat) : Bool :=
  s.changes.foldl (fun b c => match c.what with
    | .fault r v => if r = region then v else b
    | _ => b) (s.lamp.policies.any (fun p => p.region == region && p.inFault))

/-- The regions that hold a policy or will. -/
def policyRegions (s : State) : List Nat :=
  s.changes.foldl (fun l c => match c.what with
    | .policy r p => if p = 0 then l.filter (· != r) else r :: l.filter (· != r)
    | _ => l) (s.lamp.policies.map (·.region))

/-- The regions that hold a policy, or an accepted one that waits, judged: a region that has come into fault or out of it
takes its edge from now, the tick at which this is known (R213). -/
def policyCheck (s : State) : State :=
  (policyRegions s).foldl (fun t r =>
    let f := faultNow t r
    if f = faultSoon t r then t
    else propose t (idOfItem 4 r (if f then 1 else 0)) (.fault r f) none) s

/-- The record and the event of a region that enters or leaves fault. -/
def faultNote (s : State) (p : Policy) (f : Bool) : State :=
  recEventX s .wall xPolicy [mkFld 31 16 p.region ||| w32 p.pol, flagAt f 0, nowW s]

/-- A policy replaced or dropped. -/
def setPolicy (s : State) (region : Nat) (p : Option Policy) : State :=
  let rest := s.lamp.policies.filter (fun x => x.region != region)
  { s with lamp := { s.lamp with policies := p.toList ++ rest } }

/-- A change of the fault of a region takes effect (R213). -/
def applyFault (s : State) (region : Nat) (f : Bool) : State :=
  match s.lamp.policies.find? (fun p => p.region == region) with
  | none => s
  | some p =>
    if p.inFault = f then s else faultNote (setPolicy s region (some { p with inFault := f })) p f

/-- A LAMP_POLICY takes effect. A fault that began before the decision instant of the edge is a change of its own there
(policyCheck). -/
def applyPolicy (s : State) (region pol : Nat) : State :=
  let p : Policy := { region := region, pol := pol
                      inFault := s.lamp.policies.any (fun p => p.region == region && p.inFault) }
  keepSettings (setPolicy s region (if pol = 0 then none else some p))

/-- LAMP_POLICY. -/
def lampPolicyRule : Handler := withLen 1 fun c p s =>
  let region := fld (pw p 0) 31 16
  let pol := fld (pw p 0) 1 0
  let have_ := policyRegions s
  if getF s lmpCfg 31 30 = 2 then .no s stNotInState
  else if 4095 < region then .no s stBadParam
  else if pol ≠ 0 ∧ !have_.contains region ∧ 64 ≤ have_.length then .no s stBadParam
  else .pend (policyCheck (proposeCmd s c (.policy region pol)))

def execLampPolicy (p : Smb) (s : State) : Out1 := smibenRow 0x0640 lampPolicyRule p s

/-! ### LAMP_FAILS and LAMP_CLEAR (R211) -/

def lampFailsRule : Handler := withLen 1 fun _ p s =>
  let all := failedLamps s
  let room := replyRoom s p.via / 4 - 2
  let l := (all.drop (fld (pw p 0) 15 0)).take (min 1024 room)
  .ok s ([w32 all.length, w32 l.length] ++ l.map (fun x => failWord s x.lamp (!x.openFail)))

def execLampFails (p : Smb) (s : State) : Out1 := smibenRow 0x0642 lampFailsRule p s

/-- The failed bits and counts of every lamp, or of the lamps of a rectangle, cleared: their age has
run out until they pass a proof. -/
def clearLamps (s : State) (all : Bool) (x y w h : Nat) : State :=
  if all then { s with lamp := { s.lamp with lamps := [], rowPass := [] } }
  else
    let hit (n : Nat) : Bool :=
      let px := n / 3 % max 1 (picW s)
      let py := n / 3 / max 1 (picW s)
      decide (x ≤ px) && decide (px < x + w) && decide (y ≤ py) && decide (py < y + h)
    setLamps s (((List.range (lampCount s)).filter hit).map (fun n =>
      { lamp := n, openFail := false, shortFail := false, openCnt := 0, shortCnt := 0, pass := none }))

def lampClearRule : Handler := withLen 3 fun _ p s =>
  let all := bit (pw p 0) 31
  let x := fld (pw p 1) 31 16
  let y := fld (pw p 1) 15 0
  let w := fld (pw p 2) 31 16
  let h := fld (pw p 2) 15 0
  if !all && (w == 0 || h == 0 || decide (picW s < x + w) || decide (picH s < y + h)) then .no s stBadParam
  else .ok (policyCheck (clearLamps s all x y w h)) []

def execLampClear (p : Smb) (s : State) : Out1 := smibenRow 0x0641 lampClearRule p s

/-! ### Lamp drive (R214) -/

/-- Whether the enabled boards cover the picture exactly, without overlap (R193). -/
def boardsCover (s : State) : Bool :=
  let g (b : Nat) : Word := rd s (lmpBoard + b)
  let inside (b : Nat) : Bool := decide (fld (g b) 30 25 + fld (g b) 18 12 ≤ tileWt s)
    && decide (fld (g b) 24 19 + fld (g b) 11 6 ≤ tileHt s)
  (boardsOn s).all inside && (List.range (tileNb s)).all (fun k =>
    let x := k % max 1 (tileWt s)
    let y := k / max 1 (tileWt s)
    ((boardsOn s).filter (fun b => decide (fld (g b) 30 25 ≤ x)
      && decide (x < fld (g b) 30 25 + fld (g b) 18 12) && decide (fld (g b) 24 19 ≤ y)
      && decide (y < fld (g b) 24 19 + fld (g b) 11 6))).length == 1)

/-- The checks of a drive-on: a lamp mode, R202, the board cover. The status and words of the
refusal. -/
def driveCheck (s : State) : Option (Nat × List Word) :=
  if getF s lmpCfg 31 30 = 0 then some (stBadParam, [])
  else match scanCheck (rd s) with
    | some (st, w) => some (st, if st = stConflict then [w] else [])
    | none => if boardsCover s then none else some (stBadParam, [])

/-- The lamp credits of a full rewrite (17 R378). -/
def driveCredits (s : State) : Nat :=
  let full := 65535 * picW s * picH s
  let i := if s.boot.firstPass then lampI s else lampCurrent s (fun _ => full)
  cdiv i 100000

/-- Whether the twin holds the lines. -/
def twinHoldsLines (s : State) : Bool := !s.pair.high && !s.pair.pull

/-- A drive-on that holds its credits begins once the tile holds the lamp lines, or runs its schedule
as standby (R192, R214): CONFIG and SYNC, and every group-row to be written. -/
def driveBegin (s : State) : State :=
  if s.lamp.granted && (s.pair.outputs || twinHoldsLines s) then
    sendConfig { s with lamp := { s.lamp with granted := false, wantOn := true, dirty := allRows s } }
  else s

/-- The credits of a drive-on granted. -/
def driveGranted (s : State) : State :=
  if s.lamp.drive then driveBegin { s with lamp := { s.lamp with granted := true } } else s

/-- A drive-on whose credits are refused: drive stays off (13 R307; 18 R391). -/
def driveRefused (s : State) : State :=
  let ref := s.lamp.onRef
  let s1 := { s with lamp := { s.lamp with drive := false, onRef := none } }
  match ref with
  | some c => notify s1 c stNoCredit []
  | none => recordX s1 xBoot [w32 stNoCredit]

/-- Lamp drive switched on, after its checks: Sluice is asked. -/
def driveOn (s : State) (ref : Option CmdRef) : State :=
  let s1 := { s with lamp := { s.lamp with drive := true, onRef := ref } }
  match sluiceAsk s1 (.lampOn ref) 1 10 (driveCredits s) with
  | (t, .granted _) => driveGranted t
  | (t, .waiting _) => t
  | (t, .refused) => driveRefused t

/-- Whether a credit is that of a drive-on. -/
def isLampOn (o : HeavyOp) : Bool := match o with | .lampOn _ => true | _ => false

/-- A drive-on in progress ends: its credits return and its command hears `st`. -/
def driveOnEnd (s : State) (st : Nat) : State :=
  let s1 := withdrawAsk (creditReturn s isLampOn) isLampOn
  notifyO { s1 with lamp := { s1.lamp with onRef := none, wantOn := false, granted := false } } s.lamp.onRef
    st []

/-- The row slots of the refresh in progress end here: what they would still have carried is gone, what was read of the
pulses past stays. -/
def endSlots (s : State) : State :=
  { s with lamp := { s.lamp with
    slots := [], proofRows := [], readouts := s.lamp.readouts.filter (fun x => decide (x.start < lt s)) } }

/-- The lamps dark from the next row-slot boundary on: the event of 08 R185, the notification, and the
release of the lines (R214; 12 R270). -/
def driveDark (s : State) : State :=
  let s1 := toClk (rowBoundary s (now s)) s
  let ref := s1.lamp.offRef
  let s2 := endSlots { s1 with lamp := { s1.lamp with on := false, lit := false, dark := none, offRef := none } }
  let s3 := if s2.pair.outputs then emit s2 (.lamp .idle) else s2
  let s4 := notifyO (safetyNote s3 1 0 0) ref stOk []
  if s4.pair.holding then abortHandover (release s4) else s4

/-- LAMP_DRIVE (R214; 13 R307). -/
def lampDriveRule : Handler := withLen 1 fun c p s =>
  let on := bit (pw p 0) 0
  if on = s.lamp.drive then .ok s []
  else if on then
    match driveCheck s with
    | some (st, w) => .noW s st w
    | none => { Res.pend s with post := fun t => driveOn t (some c) }
  else
    let s1 := { s with lamp := { s.lamp with drive := false, offRef := some c } }
    { Res.pend s1 with post := fun t => driveDark (driveOnEnd t stNotInState) }

def execLampDrive (p : Smb) (s : State) : Out1 := smibenRow 0x0601 lampDriveRule p s

/-- The first show that the writes of a drive-on meet: the lamps light, and every proof age has run out (R210, R214). -/
def driveLight (met : Bool) (s : State) : State :=
  if s.lamp.wantOn && met then
    policyCheck (driveOnEnd { s with img := { s.img with service := max 1 s.img.service }, lamp := { s.lamp with
      on := true, lit := s.pair.outputs, refDrive := 0, rowPass := [], proofRows := [], readouts := []
      lamps := s.lamp.lamps.map (fun x => { x with pass := none }) } } stOk)
  else s

/-! ### Refreshes (R198 to R201, R206 to R209, R216) -/

/-- The extension of a discharge of which `n` samples read low, and whether it reached its limit
(R200). -/
def extension (s : State) (n : Nat) : Nat × Bool :=
  let lim := lpPrex (rd s) / 8
  (8 * min n lim, decide (lim < n))

/-- The extensions of a refresh counted and recorded. -/
def countExt (s : State) (n : Nat) : State :=
  let (e, bad) := extension s n
  let s1 := if e = 0 then s else bump s lmpPrext
  if !bad then s1
  else
    let s2 := bump s1 lmpPrefail
    if s2.lamp.preMark = some (nowSec s2) then s2
    else recordX { s2 with lamp := { s2.lamp with preMark := some (nowSec s2) } } xPreFail [w32 n]

/-- P of a row's blank slot in this refresh (R199): `low` gives the low samples of each row. -/
def blankP (s : State) (low : List (Nat × Nat)) (r : Nat) : Nat :=
  let g := lampNow s
  max (lpDis g + (extension s ((look r low).getD 0)).1) (lpPch g) + 4

/-- The readouts of a pulse of row `r` that began at local time `t`, one per used group. -/
def readoutsOf (s : State) (r : Nat) (short : Bool) (t : Nat) : List Readout :=
  (List.range (lpGroups (rd s))).map (fun g => { g := g, r := r, short := short, start := t, lanes := 0 })

/-- The pulse that the blank slot of a row carries. -/
def pulseAt (r pulse : Nat) (l : List RowSlot) : List RowSlot :=
  l.map (fun x => if x.row = r then { x with pulse := pulse } else x)

/-- The row slots of a refresh, before its proofs are placed. -/
def rowSlots (s : State) (low : List (Nat × Nat)) : List RowSlot :=
  (List.range (lpScan (rd s))).map (fun r =>
    { row := r, ext := (extension s ((look r low).getD 0)).1, pulse := 0 })

/-- The local time of the row slot before that of row `r`, in the refresh that begins at `t0` or, for row 0, in the one
before, which began at `prev`: its display (R198). -/
def slotBefore (s : State) (prev t0 r : Nat) : Nat :=
  let g := rd s
  if r = 0 then prev + 4 * ((lpScan g - 1) * lpSlot g + lpBlank g) else t0 + 4 * ((r - 1) * lpSlot g + lpBlank g)

/-- The proof of a row placed in this refresh or moved to the next one (R201). The drivers are armed during the row slot
before (R199), before the extension of the discharge is known. -/
def placeProof (low : List (Nat × Nat)) (prev t0 : Nat) (s : State) (r : Nat) : State :=
  let g := lampNow s
  let p := blankP s low r
  let a := toAllGroups s ltProof (slotBefore s prev t0 r) 0
  if p + 8 + lpWidth g ≤ lpBlank g then
    { a with lamp := { a.lamp with
      proofRows := a.lamp.proofRows.filter (· != r)
      slots := pulseAt r 1 a.lamp.slots
      readouts := a.lamp.readouts ++ readoutsOf a r false (t0 + 4 * (r * lpSlot g + p + 4)) } }
  else bump (bump a lmpPdefer) (sysArbLoss + 1)

/-- The short sample of a refresh: in the first blank slot with room, from the row whose turn it is and then from row 0
(R201; the row sampled advances by one at each refresh: log 120). `busy` are the rows whose slot carries a proof. -/
def placeShort (low : List (Nat × Nat)) (busy : List Nat) (prev t0 : Nat) (s : State) : State :=
  let g := lampNow s
  let all := List.range (lpScan g)
  let rows := all.drop s.lamp.shortRow ++ all.take s.lamp.shortRow
  let room (r : Nat) : Bool := !busy.contains r && decide (blankP s low r + 36 ≤ lpBlank g)
  let lost := (rows.takeWhile (fun r => !room r)).length
  let s1 := bumpN s (sysArbLoss + 1) lost
  let next (r : Nat) (t : State) : State :=
    { t with lamp := { t.lamp with shortRow := (r + 1) % max 1 (lpScan g) } }
  match rows.find? room with
  | none => next s.lamp.shortRow s1
  | some r =>
    let a := next r (toAllGroups s1 ltShortchk (slotBefore s1 prev t0 r) 0)
    { a with lamp := { a.lamp with
      slots := pulseAt r 2 a.lamp.slots
      readouts := a.lamp.readouts ++ readoutsOf a r true (t0 + 4 * (r * lpSlot g + blankP a low r)) } }

/-- Proofs and the short sample of a refresh that begins now, `prev` the local time at which the one before began
(R201, R209). -/
def refreshProofs (low : List (Nat × Nat)) (prev : Nat) (s : State) : State :=
  let g := lampNow s
  let due := lpInt g != 0 && s.lamp.refDrive % max 1 (lpInt g) == 0
  let open_ := s.lamp.readouts.any (fun x => !x.short)
  let s1 :=
    if due && open_ then bump s lmpPskip
    else if due then { s with lamp := { s.lamp with proofRows := List.range (lpScan g) } }
    else s
  let t0 := lt s1
  let rows := s1.lamp.proofRows
  let s2 := rows.foldl (placeProof low prev t0) s1
  if due then s2
  else placeShort low (rows.filter (fun r => !s2.lamp.proofRows.contains r)) prev t0 s2

/-- The planes' value of a lamp (R207). -/
def planeVal (s : State) (n lamp : Nat) : BitVec 12 :=
  let q := (lampVal s.lamp.store lamp).toNat
  let px := lamp / 3
  let x := px % max 1 (picW s)
  let y := px / max 1 (picW s)
  let up := getF s lmpSmode 16 16 == 1 && decide ((n + x + 2 * y) % 4 < q / 4 % 4)
  BitVec.ofNat 12 (min (q / 16 + (if up then 1 else 0)) 4095)

/-- The planes of a refresh sent in S-mode (R206): row by row, planes 11 to 0, the far driver first and within a driver
channel 15 first. Each is shifted during the slot of the plane before it, the first plane of a row during plane 0 of the
row slot before, and latched by one LCK cycle at the start of its own slot, while LGCK is high (R208). `prev` is the
local time at which the refresh before began. -/
def sendPlanes (s : State) (prev n : Nat) : State :=
  let g := rd s
  let slotAt (r i : Nat) : Nat := lt s + 4 * (r * lpSlot g + lpBlank g + planeStart g i)
  let before (r i : Nat) : Nat :=
    (if i = 0 then slotBefore s prev (lt s) r + 4 * planeStart g 11 else slotAt r (i - 1)) + lckNs 2
  let word (gr r k lane i : Nat) : BitVec 16 :=
    let d := lpNdrv g - 1 - i
    let at_ := 16 * gr + lane
    let y := at_ / max 1 (lpLpb g) * lpScan g + r
    BitVec.ofNat 16 (((List.range 16).map (fun ch =>
      let q := d * 16 + ch
      let lamp := lampNo s (at_ % max 1 (lpLpb g) * lpSeg g + q / 3) y (q % 3)
      if (planeVal s n lamp).getLsbD k then 2 ^ ch else 0)).sum)
  sendXfers s ((List.range (lpScan g)).flatMap fun r => (List.range 12).flatMap fun k =>
    (List.range (lpGroups g)).map fun gr =>
      { group := gr, latch := 1, start := before r k, latchAt := slotAt r k
        lanes := (lanesOf g gr).map (fun l => (List.range (lpNdrv g)).map (word gr r (11 - k) l)) })

/-- REFRESH_START: refresh n after the edge (R198). A standby runs it as the holder does and drives nothing (R192). `lrbLow` gives, for each row in whose blank slot
LRB read low at cycle DIS, the number of samples that read low. -/
def execRefreshStart (lrbLow : List (Nat × Nat)) (s : State) : Out1 :=
  act s fun s =>
    let n := s.lamp.refEdge
    if s.id.sender || lpMode (rd s) == 0 || decide (lpMult (rd s) ≤ n) || s.time.lastEdge.isNone then s
    else
      let s1 := toClk (refreshAt s (edgeOf s) n) s
      let dark := s1.lamp.darkRefresh && n == 0
      let run := s1.lamp.on && !dark
      let lit := run && s1.pair.outputs
      let prev := s.lamp.refStart
      let tail := lt s1 + 4 * lpScan (rd s1) * lpSlot (rd s1)
      let d :=
        if lit then (tail, 0)
        else match s1.lamp.dark with
          | some x => if dark || s1.lamp.lit then (lt s1, 0) else x
          | none => (lt s1, 0)
      let s2 := { s1 with lamp := { s1.lamp with
        refEdge := n + 1, lit := lit, dark := if s1.pair.outputs then some d else none
        darkRefresh := dark, refStart := lt s1, slots := if run then rowSlots s1 lrbLow else []
        ext := (((rowSlots s1 lrbLow).getLast?).map (·.ext)).getD 0 } }
      let s3 :=
        if run then
          let a := (List.range (lpScan (rd s2))).foldl (fun t r => countExt t ((look r lrbLow).getD 0)) s2
          if lpMode (rd a) = 1 then refreshProofs lrbLow prev a
          else sendPlanes a prev n
        else s2
      { s3 with lamp := { s3.lamp with
        refDrive := if s3.lamp.on then s3.lamp.refDrive + 1 else s3.lamp.refDrive } }

/-- The local time of the next refresh boundary, at which the dark tail of a refresh ends. -/
def tailEnd (s : State) : Nat := lt s + (refreshFrom s (edgeOf s) (now s + 4) - now s)

/-- A keep-alive pulse on every used gray clock: high in G-mode, low in S-mode, for 4 cycles (R216). -/
def keepalive (s : State) : State :=
  emit s (.lamp (.keepalive (lpGroups (rd s)) (lpMode (rd s) != 2) pulseWidth))

/-- The keep-alive pulses of a dark interval that come before local time `t`. -/
def pulsesBefore (t : Nat) (s : State) : State :=
  match s.lamp.dark with
  | none => s
  | some (d, k) =>
    (List.range ((t - 1 - d) / (4 * pulsePeriod) - k)).foldl (fun u i =>
      keepalive { toLt (d + 4 * pulsePeriod * (k + i + 1)) u with
        lamp := { u.lamp with dark := some (d, k + i + 1) } }) s

/-- KEEPALIVE_PULSE: the next pulse of a dark interval (R216). -/
def execKeepalivePulse (s : State) : Out1 :=
  act s fun s =>
    match s.lamp.dark with
    | none => s
    | some (d, k) =>
      let t := d + 4 * pulsePeriod * (k + 1)
      if !s.pair.outputs || s.id.sender || (s.lamp.lit && decide (tailEnd s ≤ t)) then s
      else
        let s1 := toLt t s
        keepalive { s1 with lamp := { s1.lamp with dark := some (d, k + 1) } }

/-! ### Writing the drivers and showing a frame (R203 to R205) -/

/-- The values of a group-row in the order of R205. -/
def rowVals (s : State) (g r : Nat) : List (BitVec 16) :=
  (rowLamps s g r).map (lampVal s.lamp.store)

/-- GSIG (R205). -/
def gsigOf (s : State) (g r : Nat) : Word := crc32c ((rowVals s g r).flatMap (bytesOf 2))

/-- The time in which a group-row is sent: 49 transfers (R203). -/
def rowNs (g : Lookup) : Nat := 49 * xferNs g

/-- The transfers that write a group-row from local time `t` on: 48 of DATA, one for each channel, then ROW (R203). -/
def rowXfers (s : State) (gr r t : Nat) : List Transfer :=
  let g := rd s
  let word (ch lane i : Nat) : BitVec 16 :=
    let at_ := 16 * gr + lane
    let q := (lpNdrv g - 1 - i) * 48 + ch
    lampVal s.lamp.store (lampNo s (at_ % max 1 (lpLpb g) * lpSeg g + q / 3)
      (at_ / max 1 (lpLpb g) * lpScan g + r) (q % 3))
  (List.range 48).map (fun ch =>
    gTransfer g gr ltData (t + ch * xferNs g)
      ((lanesOf g gr).map (fun l => (List.range (lpNdrv g)).map (word ch l))))
    ++ [transferOf g gr ltRow (t + 48 * xferNs g) (fun _ => BitVec.ofNat 16 r)]

/-- The local time at which the writing of a group-row that is complete now, or as soon as it can be, began: after what
its group was sent before, and after the edge whose pass marked it. -/
def writeStart (s : State) (gr : Nat) : Nat :=
  max (max (groupFree s gr) (match s.time.lastEdge with | some (_, t) => t | none => 0)) (lt s - rowNs (rd s))

/-- A group-row sent: its mark goes, its signature waits for the show instant, and its group is free again (R203,
R205). -/
def rowSent (gr r : Nat) (s : State) : State :=
  { s with lamp := { s.lamp with
    dirty := s.lamp.dirty.filter (fun e => e != (gr, r))
    gsigNew := put (gr, r) (gsigOf s gr r) s.lamp.gsigNew
    lastWrite := now s
    free := s.lamp.free.set gr (lt s) } }

/-- GROUP_ROW_WRITE: the first dirty row of group `g` has been sent (R203). A write waits for the lane that is being read
out, and goes before the next one. -/
def execGroupRowWrite (g r : Nat) (s : State) : Out1 :=
  act s fun s =>
    if s.id.sender || lpMode (rd s) != 1 || !s.lamp.dirty.contains (g, r)
        || s.lamp.dirty.any (fun e => e.1 == g && decide (e.2 < r)) then s
    else
      let t := writeStart s g
      sendXfers (rowSent g r (toLt (t + rowNs (rd s)) s)) (rowXfers s g r t)

/-- SHOW_CUTOFF: VSYNC, or the show moves (R204). -/
def execShowCutoff (s : State) : Out1 :=
  act s fun s =>
    match s.lamp.shows with
    | none => s
    | some w =>
      if w.met then s
      else
        let s1 := toClk w.cutoff s
        let ended := s1.img.pass.isNone && decide (s1.lamp.lastWrite < w.cutoff)
        let put (x : Show) (t : State) : State := { t with lamp := { t.lamp with shows := some x } }
        if ended && (lpMode (rd s1) == 2 || s1.lamp.dirty.isEmpty) then
          let s2 := put { w with met := true, lights := s1.lamp.wantOn } s1
          if lpMode (rd s1) == 1 then takeGroups (toAllGroups s2 ltVsync (lt s2) 0) (lt s2 + xferNs (rd s2)) else s2
        else
          let n := refreshFrom s1 (edgeOf s1) (w.show_ + 4)
          let s2 := put { w with show_ := n, cutoff := cutoffOf s1 n, moved := true } s1
          if w.moved then s2 else bump s2 lmpShowLate

/-- The signatures at a show instant, and in S-mode the swap of the store copies (R204, R205). -/
def takeShow (s : State) : State :=
  let g := rd s
  let s1 :=
    if lpMode g = 2 then
      let a := { s with lamp := { s.lamp with store := s.lamp.back } }
      { a with lamp := { a.lamp with gsig := (allRows a).map (fun e => (e, gsigOf a e.1 e.2)) } }
    else { s with lamp := { s.lamp with
      gsig := s.lamp.gsigNew.foldl (fun l e => put e.1 e.2 l) s.lamp.gsig, gsigNew := [] } }
  let sig (r : Nat) : Word :=
    if r < lpScan g ∧ lpMode g ≠ 0 then
      crcWords ((List.range (lpGroups g)).map (fun k => (look (k, r) s1.lamp.gsig).getD 0))
    else 0
  { s1 with lamp := { s1.lamp with lsig := (List.range 64).map sig, shows := none } }

/-! ### Readouts (R209, R210) -/

/-- A lamp's counts after a readout of one kind. -/
def readLamp (confirm start : Nat) (short flag : Bool) (x : LampX) : LampX :=
  if short then
    let n := if flag then min 15 (x.shortCnt + 1) else 0
    { x with shortCnt := n, shortFail := x.shortFail || (flag && decide (confirm ≤ n)) }
  else
    let n := if flag then min 15 (x.openCnt + 1) else 0
    { x with openCnt := n, openFail := x.openFail || (flag && decide (confirm ≤ n))
             pass := if flag then x.pass else some start }

/-- A lamp that has failed: the record and the events (R209). -/
def lampFailNote (short : Bool) (s : State) (n : Nat) : State :=
  let px := n / 3
  let aud := if inField s (px % max 1 (picW s)) (px / max 1 (picW s)) then Aud.both else Aud.wall
  recEventX s aud xLampFail [failWord s n short]

/-- A lamp as LAMPSTATE carries it (12 R273). -/
def lampEnt (s : State) (x : LampX) : LampEnt :=
  { lamp := x.lamp, openFail := x.openFail, shortFail := x.shortFail, openCnt := x.openCnt
    shortCnt := x.shortCnt
    age := match x.pass with | some t => if ageOut s x then none else some (lt s - t) | none => none }

/-- The STATUS transfer that reads lane `l` at local time `t`: EN is 1 on that lane alone (R197, R209). -/
def statusXfer (s : State) (ro : Readout) (l t : Nat) : Transfer :=
  transferOf (rd s) ro.g ltStatus t
    (fun m => BitVec.ofNat 16 ((if m = l then 0x8000 else 0) + (if ro.short then 0x4000 else 0) + ro.r))

/-- The clock at which `n` LCK cycles from clock `c` on have run: LCK pauses in each blank slot (R197). `k` bounds the
steps. -/
def lckRun (s : State) : Nat → Nat → Nat → Nat
  | 0, c, _ => c
  | k + 1, c, n =>
    let g := rd s
    let p := (c - refreshOf s c) / 4
    let slot := p % max 1 (lpSlot g)
    if n = 0 then c
    else if decide (p < lpScan g * lpSlot g) && decide (slot < lpBlank g) && !s.lamp.slots.isEmpty then
      lckRun s k (c + 4 * (lpBlank g - slot)) n
    else
      let next := rowBoundary s (c + 4)
      let m := min n ((next - c) / lckNs 1)
      if m = 0 then lckRun s k next n else lckRun s k (c + lckNs m) (n - m)

/-- The local time at which the reading of a lane that begins at local time `t` ends: the transfer, the 48 bits of each
driver, and the two spaces (R197, R202). -/
def laneEnd (s : State) (t : Nat) : Nat :=
  let n := 48 * lpNdrv (rd s)
  let c := now s + t + xferNs (rd s) - lt s
  t + xferNs (rd s) + (lckRun s (2 * n + 2) c n - c) + lckNs 2

/-- The local time at which the pulse of a readout has ended (R199). -/
def pulseEnd (s : State) (ro : Readout) : Nat := ro.start + 4 * (if ro.short then 32 else lpWidth (lampNow s))

/-- The readout that a group has in progress, or comes to next. -/
def readoutOf (s : State) (gr : Nat) : Option Readout := s.lamp.readouts.find? (fun x => x.g == gr)

/-- Whether a readout can begin its next lane: a write of its group goes first (R203). -/
def laneNext (s : State) (ro : Readout) : Bool :=
  !s.lamp.dirty.any (fun e => e.1 == ro.g) && decide (ro.lanes < (lanesOf (rd s) ro.g).length)

/-- The local time from which a readout can begin its next lane. -/
def laneAt (s : State) (ro : Readout) : Nat := max (groupFree s ro.g) (pulseEnd s ro)

/-- The next lane of a readout begun: its STATUS transfer is sent, and its group is taken until the last bit (R197). -/
def beginLane (s : State) (ro : Readout) : State :=
  let t := laneAt s ro
  let l := (lanesOf (rd s) ro.g).getD ro.lanes 0
  let s1 := sendXfers s [statusXfer s ro l t]
  { s1 with lamp := { s1.lamp with
    readouts := s1.lamp.readouts.map (fun x => if x = ro then { x with lanes := x.lanes + 1 } else x)
    free := s1.lamp.free.set ro.g (laneEnd s t) } }

/-- The lanes whose reading the port has begun by now, lane by lane in each group (R209). -/
def readsTo (s : State) : State :=
  if s.id.sender || lpMode (rd s) != 1 || s.lamp.readouts.isEmpty then s
  else (List.range (lpGroups (rd s))).foldl (fun a gr => (List.range 16).foldl (fun t _ =>
    match readoutOf t gr with
    | some ro => if laneNext t ro && decide (laneAt t ro ≤ lt t) then beginLane t ro else t
    | none => t) a) s

/-- The lanes of a group's readout that are left, each at its time, and the end of the last one. -/
def readOut (s : State) (gr : Nat) : State :=
  let s1 := (List.range 16).foldl (fun t _ =>
    match readoutOf t gr with
    | some ro => if laneNext t ro then beginLane (toLt (laneAt t ro) t) ro else t
    | none => t) s
  toLt (groupFree s1 gr) s1

/-- The lamps of a group-row whose flag the bits of its lanes set: on each lane the far driver's bits come first and,
within a driver, channel 47 first (R197). A bit that is not given is 0. -/
def flaggedLamps (s : State) (gr r : Nat) (bits : List (List Bool)) : List Nat :=
  let g := rd s
  ((lanesOf g gr).zipIdx.flatMap fun (l, k) =>
    let at_ := 16 * gr + l
    ((bits.getD k []).take (48 * lpNdrv g)).zipIdx.filterMap fun (b, i) =>
      let q := (lpNdrv g - 1 - i / 48) * 48 + (47 - i % 48)
      if b then some (lampNo s (at_ % max 1 (lpLpb g) * lpSeg g + q / 3)
        (at_ / max 1 (lpLpb g) * lpScan g + r) (q % 3)) else none)

/-- STATUS_READOUT_DONE: the last lane of the readout of group-row (g, r) has been read; `bits` are the bits of each lane
in the order in which LRB gave them (R197). A standby follows the schedule and takes no flags: the holder sends them
(R192, R210). -/
def execStatusReadoutDone (g r : Nat) (short : Bool) (bits : List (List Bool)) (s : State) : Out1 :=
  act s fun s =>
    match readoutOf s g with
    | none => s
    | some x =>
      if x.r ≠ r ∨ x.short ≠ short ∨ s.lamp.dirty.any (fun e => e.1 == g) = true then s else
      let a := readOut s g
      let ro := (readoutOf a g).getD x
      let s0 := policyCheck { a with lamp := { a.lamp with readouts := a.lamp.readouts.erase ro } }
      if !s0.pair.outputs then s0 else
      let flagged := flaggedLamps s0 g r bits
      let row := rowLamps s0 g r
      let confirm := max 1 (fld (lampNow s0 lmpProof) 23 20)
      let old := (row.filter (fun n => flagged.contains n
        || s0.lamp.lamps.any (fun x => x.lamp == n))).map (lampX s0)
      let new := old.map (fun x => readLamp confirm ro.start short (flagged.contains x.lamp) x)
      let s1 := if short then s0
        else { s0 with lamp := { s0.lamp with rowPass := put (g, r) ro.start s0.lamp.rowPass } }
      let s2 := setLamps s1 new
      let fresh := (old.zip new).filter (fun e =>
        if short then !e.1.shortFail && e.2.shortFail else !e.1.openFail && e.2.openFail)
      let s3 := fresh.foldl (fun t e => lampFailNote short t e.2.lamp) s2
      let changed := if short then (old.zip new).filter (fun e => e.1 != e.2) |>.map (·.2)
        else row.map (lampX s3)
      let s4 := if s3.pair.holding && !changed.isEmpty then
          twinSend s3 (.lampstate (changed.map (lampEnt s3)))
        else s3
      policyCheck s4

/-- PROOF_AGE_EXPIRE: the proof age of a lamp reaches MAXAGE (R210, R213). -/
def execProofAgeExpire (lamp : Nat) (s : State) : Out1 :=
  act s fun s =>
    if s.id.sender || decide (lampCount s ≤ lamp) then s
    else match (lampX s lamp).pass with
      | some t => policyCheck (toLt (t + maxAge s) s)
      | none => policyCheck s

/-! ### Board temperatures and coefficients (07 R157, R158) -/

/-- Whether a sensor is valid. -/
def sensorValid (s : State) (k : Nat) : Bool :=
  match s.lamp.sensors.getD k ⟨none, none⟩ with
  | ⟨some (_, t), _⟩ => decide (lt s - t < 10 ^ 10)
  | _ => false

/-- The board a sensor feeds: none for one that is not enabled or names a disabled board. -/
def sensorBoard (s : State) (k : Nat) : Option Nat :=
  let w := rd s (lmpSens + k)
  if bit w 31 ∧ (boardsOn s).contains (fld w 22 19) then some (fld w 22 19) else none

/-- The floor of the mean of a list. -/
def meanOf (l : List Int) : Option Int :=
  if l.isEmpty then none else some (l.foldl (· + ·) 0 / Int.ofNat l.length)

/-- The mean of the valid sensors of a board. -/
def boardMean (s : State) (b : Nat) : Option Int :=
  meanOf (((List.range 32).filter (fun k => sensorBoard s k == some b && sensorValid s k)).filterMap
    (fun k => ((s.lamp.sensors.getD k ⟨none, none⟩).last).map (·.1)))

/-- The temperature of a board (R158) and whether it is substituted. -/
def boardTemp (s : State) (b : Nat) : Option Int × Bool :=
  match boardMean s b with
  | some t => (some t, false)
  | none =>
    match meanOf (((boardsOn s).filter (· != b)).filterMap (boardMean s)) with
    | some t => (some t, true)
    | none => match (s.img.temps.getD b ⟨none, false, none⟩).t with
      | some t => (some t, true)
      | none => (none, false)

/-- Whether the device computes coefficients: a standby in lockstep takes those of its holder. -/
def ownCoefs (s : State) : Bool := !(named s && !s.pair.holding)

/-- Coefficients as COEF carries them (12 R273). -/
def coefMsg (e : Nat) (slg : Nat) (l : List Coef) : CoefMsg :=
  { edge := wt32 e, slg := slg
    boards := (List.range 16).map (fun b =>
      let c := l.getD b coefIdent
      { g := c.g.map Int.ofNat, x := c.x }) }

/-- The coefficients that the next edges will use. -/
def coefsSoon (s : State) : List Coef :=
  match s.img.coefNext with
  | some (_, l) => l
  | none => (List.range 16).map (fun b => s.img.coef.getD b coefIdent)

/-- The Sluice factor that the next edges will use. -/
def slgSoon (s : State) : Nat :=
  match s.img.slgNext with
  | some (_, v) => v
  | none => getF s tilSlg 15 0

/-- The coefficients of boards recomputed; they apply from edge `e`, and a holder in lockstep sends
them to its twin. -/
def recompute (s : State) (e : Nat) (bs : List Nat) : State :=
  if bs.isEmpty || !ownCoefs s then s
  else
    let l := (coefsSoon s).zipIdx.map (fun c => if bs.contains c.2 then coefNow s c.2 else c.1)
    let temps := s.img.temps.zipIdx.map (fun t =>
      if bs.contains t.2 then { t.1 with lastCalc := t.1.t } else t.1)
    let s1 := { s with img := { s.img with coefNext := some (e, l), temps := temps } }
    if named s1 then twinSend s1 (.coef (coefMsg e (slgSoon s1) l)) else s1

/-- The temperatures of the boards brought up to date: each change into or out of substitution is
recorded, and a board that has moved by DELTA is recomputed. -/
def updateTemps (s : State) : State :=
  let step (t : State) (b : Nat) : State :=
    let old := t.img.temps.getD b ⟨none, false, none⟩
    let (v, sub) := boardTemp s b
    let t1 := { t with img := { t.img with
      temps := t.img.temps.modify b (fun x => { x with t := v, subst := sub }) } }
    if sub = old.subst then t1 else recordX t1 xTempFault [w32 b, flagAt sub 0]
  let s1 := (boardsOn s).foldl step s
  let moved (b : Nat) : Bool :=
    let x := s1.img.temps.getD b ⟨none, false, none⟩
    match x.t, x.lastCalc with
    | some a, some c => decide (getF s1 tilTcomp 7 0 ≤ (a - c).natAbs)
    | some _, none => true
    | none, _ => false
  recompute s1 (nextEdge s1) ((boardsOn s1).filter moved)

/-! ### The lamp service bus (R217 to R219) -/

/-- From and until when an I²C bus was last taken. -/
def i2cTaken (s : State) (bus : Nat) : Nat × Nat := s.lamp.i2c.getD bus (0, 0)

/-- An I²C bus taken for `n` byte times of 22.5 µs (R218), by a contender that waits for what is in progress where `wait`
says so, which is counted (01 R26 to R28). -/
def i2cTake (s : State) (bus n : Nat) (wait : Bool) : State :=
  let until_ := (i2cTaken s bus).2
  let start := if wait then max until_ (lt s) else lt s
  let t := { s with lamp := { s.lamp with i2c := s.lamp.i2c.set bus (start, max until_ (start + 22500 * n)) } }
  if wait then bump t (sysArbLoss + 2 + bus) else t

/-- A transaction on an I²C bus (R217): where SDA stands low before its START, nine clocks and a STOP go first. The
level of SDA is a free value. -/
def i2cSend (s : State) (bus addr : Nat) (out : List Byte) (rlen : Nat) : State :=
  let (k, t) := takeFree s
  { t with out := t.out ++ (if Config.sdaLow k then [.i2cClear bus] else []) ++ [.i2c bus addr out rlen] }

/-- The local time of the next sensor poll. -/
def nextPoll (s : State) : Nat := s.lamp.lastPoll + 10 ^ 6 * getF s lmpSvc 15 0

/-- A poll of sensor `k` that read `raw`, or gave no reading (R217). -/
def pollOne (s : State) (k : Nat) (raw : Option (BitVec 16)) : State :=
  let w := rd s (lmpSens + k)
  let x := s.lamp.sensors.getD k ⟨none, none⟩
  let set (t : State) (y : Sensor) : State :=
    { t with lamp := { t.lamp with sensors := t.lamp.sensors.set k y } }
  let s1 := i2cSend s (fld w 30 30) (fld w 29 23) [BitVec.ofNat 8 (fld w 15 8)] 2
  match raw with
  | none => set (bump s1 lmpI2cErr) { x with held := none }
  | some v =>
    let t : Int := v.toInt / 2 ^ fld w 18 16
    let range := decide (-640 ≤ t) && decide (t ≤ 2000)
    let near := match x.last with
      | some (a, _) => !sensorValid s k || decide ((t - a).natAbs ≤ 160)
      | none => true
    let again := match x.held with | some h => decide ((t - h).natAbs ≤ 16) | none => false
    if !range then set s1 { x with held := none }
    else if near || again then set s1 { last := some (t, lt s), held := none }
    else set s1 { x with held := some t }

/-- The buses taken for the poll of sensors `ks`, seven byte times for each: polling waits for a transaction in
progress. -/
def pollTake (s : State) (ks : List Nat) : State :=
  [0, 1].foldl (fun t b =>
    let n := (ks.filter (fun k => fld (rd s (lmpSens + k)) 30 30 == b)).length
    if n = 0 then t
    else i2cTake t b (7 * n) (decide ((i2cTaken t b).1 < lt t) && decide (lt t < (i2cTaken t b).2))) s

/-- SENSOR_POLL: every enabled sensor of an enabled board read in turn; `raws` gives what each one
answered. -/
def execSensorPoll (raws : List (Nat × Option (BitVec 16))) (s : State) : Out1 :=
  act s fun s =>
    if s.id.sender then s
    else
      let s1 := toLt (nextPoll s) s
      let s2 := { s1 with lamp := { s1.lamp with lastPoll := lt s1 } }
      let ks := (List.range 32).filter (fun k => (sensorBoard s2 k).isSome)
      updateTemps (ks.foldl (fun t k => pollOne t k ((look k raws).getD none)) (pollTake s2 ks))

/-- SENSOR_VALIDITY_EXPIRE: 10 s without a plausible reading (07 R158). -/
def execSensorValidityExpire (k : Nat) (s : State) : Out1 :=
  act s fun s =>
    if s.id.sender then s
    else match (s.lamp.sensors.getD k ⟨none, none⟩).last with
      | none => s
      | some (_, t) => updateTemps (toLt (t + 10 ^ 10) s)

/-- Bytes of the bus: those given, as many as asked; a byte that is not given is a free value. -/
def busBytes (s : State) (n : Nat) (l : List Byte) : List Byte × State :=
  let (k, s1) := takeFree s
  ((List.range n).map (fun i => l.getD i (Config.busByte (256 * k + i))), s1)

/-- Whether an enabled sensor on a bus is to be polled in this tick: polling has rank 1 (R217; 01 R26). -/
def pollDue (s : State) (bus : Nat) : Bool :=
  decide (lt s = nextPoll s ∨ lt s = s.lamp.lastPoll ∧ lt s ≠ 0)
    && (List.range 32).any (fun k => (sensorBoard s k).isSome && fld (rd s (lmpSens + k)) 30 30 == bus)

/-- LSB_I2C (R218): `result` is how the transaction ended and `bytes` what the device answered. It waits for the
transaction in progress and for a poll of the same tick (01 R26, R27 codes 0x03, 0x04). -/
def lsbI2cRule (result : Nat) (bytes : List Byte) : Handler := fun _ p s =>
  let w := pw p 0
  let wlen := fld w 23 16
  let rlen := fld w 15 8
  if p.payload.isEmpty then .no s stBadLength
  else if wlen + rlen = 0 ∨ 32 < wlen + rlen then .no s stBadParam
  else if p.payload.length ≠ 1 + cdiv wlen 4 then .no s stBadLength
  else
    let out := (bytesOfWords (p.payload.drop 1)).take wlen
    let bus := fld w 31 31
    let s0 := i2cTake s bus (4 + wlen + rlen) (pollDue s bus || decide (lt s < (i2cTaken s bus).2))
    let s1 := i2cSend s0 bus (fld w 30 24) out rlen
    if result = 0 then
      let (b, s2) := busBytes s1 rlen bytes
      .ok s2 (0 :: padWords b)
    else .ok (bump s1 lmpI2cErr) [w32 (min result 3)]

def execLsbI2c (p : Smb) (result : Nat) (bytes : List Byte) (s : State) : Out1 :=
  smibenRow 0x0650 (lsbI2cRule result bytes) p s

/-- The serial NOR commands (R219). -/
def norRead : Nat := 0x6B
def norProgram : Nat := 0x02
def norErase : Nat := 0x20
def norWriteEnable : Nat := 0x06
def norStatus : Nat := 0x05
def norSuspend : Nat := 0x75
def norResume : Nat := 0x7A

/-- A program or an erase issued on the lamp-board flash, after its write enable. -/
def issueBoard (s : State) (o : BoardOp) : State :=
  emit (emit s (.qspi norWriteEnable o.board 0 []))
    (.qspi (if o.op = 2 then norProgram else norErase) o.board o.addr o.data)

/-- A loss of rank on the quad-SPI port counted (01 R27 code 0x05, R28). -/
def busLoss (s : State) : State := bump s (sysArbLoss + 4)

/-- Whether the correction data of a board are being loaded from its flash: rank 1 of the quad-SPI port (R219; 18 R401;
01 R27). -/
def busLoading (s : State) : Bool :=
  s.cal.boards.any (fun x => match x.loading with
    | some none => x.isNew
    | some (some c) => s.slu.granted.any (fun g => match g.op with
      | .ttab _ cache r => !cache && r == some c
      | _ => false)
    | none => false)

/-- The head of the queue begins, its credits held. While rank 1 has the bus it waits. -/
def beginBoard (s : State) : State :=
  match s.lamp.boardOps with
  | [] => s
  | o :: r =>
    let put (o1 : BoardOp) : State := { s with lamp := { s.lamp with boardOps := o1 :: r } }
    if busLoading s then
      busLoss (put { o with ready := true, start := lt s, suspended := some (lt s), issued := false })
    else
      let o1 := { o with ready := true, start := lt s, issued := true }
      issueBoard (put o1) o1

/-- An erase in progress suspended; a page program completes. -/
def suspendBoard (s : State) : State :=
  match s.lamp.boardOps with
  | o :: r =>
    if o.ready && o.op == 3 && o.suspended.isNone then
      emit { s with lamp := { s.lamp with boardOps := { o with suspended := some (lt s) } :: r } }
        (.qspi norSuspend o.board 0 [])
    else s
  | [] => s

/-- Rank 1 takes the bus. -/
def loadTakesBus (s : State) : State :=
  let t := suspendBoard s
  if t.lamp.boardOps != s.lamp.boardOps then busLoss t else t

/-- What is suspended goes on once the bus is free and writes are not stopped: an erase resumes, an operation kept off
the bus is issued. The 2 s of busy leave out the time between (R219). -/
def resumeBoard (s : State) : State :=
  match s.lamp.boardOps with
  | o :: r =>
    if o.suspended.isNone || busLoading s || nvStop s then s
    else
      let gone := lt s - o.suspended.getD (lt s)
      let s1 := { s with lamp := { s.lamp with boardOps :=
        { o with suspended := none, issued := true, start := o.start + gone } :: r } }
      if o.issued then emit s1 (.qspi norResume o.board 0 []) else issueBoard s1 o
  | [] => s

/-- Whether a page is being programmed. -/
def pageRunning (s : State) : Bool :=
  match s.lamp.boardOps with
  | o :: _ => o.op == 2 && o.ready && o.suspended.isNone
  | [] => false

/-- A read of lamp-board flash, and its reply (R219). -/
def boardRead (s : State) (r : BoardRead) : State :=
  let (b, t) := busBytes (emit s (.qspi norRead r.board r.addr [])) r.len r.data
  reply t r.ref r.via stOk (padWords b)

/-- The bus is free of rank 1 and of a page: the reads that waited run, an erase suspended for them, and what is
suspended goes on (01 R27 code 0x05). -/
def busFreed (s : State) : State :=
  if busLoading s || pageRunning s then s
  else if s.lamp.reads = [] then resumeBoard s
  else
    let t := suspendBoard s
    resumeBoard (s.lamp.reads.foldl boardRead { t with lamp := { t.lamp with reads := [] } })

/-- The next operation asks Sluice for its credit (17 R375): one refused, or one that would start under
the write stop, ends with its notification. -/
def startBoard (s : State) : List BoardOp → State
  | [] => { s with lamp := { s.lamp with boardOps := [] } }
  | o :: r =>
    if nvStop s then startBoard (notify (nvRefuse s) o.ref stNvHeld []) r
    else
      let s1 := { s with lamp := { s.lamp with boardOps := o :: r } }
      match sluiceAsk s1 .boardFlash 3 1 0 with
      | (t, .granted _) => beginBoard t
      | (t, .waiting _) => t
      | (t, .refused) => startBoard (notify t o.ref stNoCredit []) r

/-- The head of the queue ended with a status; reads that waited run, then the next one starts. -/
def endBoard (s : State) (st : Nat) : State :=
  match s.lamp.boardOps with
  | [] => s
  | o :: r =>
    let t := notify (creditReturn s (fun x => x == .boardFlash)) o.ref st []
    startBoard (busFreed { t with lamp := { t.lamp with boardOps := [] } }) r

/-- LSB_FLASH (R219): `read` is what a read returns. A read suspends an erase in progress; it waits for a page in
progress and for rank 1, and its reply with it (01 R27). -/
def lsbFlashRule (read : List Byte) : Handler := fun c p s =>
  let op := fld (pw p 0) 31 28
  let board := fld (pw p 0) 27 24
  let addr := fld (pw p 0) 23 0
  let len := fld (pw p 1) 8 0
  let data := (bytesOfWords (p.payload.drop 2)).take len
  if p.payload.length < 2 then .no s stBadLength
  else if op = 0 ∨ 3 < op ∨ len = 0 ∨ 256 < len then .no s stBadParam
  else if p.payload.length ≠ 2 + (if op = 2 then cdiv len 4 else 0) then .no s stBadLength
  else if (op = 2 ∧ 256 < addr % 256 + len) ∨ (op = 3 ∧ addr % 4096 ≠ 0) then .no s stBadParam
  else if op = 1 then
    if busLoading s || pageRunning s then
      .later (busLoss { s with lamp := { s.lamp with reads := s.lamp.reads ++
        [{ ref := c, via := p.via, board := board, addr := addr, len := len, data := read }] } })
    else
      let s1 := emit (suspendBoard s) (.qspi norRead board addr [])
      let s2 := if s.lamp.boardOps.any (fun o => o.ready && o.suspended.isNone) then busLoss s1 else s1
      let (b, s3) := busBytes (resumeBoard s2) len read
      .ok s3 (padWords b)
  else if nvStop s then .no (nvRefuse s) stNvHeld
  else
    let o : BoardOp := { op := op, board := board, addr := addr, data := data, ref := c, start := lt s
                         ready := false, suspended := none, issued := false }
    let s1 := { s with lamp := { s.lamp with boardOps := s.lamp.boardOps ++ [o] } }
    if !s.lamp.boardOps.isEmpty then .pend s1
    else match sluiceAsk s1 .boardFlash 3 1 0 with
      | (t, .granted _) => { Res.pend t with post := beginBoard }
      | (t, .waiting _) => .pend t
      | (_, .refused) => .no (bump s pwrRefused) stNoCredit

def execLsbFlash (p : Smb) (read : List Byte) (s : State) : Out1 :=
  smibenRow 0x0651 (lsbFlashRule read) p s

/-- Whether the head of the lamp-board queue is in progress and not suspended. -/
def boardRunning (s : State) : Bool :=
  match s.lamp.boardOps with
  | o :: _ => o.ready && o.suspended.isNone
  | [] => false

/-- The status of the flash of the head of the queue is read. -/
def readBusy (s : State) : State :=
  match s.lamp.boardOps with
  | o :: _ => emit s (.qspi norStatus o.board 0 [])
  | [] => s

/-- QSPI_FLASH_DONE: the busy bit clears. -/
def execQspiFlashDone (s : State) : Out1 :=
  act s fun s => if boardRunning s then endBoard (readBusy s) stOk else s

/-- QSPI_BUSY_TIMEOUT: the flash stays busy for more than 2 s. -/
def execQspiBusyTimeout (s : State) : Out1 :=
  act s fun s =>
    match s.lamp.boardOps with
    | o :: _ =>
      if boardRunning s then
        let s1 := bump (toLt (o.start + 2 * 10 ^ 9) s) lmpQspiErr
        endBoard (recordX s1 xFlash [mkFld 31 28 o.op ||| mkFld 27 24 o.board ||| w32 o.addr]) stInternal
      else s
    | [] => s

/-- LAMP_ERASE_SUSPEND_TIMEOUT: an erase suspended for more than 1 s (01 R28).
The erase stays suspended and may still resume (log 111, DESIGN CHOICE). -/
def execLampEraseSuspendTimeout (s : State) : Out1 :=
  act s fun s =>
    match s.lamp.boardOps with
    | o :: _ =>
      match o.suspended with
      | some t => if o.op = 3 then recordX (toLt (t + 10 ^ 9) s) xEraseStop
          [mkFld 27 24 o.board ||| w32 o.addr] else s
      | none => s
    | [] => s

/-! ### Status words (R220) -/

/-- Whether a staged value changes a field of R215. -/
def timingStaged (s : State) : Bool :=
  let m (i : Nat) : Word :=
    if i = tilRate then 0xFFFFFFFF else if i = lmpDrv then 0x0000FFFF else if i = lmpScanCfg then 0x00FF0000
    else if i = lmpRowt then 0xFFFF0FFF else if i = lmpPre then 0x000000F0
    else if i = lmpSmode then 0x000100FF else 0
  s.changes.any (fun c => match c.what with
    | .params l => l.any (fun e => (e.2 ^^^ rd s e.1) &&& m e.1 != 0)
    | _ => false)

def lmpStsWord (s : State) : Word :=
  let g := rd s
  flagAt s.lamp.drive 31 ||| flagAt s.lamp.lit 30 ||| flagAt s.pair.outputs 29
    ||| flagAt (timingStaged s) 28 ||| mkFld 23 16 (lpBands g) ||| mkFld 15 8 (lpLanes g)

def lmpTimingWord (s : State) : Word :=
  let g := rd s
  if lpMode g = 0 then 0 else mkFld 31 16 (lpSlot g) ||| w32 ((lpTref g - lpScan g * lpSlot g) % 65536)

def lmpStrictWord (s : State) : Word :=
  let on (k : Nat) : Nat := (s.lamp.policies.filter (fun p => p.inFault && decide (k ≤ p.pol))).length
  mkFld 15 8 (on 2) ||| w32 (on 3)

def lmpStempWord (s : State) (k : Nat) : Word :=
  match s.lamp.sensors.getD k ⟨none, none⟩ with
  | ⟨some (t, _), _⟩ => flagAt (sensorValid s k) 31 ||| w32 (unsigned 16 t)
  | _ => 0

/-- LSUM (10 R236). -/
def lsumNow (s : State) : Word := crcWords (s.lamp.lsig.take (lpScan (rd s)))

end Sys2Proof.Machine
end

