-- ==== Sys2Proof/Machine/Edge.lean ====
section
/-! DEFINITION. The frame edge of a tile: changes that apply at it, the set of the correction pass, the
lamp values it writes, and the end of the pass (07 R146 to R154; 08 R167 to R178; 09 R203, R215; 12 R280;
14 R320; 17 R379; 18 R390 to R394, R401). -/

namespace Sys2Proof.Machine

/-! ### Full service (18 R394) -/

/-- Whether a port has reached the rate at which it settles. -/
def portSettled (x : Port) : Bool :=
  x.st == 5 || (x.st == 3 && (x.noFull || (match x.partner with | some w => !w.full | none => false)))

/-- The port of an index. -/
def portAt (s : State) (p : Nat) : Option Port := s.link.ports.find? (fun x => x.p == p)

/-- The conditions of full service. -/
def inFullService (s : State) : Bool :=
  if s.id.sender then
    s.dram.state == 2 && (s.link.ports.filter (fun x => x.p != 8 && decide (3 ≤ x.st))).all portSettled
  else
    s.img.service == 3 && s.img.pixm
      && (boardsOn s).all (fun b => decide (2 ≤ (s.cal.boards.getD b boardNone).st))
      && (match portAt s 0 with | some x => portSettled x | none => false)

/-- Full service reached: TFULL, PHASE 2 and a record. Local time counts from the reset release. -/
def fullService (s : State) : State :=
  if s.boot.phase = 1 ∧ inFullService s then
    let t := max 1 (min 65535 (lt s / 10 ^ 6))
    recordX { s with boot := { s.boot with phase := 2, tfull := t } } xBoot [w32 t]
  else s

/-! ### Changes that apply at an edge -/

/-- The words of R215's timing-mode fields. -/
def timingWords (s : State) : List Word :=
  [rd s tilRate, rd s lmpDrv &&& 0xFFFF, rd s lmpScanCfg &&& 0x00FF0000, rd s lmpRowt &&& 0xFFFF0FFF
  , rd s lmpPre &&& 0xF0, rd s lmpSmode &&& 0x000100FF]

/-- Staged values take effect (14 R320; 08 R185): QK follows PEAK, and the events of 08 R185; a BRIGHT below FLOOR that is
written again unchanged is not reported again (log 119, DESIGN CHOICE). -/
def applyParams (s : State) (l : List (Nat × Word)) : State :=
  let s1 := l.foldl (fun t e => wr t e.1 e.2) s
  let peak := getF s1 tilPeak 13 0
  let bright := getF s1 tilBright 15 0
  let s2 :=
    if getF s tilPeak 13 0 ≠ peak then
      safetyNote (wr s1 tilQk (w32 (qkOf peak))) 3 (w32 peak) 0
    else s1
  if getF s tilBright 15 0 ≠ bright ∧ bright < getF s2 bdgCfg 31 16 then safetyNote s2 2 (w32 bright) 0
  else s2

/-- What the loading of board `b` leaves (18 R401): its table and matrix in use, or its table treated
as rejected. -/
def applyBoard (s : State) (b : Nat) : State :=
  let x := s.cal.boards.getD b boardNone
  let bad := x.st == 4
  let px := boardPixels s b
  let new := if bad then [] else px.zip x.matrix
  let hit (k : Nat) : Bool := new.any (fun e => e.1 == k)
  let s1 := { s with
    cal := { s.cal with boards := s.cal.boards.modify b (fun y => { y with waiting := false }) }
    img := { s.img with
      tables := if bad then s.img.tables else s.img.tables.set b x.table
      tabOk := s.img.tabOk.set b (!bad && !x.table.isEmpty)
      matrix := new ++ s.img.matrix.filter (fun e => !hit e.1)
      written := new.map (·.1) ++ s.img.written.filter (fun k => !hit k)
      lostPx := s.img.lostPx.filter (fun k => !hit k) } }
  setF s1 tilTfault b b (if bad || x.table.isEmpty then 1 else 0)

/-- Loaded data of boards take effect together (18 R401): afterwards the cache entries of moved and new
boards are rewritten. -/
def applyBoards (s : State) (l : List Nat) : State :=
  let s1 := l.foldl applyBoard s
  let done := (boardsOn s1).all (fun b => decide (2 ≤ (s1.cal.boards.getD b boardNone).st))
  let s2 := { s1 with img := { s1.img with
    pixm := s1.img.pixm || done
    coef := if ownCoefs s1 then (List.range 16).map (fun b =>
        if l.contains b then coefNow s1 b else s1.img.coef.getD b coefIdent) else s1.img.coef } }
  (l.filter (fun b => let x := s2.cal.boards.getD b boardNone; x.st != 4 && (x.moved || x.isNew))).foldl
    (fun t b => (flashAsk t (.cache b) none 2 false).1) s2

/-- When a change was accepted: the later of the two acceptances of a pair (08 R177). -/
def acceptedAt (s : State) (c : EdgeChange) : Nat :=
  match c.partner with
  | some tick => nearClk (now s) (laterW (wt32 c.acc) tick)
  | none => c.acc

/-- What the command of a change that takes effect at edge `e` hears. -/
def noteOf (s : State) (e : Nat) (c : EdgeChange) : List (CmdRef × Nat) :=
  match c.ref with
  | some r => [(r, match c.what with | .values a _ => if valuesLate s a e then stLate else stOk | _ => stOk)]
  | none => []

/-- A change takes effect at edge `e`; the flag tells that it waits for a later edge. -/
def applyChange (e : Nat) (s : State) (c : EdgeChange) : State × Bool :=
  match c.what with
  | .params l => (applyParams s l, false)
  | .values a ents => (applyValues s a ents (acceptedAt s c) e, false)
  | .badger b => (applyBadger s b, false)
  | .engine n w => (applyEngine s n w, false)
  | .test w => (applyTest s w, false)
  | .expire f => (applyExpire s f, false)
  | .region r stale => applyRegion s e r stale
  | .policy r p => (applyPolicy s r p, false)
  | .fault r f => (applyFault s r f, false)
  | .slg v =>
    ({ setF s tilSlg 15 0 v with slu := { s.slu with raised := true, lowSince := none } }, false)
  | .boards l => (applyBoards s l, false)
  | .commit _ _ _ | .layer _ _ => (s, false)

/-- Whether a change needs the tile to have time: staged values wait for the first edge after
acquisition, and field expiry does not run on the start schedule (18 R390). -/
def needsTime (c : EdgeChange) : Bool :=
  match c.what with
  | .params _ | .expire _ => true
  | _ => false

def isExpire (c : EdgeChange) : Bool := match c.what with | .expire _ => true | _ => false
def isValues (c : EdgeChange) : Bool := match c.what with | .values _ _ => true | _ => false

/-- Whether a value packet names a field that expires at this edge: it waits one edge, so that the
field is drawn not live at its first edge (08 R178). -/
def namesExpiring (ex : List EdgeChange) (c : EdgeChange) : Bool :=
  match c.what with
  | .values _ ents => ents.any (fun v => ex.any (fun x => x.what == .expire v.field))
  | _ => false

/-- The pattern engine a change sets, or the test pattern (16). -/
def patternOf (c : EdgeChange) : Option Nat :=
  match c.what with
  | .engine n _ => some n
  | .test _ => some 16
  | _ => none

/-- The field whose definition or removal a change is. -/
def fieldOf (c : EdgeChange) : Option Nat :=
  match c.what with
  | .badger (.define f _) | .badger (.remove f) => some f
  | _ => none

/-- Whether a change is the last of those due for its engine or test pattern: the others are superseded at their
edge. -/
def lastOfPattern (due : List EdgeChange) (c : EdgeChange) : Bool :=
  (patternOf c).isNone || (due.reverse.find? (fun d => patternOf d == patternOf c)) == some c

/-- The rank of a change at its edge (01 R26, R27 code 0x06): what gives up a buffer comes before the changes of the
Badger record, then come engines by number, then the test pattern; everything else stands before them in its
order. -/
def changeRank (due : List EdgeChange) (c : EdgeChange) : Nat :=
  match c.what with
  | .engine n w => if enMode w = 0 then 1 else 3 + n
  | .test w => if tpKind w = 0 then 1 else 19
  | .badger (.remove _) => if (due.filter (fun d => fieldOf d == fieldOf c)).length = 1 then 1 else 2
  | .badger _ => 2
  | _ => 0

/-- The changes that apply at edge `e`, in order: by rank, expiries after what was commanded, values last. -/
def dueChanges (s : State) (e : Nat) : List EdgeChange :=
  let due := s.changes.filter (fun c => dueAt s e c && (s.time.has || !needsTime c))
  let ex := due.filter isExpire
  let rest := due.filter (fun c => !isExpire c && !isValues c)
  (List.range 20).flatMap (fun k => rest.filter (fun c => changeRank rest c == k)) ++ ex
    ++ due.filter (fun c => isValues c && !namesExpiring ex c)

/-- The due changes applied; what comes back are the credit requests of their recomputes and what their commands hear. -/
def applyDue (s : State) (e : Nat) : State × List Nat × List (CmdRef × Nat) :=
  let due := dueChanges s e
  let inOrder := s.changes.filter (due.contains ·)
  let s0 := { s with changes := s.changes.filter (fun c => !due.contains c) }
  let step (acc : State × List Nat × List (CmdRef × Nat)) (c : EdgeChange) : State × List Nat × List (CmdRef × Nat) :=
    let (t, wait) := if lastOfPattern inOrder c then applyChange e acc.1 c else (acc.1, false)
    if wait then ({ t with changes := t.changes ++ [{ c with edge := c.edge.map (fun _ => nextEdge t) }] }, acc.2)
    else (t, acc.2.1 ++ c.credit.toList, acc.2.2 ++ noteOf acc.1 e c)
  due.foldl step (s0, [], [])

/-! ### The holder's state adopted (12 R289) -/

/-- STATE adopted by a tile. Lamps that it does not list have an age that has run out. -/
def adoptTile (s : State) (m : StateMsg) : State :=
  let s1 := { s with lamp := { s.lamp with lamps := [], rowPass := [] } }
  let s2 := setLamps s1 (m.lamps.map (fun x =>
    { lamp := x.lamp, openFail := x.openFail, shortFail := x.shortFail, openCnt := x.openCnt
      shortCnt := x.shortCnt, pass := x.age.map (fun a => lt s - a) }))
  let s3 := m.fields.foldl (fun t x =>
    match fieldAt t x.field with
    | some f => setField t { f with live := x.live, expired := x.expired, vstate := x.vstate
                                    data := x.words, deadline := x.deadline, due := false }
    | none => t) s2
  let s4 := m.regions.foldl (fun t x =>
    match heldRegion t x.region with
    | some r =>
      let soon := m.staged.any (fun y => match y.2.2 with | .region n st => n == x.region && st | _ => false)
      setHeld t { r with
        stale := x.stale, deadline := x.deadline, issue := x.issue, marked := x.stale && !soon
        staleAt := if x.stale then some (r.staleAt.getD (now s)) else r.staleAt
        es := if x.stale && !soon then some (r.es.getD (edgeOf s)) else r.es }
    | none => t) s3
  let new := m.staged.filter (fun x => !s4.changes.any (fun c => c.id == x.1))
  let add := new.map (fun x =>
    ({ id := x.1, what := x.2.2, ref := none, acc := now s, partner := none
       edge := some (nearClk (now s) x.2.1), credit := none } : EdgeChange))
  let s4 := add.foldl (fun t c => match c.what with
    | .expire n => (match fieldAt t n with | some f => setField t { f with exp := true } | none => t)
    | _ => t) s4
  let s5 := { s4 with
    lamp := { s4.lamp with policies := m.policies.map (fun x => ⟨x.1, x.2.1, x.2.2⟩) }
    img := { s4.img with coef := m.coef.boards.map (fun b => { g := b.g.map Int.toNat, x := b.x }) }
    changes := s4.changes ++ add
    pair := { s4.pair with adopt := none } }
  setF s5 tilSlg 15 0 m.coef.slg

/-- The adoption due at edge `e`. -/
def adoptDue (s : State) (e : Nat) : State :=
  match s.pair.adopt, s.pair.stateEdge with
  | some m, some x => if x ≤ e then adoptTile s m else s
  | _, _ => s

/-! ### The lamp current (17 R377, R379, R380) -/

/-- Since when the estimate has stayed at or below 3/4 of the budget. -/
def lowWatch (s : State) : State :=
  let low := decide (4 * lampI s ≤ 3 * (100000 * lampBudget s))
  { s with slu := { s.slu with
    lowSince := if low && !s.slu.raised then some (s.slu.lowSince.getD (lt s)) else none } }

/-- SLG′ of R379. -/
def lowerSlg (s : State) (i : Nat) : Nat :=
  let b : Int := Int.ofNat (100000 * lampBudget s)
  let base : Int := Int.ofNat (1000 * getF s pwrLamp 15 0)
  let n := b * 15 - 16 * base
  let d := Int.ofNat i - base
  if n ≤ 0 ∨ d ≤ 0 then 1024
  else max 1024 (Int.ofNat (getF s tilSlg 15 0) * n / (16 * d)).toNat

/-- A show withheld and the Sluice factor lowered from the next edge on (R379). -/
def holdShow (s : State) : State :=
  let v := lowerSlg s (lampI s)
  let e := nextEdge s
  let s1 := recordX (bump { s with lamp := { s.lamp with shows := none } } pwrLampHold) xLampHold
    [w32 (lampI s / 1000), w32 v]
  if !ownCoefs s1 then s1
  else
    let s2 := { s1 with img := { s1.img with slgNext := some (e, v) } }
    if named s2 then twinSend s2 (.coef (coefMsg e v (coefsSoon s2))) else s2

/-- The pass that runs ends (07 R154): credits return, and the current it leaves is compared with the
budget. -/
def endPass (s : State) (p : Pass) : State :=
  let back := creditReturn s (fun o => match o with | .recompute n => p.credits.contains n | _ => false)
  let s1 := { back with
    img := { back.img with pass := none }
    lamp := { back.lamp with lastWrite := now s } }
  if 100000 * lampBudget s1 < lampI s1 then lowWatch (holdShow s1) else lowWatch s1

/-- CORRECTION_PASS_END. -/
def execCorrectionPassEnd (s : State) : Out1 :=
  act s fun s =>
    match s.img.pass with
    | some p => endPass (toClk p.ends s) p
    | none => s

/-! ### The set of a pass and its values (07 R151 to R153, R161) -/

/-- k of R153: how many block rows the rewrite cursor walks at an edge. -/
def shareCount (s : State) : Nat :=
  let r := rate s
  cdiv (tileHt s * r.2 * 1000) (r.1 * max 1 (if 2 ≤ throttleStep s then 1000 else getF s tilRewrite 15 0))

/-- The block rows of the rewrite share of this edge (R153); a walk longer than the picture meets each row once. -/
def shareRows (s : State) : List Nat :=
  (List.range (min (tileHt s) (shareCount s))).map (fun i => (s.img.cursor + i) % max 1 (tileHt s))

/-- Whether a change is a board load, which loads the per-pixel matrix of its boards. -/
def isBoards (c : EdgeChange) : Bool := match c.what with | .boards _ => true | _ => false

/-- Whether changed inputs need a full recompute between two states (R152; 17 R380). A change of BDG.CFG.FLOOR needs
none (log 118, DESIGN CHOICE). -/
def needsFull (a b : State) : Bool :=
  let par (t : State) : List Word :=
    [rd t tilQk, rd t tilBright, rd t tilSlg]
      ++ (if avgInUse b then (List.range 5).map (fun k => rd t (tilAvgM + k)) else [])
  let loads (t : State) : Nat := (t.changes.filter isBoards).length
  par a != par b || a.bdg.test != b.bdg.test || a.img.pixm != b.img.pixm || loads a != loads b

/-- An image fault of block `b` (R161). -/
def imageFault (s : State) (b : Nat) : State :=
  let m := frontMap s
  let e := m.getD b entNone
  let s1 := bump (setFront s (m.set b { e with fault := true })) tilImgfault
  askResync (recordX s1 xImgFault [w32 b, e.bsig, w32 e.slot]) 1

/-- The group-rows of the pixels of a block. -/
def rowsOfBlock (s : State) (b : Nat) : List (Nat × Nat) :=
  let bx := b % max 1 (tileWt s)
  let by_ := b / max 1 (tileWt s)
  ((List.range 256).map (fun i => groupRow s (16 * bx + i % 16) (16 * by_ + i / 16))).eraseDups

/-- The block of a lamp. -/
def lampBlock (s : State) (n : Nat) : Nat :=
  let px := n / 3
  px / max 1 (picW s) / 16 * tileWt s + px % max 1 (picW s) / 16

/-- The lamp values that a pass writes: the store, or its back copy in S-mode (09 R203). -/
def passStore (s : State) : List (Nat × BitVec 16) := if lpMode (rd s) = 2 then s.lamp.back else s.lamp.store

/-- The values of the lamps that `hit` names replaced in the copy that a pass writes. -/
def replaceLamps (s : State) (hit : Nat → Bool) (vals : List (Nat × BitVec 16)) : State :=
  let new := vals.filter (fun e => e.2 != 0) ++ (passStore s).filter (fun e => !hit e.1)
  { s with lamp := if lpMode (rd s) = 2 then { s.lamp with back := new } else { s.lamp with store := new } }

/-- Lamp values of blocks written, and their group-rows marked (09 R203). -/
def writeLamps (s : State) (blocks : List Nat) (vals : List (Nat × BitVec 16)) : State :=
  let rows := if lpMode (rd s) = 1 then (blocks.flatMap (rowsOfBlock s)).eraseDups else []
  replaceLamps { s with lamp := { s.lamp with
      dirty := s.lamp.dirty ++ rows.filter (fun r => !s.lamp.dirty.contains r) } }
    (fun n => blocks.contains (lampBlock s n)) vals

/-- An image fault found on reading block `b` after its lamps were computed: in the pass that runs they keep the values
from before it (R161). -/
def readFault (s : State) (b : Nat) : State :=
  let s1 := match s.img.pass with
    | some p =>
      if p.blocks.contains b then
        let hit (n : Nat) : Bool := lampBlock s n == b
        replaceLamps s hit (p.before.filter (fun e => hit e.1))
      else s
    | none => s
  imageFault s1 b

/-- A pixel whose matrix word is read with an uncorrectable error (R163): counted, and computed with the tile-average
matrix, in the pass that runs and until its row is reloaded. -/
def pixelLost (s : State) (px : Nat) : State :=
  if s.img.lostPx.contains px then s
  else
    let s1 := { bump s tilMfault with img := { s.img with lostPx := px :: s.img.lostPx } }
    let x := px % max 1 (picW s)
    let y := px / max 1 (picW s)
    let b := y / 16 * tileWt s + x / 16
    let lamps := (List.range 3).map (lampNo s x y)
    match s1.img.pass with
    | some p => if p.blocks.contains b then
        match blockLamps s1 p.edge b with
        | some vals => replaceLamps s1 lamps.contains (vals.filter (fun e => lamps.contains e.1))
        | none => s1
      else s1
    | none => s1

/-- MATRIX_ROW_RELOAD (R163): the control cores reload the row of a pixel whose matrix word was read with an
uncorrectable error from the flash copy, or leave it on the tile-average matrix, until a later reload is good (log 116,
DESIGN CHOICE). -/
def execMatrixRowReload (at_ : PixelAt) (crcOk : Bool) (s : State) : Out1 :=
  act s fun s =>
    let row := at_.row
    let col := at_.col
    if s.id.sender || decide (picH s ≤ row) || decide (picW s ≤ col) then s
    else
      let s0 := pixelLost s (row * picW s + col)
      let s1 := { s0 with img := { s0.img with
        lostPx := s0.img.lostPx.filter (fun px => px / max 1 (picW s) != row) } }
      if crcOk then
        let new := cacheRow s1 row
        { s1 with img := { s1.img with
          avgRows := s1.img.avgRows.filter (· != row)
          matrix := new ++ s1.img.matrix.filter (fun e => !new.any (fun n => n.1 == e.1)) } }
      else
        recordX { s1 with img := { s1.img with avgRows := row :: s1.img.avgRows.filter (· != row) } }
          xMatrixFault [w32 row]

/-- The blocks of a pass computed at its edge `e`: lamp values, and faults found on reading. -/
def runPass (s : State) (e : Nat) (blocks : List Nat) : State :=
  let res := blocks.map (fun b => (b, blockLamps s e b))
  let good := res.filter (fun x => x.2.isSome)
  let bad := res.filter (fun x => x.2.isNone)
  let s1 := writeLamps s (good.map (·.1)) (good.flatMap (fun x => x.2.getD []))
  bad.foldl (fun t x => imageFault t x.1) s1

/-- Another request for a FAULT that persists, once the one before has led to a FULL delivery reported RECEIVED (R162). -/
def faultPersists (s : State) : State :=
  let coming := match s.img.open_ with | some o => o.full && o.recv.isSome | none => false
  if (frontMap s).any (·.fault) && !coming then askResync s 1 else s

/-- The set of a pass in raster order (R151). -/
def passBlocks (a b : State) (t : Nat) (swap mats : List Nat) (full : Bool) : List Nat :=
  let share := (shareRows b).flatMap (fun r => (List.range (tileWt b)).map (fun x => r * tileWt b + x))
  let sh := share.filter (fun k => !((frontMap b).getD k entNone).fault)
  let l := swap ++ itemsChanged a b t ++ marksChanged a b ++ sh ++ mats
  (List.range (tileNb b)).filter (fun k => full || l.contains k)

/-! ### The frame edge -/

/-- Deadlines reached by clock `e` that no command has handled yet: regions and fields. -/
def lateDeadlines (s : State) (e : Nat) : State :=
  let rs := s.weir.regions.filter (fun r => !r.stale
    && (match r.deadline with | some d => decide (d ≤ e) | none => false))
  let s1 := rs.foldl (fun t r => regionStale t r.set.region) s
  let fs := s1.bdg.fields.filter (fun f => !f.due
    && (match f.deadline with | some d => decide (d ≤ e) | none => false))
  fs.foldl (fun t f => expireSoon (setField t { f with due := true }) f.num) s1

/-- The coefficients and the Sluice factor that apply from an edge (07 R157; 12 R273). -/
def takeNext (s : State) (e : Nat) : State :=
  let s1 := match s.img.coefNext with
    | some (x, l) => if x ≤ e then { s with img := { s.img with coef := l, coefNext := none } } else s
    | none => s
  match s1.img.slgNext with
  | some (x, v) =>
    if x ≤ e then setF { s1 with img := { s1.img with slgNext := none } } tilSlg 15 0 v else s1
  | none => s1

/-- A pass that has ended by this edge is completed; one still running makes the edge unavailable for a
swap (R150). -/
def passAtEdge (s : State) (e : Nat) : State × Bool :=
  match s.img.pass with
  | none => (s, false)
  | some p =>
    if p.ends ≤ e then (endPass s p, false)
    else (recordX (bump s tilOverrun) xOverrun [wt32 e, w32 (p.ends - e)], true)

/-- The swap of a FULL delivery, which ends what row 3 of R284 waits for. A resynchronising standby that has adopted STATE
and swapped a FULL delivery, in either order, then only waits for a comparable show instant (12 R289). -/
def resyncSwap (a b : State) : State :=
  let full := match a.img.open_ with
    | some o => o.full && b.img.applied == some o.frame
    | none => false
  let b1 := if full then
      { b with pair := { b.pair with fullDone := true, fullWait := false } }
    else b
  if b1.pair.resyncing && b1.pair.fullDone && b1.pair.stateEdge.isSome && b1.pair.adopt.isNone then
    { b1 with pair := { b1.pair with resyncDone := true } }
  else b1

/-- The reduced image (15 R348) is entered at an edge: the quarter store with its empty maps, and every region STALE. A
tile whose handover has ended asks for its content here. -/
def reduceDue (s : State) : State :=
  if s.img.reduce = 0 ∨ (s.img.reduce = 2 ∧ s.pair.handover.isSome) then s
  else
    let s1 := quarterBanks { s with img := { s.img with
      qInUse := true, reduce := 0, redo := List.range (tileNb s) } } true
    let s2 := (s1.weir.regions.map (fun r => r.set.region)).foldl regionStale s1
    if s.img.reduce = 2 then askResync s2 1 else s2

/-- The image and its changes at edge `e`: the delivery, the regions, the due changes, the staged matrix
writes; then the notifications in the order in which their commands were accepted (02 R48). What comes back are the
blocks of the swap, those of the matrix writes, and credits. -/
def edgeChanges (s : State) (e : Nat) (busy : Bool) : State × List Nat × List Nat × List Nat :=
  let s1 := lateDeadlines (reduceDue (adoptDue s e)) e
  let (s2, swap) := edgeDelivery s1 e busy
  let s3 := policyCheck (markWaiting (lateDeadlines (applyRegionSets (resyncSwap s1 s2) e) e) e)
  let (s4, credits, notes) := applyDue (takeNext s3 e) e
  let mats := s4.img.staging.flatMap (matrixBlocks s4) ++ s4.img.redo
  let s5 := s4.img.staging.foldl applyMatrix { s4 with img := { s4.img with staging := [], redo := [] } }
  let all := notes ++ s4.img.staging.map (fun w => (w.ref, stOk))
  ((inPassedOrder s5 all).foldl (fun t n => notify t n.1 n.2 []) s5, swap, mats, credits)

/-- The show of edge `e` scheduled (09 R204). -/
def scheduleShow (s : State) (e : Nat) : State :=
  if lpMode (rd s) = 0 then s
  else
    let n := showOf s e
    { s with lamp := { s.lamp with
      shows := some { edge := e, show_ := n, cutoff := cutoffOf s n, moved := false, met := false, lights := false } } }

/-- The dark refresh of a timing-mode change (09 R215). -/
def timingChange (a b : State) : State :=
  if timingWords a != timingWords b && a.lamp.on then
    let s1 := { b with lamp := { b.lamp with darkRefresh := true } }
    if lpMode (rd s1) = 1 then syncAt (configAt s1 (lt s1 - xferNs (rd s1))) (lt s1) else s1
  else { b with lamp := { b.lamp with darkRefresh := false } }

/-- A refresh in progress at the first edge after a step ends there, and its remaining row slots stay dark (11 R257): `a`
is the state before the edge. -/
def cutRefresh (a b : State) (e : Nat) : State :=
  if a.time.stepWait && a.lamp.on && decide (0 < a.lamp.refEdge) && decide (e < refreshAt a (edgeOf a) a.lamp.refEdge) then
    endSlots { b with lamp := { b.lamp with
      lit := false, darkRefresh := true, dark := if b.pair.outputs then some (lt b, 0) else none } }
  else b

/-- PROOF and PROOF_AGE as the edge finds them: a change of them applies at the next edge (R215). -/
def takeProof (s : State) : State :=
  { s with lamp := { s.lamp with proofW := rd s lmpProof, ageW := rd s lmpProofAge } }

/-- Lamp drive at start-up (18 R391). -/
def autodrive (s : State) : State :=
  if !s.boot.autodrive then s
  else
    let s1 := { s with boot := { s.boot with autodrive := false } }
    if lpMode (rd s1) = 0 ∨ s1.lamp.drive = true then s1
    else match driveCheck s1 with
      | some (st, _) => recordX s1 xBoot [w32 st]
      | none => driveOn s1 none

/-- FRAME_EDGE at edge `e`. -/
def frameEdgeAt (s0 : State) (e : Nat) : State :=
  let (s1, busy) := passAtEdge (readsTo s0) e
  let s2 := bump { s1 with
    time := { s1.time with lastEdge := some (e, lt s1), stepWait := false }
    lamp := { s1.lamp with refEdge := 0 } } tilEdges
  let (s3, swap, mats, credits) := edgeChanges s2 e busy
  let s4 := takeProof (cutRefresh s0 (timingChange s2 s3) e)
  let full := !s4.boot.firstPass || needsFull s2 s4
  let blocks := if s4.img.reduce = 0 then passBlocks s2 s4 e swap mats full else []
  let rows := shareRows s4
  let before := passStore s4
  let s5 := faultPersists (runPass s4 e blocks)
  let begin_ := match s5.img.pass with | some p => max p.ends e | none => e
  let held := match s5.img.pass with | some p => p.credits | none => []
  let s6 := { s5 with
    boot := { s5.boot with firstPass := true }
    bdg := { s5.bdg with drawn := some (e, s5.time.has) }
    img := { s5.img with
      cursor := (s5.img.cursor + shareCount s4) % max 1 (tileHt s5)
      pass := some { edge := e, blocks := blocks, full := full
                     ends := begin_ + 1500 + 128 * blocks.length, credits := held ++ credits
                     before := before } } }
  let s7 := scheduleShow s6 e
  let s8 := if rows.contains 0 then recompute s7 (nextEdge s7) (boardsOn s7) else s7
  fullService (autodrive (enterDue (pairCheck s8) e))

end Sys2Proof.Machine
end

