-- ==== Sys2Proof/Machine/Owl.lean ====
section
/-! DEFINITION. Owl, the freeze watch of a sender (10 R231 to R234). -/

namespace Sys2Proof.Machine

def owNum (w : List Word) : Nat := fld (w.getD 0 0) 31 24
def owEn (w : List Word) : Bool := bit (w.getD 0 0) 23
def owStream (w : List Word) : Nat := fld (w.getD 0 0) 22 17
def owSx (w : List Word) : Nat := fld (w.getD 1 0) 31 16
def owSy (w : List Word) : Nat := fld (w.getD 1 0) 15 0
def owSw (w : List Word) : Nat := fld (w.getD 2 0) 31 16
def owSh (w : List Word) : Nat := fld (w.getD 2 0) 15 0
def owTowl (w : List Word) : Nat := fld (w.getD 3 0) 31 12
def owLink (w : List Word) : Nat := fld (w.getD 3 0) 11 0

/-- A watch by number. -/
def watchOf (s : State) (n : Nat) : Option Watch := s.flume.watches.find? (fun w => w.num == n)

/-- The Owl load of a watch in samples per second, as a fraction; 0 where its stream is gone. -/
def owlLoad (s : State) (w : List Word) : Nat × Nat :=
  match streamOf s (owStream w) with
  | some x => (owSw w * owSh w * sdS x.words * sdNum x.words, max 1 (sdDen x.words))
  | none => (0, 1)

/-- Whether a watch may be defined (R231). -/
def owlOk (s : State) (w : List Word) : Bool :=
  match streamOf s (owStream w) with
  | none => false
  | some x =>
    let even := sdSamp x.words != 0 || (owSx w % 2 == 0 && owSw w % 2 == 0)
    let others := (s.flume.watches.filter (fun v => v.num != owNum w)).map (fun v => owlLoad s v.words)
    even && decide (2 ≤ owSw w ∧ owSw w ≤ 16384) && decide (1 ≤ owSh w ∧ owSh w ≤ 8640)
      && decide (100 ≤ owTowl w ∧ owTowl w ≤ 600000)
      && (owLink w == 0xFFF || (regionOf s (owLink w)).isSome)
      && fracSumLe (owlLoad s w :: others) 1000000000

/-- OWL_WATCH (R231): a watch that is enabled begins anew. Its reserved bits are held as 0 (00 R4). -/
def owlWatchRule : Handler := withLen 4 fun _ p s =>
  let w := p.payload.modify 0 (fun x => x &&& 0xFFFE0000)
  let rest := s.flume.watches.filter (fun v => v.num != owNum w)
  let frozen := s.flume.watches.any (fun v => v.num == owNum w && v.st == 2)
  let with_ (l : List Watch) : State :=
    let t := keepSettings { s with flume := { s.flume with
      watches := l, owlQueue := s.flume.owlQueue.filter (fun e => e.1 != owNum w) } }
    if frozen then owlThawed t (owNum w) none else t
  if !owEn w then .ok (with_ rest) []
  else if !owlOk s w then .no s stBadParam
  else
    let x : Watch := { num := owNum w, words := w, since := now s, wsig := none, st := 1 }
    .ok (with_ (x :: rest)) []

def execOwlWatch (p : Smb) (s : State) : Out1 := smibenRow 0x0420 owlWatchRule p s

/-- OWL_READ (R231). -/
def owlReadRule : Handler := withLen 1 fun _ p s =>
  match watchOf s (fld (pw p 0) 31 24) with
  | some w => .ok s w.words
  | none => .no s stNotInState

def execOwlRead (p : Smb) (s : State) : Out1 := smibenRow 0x0421 owlReadRule p s

/-- OWL.STS_w (R240). -/
def owlStsWord (s : State) (n : Nat) : Word :=
  match watchOf s n with
  | some w => mkFld 31 30 w.st ||| w32 (min 16777215 ((now s - w.since) / 10 ^ 6))
  | none => 0

/-- WSIG of a frame (R232): none where the rectangle does not fit the stream's frame. -/
def wsig (w words : List Word) (f : SrcSlot) : Option Word :=
  if sdWidth words < owSx w + owSw w ∨ sdHeight words < owSy w + owSh w then none
  else
    let k := sdS words
    some (crc32c (packSamps ((List.range (owSh w)).flatMap fun r =>
      let line := (look (owSy w + r) f.lines).getD []
      (List.range (k * owSw w)).map (fun i => (look (k * owSx w + i) line).getD 0))))

/-- A watch replaced. -/
def setWatch (s : State) (w : Watch) : State :=
  { s with flume := { s.flume with
    watches := s.flume.watches.map (fun v => if v.num = w.num then w else v) } }

/-- OWL_CHECK (R232 to R234): the frame queued for a watch is checked. -/
def execOwlCheck (n : Nat) (s : State) : Out1 :=
  act s fun s =>
    match watchOf s n, s.flume.owlQueue.find? (fun e => e.1 == n) with
    | some w, some (_, id, ts) =>
      let s1 := { s with flume := { s.flume with
        owlQueue := s.flume.owlQueue.filter (fun e => e.1 != n) } }
      let frame := (streamOf s id).bind (fun x =>
        (x.slots.find? (fun y => y.ts == ts && (y.st == .ready || y.st == .reading))).bind
          (fun f => (wsig w.words f.words f).map (fun v => (v, f.readyAt))))
      match frame with
      | none => s1
      | some (v, at_) =>
        if w.wsig = some v then s1
        else
          let s2 := setWatch s1 { w with wsig := some v, since := at_, st := 1 }
          if w.st = 2 then owlThawed s2 n (some v) else s2
    | _, _ => s

/-- OWL_FREEZE (R233, R234): TOWL after the last change. -/
def execOwlFreeze (n : Nat) (s : State) : Out1 :=
  act s fun s =>
    match watchOf s n with
    | none => s
    | some w =>
      if w.st ≠ 1 then s
      else
        let s1 := toClk (w.since + owTowl w.words * 10 ^ 6) s
        owlFrozen (setWatch s1 { w with st := 2 }) w

/-! ### Proof messages as words (R236, R238) -/

/-- The 32 bytes of a PROOF (R236). -/
def proofBytes (m : ProofMsg) : List Byte :=
  let f (b : Bool) (v : Nat) : Nat := if b then v else 0
  [0x22, BitVec.ofNat 8 (f m.faults 128 + f m.pixm 64 + f m.lit 32 + f m.holder 16)]
    ++ bytesOf 2 m.na ++ bytesOf 2 m.frame ++ bytesOf 2 m.stale ++ bytesOf 4 m.show_
    ++ bytesOf 4 m.mapsig ++ bytesOf 4 m.lsum ++ bytesOf 4 m.fsig ++ bytesOf 2 m.wdrawn
    ++ [m.epoch, m.service] ++ List.replicate 4 0

/-- The eight words of a PROOF; zero words where there is none. -/
def proofWords (m : Option ProofMsg) : List Word :=
  match m with
  | some m => wordsOfBytes (proofBytes m)
  | none => List.replicate 8 0

/-- PROOF_READ (R238). -/
def proofReadRule : Handler := fun _ p s =>
  if s.id.sender then
    if p.payload.length ≠ 1 then .no s stBadLength
    else
      let na : BitVec 16 := BitVec.ofNat 16 (fld (pw p 0) 15 0)
      let x := proofOf s na
      let n := match rectOf s na with | some r => r.wtb * r.htb | none => 0
      match x.last with
      | none => .ok s (w32 2 :: 0 :: proofWords none)
      | some m => .ok s (w32 x.verdict :: expectedSig x n :: proofWords (some m))
  else if p.payload.length ≠ 0 then .no s stBadLength
  else .ok s (proofWords s.weir.proof)

def execProofRead (p : Smb) (s : State) : Out1 := smibenRow 0x0440 proofReadRule p s

end Sys2Proof.Machine
end

