-- ==== Sys2Proof/Machine/Twin.lean ====
section
/-! DEFINITION. The twin pair: OWN_N, claims and leases, checks, the twin's messages, edges named by the
holder, output comparison, resolution, handover and resynchronisation (12), and the show instant with
its PROOF and CMP (09 R204; 10 R236). -/

namespace Sys2Proof.Machine

/-! ### OWNFAULT and STUCK (R272, R279) -/

/-- OWNFAULT set for a cause: 0 pad activity, 1 HELD = 1 while OWN_N reads high. -/
def ownFaultSet (s : State) (cause : Nat) (absent : Option Nat) : State :=
  let s1 := { s with pair := { s.pair with ownFault := true, ownCause := cause, absent := absent } }
  if s.pair.ownFault then s1 else recEvent s1 .wall 0x0801 [w32 (1 + 2 * cause), nowW s1]

/-- OWNFAULT cleared once its cause has been absent for tGUARD. -/
def ownFaultTick (s : State) : State :=
  match s.pair.absent with
  | some t =>
    if s.pair.ownFault = true ∧ t + guardNs ≤ lt s then
      recEvent { s with pair := { s.pair with ownFault := false, absent := none } } .wall 0x0801
        [w32 (2 * s.pair.ownCause), nowW s]
    else s
  | none => s

/-- The cause HELD = 1 of OWNFAULT has gone. -/
def heldGone (s : State) : State :=
  if s.pair.ownFault && s.pair.ownCause == 1 && s.pair.absent.isNone then
    { s with pair := { s.pair with absent := some (lt s) } }
  else s

/-- STUCK set or cleared. -/
def setStuck (s : State) (on : Bool) : State :=
  if s.pair.stuck = on then s
  else recEvent { s with pair := { s.pair with stuck := on } } .both 0x0802 [flagAt on 0, nowW s]

/-- How long the twin has been silent. -/
def silentNs (s : State) : Nat := match s.pair.beat with | some (_, t) => lt s - t | none => lt s

/-- STUCK by silence: OWN_N low, not pulled here, and no heartbeat for tLEASE + tGUARD. -/
def stuckCheck (s : State) : State :=
  if s.pair.high then setStuck s false
  else if !s.pair.pull && decide (leaseNs s + guardNs ≤ silentNs s) then setStuck s true
  else s

/-! ### OWN_N, the guard and the pad check (R268, R272) -/

/-- OWN_N_CHANGE: the level the device now senses. -/
def execOwnNChange (high : Bool) (s : State) : Out1 :=
  act s fun s =>
    let s1 := { s with pair := { s.pair with high := high } }
    if high then
      let s2 := setStuck s1 false
      if s2.pair.pull then s2
      else
        let s3 := { s2 with pair := { s2.pair with
          guard := some (lt s2)
          gapFrom := some (s2.pair.gapFrom.getD (lt s2 - 80)) } }
        match s3.pair.token with
        | some (a, b) =>
          if a ≤ now s3 ∧ now s3 ≤ b ∧ mayClaim s3 = true then startClaim s3 true else s3
        | none => s3
    else
      let s2 := heldGone { s1 with pair := { s1.pair with
        guard := none, gapFrom := if s1.pair.pull then s1.pair.gapFrom else none } }
      stuckCheck (driveBegin (ownFaultTick s2))

/-- PAD_ACTIVITY: an edge on LGCK[0] or LROW_EN_N during a guard of a tile (R272). -/
def execPadActivity (s : State) : Out1 :=
  act s fun s =>
    if s.id.sender || s.pair.guard.isNone || s.pair.holding || s.pair.claim.isSome then s
    else
      let s1 := bump { s with pair := { s.pair with guard := some (lt s) } } pairClaimLost
      ownFaultSet s1 0 (some (lt s))

/-- GUARD_END: OWN_N has read high for tGUARD (R268). -/
def execGuardEnd (s : State) : Out1 :=
  act s fun s =>
    match s.pair.guard with
    | none => s
    | some g =>
      let s1 := ownFaultTick (toLt (g + guardNs) s)
      if s1.pair.high && mayClaim s1 then startClaim s1 false else s1

/-! ### Arbitration, the lease and the resumption of display (R268, R269, R275 to R278) -/

/-- The holder names the edges of the changes for which it has both ticks (R280). -/
def nameHeld (s : State) : State :=
  (s.changes.filter (fun c => c.edge.isNone && shared s.id.sender c.what)).foldl (fun t c =>
    match c.partner with
    | none => t
    | some w =>
      let e := edgeFor t c.what (nearClk (now t) (laterW (wt32 c.acc) w))
      twinSend (setChange t (fun x => x == c) (fun x => { x with edge := some e })) (.edgeSet c.id (wt32 e)))
    s

/-- Display resumes in lockstep at the first row-slot boundary, in S-mode at the second (R275). -/
def resumeLockstep (s : State) : State :=
  let b := rowBoundary s (now s)
  let c := if lpMode (rd s) = 2 then rowBoundary s (b + 4) else b
  let s1 := toClk c (pulsesBefore (lt s + (c - now s)) s)
  if s1.lamp.on && !s1.lamp.darkRefresh then
    { s1 with lamp := { s1.lamp with
      lit := true, slots := if s1.lamp.slots.isEmpty then rowSlots s1 [] else s1.lamp.slots
      dark := some (s1.lamp.refStart + 4 * lpScan (rd s1) * lpSlot (rd s1), 0) } }
  else s1

/-- A cold takeover (R278): CONFIG and SYNC, and every group-row to be written; display resumes with the
next refresh. -/
def resumeCold (s : State) : State :=
  if s.lamp.granted then driveBegin s
  else
    let s1 := if lpMode (rd s) = 1 then sendConfig s else s
    { s1 with lamp := { s1.lamp with dirty := if lpMode (rd s1) = 1 then allRows s1 else [] } }

/-- The outputs of a tile enabled in the idle state, 32 cycles after its claim is won. -/
def enableOutputs (start : Nat) (s : State) : State :=
  let s1 := toLt (start + 1408) s
  let s2 := match s1.pair.gapFrom with
    | some t => wr s1 pairGap (w32 (sat32 (lt s1 - t)))
    | none => s1
  emit { s2 with
    pair := { s2.pair with outputs := true, gapFrom := none }
    lamp := { s2.lamp with lit := false, dark := some (lt s2, 0) } } (.lamp .idle)

/-- What follows a claim that is won: the handover it completes, the end of a step hold, and the
edges this twin now names. -/
def afterClaim (s : State) : State :=
  let done := match s.pair.handover with | some h => !h.holder | none => false
  let s1 := if done then
      bump { s with pair := { s.pair with handover := none } } pairHandovers
    else s
  let s2 := if s1.pair.mode = 3 then leaveLockstep s1 1
    else if done && s1.pair.verdictSwap then leaveLockstep s1 5 else s1
  let s3 := pairCheck { s2 with pair := { s2.pair with verdictSwap := false } }
  if s3.pair.mode = 1 then nameHeld s3 else s3

/-- A claim that is won (R268). -/
def claimWon (s : State) (start : Nat) : State :=
  let lock := named s
  let s1 := bump { s with pair := { s.pair with
    holding := true, claim := none, guard := none, high := false, pull := true
    lease := some (lt s + leaseNs s) } } pairClaims
  if s1.id.sender then afterClaim s1
  else
    let s2 := enableOutputs start s1
    afterClaim (if lock then resumeLockstep s2 else resumeCold s2)

/-- A claim that side B lost (R268): it has let OWN_N go at cycle 64. -/
def claimLost (s : State) : State :=
  bump { s with pair := { s.pair with
    claim := none, pull := false, high := false, guard := some (lt s), gapFrom := none
    handover := none } } pairClaimLost

/-- The arbitration slot of side B: OWN_N let go at cycle 64, and pulled again at cycle 320 where the claim is won. -/
def arbitrateB (s : State) (start : Nat) (sampledLow : Bool) : State :=
  let s1 := toLt (start + 256) s
  let s2 := toLt (start + 1280) (emit { s1 with pair := { s1.pair with pull := false } } (.pin pinOwnN true))
  if sampledLow then claimLost s2 else claimWon (emit s2 (.pin pinOwnN false)) start

/-- CLAIM_ARBITRATION: cycles 64 to 320 of a claim; `sampledLow` is what side B sampled. -/
def execClaimArbitration (sampledLow : Bool) (s : State) : Out1 :=
  act s fun s =>
    match s.pair.claim with
    | none => s
    | some c =>
      if s.id.side == .B then arbitrateB s c.start sampledLow
      else claimWon (toLt (c.start + 1280) s) c.start

/-- A lease that expires (R269, R270). -/
def expireLease (s : State) : State := pairCheck (bump (abortHandover (release s)) pairExpired)

/-- LEASE_RENEWAL: a renewal every tLEASE / 4; one in the expiry tick is late (R269). -/
def execLeaseRenewal (s : State) : Out1 :=
  act s fun s =>
    match s.pair.lease with
    | none => s
    | some d =>
      let s1 := toLt (d - leaseNs s * 3 / 4) s
      if d ≤ lt s1 then expireLease s1
      else if chkAll s1 && s1.pair.pull && !s1.pair.high then
        { s1 with pair := { s1.pair with lease := some (lt s1 + leaseNs s1) } }
      else s1

/-- LEASE_EXPIRY (R269, R276). -/
def execLeaseExpiry (s : State) : Out1 :=
  act s fun s =>
    match s.pair.lease with
    | none => s
    | some d => expireLease (toLt d s)

/-! ### The checks (R271) -/

/-- Bit `b` of PAIR.CHK set to `on`. -/
def setChk (s : State) (b : Nat) (on : Bool) : State :=
  let m : BitVec 6 := BitVec.ofNat 6 (2 ^ b)
  { s with pair := { s.pair with chk := if on then s.pair.chk ||| m else s.pair.chk &&& ~~~m } }

/-- A fatal check that falls releases drive at once. -/
def fatalFall (s : State) (b : Nat) : State :=
  let s1 := setChk s b false
  pairCheck (if s1.pair.holding || s1.pair.pull then bump (abortHandover (release s1)) pairFatal else s1)

/-- FATAL_CHECK_FAIL: LPCHK (bit 1) or CLK (bit 3). -/
def execFatalCheckFail (b : Nat) (s : State) : Out1 :=
  act s fun s => if b = 1 ∨ b = 3 then fatalFall s b else s

/-- FW as it stands: the health word is fresh and the last known-answer test passed. -/
def fwCheck (s : State) : State := pairCheck (setChk s 4 (s.pair.health && s.pair.katPass))

/-- HEALTH_CHECK_TIMEOUT: the health word of firmware, or the watchdog of a control core, is missed
within tLEASE / 2. -/
def execHealthCheckTimeout (fw : Bool) (s : State) : Out1 :=
  act s fun s =>
    let s1 := toLt (s.pair.lastHealth + leaseNs s / 2) s
    if fw then fwCheck { s1 with pair := { s1.pair with health := false } }
    else pairCheck (setChk s1 0 false)

/-- PIPELINE_KAT_TIMER: the known-answer test of each second. -/
def execPipelineKatTimer (pass : Bool) (s : State) : Out1 :=
  act s fun s =>
    let s1 := toLt (s.pair.lastKat + 10 ^ 9) s
    fwCheck { s1 with pair := { s1.pair with katPass := pass, lastKat := lt s1 } }

/-! ### Resynchronisation (R289) -/

/-- A sender puts every tile of its rail into RESYNC (R288). -/
def resyncRail (s : State) : State := s.canvas.rects.foldl (fun t r => resyncAll t r.na) s

/-- Whether the twin is known to run this device's firmware version: twins of different versions run cold (R290). -/
def sameFw (s : State) : Bool :=
  match s.pair.hello with
  | some h => h.fwver == s.fl.fw.version
  | none => false

/-- A standby that is not in lockstep and whose LOCK is 1 begins to resynchronise. -/
def startResync (s : State) : State :=
  if s.pair.holding || s.pair.high || named s || s.pair.resyncing || s.pair.resyncDone
      || !bit (rd s pairCfg) 1 || !portUp s 8 || !sameFw s then s
  else
    let s1 := { s with pair := { s.pair with
      resyncing := true, stateEdge := none, adopt := none, fullDone := false, enterEdge := none } }
    let s2 := setMode s1 2 (whyNow s1)
    let req := [(0x21 : Byte)] ++ bytesOf 2 (naOr0 s2) ++ [3, 0, 0, 0, 0]
    let s3 := linkSend s2 8 (.bytes 3 false true (placeRoute s2) s2.id.side req)
    if s3.id.sender then resyncRail s3 else askResync s3 3

/-- The holder's copy of its state (R289), to be adopted at edge `e`. -/
def stateMsg (s : State) (e : Nat) : StateMsg :=
  let commits := s.changes.filter (fun c => match c.what with | .commit _ _ _ => true | _ => false)
  let others := s.changes.filter (fun c => match c.what with | .commit _ _ _ => false | _ => true)
  let at_ (c : EdgeChange) : Word := wt32 (c.edge.getD (edgeFor s c.what c.acc))
  { lamps := if s.id.sender then [] else (List.range (lampCount s)).map (fun n => lampEnt s (lampX s n))
    fields := s.bdg.fields.map (fun f =>
      { field := f.num, live := f.live, expired := f.expired, vstate := f.vstate, words := f.data
        deadline := f.deadline })
    regions := s.weir.regions.map (fun r =>
      { region := r.set.region, stale := r.stale, deadline := r.deadline, issue := r.issue })
    policies := s.lamp.policies.map (fun p => (p.region, p.pol, p.inFault))
    coef := coefMsg e (slgSoon s) (coefsSoon s)
    staged := others.map (fun c => (c.id, at_ c, c.what))
    edge := wt32 e
    held := s.canvas.held
    waiting := commits.map (fun c => (at_ c, match c.what with | .commit _ _ l => l | _ => []))
    owl := s.flume.watches.map (fun w => (w.num, now s - w.since, w.st == 2)) }

/-- The holder answers a resynchronisation request with STATE. -/
def sendState (s : State) : State :=
  if !s.pair.holding || !sameFw s then s
  else
    let e := edgeAfter s (now s)
    let s1 := setMode { s with pair := { s.pair with stateEdge := some e, resyncDone := false, enterEdge := none } } 2 5
    twinSend s1 (.state (stateMsg s1 e))

/-- STATE_RECEIVED: the standby adopts the copy at the edge it names. -/
def execStateReceived (m : StateMsg) (s : State) : Out1 :=
  act s fun s =>
    if s.pair.holding || !s.pair.resyncing then s
    else { s with pair := { s.pair with adopt := some m, stateEdge := some (nearClk (now s) m.edge) } }

/-! ### HELLO and heartbeats (R273, R274) -/

/-- HELLO as the device would send it now. -/
def helloNow (s : State) : HelloMsg :=
  { side := s.id.side, role := if s.id.sender then 1 else 0, fwver := s.fl.fw.version
    flHigh := s.fl.fw.flHigh, flLow := ownLow s, smHigh := s.fl.fw.smbHigh
    smLow := s.fl.fw.smbHigh - 1
    place := placeRoute s, cfgsig := cfgsigNow s, lock := bit (rd s pairCfg) 1 }

/-- HELLO sent, after a training of TW or in its turn. -/
def sendHello (s : State) : State :=
  twinSend { s with pair := { s.pair with lastHello := lt s } } (.hello (helloNow s))

/-- HELLO_SEND: 1 s after the last one. -/
def execHelloSend (s : State) : Out1 :=
  act s fun s => sendHello (toLt (s.pair.lastHello + 10 ^ 9) s)

/-- The place word the twin last reported. -/
def twinAt (s : State) : Option (BitVec 40) :=
  match s.pair.hello with
  | some h => some h.place
  | none => ((portAt s 8).bind (·.partner)).map (·.place)

/-- Whether the twin is known to report another place word (01 R17). A tile that has not learned its place from its UP
yet has none to compare, and one that says HOP 0 has none to report (log 108). -/
def placeDiffers (s : State) : Bool :=
  match twinAt s with
  | some p => p != placeRoute s && (s.id.sender || (s.id.placeOk && p != 0))
  | none => false

/-- The heartbeat the device would send now. -/
def beatNow (s : State) : BeatMsg :=
  { held := s.pair.holding, ownLow := !s.pair.high, chk := chkNow s, mode := s.pair.mode
    lastEdge := match s.time.lastEdge with | some (c, _) => wt32 c | none => 0 }

/-- CORE of PAIR.CHK passes again once the four control cores have serviced their watchdogs, which no command carries: a
free value of each heartbeat that the control complex sends while CORE is low (log 49). -/
def coreBack (s : State) : State :=
  if s.pair.chk.getLsbD 0 then s
  else
    let (k, s1) := takeFree s
    if Config.coresServed k then setChk s1 0 true else s1

/-- HEARTBEAT_SEND: every tLEASE / 4, with the health word of firmware (21 R445). -/
def execHeartbeatSend (s : State) : Out1 :=
  act s fun s =>
    let s1 := toLt (s.pair.lastBeat + leaseNs s / 4) s
    let hb := !s1.gpio.hbeat
    let s2 := emit { s1 with
      gpio := { s1.gpio with hbeat := hb }
      pair := { s1.pair with health := true, lastHealth := lt s1, lastBeat := lt s1 } } (.pin pinHealth hb)
    let s3 := stuckCheck (ownFaultTick (coreBack (setChk s2 4 s2.pair.katPass)))
    twinSend s3 (.beat (beatNow s3))

/-- A released handover whose new holder is seen to hold; after a verdict the former holder
resynchronises. -/
def handoverSeen (s : State) : State :=
  match s.pair.handover with
  | some h =>
    if h.released && h.holder then
      let s1 := handoverDone s h
      if h.cause == some .verdict then
        startResync (leaveLockstep { s1 with pair := { s1.pair with verdictSwap := false } } 5)
      else s1
    else s
  | none => s

/-- HEARTBEAT_RECEIVED. -/
def execHeartbeatReceived (m : BeatMsg) (s : State) : Out1 :=
  act s fun s =>
    let s1 := { s with pair := { s.pair with beat := some (m, lt s), hbLost := false } }
    let s2 := if m.held && s1.pair.high && !s1.pair.holding then ownFaultSet s1 1 none else heldGone s1
    let s3 := ownFaultTick s2
    let s4 := if m.held || s3.pair.high then setStuck s3 false
      else if !s3.pair.pull then setStuck s3 true else s3
    let s5 := if m.held then handoverSeen s4 else s4
    let s6 := if s5.pair.mode = 1 ∧ m.mode = 0 then leaveLockstep s5 5 else s5
    pairCheck s6

/-- HEARTBEAT_LOSS: no heartbeat for tLEASE (R274). -/
def execHeartbeatLoss (s : State) : Out1 :=
  act s fun s =>
    match s.pair.beat with
    | none => s
    | some (_, t) =>
      if s.pair.hbLost then s
      else
        let s1 := toLt (t + leaseNs s) s
        let s2 := heldGone (bump { s1 with pair := { s1.pair with hbLost := true } } pairHblost)
        if s2.pair.mode ≠ 1 then stuckCheck s2
        else if s2.pair.holding then leaveLockstep s2 1
        else
          setMode { s2 with pair := { s2.pair with
            holdUntil := some (lt s2 + leaseNs s2 + guardNs) } } 3 1

/-- STEP_HOLD_END (R274). -/
def execStepHoldEnd (s : State) : Out1 :=
  act s fun s =>
    match s.pair.holdUntil with
    | none => s
    | some d => if s.pair.mode ≠ 3 then s else stuckCheck (leaveLockstep (toLt d s) 1)

/-! ### Edges in lockstep (R280) -/

/-- ACCEPT_RECEIVED: the holder names the edge of a change whose two ticks it has. -/
def execAcceptReceived (id : ChangeId) (tick : Word) (s : State) : Out1 :=
  act s fun s =>
    if s.pair.mode ≠ 1 then s
    else match s.changes.find? (waitsFor id) with
      | none => { s with pair := { s.pair with early := s.pair.early ++ [(id, tick)] } }
      | some c =>
        renewPaired (if s.pair.holding then nameEdge s c tick
          else setChange s (waitsFor id) (fun x => { x with partner := some tick })) c tick

/-- AGREE_TIMEOUT: the twin's ACCEPT has not come within PAIR.AGREE of the holder's own. -/
def execAgreeTimeout (id : ChangeId) (s : State) : Out1 :=
  act s fun s =>
    if s.pair.mode ≠ 1 ∨ s.pair.holding = false then s
    else match s.changes.find? (fun c => waitsFor id c && shared s.id.sender c.what) with
      | none => s
      | some c =>
        let s1 := toClk (c.acc + 10 ^ 6 * getF s pairAgree 15 0) s
        let e := edgeFor s c.what c.acc
        leaveLockstep (setChange s1 (waitsFor id) (fun x => { x with edge := some e })) 5

/-- The edge at which lockstep begins, as the holder named it; one that has come is late, and the standby resynchronises
again. -/
def enterNamed (s : State) (e : Nat) : State :=
  if e ≤ now s then
    startResync (bump { s with pair := { s.pair with resyncDone := false, resyncing := false } } pairEdgelate)
  else { s with pair := { s.pair with resyncDone := true, resyncing := false, enterEdge := some e } }

/-- EDGE_SET_RECEIVED: the edge the holder named; one that has come is late. Change ID 0 names no change but the edge at
which lockstep begins (log 129). -/
def execEdgeSetReceived (id : ChangeId) (edge : Word) (s : State) : Out1 :=
  act s fun s =>
    if id = 0 ∧ s.pair.mode = 2 ∧ s.pair.holding = false ∧ s.pair.resyncDone = true then
      enterNamed s (nearClk (now s) edge)
    else if s.pair.mode ≠ 1 ∨ s.pair.holding = true then s
    else
      let e := nearClk (now s) edge
      let s1 := setChange s (fun x => x.id == id && x.edge.isNone) (fun x => { x with edge := some e })
      if e ≤ now s1 then leaveLockstep (bump s1 pairEdgelate) 5 else s1

/-- COEF_RECEIVED: a standby in lockstep adopts the coefficients and the Sluice factor (07 R157;
17 R380). -/
def execCoefReceived (m : CoefMsg) (s : State) : Out1 :=
  act s fun s =>
    if s.id.sender || ownCoefs s then s
    else
      let e := nearClk (now s) m.edge
      { s with img := { s.img with
        coefNext := some (e, m.boards.map (fun b => { g := b.g.map Int.toNat, x := b.x }))
        slgNext := some (e, m.slg) } }

/-! ### The state of the lamps from the holder (R273) -/

/-- LAMPSTATE_RECEIVED: a standby in lockstep adopts failures and ages (09 R210). -/
def execLampstateReceived (ents : List LampEnt) (s : State) : Out1 :=
  act s fun s =>
    if s.id.sender || s.pair.holding || !named s then s
    else
      let xs : List LampX := ents.map (fun x =>
        { lamp := x.lamp, openFail := x.openFail, shortFail := x.shortFail, openCnt := x.openCnt
          shortCnt := x.shortCnt, pass := x.age.map (fun a => lt s - a) })
      policyCheck (setLamps s (xs.filter (fun x => decide (x.lamp < lampCount s))))

/-! ### Output comparison (R281, R282) -/

/-- CORSIG: the coefficients and the Sluice factor in effect. -/
def corsigNow (s : State) : Word :=
  crc32c (bytesOf 2 (BitVec.ofNat 16 (getF s tilSlg 15 0))
    ++ (List.range 16).flatMap (fun b =>
      let c := s.img.coef.getD b coefIdent
      c.g.flatMap (fun v => i16 (Int.ofNat v)) ++ c.x.flatMap i16))

/-- U: the blocks whose INC bit is set on either twin; empty where either does not know them. -/
def unknownBlocks (a b : CmpMsg) : List Nat :=
  if a.incv && b.incv then
    (List.range (max a.incmap.length b.incmap.length)).filter
      (fun k => a.incmap.getD k false || b.incmap.getD k false)
  else []

/-- XMAPSIG of a CMP. -/
def xmapsig (m : CmpMsg) (u : List Nat) : Word :=
  crcWords (m.bsigs.zipIdx.map (fun e => if u.contains e.2 then 0 else e.1))

/-- CMP of a show instant: XMAPSIG with U by the INCMAPs held when it is sent (log 12). -/
def cmpNow (s : State) (show_ : Nat) : CmpMsg :=
  let m := frontMap s
  let x : CmpMsg :=
    { incv := s.img.level == 2, show_ := wt32 show_, xmapsig := 0
      bsigs := m.map (fun e => if e.valid then e.bsig else 0)
      fsig := fsigNow s, cfgsig := cfgsigNow s, corsig := corsigNow s
      incmap := m.map (fun e => e.valid && e.inc)
      lsig := s.lamp.lsig.take (lpScan (rd s)) }
  let twin := (s.pair.cmpTwin.find? (fun y => y.show_ == x.show_)).getD x
  { x with xmapsig := xmapsig x (unknownBlocks x twin) }

/-- Whether a show instant is comparable. -/
def comparable (a b : CmpMsg) : Bool :=
  let u := unknownBlocks a b
  xmapsig a u == xmapsig b u && a.fsig == b.fsig && a.cfgsig == b.cfgsig && a.corsig == b.corsig

/-- Whether line group `r` of `S` is excluded: a block of U contains a pixel row y with y mod S = r. -/
def groupExcluded (wt scan : Nat) (u : List Nat) (r : Nat) : Bool :=
  u.any (fun k => (List.range 16).any (fun i => (16 * (k / max 1 wt) + i) % max 1 scan == r))

/-- A show instant that is not comparable. -/
def notComparable (s : State) : State :=
  let n := s.pair.nocmpRun + 1
  let s1 := bump { s with pair := { s.pair with nocmpRun := n } } pairNocmp
  if n = getF s pairCfg 15 8 then recEventX s1 .wall xNoCmp [w32 n] else s1

/-- Two CMPs of one show instant compared. While a resolution runs, comparison is suspended; a
mismatch joins it (R283). -/
def comparePair (s : State) (a b : CmpMsg) : State :=
  let busy := s.pair.resolution.isSome
  if !comparable a b then (if busy then s else notComparable s)
  else
    let u := unknownBlocks a b
    let groups := List.range a.lsig.length
    let out := groups.filter (groupExcluded (tileWt s) a.lsig.length u)
    let diff := groups.filter (fun r => !out.contains r && a.lsig[r]? != b.lsig[r]?)
    let s1 := if busy then s
      else bumpN (bump { s with pair := { s.pair with nocmpRun := 0 } } pairCompared) pairExcluded out.length
    if s1.pair.mode = 2 then (if s1.pair.enterEdge.isSome then s1 else resyncEnd s1)
    else if diff = [] then s1 else startResolution s1 diff

/-- The CMPs held on both sides with equal SHOW compared. -/
def tryCompare (s : State) : State :=
  match s.pair.cmpOwn.find? (fun a => s.pair.cmpTwin.any (fun b => b.show_ == a.show_)) with
  | none => s
  | some a =>
    match s.pair.cmpTwin.find? (fun b => b.show_ == a.show_) with
    | none => s
    | some b =>
      comparePair { s with pair := { s.pair with
        cmpOwn := s.pair.cmpOwn.filter (fun x => x.show_ != a.show_)
        cmpTwin := s.pair.cmpTwin.filter (fun x => x.show_ != a.show_) } } a b

/-- CMP sent after a show instant: in lockstep, and by twins whose resynchronisation only waits for a
comparable show instant. -/
def sendCmp (s : State) (show_ : Nat) : State :=
  if s.id.sender then s
  else if s.pair.mode = 1 ∨ (s.pair.mode = 2 ∧ (s.pair.holding = true ∨ s.pair.resyncDone = true)) then
    let m := cmpNow s show_
    tryCompare (twinSend { s with pair := { s.pair with cmpOwn := s.pair.cmpOwn ++ [m] } } (.cmp m))
  else s

/-- CMP_RECEIVED. -/
def execCmpReceived (m : CmpMsg) (s : State) : Out1 :=
  act s fun s =>
    if s.id.sender || !(s.pair.mode == 1 || s.pair.mode == 2) then s
    else tryCompare { s with pair := { s.pair with cmpTwin := s.pair.cmpTwin ++ [m] } }

/-- CMP_PARTNER_TIMEOUT: 10 ms after the show instant `shown`. -/
def execCmpPartnerTimeout (shown : Word) (s : State) : Out1 :=
  act s fun s =>
    let has (l : List CmpMsg) : Bool := l.any (fun m => m.show_ == shown)
    if has s.pair.cmpOwn == has s.pair.cmpTwin then s
    else
      let s1 := toClk (nearClk (now s) shown + 10 ^ 7) s
      let drop (l : List CmpMsg) : List CmpMsg := l.filter (fun m => m.show_ != shown)
      let s2 := { s1 with pair := { s1.pair with
        cmpOwn := drop s1.pair.cmpOwn, cmpTwin := drop s1.pair.cmpTwin } }
      if s2.pair.resolution.isSome then s2 else notComparable s2

/-! ### Resolution (R283, R284, R288) -/

/-- What this twin does once row `row` of R284 is known: `own` and `twin` tell who is at fault. -/
def outcome (s : State) (row : Nat) (own twin : Bool) : State :=
  let r0 := s.pair.resolution
  let words : List Word := match r0 with
    | some r => [w32 row, mkFld 31 24 (r.own.getD (2, 0)).1 ||| mkFld 23 16 (r.own.getD (2, 0)).2.toNat
        ||| mkFld 15 8 (r.twin.getD (2, 0)).1 ||| w32 (r.twin.getD (2, 0)).2.toNat]
    | none => [w32 row]
  let s1 := recEventX { s with pair := { s.pair with resolution := none, lastRes := row } } .both xResolution
    words
  let s2 := if own then railYield s1 true else s1
  let holderBad := if s2.pair.holding then own else twin
  let standbyBad := if s2.pair.holding then twin else own
  let resync (t : State) : State := startResync (leaveLockstep t 5)
  if holderBad && standbyBad then
    let s3 := leaveLockstep { s2 with pair := { s2.pair with fullWait := true } } 5
    if !s3.pair.holding then startResync s3
    else if s3.id.sender then resyncRail s3 else askResync s3 3
  else if holderBad then
    let s3 := { s2 with pair := { s2.pair with verdictSwap := true } }
    if !s3.pair.holding then s3
    else if s3.pair.handover.isSome || !standbyReady s3 then bump s3 pairHoFail
    else startHandover s3 .verdict
  else if standbyBad then resync s2
  else resync (bump { s2 with pair := { s2.pair with degr := true } } pairUnres)

/-- The verdicts of both twins judged. -/
def judge (s : State) : State :=
  match s.pair.resolution with
  | none => s
  | some r =>
    match r.own, r.twin with
    | some (a, _), some (b, _) =>
      let own := a == 2
      let twin := b == 2
      let holderBad := if s.pair.holding then own else twin
      let standbyBad := if s.pair.holding then twin else own
      let row := if holderBad then (if standbyBad then 3 else 2) else if standbyBad then 1 else 4
      outcome s row own twin
    | _, _ => s

/-- Step 2 of R283 on a tile: a valid block of the front map whose content does not have its BSIG. -/
def tileBsigBad (s : State) : Bool :=
  (List.range (tileNb s)).any (fun b => ((frontMap s).getD b entNone).valid && (blockContent s b).isNone)

/-- Step 2 of R288 on a sender: a block of the differing tiles whose samples in the canvas buffer do not have the BSIG of
the detector. -/
def canvasBsigBad (s : State) (groups : List Nat) : Bool :=
  match s.flume.delivery.map (·.canvas) <|> s.canvas.newest with
  | none => false
  | some f => (s.canvas.rects.filter (fun r => groups.contains r.na.toNat)).any (fun r =>
      (List.range (r.wtb * r.htb)).any (fun i =>
        let k := rectBlock f.wb r i
        crc32c (packSamps (f.blocks.getD k [])) != f.bsigs.getD k 0))

/-- Whether a pixel row belongs to one of the line groups. -/
def rowIn (s : State) (groups : List Nat) (y : Nat) : Bool := groups.contains (y % max 1 (lpScan (rd s)))

/-- Step 3 of R283: a lamp of the differing line groups whose value differs from what the correction pipeline gives as of
the last edge. -/
def storeDiffers (s : State) (groups : List Nat) : Bool :=
  (List.range (tileNb s)).any (fun b =>
    match blockLamps s (edgeOf s) b with
    | none => false
    | some vals => (vals.filter (fun e => rowIn s groups (e.1 / 3 / max 1 (picW s)))).any
        (fun e => look e.1 (passStore s) != some e.2))

/-- What the state of this twin shows of the steps that fail (log 128): bit 0 a BSIG check, bit 1 an uncorrectable error,
bit 2 a recomputed value. -/
def checksFailed (s : State) (groups : List Nat) : Byte :=
  if s.id.sender then (if canvasBsigBad s groups then 1 else 0)
  else
    (if tileBsigBad s then 1 else 0)
      ||| (if s.img.lostPx.any (fun p => rowIn s groups (p / max 1 (picW s))) then 2 else 0)
      ||| (if storeDiffers s groups then 4 else 0)

/-- RESOLUTION_CHECKS_DONE: this twin's checks have ended; what they read from the state, and `failed`, what the hardware
met besides: uncorrectable errors of the reads and the known-answer test (log 128). -/
def execResolutionChecksDone (failed : Byte) (s : State) : Out1 :=
  act s fun s =>
    match s.pair.resolution with
    | none => s
    | some r =>
      if r.own.isSome then s
      else
        let bits := checksFailed s r.groups ||| failed
        let code := if bits = 0 then 1 else 2
        let s1 := { s with pair := { s.pair with resolution := some { r with own := some (code, bits) } } }
        judge (twinSend s1 (.verdict code bits))

/-- VERDICT_RECEIVED: the start of a resolution at the twin, or its verdict. -/
def execVerdictReceived (code : Nat) (failed : Byte) (s : State) : Out1 :=
  act s fun s =>
    if code = 0 then
      (if s.pair.mode = 1 ∧ s.pair.resolution.isNone = true then startResolution s [] else s)
    else match s.pair.resolution with
      | none => s
      | some r =>
        if (code = 1 ∨ code = 2) ∧ r.twin.isNone = true then
          judge { s with pair := { s.pair with resolution := some { r with twin := some (code, failed) } } }
        else s

/-- VERDICT_TIMEOUT: M + 5 ms; a silent twin counts as faulty, and row 1 or row 2 applies (row 5). A twin that has not sent
its own verdict while the other's has come is the silent one. -/
def execVerdictTimeout (s : State) : Out1 :=
  act s fun s =>
    match s.pair.resolution with
    | none => s
    | some r =>
      let s1 := toLt (r.start + 5 * 10 ^ 6) s
      outcome s1 5 (r.own.isNone && r.twin.isSome) r.twin.isNone

/-! ### Voluntary handover (R275, R292) -/

/-- HANDOVER_REQ_RECEIVED: the standby checks itself and answers; with accept it arms a token valid
from B0 to B0 + 1,500 cycles. A standby on a yielding rail claims only through the failure path
(R288). -/
def execHandoverReqReceived (b0 : Word) (s : State) : Out1 :=
  act s fun s =>
    if s.pair.holding then s
    else
      let ok := chkAll s && lifeOk s && !s.pair.stuck && !s.pair.yield && s.pair.claim.isNone
      let c := nearClk (now s) b0
      let h : Handover :=
        { cause := none, b0 := c, b0w := b0, acked := true, released := false, holder := false }
      let s1 := if ok then
          { s with pair := { s.pair with token := some (c, c + 6000), handover := some h } }
        else s
      twinSend s1 (.handoverAck b0 ok)

/-- HANDOVER_ACK_RECEIVED: an acceptance counts up to B0 − 10 µs. -/
def execHandoverAckReceived (b0 : Word) (accept : Bool) (s : State) : Out1 :=
  act s fun s =>
    match s.pair.handover with
    | none => s
    | some h =>
      if !h.holder || h.acked || h.b0w != b0 then s
      else if accept && decide (now s + 10000 ≤ h.b0) then
        { s with pair := { s.pair with handover := some { h with acked := true } } }
      else handoverFailed s h stNotInState

/-- HANDOVER_ACK_TIMEOUT: no accepting ACK by B0 − 10 µs. -/
def execHandoverAckTimeout (s : State) : Out1 :=
  act s fun s =>
    match s.pair.handover with
    | none => s
    | some h =>
      if !h.holder || h.acked then s else handoverFailed (toClk (h.b0 - 10000) s) h stNotInState

/-- HANDOVER_BOUNDARY: at B0 the holder releases the outputs and OWN_N. -/
def execHandoverBoundary (s : State) : Out1 :=
  act s fun s =>
    match s.pair.handover with
    | none => s
    | some h =>
      if !h.holder || !h.acked || h.released || !s.pair.holding then s
      else
        let s1 := release (toClk h.b0 s)
        { s1 with pair := { s1.pair with handover := some { h with released := true } } }

/-- HANDOVER_CLAIM_BACK: OWN_N has read high up to B0 + 1,536 cycles; the former holder claims back under
its own token, and the handover has failed. -/
def execHandoverClaimBack (s : State) : Out1 :=
  act s fun s =>
    match s.pair.handover with
    | none => s
    | some h =>
      if !h.holder || !h.released then s
      else
        let s1 := toClk (h.b0 + 6144) s
        if !s1.pair.high then s1
        else
          let s2 := handoverFailed { s1 with pair := { s1.pair with verdictSwap := false } } h stInternal
          if mayClaim s2 then startClaim s2 true else s2

/-- PAIR_HANDOVER (R292). -/
def pairHandoverRule : Handler := withLen 0 fun c _ s =>
  if !s.pair.holding || !portUp s 8 || !twinChk s then .no s stNotInState
  else if s.pair.handover.isSome || s.pair.resolution.isSome then .no s stBusy
  else { Res.pend s with post := fun t => startHandover t (.command c) }

def execPairHandover (p : Smb) (s : State) : Out1 := smibenRow 0x0801 pairHandoverRule p s

/-- RAIL_YIELD_RECEIVED: a holder in lockstep hands over while its twin's checks pass (R288). -/
def execRailYieldReceived (on : Bool) (s : State) : Out1 :=
  act s fun s =>
    if s.id.sender then s
    else
      let s1 := { s with pair := { s.pair with yield := on } }
      if on && s1.pair.holding && s1.pair.mode == 1 && twinChk s1 && beatFresh s1
          && s1.pair.handover.isNone && s1.pair.resolution.isNone then startHandover s1 .yield
      else s1

/-! ### Coordinated deliveries of a sender pair (R286 to R288) -/

/-- DELIV_RECEIVED: the frame the lead delivers; DELIVERY_START delivers it as soon as R97 allows. -/
def execDelivReceived (start : Word) (frame : BitVec 16) (s : State) : Out1 :=
  act s fun s =>
    if !s.id.sender || s.pair.holding || s.pair.mode != 1 then s
    else { s with pair := { s.pair with deliv := some (start, frame.toNat) } }

/-- DELIV_TIMEOUT: no DELIV within two canvas periods of a completion with PENDING blocks. -/
def execDelivTimeout (s : State) : Out1 :=
  act s fun s =>
    match s.flume.canvasReady, s.canvas.newest with
    | some t, some f =>
      if !s.id.sender || s.pair.holding || s.pair.mode != 1 || s.pair.deliv.isSome
          || s.flume.delivery.isSome || !s.canvas.undelivered || !anyPending s then s
      else leaveLockstep (startDelivery (toLt (t + 2 * period (rate s)) s) f) 1
    | _, _ => s

/-- CANVAS_MSG_RECEIVED: the twin's picks and incomplete blocks. -/
def execCanvasMsgReceived (start : Word) (picks : List Pick) (incs : List (Nat × Nat)) (overflow : Bool)
    (s : State) : Out1 :=
  act s fun s =>
    if !s.id.sender || s.pair.mode != 1 then s
    else tryDsigs s { coOf s start with
      twinPicks := some picks, twinIncs := some incs, twinOverflow := overflow }

/-- CANVSIG_RECEIVED. -/
def execCanvsigReceived (start : Word) (sigs : List (BitVec 16 × Word)) (s : State) : Out1 :=
  act s fun s =>
    if !s.id.sender || s.pair.mode != 1 then s
    else compareDsigs s { coOf s start with twin := some sigs }

/-! ### Status and clearing (R293, R294) -/

/-- WHY: the lowest code of R265 whose condition fails, 0 in lockstep and in the tick of the reset (R294); with none failing, the code with which the pair
last left lockstep. -/
def whyShown (s : State) : Nat :=
  if s.pair.mode = 1 ∨ lt s = 0 then 0
  else match whyNow s with
    | 0 => s.pair.why
    | w => w

def pairStsWord (s : State) : Word :=
  let role := if s.pair.holding then 3 else if s.pair.claim.isSome then 2 else if !s.pair.high then 1 else 0
  mkFld 31 28 role ||| mkFld 27 26 s.pair.mode ||| flagAt s.pair.degr 25 ||| flagAt s.pair.ownFault 24
    ||| flagAt s.pair.stuck 23 ||| flagAt (portUp s 8) 22 ||| flagAt (beatFresh s) 21
    ||| flagAt (if s.id.sender then s.flume.yieldOn else s.pair.yield) 20 ||| mkFld 19 16 (whyShown s)
    ||| w32 s.pair.lastRes

def pairChkWord (s : State) : Word := (chkNow s).zeroExtend 32

def pairLeaseWord (s : State) : Word :=
  match s.pair.lease with
  | some d => w32 (min 65535 ((d - lt s) / 1000))
  | none => 0

/-- The twin's heartbeat as PAIR_STATUS returns it. -/
def beatWord (s : State) : Word :=
  match s.pair.beat with
  | some (m, _) => flagAt m.held 31 ||| flagAt m.ownLow 30 ||| mkFld 29 24 m.chk.toNat ||| mkFld 23 22 m.mode
  | none => 0

/-- PAIR_STATUS (R293). -/
def pairStatusRule : Handler := withLen 0 fun _ _ s =>
  .ok s [pairStsWord s, pairChkWord s, pairLeaseWord s, beatWord s
    , match s.pair.hello with | some h => h.fwver | none => 0]

def execPairStatus (p : Smb) (s : State) : Out1 := smibenRow 0x0802 pairStatusRule p s

/-- PAIR_CLEAR (R293). -/
def pairClearRule : Handler := withLen 0 fun _ _ s =>
  .ok { s with pair := { s.pair with degr := false, lastRes := 0 } } []

def execPairClear (p : Smb) (s : State) : Out1 := smibenRow 0x0803 pairClearRule p s

/-! ### The show instant (09 R204; 10 R236; 17 R380) -/

/-- PROOF as the tile would send it for a show instant. -/
def proofNow (s : State) (show_ : Nat) : ProofMsg :=
  { faults := (frontMap s).any (·.fault), pixm := s.img.pixm, lit := s.lamp.lit, holder := s.pair.outputs
    na := naOr0 s, frame := BitVec.ofNat 16 (getF s flmRxFrame 15 0)
    stale := BitVec.ofNat 16 (s.weir.regions.filter (fun r => r.stale && r.staleAt.all (fun t => decide (t ≤ edgeOf s)))).length
    show_ := wt32 show_, mapsig := mapsigNow s, lsum := lsumNow s, fsig := fsigNow s
    wdrawn := BitVec.ofNat 16 (withdrawnCount s), epoch := s.time.epoch
    service := BitVec.ofNat 8 s.img.service }

/-- PROOF sent by a level-2 tile at the first show after a swap and at one show of every second. -/
def sendProof (s : State) (show_ : Nat) : State :=
  let swaps := (rd s tilSwaps).toNat
  let due := decide (s.lamp.lastProofEdge.getD 0 < swaps) || s.weir.proofSec != some (nowSec s)
  if !due || s.fl.fw.flHigh < 2 then s
  else
    let m := proofNow s show_
    let s1 := { s with
      lamp := { s.lamp with lastProofEdge := some swaps }
      weir := { s.weir with proof := some m, proofSec := some (nowSec s) } }
    linkSend s1 0 (.bytes 3 false true (placeRoute s1) s1.id.side (proofBytes m))

/-- The show instant of a show whose cut-off was met. -/
def showInstant (s : State) : State :=
  match s.lamp.shows with
  | none => s
  | some w =>
    if s.id.sender || !w.met then s
    else
      let s1 := driveLight w.lights (takeShow (toClk w.show_ s))
      let s2 := lowWatch { s1 with slu := { s1.slu with raised := false } }
      sendCmp (sendProof s2 w.show_) w.show_

end Sys2Proof.Machine
end

