-- ==== Sys2Proof/Machine/CorsinLink.lean ====
section
/-! DEFINITION. CorsinLink (06): training, eye scans and FEC, latency calibration, ARQ, the routing of
downstream and upstream packets (05 R100, R112), and the crossings of the ladder. Ports are 0 to 7 for
the chains of a sender, 0 UP, 1 DN and 2 BR of a tile, and 8 for TW. -/

namespace Sys2Proof.Machine

/-- Whether a device has the port in its role and configuration: two-lane chains use every second chain
port (01 R14). CLN.CFG is taken by the next training of a port (R139).
An odd chain port that is up when CHAIN2 is written keeps running until it goes down (log 109, DESIGN CHOICE). -/
def portExists (s : State) (p : Nat) : Bool :=
  (portAt s p).isSome && !(s.id.sender && decide (p < 8) && p % 2 == 1 && bit (rd s clnCfg) 4)

/-- CLN.CFG as a port's training took it (R139). -/
def portCfg (s : State) (p : Nat) : Word := match portAt s p with | some x => x.cfg | none => rd s clnCfg

/-! ### Training words (R122; 01 R15) -/

/-- The HOP and TURNS a BR or DN port adds to the tile's own place; none where R15 forbids it. -/
def placeBelow (own : BitVec 64) (br : Bool) : Option (BitVec 64) :=
  let hop := plHop own
  let turns := plTurns own
  if 64 ≤ hop ∨ (br = true ∧ 4 ≤ turns) then none
  else if br then
    some (BitVec.ofNat 64 (own.toNat + 2 ^ 48 + 2 ^ 56 + hop * 2 ^ (42 - 6 * turns)))
  else some (BitVec.ofNat 64 (own.toNat + 2 ^ 48))

/-- The place word a port offers its partner: none where the offer would break R15. -/
def offerOf (s : State) (p : Nat) : Option (BitVec 64) :=
  if p = 8 then some s.id.place
  else if s.id.sender then some (BitVec.ofNat 64 (p * 2 ^ 61 + 2 ^ 48))
  else if p = 0 then some s.id.place
  else placeBelow s.id.place (p == 2)

/-- ROLE of a port. -/
def portRole (s : State) (p : Nat) : Nat :=
  if s.id.sender then (if p = 8 then 5 else 4) else if p = 8 then 3 else p

/-- Lanes of a port: TW has two, a chain those of CHAIN2, a tile's UP those on which it found a signal or its partner
named, and its DN and BR those of its UP (01 R14). -/
def lanes2Of (s : State) (p : Nat) : Bool :=
  if p = 8 then true
  else if s.id.sender then bit (portCfg s p) 4
  else match portAt s 0 with | some x => x.lanes2 | none => false

/-- The training words a port sends. A tile that has not learned its place offers PLACE 0 below (log 108). -/
def ownWords (s : State) (p : Nat) : TrainWords :=
  { role := portRole s p, side := s.id.side, lanes2 := lanes2Of s p
    feccap := fld (portCfg s p) 11 10 != 0, full := bit (portCfg s p) 9
    flHigh := ownHigh s, flLow := ownLow s, smHigh := s.fl.fw.smbHigh, smLow := s.fl.fw.smbHigh - 1
    place := if !s.id.sender && !s.id.placeOk then 0
      else match offerOf s p with | some pl => routeOf pl | none => 0xFFFFFFFFFF
    na := naOr0 s, nav := s.id.na.isSome }

/-- Whether two ROLE values belong together. -/
def rolesMatch (a b : Nat) : Bool :=
  let above (r : Nat) : Bool := r == 1 || r == 2 || r == 4
  (a == 0 && above b) || (above a && b == 0) || (a == 3 && b == 3) || (a == 5 && b == 5)

/-! ### Starting to train (R121; 17 R375) -/

/-- Whether a credit is that of the training of port `p`. -/
def isTrain (p : Nat) (o : HeavyOp) : Bool := o == .portTrain p

/-- The training of a port ends: its credits return. -/
def trainEnd (s : State) (p : Nat) : State := withdrawAsk (creditReturn s (isTrain p)) (isTrain p)

/-- The four TRAIN blocks of a port. -/
def sendTrain (s : State) (p : Nat) : State :=
  (List.range 4).foldl (fun t i => emit t (.block p (trainBlock (ownWords s p) i))) s

/-- Step 1 of training begins: the credits are held. The times of R121 run from the detection of the signal. -/
def trainGranted (s : State) (p : Nat) : State :=
  match portAt s p with
  | none => s
  | some x => sendTrain (setPort s { x with st := 2, step := 1, detector := false }) p

/-- A port that detects a signal, or begins again, asks for its credits; in recovery mode it needs none (19 R420). While VDDA or VDDH is below fault
no port trains (17 R371). -/
def trainStart (s : State) (p restarts : Nat) : State :=
  if !portExists s p || s.pwr.railFault.contains 2 || s.pwr.railFault.contains 3 then s
  else match portAt s p with
    | none => s
    | some x =>
      let s1 := setPort (trainEnd s p) { x with
        st := 1, step := 1, restarts := restarts, partner := none, fecOn := false, impl := false
        sumX := [], since := lt s, cfg := rd s clnCfg, stable := getF s clnRevert 15 0, headers := [], lockLost := none }
      if inRecovery s then trainGranted s1 p
      else match sluiceAsk s1 (.portTrain p) 1 3 0 with
        | (t, .granted _) => trainGranted t p
        | (t, _) => t

/-- SIGNAL_DETECT: an idle port detects a signal; `two` tells whether UP detects it on both lanes (01 R14). -/
def execSignalDetect (d : SignalIn) (s : State) : Out1 :=
  act s fun s =>
    let p := d.port
    match portAt s p with
    | some x =>
      if 1 < x.st then s
      else trainStart (if p = 0 ∧ !s.id.sender then setPort s { x with lanes2 := d.two } else s) p 0
    | none => s

/-- BR_SIGNAL_SAMPLE: the detector of an idle DN or BR port samples every 1 s (R133). -/
def execBrSignalSample (p : Nat) (signal : Bool) (s : State) : Out1 :=
  act s fun s =>
    match portAt s p with
    | some x =>
      if s.id.sender || !(p == 1 || p == 2) || decide (1 < x.st) then s
      else
        let s1 := toLt (x.since + 10 ^ 9) s
        if signal then trainStart s1 p 0
        else setPort s1 { x with st := 0, detector := true, since := lt s1 }
    | none => s

/-! ### LINK_RETRAIN commands in progress (R140) -/

/-- A command whose ports have all settled, or whose 2 s have passed, is notified. -/
def retrainsDone (s : State) : State :=
  let settled (p : Nat) : Bool := [3, 5, 6, 7].contains (portSt s p)
  let done := s.link.retrains.filter (fun r => r.2.1.all settled || decide (r.2.2 ≤ lt s))
  let s1 := { s with link := { s.link with
    retrains := s.link.retrains.filter (fun r => !done.contains r) } }
  done.foldl (fun t r => notify t r.1 stOk []) s1

/-! ### A link goes down (R125, R135; 05 R108) -/

/-- The place of the first tile of a chain. -/
def firstPlace (c : Nat) : BitVec 64 := BitVec.ofNat 64 (c * 2 ^ 61 + 2 ^ 48)

/-- The place behind a broken port: below a chain, DN or BR port, or the tile's own where its UP is broken. -/
def placeBehind (s : State) (p : Nat) : BitVec 64 :=
  if s.id.sender then firstPlace p
  else if p = 0 then s.id.place
  else (placeBelow s.id.place (p == 2)).getD 0

/-- What lies behind a broken port that no crossing bridges cannot be reached: the sender of the chain learns it
(05 R108). -/
def cutOff (s : State) (p : Nat) : State :=
  if p = 8 then s
  else if s.id.sender then lostBelow s (firstPlace p)
  else if p = 0 then s
  else linkSend s 0 (.lats (placeBehind s p) .lost)

/-- The crossings that a port carried end. -/
def crossEnd (s : State) (p : Nat) : State :=
  if p = 8 then
    let mine (e : Nat × Side) : Bool := e.2 == s.id.side && s.link.guests.contains e.1
    let s1 := { s with
      flume := { s.flume with changes := s.flume.changes.filter (fun e => !(s.id.sender && mine (e.chain, e.rail))) }
      link := { s.link with
        crossDown := [], crossUp := false, guests := []
        crossChains := s.link.crossChains.filter (fun e => !(s.id.sender && mine e))
        ports := s.link.ports.map (fun x => { x with cross := false, crossAsked := false }) } }
    s.link.guests.foldl (fun t q => if portUp t q then t else cutOff t q) s1
  else
    let s1 := { s with link := { s.link with
      crossDown := s.link.crossDown.filter (· != p)
      crossUp := s.link.crossUp && !(p == 0 && !s.id.sender) } }
    match portAt s1 p with
    | some x => setPort s1 { x with cross := false }
    | none => s1

/-- CROSS_DOWN or CROSS_UP sent to the twin, where crossings are allowed (R135; 01 R17). -/
def askCross (s : State) (p : Nat) : State :=
  if p = 8 || !bit (portCfg s p) 8 || !portUp s 8 || placeDiffers s then s
  else match portAt s p with
    | none => s
    | some x => linkSend (setPort s { x with crossAsked := true }) 8
        (.crossReq (s.id.sender || p != 0) p)

/-- A port that is up goes down (R125): the packet in progress ends with an abort, its unacknowledged packets wait, it
retrains from step 1, the loss is counted and recorded, and with `ask` the ladder is asked to bridge it (R135). What
is not bridged is cut off. -/
def linkDown (s : State) (p : Nat) (ask : Bool) : State :=
  match portAt s p with
  | none => s
  | some x =>
    if x.st < 3 ∨ 5 < x.st then s
    else
      let s0 := if lt s < x.busy then emit s (.abort p) else s
      let s1 := setPort s0 { x with
        st := 0, failRun := 0, unacked := [], gotAhead := [], busy := 0, ctlUse := [], queue := []
        waiting := x.unacked.map (·.item) ++ x.waiting }
      let s2 := recordX (bump s1 (clnAt clnPortRetrains p)) xLinkDown [w32 p]
      let s3 := crossEnd (trainStart s2 p 0) p
      let s4 := if ask then askCross s3 p else s3
      let asked := match portAt s4 p with | some y => y.crossAsked | none => false
      pairCheck (if asked then s4 else cutOff s4 p)

/-- LINK_DOWN: a lane that lost block lock has not regained it within 2 µs (R125). -/
def execLinkDown (p : Nat) (s : State) : Out1 :=
  act s fun s =>
    match portAt s p with
    | none => s
    | some x => match x.lockLost with
      | some t => linkDown (toLt (t + 2000) s) p true
      | none => s

/-- SYNC_HEADER_ERROR: an invalid sync header in block `block` of a lane (R125, R138). `regained` tells that the block
lock which was lost has been regained before it: in the tick in which the 2 µs end that is too late. The sixteenth
invalid header within 64 blocks loses block lock. -/
def execSyncHeaderError (e : HeaderErr) (s : State) : Out1 :=
  act s fun s =>
    let p := e.port
    let lane := e.lane
    let block := e.block
    let regained := e.regained
    match portAt s p with
    | none => s
    | some x0 =>
      let s1 := bump s (clnAt clnPortShe p)
      let late := match x0.lockLost with | some t => decide (t + 2000 ≤ lt s) | none => false
      if regained && late then linkDown (setPort s1 { x0 with stableSince := lt s }) p true
      else
        let x := if regained then { x0 with lockLost := none, headers := [] } else x0
        let near := x.headers.filter (fun e => e.1 != lane || decide (block < e.2 + 64))
        let hs := (lane, block) :: near
        let lost := (x.st == 3 || x.st == 5) && decide (16 ≤ (hs.filter (fun e => e.1 == lane)).length)
        setPort s1 { x with
          stableSince := lt s, headers := hs
          lockLost := if lost && x.lockLost.isNone then some (lt s) else x.lockLost }

/-! ### Eye scans and FEC (R123, R124) -/

/-- Whether a scan is implausible. Heights are in 4 mV steps. -/
def eyeImplausible (two : Bool) (e : Eye) : Bool :=
  decide (56 < e.w0) || decide (450 < 4 * e.h0)
    || (two && (decide (56 < e.w1) || decide (450 < 4 * e.h1) || decide (24 < e.w0 - e.w1)
      || decide (24 < e.w1 - e.w0)))

/-- The minimum width, and the minimum height in 4 mV steps, at a rate. -/
def eyeLimits (full fec : Bool) : Nat × Nat :=
  if full then (if fec then (12, 6) else (20, 10)) else (16, 8)

/-- Whether a plausible scan is below the minimum. -/
def eyeFails (full fec two : Bool) (e : Eye) : Bool :=
  let (w, h) := eyeLimits full fec
  decide (e.w0 < w) || decide (e.h0 < h) || (two && (decide (e.w1 < w) || decide (e.h1 < h)))

/-- QF: the smallest width among the lanes. -/
def eyeQf (two : Bool) (e : Eye) : Nat := if two then min e.w0 e.w1 else e.w0

/-- The figures a port reports: lane 1 reads 0 on a one-lane port. -/
def eyeShown (two : Bool) (e : Eye) : Eye := if two then e else ⟨e.w0, e.h0, 0, 0⟩

/-- The result of a training scan that has been repeated up to three times while implausible (R123): the first
plausible scan, or the fourth one as implausible; none while there are to be more. -/
def scanResult (two : Bool) (l : List Eye) : Option (Eye × Bool) :=
  match (l.take 4).find? (fun e => !eyeImplausible two e) with
  | some e => some (e, false)
  | none => (l[3]?).map (fun e => (e, true))

/-- EYE_SCAN_TIMER: the scan of every 10 s while the link is up. -/
def execEyeScanTimer (p : Nat) (eye : Eye) (s : State) : Out1 :=
  act s fun s =>
    match portAt s p with
    | none => s
    | some x =>
      if !(x.st == 3 || x.st == 5) || decide (2 ≤ throttleStep s) then s
      else
        let s1 := toLt (x.scanAt + 10 ^ 10) s
        let y := { x with scanAt := lt s1 }
        if eyeImplausible x.lanes2 eye then bumpF (setPort s1 y) (clnAt clnPortSts p) 23 16
        else
          let z := { y with eye := eyeShown x.lanes2 eye, qf := eyeQf x.lanes2 eye }
          if eyeFails (x.st == 5) x.fecOn x.lanes2 eye then
            let s2 := setPort s1 { z with failRun := x.failRun + 1 }
            if x.failRun + 1 = 3 then linkDown s2 p true else s2
          else setPort s1 { z with failRun := 0 }

/-! ### The exchange of training words and the calibration of latency (R122, R126, R127) -/

/-- tFWD of packets received on a port that is up at full rate, in ns. -/
def fastFwd (x : Port) : Nat := if x.fecOn then 768 else 512

/-- A topology refused: the port above reads STATE 6 and reports it. -/
def refuseBelow (s : State) (x : Port) : State :=
  retrainsDone (recEventX (trainEnd (setPort s { x with st := 6 }) x.p) .wall xTopology
    (w32 x.p :: wordsOfNat 2 s.id.place.toNat))

/-- LOOP_REQ sent. -/
def sendLoop (s : State) (p k : Nat) : State := emit s (.block p (loopReqBlock ((Config.loopStart + k) % 256)))

/-- What follows where the twin turns out to stand at another place, `pl`: bridged traffic ends, and the mismatch is
reported, but not where `old` tells that it was known before (01 R17). -/
def placeCheck (old : Bool) (pl : BitVec 40) (s : State) : State :=
  if placeDiffers s then
    let t := crossEnd s 8
    if old then t else recEventX t .wall xPlace (wordsOfNat 2 (pl.toNat * 2 ^ 24))
  else s

/-- The twin's place word as its training words give it stands for the one a HELLO gave before; a mismatch is reported
at every training that finds it (01 R17). -/
def twinPlace (pl : BitVec 40) (s : State) : State :=
  placeCheck false pl
    { s with pair := { s.pair with hello := s.pair.hello.map (fun h => { h with place := pl }) } }

/-- HELLO_RECEIVED (12 R289; 01 R17). -/
def execHelloReceived (m : HelloMsg) (s : State) : Out1 :=
  act s fun s =>
    startResync (pairCheck (placeCheck (placeDiffers s) m.place
      { s with pair := { s.pair with hello := some m, cfgEq := m.cfgsig == cfgsigNow s } }))

/-- The exchange passes: the port calibrates. A UP port takes the lane count of its partner, and its words say so from
then on. -/
def exchangePass (s : State) (x : Port) (w : TrainWords) (eye : Eye) (impl : Bool) : State :=
  let two := if x.p = 0 ∧ !s.id.sender then w.lanes2 else lanes2Of s x.p
  let s1 := setPort s { x with
    step := 5, partner := some w, lanes2 := two, eye := eyeShown two eye, qf := eyeQf two eye
    impl := impl, sumX := [] }
  let s2 := if x.lanes2 ≠ two then sendTrain s1 x.p else s1
  let s3 := if x.p = 8 then twinPlace w.place s2 else s2
  let s4 := match s3.id.sender && x.p != 8, offerOf s3 x.p with
    | true, some pl => learnLevels s3 pl w.flHigh w.flLow
    | _, _ => s3
  sendLoop s4 x.p 0

/-- Training begins again from step 1; after three restarts the port has failed (R121). -/
def trainAgain (s : State) (x : Port) : State :=
  if 3 ≤ x.restarts then retrainsDone (setPort (trainEnd s x.p) { x with st := 7, step := 0, since := lt s })
  else trainStart s x.p (x.restarts + 1)

/-- TRAINING_WORD_EXCHANGE: the partner's words, after the eye scans of step 3 and, on two lanes, the deskew of step 2
(`skew`, in blocks; R115). -/
def execTrainingWordExchange (p : Nat) (w : TrainWords) (m : TrainIn) (s : State) : Out1 :=
  act s fun s =>
    match portAt s p with
    | none => s
    | some x =>
      let isUp := !s.id.sender && p == 0
      let below := !s.id.sender && (p == 1 || p == 2)
      let two := if isUp then w.lanes2 else lanes2Of s p
      if x.st ≠ 2 ∨ 5 ≤ x.step then s
      else if two && decide (64 < m.skew) then trainAgain s x
      else match scanResult two m.scans with
        | none => s
        | some (eye, impl) =>
          if (!impl && eyeFails false false two eye) || !rolesMatch (portRole s p) w.role then s
          else if w.lanes2 != two || (isUp && w.place == 0xFFFFFFFFFF) || (below && !s.id.placeOk) then s
          else if (offerOf s p).isNone then refuseBelow s x
          else exchangePass s x w eye impl

/-- A tile's report to its sender after a training of its UP: LAT, tFWD and its Flume levels (R127; 05 R112). -/
def reportHop (s : State) (x : Port) : State :=
  if !s.id.sender && x.p == 0 then
    linkSend s 0 (.lats s.id.place (.hop x.lat x.fwd (ownHigh s) (ownLow s)))
  else s

/-- TW up again at side A of a sender pair, so that marks return to its twin: where the twin holds the same epoch on
another time, side A first takes a new epoch with a step of 0 ns (11 R253). No message tells it the twin's time, so
that is a free value. -/
def twinReturns (s : State) : State :=
  let (k, t) := takeFree s
  if Config.twinFar k then clockStep t (now t) (t.time.epoch + 1) else t

/-- UP has told a tile its place: the ports below that train offer theirs from now on (R122), and the twin's place is
held against it (01 R17). -/
def placeLearnt (s : State) (pl : BitVec 64) : State :=
  let old := placeDiffers s
  let s1 := { s with id := { s.id with place := pl, placeOk := true } }
  let s2 := ([1, 2].filter (fun p => portSt s1 p == 2)).foldl sendTrain s1
  match twinAt s2 with | some q => placeCheck old q s2 | none => s2

/-- A port that has calibrated is up at the bring-up rate (STATE 3). -/
def portComesUp (s0 : State) (x : Port) (lat : Nat) : State :=
  let s := if x.p == 8 && s0.id.sender && s0.id.side == .A then twinReturns s0 else s0
  let y := { x with
    st := 3, step := 0, restarts := 0, lat := lat, fwd := 1024, stableSince := lt s, scanAt := lt s, upAt := lt s, nextC := 1
    unacked := [], waiting := [], lastIn := 0, gotAhead := [], failRun := 0, busy := 0, ctlUse := [], queue := [] }
  let full := bit x.cfg 9 && !x.noFull && (match x.partner with | some w => w.full | none => false)
  let s1 := setPort (if full then s else trainEnd s x.p) y
  let s2 :=
    if !s1.id.sender && x.p == 0 then
      let pl : BitVec 64 := match x.partner with | some w => w.place.zeroExtend 64 <<< 24 | none => 0
      reportHop (placeLearnt s1 pl) y
    else if x.p = 8 then sendHello s1
    else if s1.id.sender && (s1.flume.yieldOn || s1.dram.state != 2) then yieldTo s1 [x.p] true
    else s1
  fullService (pairCheck (retrainsDone (x.waiting.foldl (fun t i => linkSend t x.p i.body) s2)))

/-- The difference between the largest and the smallest of a list. -/
def spreadOf (l : List Nat) : Nat := let hi := l.foldl max 0; hi - l.foldl min hi

/-- The latency of R127 from the round trips of this end, and the sum and the spread of the partner's; none where the
calibration fails. -/
def calibrated (own : List Nat) (sumY spreadY : Nat) : Option Nat :=
  let sumX := own.sum
  let lat := (sumX + sumY + 128) / 256
  let d := (Int.ofNat (sumX / 128) - Int.ofNat (sumY / 128)).natAbs
  if 4 < spreadOf own ∨ 4 < spreadY ∨ 2 < d ∨ lat < 20 ∨ 5000 < lat then none else some lat

/-- Step 7 fails: the bring-up rate until the next LINK_RETRAIN. -/
def staysSlow (s : State) (x : Port) : State :=
  fullService (retrainsDone (setPort (trainEnd s x.p) { x with st := 3, step := 0, fecOn := false, noFull := true }))

/-- Step 7 ends: up at full rate. -/
def fullRate (s : State) (x : Port) (lat : Nat) : State :=
  let y := { x with
    st := 5, step := 0, lat := lat, fwd := fastFwd x, stableSince := lt s, scanAt := lt s, upAt := lt s, impl := false }
  fullService (retrainsDone (reportHop (setPort (trainEnd s x.p) y) y))

/-- LOOP_REQ_RECEIVED: the answer with the residence time in ns. -/
def execLoopReqReceived (p : Nat) (id : Byte) (residence : Nat) (s : State) : Out1 :=
  act s fun s =>
    if 2 ≤ portSt s p ∧ portSt s p ≤ 5 then emit s (.block p (loopRspBlock id residence)) else s

/-- LOOP_RSP_RECEIVED: a round trip of the calibration of step 5, or at full rate of step 7; `sumY` and `spreadY` are
the sum and the spread that the partner has sent once both have made their 64, and this end sends its own. A
calibration that fails is repeated once. -/
def execLoopRspReceived (p : Nat) (_id : Byte) (residence t1 t4 : Nat) (y : LoopSum) (s : State) : Out1 :=
  act s fun s =>
    match portAt s p with
    | none => s
    | some x =>
      let slow := x.st == 2 && decide (5 ≤ x.step)
      let fast := x.st == 4 && decide (7 ≤ x.step)
      if !slow && !fast then s
      else
        let l := x.sumX ++ [(t4 - t1) - residence]
        if l.length < 64 then sendLoop (setPort s { x with sumX := l }) p l.length
        else
          let t := emit s (.loopSum p l.sum (spreadOf l))
          match calibrated l y.sumY y.spreadY with
          | some lat => if slow then portComesUp t { x with sumX := [] } lat else fullRate t { x with sumX := [] } lat
          | none =>
            if x.step = 5 ∨ x.step = 7 then sendLoop (setPort t { x with sumX := [], step := x.step + 1 }) p 0
            else if slow then trainAgain t x else staysSlow t { x with sumX := [] }

/-- The time of a step of R121 that a training port can miss, in ms: steps 2 to 4 before the exchange, step 5 after
it; 0 for any other. -/
def stepMs (x : Port) (step : Nat) : Nat :=
  if x.step < 5 then (match step with | 2 => 2 | 3 => 20 | 4 => 22 | _ => 0)
  else if step = 5 then 25 else 0

/-- TRAINING_STEP_TIMEOUT: a step misses its time (R121). -/
def execTrainingStepTimeout (d : PortStep) (s : State) : Out1 :=
  act s fun s =>
    let step := d.step
    match portAt s d.port with
    | none => s
    | some x =>
      if x.st = 2 ∧ stepMs x step ≠ 0 then
        retrainsDone (trainAgain (toLt (x.since + stepMs x step * 10 ^ 6) s) x)
      else if x.st = 4 ∧ step = 7 then staysSlow (toLt (x.since + 150 * 10 ^ 6) s) x
      else s

/-- TRAINING_RETRY_TIMER: a failed port tries again every 1 s. -/
def execTrainingRetryTimer (p : Nat) (s : State) : Out1 :=
  act s fun s =>
    match portAt s p with
    | some x => if x.st = 7 then retrainsDone (trainStart (toLt (x.since + 10 ^ 9) s) p 3) else s
    | none => s

/-- Whether FEC is used at full rate (R124): both ends allow it, and either asks for it or the width is below 20. -/
def linkFec (x : Port) (eye : Eye) (fec2 : Bool) : Bool :=
  let cfg := fld x.cfg 11 10
  cfg != 0 && (match x.partner with | some w => w.feccap | none => false)
    && (cfg == 2 || fec2 || decide (eyeQf x.lanes2 eye < 20))

/-- Whether step 6 may begin: both ends set FULL, and at start-up no other port of the device on the chain is still
in steps 1 to 5 (R121; log 100). -/
def mayStep (s : State) (x : Port) : Bool :=
  x.st == 3 && !x.noFull && bit x.cfg 9 && (match x.partner with | some w => w.full | none => false)
    && !(s.boot.phase == 1 && !s.id.sender && x.p != 8
      && s.link.ports.any (fun y => y.p != 8 && y.p != x.p && y.st == 2))

/-- RATE_SWITCH: both ends step up (step 6); with `scans`, the full-rate scans of step 7 and the FEC decision, where
`fec2` tells that the partner has FEC = 2, and the calibration begins. -/
def execRateSwitch (p : Nat) (first : Option Eye) (again : List Eye) (fec2 : Bool) (s : State) : Out1 :=
  act s fun s =>
    match portAt s p with
    | none => s
    | some x =>
      if !(x.st == 4 || mayStep s x) then s
      else
        let y := if x.st = 4 then x else { x with st := 4, step := 6, since := lt s }
        match scanResult x.lanes2 (first.toList ++ again) with
        | none => setPort s y
        | some (e, impl) =>
          let fec := linkFec x e fec2
          if impl || eyeFails true fec x.lanes2 e then staysSlow s y
          else
            sendLoop (setPort s { y with
              step := 7, sumX := [], fecOn := fec, eye := eyeShown x.lanes2 e, qf := eyeQf x.lanes2 e }) p 0

/-! ### LINK_RETRAIN (R140) -/

/-- The ports a mask names. -/
def maskPorts (m : Nat) : List Nat := (List.range 9).filter (fun p => m / 2 ^ p % 2 == 1)

/-- A port taken down and trained again; full rate may be tried again. -/
def retrain (s : State) (p : Nat) : State :=
  let s1 := match portAt s p with | some x => setPort s { x with noFull := false } | none => s
  if 3 ≤ portSt s1 p ∧ portSt s1 p ≤ 5 then linkDown s1 p false else trainStart s1 p 0

/-- The ports of a LINK_RETRAIN taken down. -/
def beginRetrain (c : CmdRef) (ports : List Nat) (s : State) : State :=
  let s1 := { s with link := { s.link with
    retrains := s.link.retrains ++ [(c, ports, lt s + 2 * 10 ^ 9)] } }
  retrainsDone (ports.foldl retrain s1)

def linkRetrainRule : Handler := withLen 1 fun c p s =>
  let ports := maskPorts (fld (pw p 0) 8 0)
  if ports.any (fun q => !portExists s q) then .no s stBadParam
  else if ports.any (fun q => match portAt s q with | some x => x.cross | none => false) then
    .no s stNotInState
  else { Res.pend s with post := beginRetrain c ports }

def execLinkRetrain (p : Smb) (s : State) : Out1 := smibenRow 0x0030 linkRetrainRule p s

/-! ### Routing (05 R100; 06 R128, R136) -/

/-- What a tile does with a downstream packet by its ROUTE: accept, the ports it forwards on, drop. -/
inductive Routed where
  | own
  | ports (l : List Nat)
  | drop
  deriving DecidableEq, Repr

/-- Steps 2, 4, 5 and 6 of R100 for a packet that is not broadcast. -/
def routeDown (s : State) (route : BitVec 40) : Routed :=
  let dst : BitVec 64 := route.zeroExtend 64 <<< 24
  let own := s.id.place
  let h := plHop own
  let d := turnsOf dst
  if plChain dst ≠ plChain own then .drop
  else if route = routeOf own then .own
  else if h < plHop dst ∧ d.filter (fun t => decide (t < h)) = turnsOf own then
    .ports [if d.contains h then 2 else 1]
  else .drop

/-- R100 for a downstream packet by its CHAIN, BCAST and ROUTE. -/
def routeOn (s : State) (bcast : Bool) (route : BitVec 40) : Routed :=
  if bcast ∧ route.toNat / 2 ^ 37 = plChain s.id.place then .ports [1, 2]
  else if bcast then .drop else routeDown s route

/-- A Flume packet forwarded on a port that has completed training, or over TW where the port is bridged; the copy of
one that fails R118 ends with an abort (R128). -/
def sendDown (k : LinkPkt) (s : State) (p : Nat) : State := flumeSendOn s p (relayed k)

/-- R100 at a tile, the packet arriving on UP. -/
def routeFlume (s : State) (k : LinkPkt) : State :=
  match flumeHdr k with
  | none => if k.cls = 1 then rxDrop s else s
  | some h =>
    if h.level < ownLow s ∨ ownHigh s < h.level then levelDrop s h.level
    else match routeOn s h.bcast h.route with
      | .own => if some h.dna = s.id.na then s else rxDrop s
      | .ports l => l.foldl (sendDown k) s
      | .drop => rxDrop s

/-- The ports on which a device sends a guest of the other rail on (R136), which arrives on `port` and travels up or
down: a holder of CROSS_DOWN sends what comes from its twin down the broken span and hands what comes up from it to
its twin; a holder of CROSS_UP hands what comes down to its twin and sends what comes from it up; any other device
routes it by R100. None where R100 would have the device accept it. -/
def guestWay (s : State) (port : Nat) (up bcast : Bool) (route : BitVec 40) : Option (List Nat) :=
  if s.id.sender then
    if up then (if s.link.crossDown.contains port then some [8] else none)
    else if port = 8 then some (s.link.crossDown.filter (· == route.toNat / 2 ^ 37))
    else none
  else if up then some [if port != 8 && s.link.crossDown.contains port then 8 else 0]
  else if port = 8 then some s.link.crossDown
  else if s.link.crossUp then some [8]
  else match routeOn s bcast route with
    | .ports l => some l
    | _ => none

/-- A guest packet of the Flume class that arrives on a port (R136): one of this rail comes back over TW and is handled
as if it had arrived on the bridged port, any other travels on and is never accepted. One of a level outside this
device's is dropped (05 R112). -/
def guestFlume (port : Nat) (k : LinkPkt) (s : State) : State :=
  match flumeHdr k with
  | none => if s.id.sender then s else rxDrop s
  | some h =>
    let up := decide (4 ≤ h.typ)
    let c := h.route.toNat / 2 ^ 37
    let own := { k with guest := false }
    if h.level < ownLow s ∨ ownHigh s < h.level then levelDrop s h.level
    else if k.rail = s.id.side then
      if s.id.sender then
        if h.typ = 4 then upstreamIn c 4 own (takeNack c) s
        else if h.typ = 5 then upstreamIn c 5 own (takeReport c) s else s
      else if up then sendUp s 1 (relayed own)
      else routeFlume s own
    else match guestWay s port up h.bcast h.route with
      | some l => l.foldl (fun t p => flumeOut t p (relayed k)) s
      | none => if s.id.sender then s else rxDrop s

/-- FLUME_PACKET_FORWARD: a downstream packet that arrives on the UP of a tile. One that fails R118 counts in CRCERR;
its header was acted on before (R128). -/
def execFlumePacketForward (a : LinkStart) (data : List (BitVec 64)) (e : LinkTerm) (s : State) : Out1 :=
  act s fun s =>
    let k := LinkPkt.of a data e
    if s.id.sender || !s.id.placeOk then s
    else countBad (if ownRail s k then routeFlume s k else guestFlume 0 k s) 0 k

/-- GUEST_PACKET_RECEIVED (R136). -/
def execGuestPacketReceived (port : Nat) (k : LinkPkt) (s : State) : Out1 :=
  act s fun s =>
    countBad (guestFlume port { k with guest := true } s) port k

/-! ### Upstream (R128) -/

/-- UPSTREAM_FLUME_FORWARD: a NACK or a report that arrives on DN or BR travels on; with no packet, UP has become free
and takes the next that waits, behind the control packets that go ahead (R120). -/
def execUpstreamFlumeForward (fromBr arrived : Bool) (a : LinkStart) (data : List (BitVec 64)) (early : Bool)
    (e : LinkEnd) (s : State) : Out1 :=
  act s fun s =>
    let port := if fromBr then 2 else 1
    if s.id.sender then s
    else if !arrived then upDrain (ctlFirst 16 (toLt (portBusy s (upWay s)) s) 0)
    else
      let k := LinkPkt.of a data ⟨e, early⟩
      countBad
        (match flumeHdr k with
          | some h =>
            if h.level < ownLow s ∨ ownHigh s < h.level then levelDrop s h.level
            else if ownRail s k then sendUp s (if fromBr then 2 else 1) (relayed k)
            else guestFlume port k s
          | none => rxDrop s) port k

/-! ### Control packets and ARQ (R129 to R131) -/

/-- CSEQ `a` minus `b` as a signed number. -/
def cdiff (a b : BitVec 16) : Int := (a - b).toInt

/-- When the acknowledgement of a packet is late. -/
def arqDeadline (x : Port) (a : ArqPkt) : Nat := a.sent + 2 * x.lat + 2000

/-- A packet sent again; its ninth transmission takes the link down (R125). -/
def resend (s : State) (p : Nat) (a : ArqPkt) : State :=
  match portAt s p with
  | none => s
  | some x =>
    let y := ctlSent x (portFree s x) (ctlLen a.item.body)
    let b := { a with sent := y.busy, tries := a.tries + 1 }
    let s1 := emitCtl (bump (setPort s { y with
      unacked := x.unacked.map (fun z => if z.cseq = a.cseq then b else z) }) (clnAt clnPortRetx p)) x a.cseq a.item
    if 9 ≤ b.tries then linkDown s1 p true else s1

/-- ACK_RECEIVED: acknowledged packets are released; an ACK in the tick of a packet's timeout is late for
it. -/
def execAckReceived (p : Nat) (cum sack : BitVec 16) (s : State) : Out1 :=
  act s fun s =>
    match portAt s p with
    | none => s
    | some x =>
      let acked (a : ArqPkt) : Bool :=
        decide (cdiff a.cseq cum ≤ 0)
          || (decide (cdiff a.cseq cum ≤ 16) && sack.getLsbD ((a.cseq - cum).toNat - 1))
      let late (a : ArqPkt) : Bool := 4 * cdiv (arqDeadline x a) 4 == lt s
      let again := x.unacked.filter (fun a => acked a && late a)
      let s1 := setPort s { x with unacked := x.unacked.filter (fun a => !acked a || late a) }
      regionsAcked (boundary (again.foldl (fun t a => resend t p a) s1) p)

/-- ARQ_RETRANSMIT_TIMEOUT. -/
def execArqRetransmitTimeout (p : Nat) (cseq : BitVec 16) (s : State) : Out1 :=
  act s fun s =>
    match portAt s p with
    | none => s
    | some x =>
      match x.unacked.find? (fun a => a.cseq == cseq) with
      | none => s
      | some a => resend (toLt (arqDeadline x a) s) p a

/-- The packet that the bytes of an upward Smiben relay message hold (02 R30). -/
def packetOf (via : Via) (m : List Byte) : Packet :=
  let n := m.length - 48
  { via := via, hdr := BitVec.ofNat 256 (natOfBytes (m.take 32)), payload := wordsOfBytes ((m.drop 32).take n)
    tag := BitVec.ofNat 128 (natOfBytes (m.drop (32 + n))) }

/-- The body of a control packet that travels on. -/
def onBody (p : CtlPkt) : CtlBody := .bytes p.ctype p.bcast p.upward p.route p.rail p.msg

/-- A control packet forwarded on with the CSEQ of the next link, over TW where the port is bridged. -/
def passOn (p : CtlPkt) (s : State) (port : Nat) : State := linkSend s port (onBody p)

/-- What becomes of a control packet that has been received in order on `port`: a guest of the other rail travels on
(R136), any other travels on by its ROUTE, or its message is for this device; what R100 drops is counted. The messages that
have a row of their own take effect there, and an announcement is passed on there (02 R37). -/
def handOn (port : Nat) (s : State) (p : CtlPkt) : State :=
  if p.guest ∧ p.rail ≠ s.id.side then
    match guestWay s port p.upward p.bcast p.route with
    | some l => l.foldl (fun t q => linkItem t q ⟨true, onBody p, none⟩) s
    | none => if s.id.sender then s else rxDrop s
  else if port = 8 ∧ p.ctype = 3 ∧ p.msg.getD 0 0 = 0x21 ∧ p.msg.getD 3 0 = 3 then sendState s
  else if s.id.sender then
    (if p.upward && p.ctype == 1 then deviceAnswer s p.route (packetOf (.relay p.rail) p.msg) else s)
  else if p.upward then passOn p s 0
  else match routeOn s p.bcast p.route with
    | .ports l => if p.ctype = 2 then s else l.foldl (passOn p) s
    | .own => s
    | .drop => rxDrop s

/-- The packets whose turn has come after `last`, of those that have arrived: at most `n`. -/
def inTurn (got : List (BitVec 16 × CtlPkt)) : Nat → BitVec 16 → List (BitVec 16 × CtlPkt)
  | 0, _ => []
  | n + 1, last =>
    match got.find? (fun e => e.1 == nextCseq last) with
    | none => []
    | some e => e :: inTurn got n e.1

/-- The ACK of a port: CUM and SACK. -/
def sendAck (s : State) (port : Nat) : State :=
  match portAt s port with
  | none => s
  | some x =>
    let sack := ((List.range 16).filter (fun k =>
      x.gotAhead.any (fun e => e.1 == x.lastIn + BitVec.ofNat 16 (k + 1)))).map (2 ^ ·)
    emit s (.block port (ackBlock x.lastIn (BitVec.ofNat 16 sack.sum)))

/-- What a good control packet does: it is acknowledged, then handed on in CSEQ order (R130, R131); a duplicate is
acknowledged again.
One more than 32 CSEQs ahead of the last in order is acknowledged, not kept (log 115, DESIGN CHOICE). -/
def takeCtl (s : State) (x : Port) (p : CtlPkt) : State :=
  let d := cdiff p.cseq x.lastIn
  let known := decide (d ≤ 0) || x.gotAhead.any (fun e => e.1 == p.cseq)
  if known || decide (32 < d) then sendAck s x.p
  else
    let got := x.gotAhead ++ [(p.cseq, p)]
    let l := inTurn got 33 x.lastIn
    let y := { x with
      lastIn := (l.map (·.1)).foldl (fun _ c => c) x.lastIn
      gotAhead := got.filter (fun e => !l.any (fun f => f.1 == e.1)) }
    l.foldl (fun t e => handOn x.p t e.2) (sendAck (setPort s y) x.p)

/-- CONTROL_PACKET_RECEIVED: a packet that fails R118 is counted.
One whose MLEN does not match its body does nothing and is not acknowledged (log 115, DESIGN CHOICE). -/
def execControlPacketReceived (port : Nat) (k : LinkPkt) (s : State) : Out1 :=
  act s fun s =>
    match upPort s port with
    | none => s
    | some x =>
      if !linkGood k then bump s (clnAt clnPortCrcerr port)
      else match readCtl k with
        | some p => takeCtl s x p
        | none => s

/-! ### Crossings (R135 to R138) -/

/-- LAT of a port. -/
def latOf (s : State) (p : Nat) : Nat := match portAt s p with | some x => x.lat | none => 0

/-- tFWD of packets that arrive on a port, as of its last time up (R126). -/
def fwdOf (s : State) (p : Nat) : Nat := match portAt s p with | some x => x.fwd | none => 0

/-- What the store-and-forward of a packet adds that arrives on one port of a tile and leaves on a slower one (R126). -/
def slowPart (s : State) (recv send : Nat) : Nat :=
  if !s.id.sender && fwdOf s recv != 1024 && fwdOf s send == 1024 then 6800 else 0

/-- This device's part in the change of latency beyond a break of a rail, reported to both senders (R137; log 41). -/
def reportCross (s : State) (rail : Side) (below : BitVec 64) (change dn br : Int) : State :=
  let m : CtlBody := .lats below (.crossed rail change dn br)
  if s.id.sender then
    linkSend (crossKnown s
      { chain := plChain below, rail := rail, below := below, change := change, dn := dn, br := br }) 8 m
  else linkSend (linkSend s 0 m) 8 m

/-- The further change for the tiles below this one that it sends to from TW instead of from UP (R126, R137). -/
def pastPart (s : State) (send : Nat) : Int :=
  Int.ofNat (fwdOf s 8 + slowPart s 8 send) - Int.ofNat (fwdOf s 0 + slowPart s 0 send)

/-- A crossing refused: each end reports the break as unbridgeable (R135). -/
def unbridgeable (s : State) (p : Nat) : State := recEventX s .wall xBridge [w32 p]

/-- A port marked as carrying a crossing. -/
def markCross (s : State) (p : Nat) (on : Bool) : State :=
  match portAt s p with
  | some x => setPort s { x with cross := on, crossAsked := false }
  | none => s

/-- CROSS_DOWN_RECEIVED: granted while the own port towards the tile below is up. The twin's packets then take TW and
this port. -/
def execCrossDownReceived (p : Nat) (s : State) : Out1 :=
  act s fun s =>
    if portUp s p && bit (portCfg s p) 8 && !placeDiffers s then
      let s1 := markCross (markCross { s with link := { s.link with
        crossDown := p :: s.link.crossDown.filter (· != p) } } p true) 8 true
      reportCross (linkSend s1 8 (.crossAns true p true)) (otherSide s.id.side) (placeBehind s p)
        (Int.ofNat (fwdOf s 8 + latOf s p + slowPart s 8 p)) 0 0
    else unbridgeable (linkSend s 8 (.crossAns true p false)) p

/-- CROSS_UP_RECEIVED: granted while the own UP is up. The packets for the twin then take this device's UP and TW. -/
def execCrossUpReceived (s : State) : Out1 :=
  act s fun s =>
    if s.id.sender then s
    else if portUp s 0 && bit (portCfg s 0) 8 && !placeDiffers s then
      let s1 := markCross (markCross { s with link := { s.link with crossUp := true } } 0 true) 8 true
      reportCross (linkSend s1 8 (.crossAns false 0 true)) (otherSide s.id.side) s.id.place
        (Int.ofNat (fwdOf s 0 + slowPart s 0 8)) 0 0
    else unbridgeable (linkSend s 8 (.crossAns false 0 false)) 0

/-- CROSS_ANSWER_RECEIVED: on a grant the port's traffic goes over TW, its unacknowledged packets first;
on a refusal the break is unbridgeable and what lies behind it is cut off. -/
def execCrossAnswerReceived (down : Bool) (port : Nat) (grant : Bool) (s : State) : Out1 :=
  act s fun s =>
    let p := if down then port else 0
    match portAt s p with
    | none => s
    | some x =>
      if !x.crossAsked || portUp s p then s
      else if !grant then cutOff (unbridgeable (setPort s { x with crossAsked := false }) p) p
      else
        let s1 := markCross (setPort s { x with waiting := [], cross := true, crossAsked := false }) 8 true
        let s2 := { s1 with link := { s1.link with guests := p :: s1.link.guests.filter (· != p) } }
        let s3 := x.waiting.foldl (fun t i => linkItem t 8 ⟨true, i.body, i.cause⟩) s2
        if down then
          reportCross s3 s.id.side (placeBehind s p)
            (Int.ofNat (latOf s 8 + slowPart s 0 8) - Int.ofNat (x.lat + slowPart s 0 p)) 0 0
        else reportCross s3 s.id.side (placeBehind s p) (Int.ofNat (latOf s 8)) (pastPart s 1) (pastPart s 2)

/-- CROSS of TW reads 0 once no crossing takes it. -/
def twFree (s : State) : State :=
  if s.link.crossDown = [] ∧ s.link.guests = [] ∧ s.link.crossUp = false then markCross s 8 false else s

/-- The crossings of a rail at the break above place `below` of a chain leave this sender's figures (R137, R138): the
latencies are the old ones, or those its link reported since, and with the last crossing of the chain on that rail the
rate returns. -/
def crossForgot (s : State) (c : Nat) (rail : Side) (below : BitVec 64) : State :=
  let left := s.flume.changes.filter (fun e => !(e.chain == c && e.rail == rail && e.below == below))
  let own := rail == s.id.side
  { s with
    flume := { s.flume with
      changes := left
      hops := match look below s.flume.later with
        | some v => if own then put below v s.flume.hops else s.flume.hops
        | none => s.flume.hops
      later := if own then del below s.flume.later else s.flume.later
      lost := if own then s.flume.lost.filter (fun l => l != below) else s.flume.lost }
    link := { s.link with
      crossChains := if left.any (fun e => e.chain == c && e.rail == rail) then s.link.crossChains
        else s.link.crossChains.filter (fun e => e != (c, rail)) } }

/-- Whether a delivery is open on a chain. -/
def openOn (s : State) (c : Nat) : Bool :=
  match s.flume.delivery with
  | some d => d.chains.any (fun x => x.chain == c)
  | none => false

/-- The crossing of this sender's rail at the break above place `below` ends (R138): UNCROSS goes to the crossing
devices and to the twin sender, and the old latencies and, with the last crossing of the chain, its rate return. -/
def uncrossChain (s : State) (c : Nat) (below : BitVec 64) : State :=
  let first := decide (plHop below ≤ 1)
  let s0 := crossForgot s c s.id.side below
  let s1 := { s0 with link := { s0.link with
    guests := if first then s0.link.guests.filter (· != c) else s0.link.guests } }
  let s2 := if first then twFree (markCross s1 c false) else linkSend s1 c (.uncross (routeOf (placeAt below (plHop below - 1))))
  linkSend (linkSend s2 c (.uncross (routeOf below))) 8 (.uncross (routeOf below))

/-- REVERT_STABLE_ELAPSED: the link above place `below` has stayed up for CLN.REVERT.STABLE without a sync-header error
and no delivery is open on the chain (R138). For the link of the own chain port this device has the time itself;
for one further down the row brings it. -/
def execRevertStableElapsed (d : ChainBreak) (s : State) : Out1 :=
  act s fun s =>
    let c := d.chain
    let below := d.below
    match portAt s c with
    | none => s
    | some x =>
      let first := decide (plHop below ≤ 1)
      if !s.id.sender || (first && !portUp s c) || !s.link.crossChains.contains (c, s.id.side) || openOn s c then s
      else uncrossChain (if first then toLt (x.stableSince + 10 ^ 6 * x.stable) s else s) c below

/-- UNCROSS_RECEIVED: the direct path is taken again. A crossing device of the broken rail tells its twin, which
carried its packets, and a twin sender's chain runs at its full rate once no crossing is left on it. -/
def execUncrossReceived (m : UncrossIn) (s : State) : Out1 :=
  act s fun s =>
    let p := m.port
    let s0 := if s.id.sender then crossForgot s p (otherSide s.id.side) m.below else s
    let s1 := if !s.id.sender && s.link.guests.contains p then linkSend s0 8 (.uncross (routeOf s.id.place)) else s0
    let s2 := { s1 with link := { s1.link with
      crossDown := s1.link.crossDown.filter (· != p)
      crossUp := s1.link.crossUp && !(p == 0 && !s.id.sender)
      guests := s1.link.guests.filter (· != p) } }
    twFree (markCross s2 p false)

/-! ### What passes with time (R120, R128, R140; log 3) -/

/-- What the ports do in a tick in which no command comes: the packets that waited for a packet boundary leave, and the LINK_RETRAIN commands whose 2 s have passed. -/
def linkTick (s : State) : State :=
  let s1 := (s.link.ports.map (·.p)).foldl boundary s
  retrainsDone (upDrain s1)

/-! ### Status words (R139) -/

def clnStsWord (s : State) (p : Nat) : Word :=
  match portAt s p with
  | none => 0
  | some x =>
    mkFld 31 28 x.st ||| flagAt x.fecOn 27 ||| flagAt x.lanes2 26 ||| flagAt x.cross 25
      ||| flagAt x.impl 24 ||| mkFld 23 16 (getF s (clnAt clnPortSts p) 23 16)
      ||| mkFld 15 8 (match x.partner with | some w => w.flHigh | none => 0) ||| mkFld 7 0 x.qf

def clnEyeWord (s : State) (p : Nat) : Word :=
  match portAt s p with
  | none => 0
  | some x => mkFld 31 24 x.eye.w0 ||| mkFld 23 16 x.eye.h0 ||| mkFld 15 8 x.eye.w1 ||| mkFld 7 0 x.eye.h1

def clnLatWord (s : State) (p : Nat) : Word :=
  match portAt s p with
  | none => 0
  | some x => mkFld 19 0 x.lat

end Sys2Proof.Machine
end

