-- ==== Sys2Proof/Machine/Dram.lean ====
section
/-! DEFINITION. The external memory controller (15): training, the address mapping, inline ECC,
transactions, refresh, self-refresh, the scrubber, freezes and their recovery. The frames, canvases and
picture blocks that the device keeps in DRAM stand in the state in their own form; `dram.mem` holds what
transactions write. -/

namespace Sys2Proof.Machine

/-! ### Channels and mapping (R329 to R332) -/

/-- A channel by number. -/
def chanOf (s : State) (c : Nat) : Option DramCh := s.dram.chans.find? (fun x => x.ch == c)

/-- A channel replaced. -/
def setChan (s : State) (x : DramCh) : State :=
  { s with dram := { s.dram with chans := s.dram.chans.map (fun y => if y.ch = x.ch then x else y) } }

/-- The channels in use, in increasing number. -/
def chansInUse (s : State) : List DramCh := s.dram.chans.filter (·.trained)

/-- Bytes of a channel of density code `d`, and those of them that data use (15/16). -/
def chanBytes (d : Nat) : Nat := if 1 ≤ d ∧ d ≤ 4 then 2 ^ (29 + d) else 0
def chanUsable (d : Nat) : Nat := chanBytes d / 16 * 15

/-- The system space in bytes. -/
def dramSpace (s : State) : Nat :=
  (chansInUse s).length * (match (chansInUse s).head? with | some x => chanUsable x.dens | none => 0)

/-- The physical place of a system address: channel index, L, P, K. -/
structure DramAddr where
  c : Nat
  l : Nat
  p : Nat
  k : Nat
  deriving DecidableEq, Repr

/-- R331. -/
def mapAddr (grain nch a : Nat) : DramAddr :=
  let g := 256 * 2 ^ grain
  let n := max 1 nch
  let l := a / (g * n) * g + a % g
  let f := l / 3840
  let o := l % 3840
  { c := a / g % n, l := l, p := f * 4096 + o, k := f * 4096 + 3840 + 2 * (o / 32) }

/-- Column, bank and row of a physical address. -/
def colOf (p : Nat) : Nat := p % 4096
def bankOf (p : Nat) : Nat := (p / 2 ^ 12 % 16) ^^^ (p / 2 ^ 16 % 16)
def rowOf (p : Nat) : Nat := p / 2 ^ 16 % 2 ^ 17

/-- The mapping of an address in this device. -/
def mapNow (s : State) (a : Nat) : DramAddr := mapAddr s.dram.grain (chansInUse s).length a

/-- The number of the channel that serves an address. -/
def chanAt (s : State) (a : Nat) : Nat :=
  match (chansInUse s)[(mapNow s a).c]? with | some x => x.ch | none => 0

/-- Bytes of the firmware region and the pools of the role (R345). -/
def poolsBytes (s : State) : Nat :=
  65536 * (1024 + (if s.id.sender then getF s memPoolIng 18 0 + getF s memPoolCnv 18 0
    else getF s memPoolTile 18 0))

/-! ### Training (R339, R340; 17 R375) -/

/-- A channel waiting at step 1. -/
def chanNew (c : Nat) : DramCh :=
  { ch := c, step := 0, tries := 0, total := 0, trained := false, failed := false, dens := 0, rdEye := 0
    wrEye := 0, hot := false, refreshNs := 0, retryAt := none, drift := 0, since := 0, busy := 0, dqsAt := 0, mr4At := 0, refFrom := 0, refreshed := [] }

def isDramTrain (c : Nat) (o : HeavyOp) : Bool := o == .dramTrain c

/-- The credits of a channel granted: an attempt begins. -/
def dramGranted (s : State) (c : Nat) : State :=
  match chanOf s c with
  | some x => setChan s { x with step := 1, total := min 15 (x.total + 1), since := lt s }
  | none => s

/-- A channel asks for its credits. -/
def dramAsk (s : State) (c : Nat) : State :=
  match sluiceAsk s (.dramTrain c) 1 15 0 with
  | (t, .granted _) => dramGranted t c
  | (t, _) => t

/-- Training of the channels of CHMASK after a reset. -/
def dramStart (s : State) : State :=
  let m := getF s memBootcfg 3 0
  let cs := (List.range 4).filter (fun c => m / 2 ^ c % 2 == 1)
  let s1 := { s with dram := { s.dram with
    state := 1, grain := getF s memBootcfg 11 8, chans := cs.map chanNew } }
  cs.foldl dramAsk s1

/-- What a freeze leaves of a sender's frames (R347, R348): the source slots and the canvas buffers are lost, every
stream awaits its first frame, and open deliveries end without commits. -/
def framesLost (s0 : State) : State :=
  let s := abandonCanvas s0
  { s with
    net := { s.net with streams := s.net.streams.map (fun x =>
      { x with
        st := if x.st = 0 then 0 else 2
        slots := (x.slots.filter (fun y => !y.old)).map (fun y => slotFree y.idx y.units) }) }
    canvas := { s.canvas with newest := none, undelivered := false, prev := none }
    flume := { s.flume with delivery := none, ek := none } }

/-- Every channel in use is trained and its system space zero-filled: the pools are laid out (R339, R345,
R349). -/
def dramReady (s : State) : State :=
  let again := s.dram.state == 4
  let s1 := { s with dram := { s.dram with
    state := 2, mem := [], poisoned := [], srCh := [], postponed := [], scrub := 0, scrubAt := lt s, frozenAt := none } }
  if s1.id.sender then
    fullService (if again then resyncRail (framesLost s1)
      else if s1.flume.yieldOn && s1.canvas.rects == [] then railYield s1 false else s1)
  else fullService (storeReady s1)

/-- The memory cannot be used. -/
def dramFailed (s : State) : State :=
  let s1 := { s with dram := { s.dram with state := 5 } }
  if s1.id.sender && !s1.flume.yieldOn then railYield s1 true else s1

/-- Whether the memory is ready, once every channel has trained or failed. -/
def dramSettle (s : State) : State :=
  let bad := s.dram.chans.any (·.failed)
  if s.dram.chans.any (fun x => !x.trained && !x.failed) then s
  else if s.id.sender then (if bad then dramFailed s else dramReady s)
  else
    let s1 := { s with dram := { s.dram with degraded := bad && s.dram.chans.any (·.trained) } }
    if dramSpace s1 < poolsBytes s1 then dramFailed s1 else dramReady s1

/-- An attempt that failed: another begins, and after the third the channel has failed. -/
def attemptFailed (s : State) (x : DramCh) : State :=
  if x.tries + 1 < 3 then
    setChan s { x with tries := x.tries + 1, step := 1, total := min 15 (x.total + 1), since := lt s }
  else
    let s1 := setChan (creditReturn s (isDramTrain x.ch)) { x with
      tries := 3, step := 0, failed := true
      retryAt := if s.id.sender then some (lt s + 60 * 10 ^ 9) else none }
    dramSettle (recordX s1 xDramFail [w32 x.ch])

/-- The time by which a step of training is complete, in ms from the grant. Step 1 has no time of its own: it is
complete when step 2 is. -/
def stepLimit (step : Nat) : Nat :=
  match step with
  | 1 => 2
  | 2 => 2
  | 3 => 10
  | 4 => 20
  | 5 => 60
  | 6 => 100
  | _ => 400

/-- DRAM_TRAINING_STEP_TIMEOUT: a step is not complete by its time. -/
def execDramTrainingStepTimeout (c step : Nat) (s : State) : Out1 :=
  act s fun s =>
    match chanOf s c with
    | some x =>
      if x.step = 0 ∨ 8 ≤ x.step then s
      else attemptFailed (toLt (x.since + 10 ^ 6 * stepLimit step) s) x
    | none => s

/-- Whether an eye scan of the byte lanes of a channel is implausible (R340). -/
def laneScanOdd (l : List Nat) : Bool :=
  l == [] || l.any (fun w => decide (52 < w)) || l.any (fun a => l.any (fun b => decide (b + 20 < a)))

/-- The smallest lane width of a scan. -/
def laneMin (l : List Nat) : Nat := l.foldl min (l.headD 0)

/-- The result of a scan that has been repeated up to three times while implausible (R340): the smallest width of the
first plausible one, and whether it is accepted; none while there are to be more. -/
def laneScan (l : List (List Nat)) : Option (Option Nat) :=
  match (l.take 4).find? (fun e => !laneScanOdd e) with
  | some e => some (if 12 ≤ laneMin e then some (laneMin e) else none)
  | none => if 4 ≤ l.length then some none else none

/-- Channels that trained before channel 0 with a density other than its own fail their attempt (R330). -/
def densOthers (s : State) (c dens : Nat) : State :=
  if c ≠ 0 then s
  else
    (s.dram.chans.filter (fun y => y.ch != 0 && y.trained && y.dens != dens)).foldl (fun t y =>
      if y.tries + 1 < 3 then dramAsk (setChan t { y with trained := false, tries := y.tries + 1, step := 0 }) y.ch
      else attemptFailed t { y with trained := false }) s

/-- A channel after step 7: its upkeep begins (R341, R346). -/
def chanTrained (s : State) (x : DramCh) : DramCh :=
  { x with
    step := 8, trained := true, failed := false, retryAt := none, busy := lt s, dqsAt := lt s, mr4At := lt s
    refFrom := lt s, refreshed := [] }

/-- The instant at which the zero fill of step 7 can end at the earliest: 30 GB/s over the system space of the channel
(R339). -/
def fillEnd (x : DramCh) (dens : Nat) : Nat := x.since + chanUsable dens / 30

/-- DRAM_TRAINING_DONE: the density that mode register 8 gave and the read and write eye scans of the attempt, each a
list of lane widths in 1/64 UI, in the order in which they were made. A scan that was accepted is kept (R340), and a
zero fill that ends after 400 ms fails the attempt (R339). -/
def execDramTrainingDone (c dens : Nat) (rd_ wr_ : List (List Nat)) (s : State) : Out1 :=
  act s fun s =>
    match chanOf s c with
    | none => s
    | some x =>
      if x.step = 0 ∨ 8 ≤ x.step then s
      else
        let other := match chanOf s 0 with | some y => c != 0 && y.trained && y.dens != dens | none => false
        if dens == 0 || decide (4 < dens) || other then attemptFailed s x
        else match laneScan rd_, laneScan wr_ with
          | none, _ => s
          | some none, _ => attemptFailed s x
          | some (some _), none => s
          | some (some r), some none => attemptFailed s { x with rdEye := r }
          | some (some r), some (some w) =>
            let t := toLt (fillEnd x dens) s
            if x.since + 10 ^ 6 * stepLimit 7 < lt t then attemptFailed t { x with rdEye := r, wrEye := w }
            else
              dramSettle (densOthers (setChan (creditReturn t (isDramTrain c))
                (chanTrained t { x with dens := dens, rdEye := r, wrEye := w })) c dens)

/-- DRAM_CHANNEL_RETRY: a sender tries a failed channel every 60 s. -/
def execDramChannelRetry (c : Nat) (s : State) : Out1 :=
  act s fun s =>
    match chanOf s c with
    | none => s
    | some x =>
      match x.retryAt with
      | none => s
      | some t =>
        if !s.id.sender || !x.failed then s
        else
          let s1 := setChan (toLt t s) { x with failed := false, tries := 0, retryAt := none }
          dramAsk s1 c

/-! ### Running channels (R341) -/

/-- DQS_OSC_READ, every 100 ms: a drift above 2/64 UI is corrected. -/
def execDqsOscRead (c : Nat) (drift : Int) (s : State) : Out1 :=
  act s fun s =>
    match chanOf s c with
    | some x =>
      if !x.trained then s
      else
        let t := toLt (x.dqsAt + 10 ^ 8) s
        setChan t { x with drift := if 2 < drift.natAbs then 0 else drift, dqsAt := lt t }
    | none => s

/-- MR4_READ, every 32 ms: the refresh interval the DRAM asks for, and its retention range, above which it is refreshed
at the fastest rate that it allows. -/
def execMr4Read (c refreshNs : Nat) (hot : Bool) (s : State) : Out1 :=
  act s fun s =>
    match chanOf s c with
    | some x =>
      if !x.trained then s
      else
        let t := toLt (x.mr4At + 32 * 10 ^ 6) s
        let s1 := setChan t { x with
          refreshNs := if hot then Config.fastestRefresh else refreshNs, hot := hot, mr4At := lt t }
        if hot && !x.hot then recordX s1 xDramError [w32 c] else s1
    | none => s

/-- The refreshes put off for a bank. -/
def postponedOf (s : State) (c b : Nat) : Nat := (look (c, b) s.dram.postponed).getD 0

/-- A command noted for the shadow log, which keeps the last 8 of a channel: 1 read, 2 write, 3 refresh, 4 self-refresh
entry, 5 its exit, 6 precharge-all. -/
def noteCmd (s : State) (c code : Nat) : State :=
  let mine := ((c, code) :: s.dram.cmds.filter (fun e => e.1 == c)).take 8
  { s with dram := { s.dram with cmds := mine ++ s.dram.cmds.filter (fun e => e.1 != c) } }

/-- A command issued `n` times on a channel. -/
def noteCmds (s : State) (c code n : Nat) : State := (List.range n).foldl (fun t _ => noteCmd t c code) s

/-- The instant at which the next refresh of a bank falls due, at the interval in force (R341). -/
def refreshDue (x : DramCh) (b : Nat) : Nat := (look b x.refreshed).getD x.refFrom + x.refreshNs

/-- A bank's refresh has fallen due: the next one counts from here. -/
def refreshMark (s : State) (x : DramCh) (b : Nat) : State :=
  setChan s { x with refreshed := put b (lt s) x.refreshed }

/-- The refreshes put off on a bank and `k` more are issued. -/
def refreshNow (s : State) (c b k : Nat) : State :=
  noteCmds { s with dram := { s.dram with postponed := del (c, b) s.dram.postponed } } c 3 (postponedOf s c b + k)

/-- DRAM_REFRESH: the refresh of a bank falls due and is put off, up to 8, or runs with those put off. -/
def execDramRefresh (c b : Nat) (postpone : Bool) (s : State) : Out1 :=
  act s fun s =>
    match chanOf s c with
    | some x =>
      if !x.trained || s.dram.srCh.contains c || s.dram.state != 2 then s
      else
        let t := refreshMark (toLt (refreshDue x b) s) x b
        let n := postponedOf s c b
        if postpone && decide (n < 8) then
          { t with dram := { t.dram with postponed := put (c, b) (n + 1) t.dram.postponed } }
        else refreshNow t c b 1
    | none => s

/-! ### Transactions (R333 to R337, R342 to R344) -/

/-- Whether a port serves the role. -/
def portServes (sender : Bool) (p : Nat) : Bool :=
  if p ≤ 1 then !sender else if p ≤ 10 then sender else p ≤ 12

/-- Whether a port is of class BG, and the tags it may hold. -/
def portBg (p : Nat) : Bool := 11 ≤ p
def portTags (p : Nat) : Nat := if p = 12 then 4 else if portBg p then 1024 else 4096

/-- The units an access touches, and those it covers whole. -/
def touchedUnits (a n : Nat) : List Nat := (List.range ((a + n + 31) / 32 - a / 32)).map (· + a / 32)
def wholeUnits (a n : Nat) : List Nat :=
  (touchedUnits a n).filter (fun u => decide (a ≤ 32 * u) && decide (32 * u + 32 ≤ a + n))

/-- Bytes read from an address on. -/
def memRead (l : List Host.Cell) (a n : Nat) : List Byte := (List.range n).map (fun i => memByte l (a + i))

/-- Whether a port may take a tag now. -/
def tagFree (s : State) (p : Nat) : Bool :=
  decide (s.dram.reqs.length < 16384)
    && decide ((s.dram.reqs.filter (fun r => r.port == p)).length < portTags p)

/-- The units that a transaction reads: those a read touches, and those a write covers in part (R334). -/
def readUnits (r : DramReq) : List Nat :=
  let l := touchedUnits r.addr r.len
  if r.write.isSome then l.filter (fun u => !(wholeUnits r.addr r.len).contains u) else l

/-- A request of a channel is served: its idle time counts from here (R346). -/
def chanBusy (s : State) (c : Nat) : State :=
  match chanOf s c with
  | some x => setChan s { x with busy := lt s }
  | none => s

/-- A channel leaves self-refresh, where it is in it (R346). -/
def srExit (s : State) (c : Nat) : State :=
  match chanOf s c with
  | some x =>
    if s.dram.srCh.contains c then
      noteCmd (setChan { s with dram := { s.dram with srCh := s.dram.srCh.filter (· != c) } }
        { x with refFrom := lt s, refreshed := [] }) c 5
    else s
  | none => s

/-- A request takes its tag: self-refresh of its channel ends, a write lands in tag order, a read finds
what the earlier writes left. -/
def takeTag (s : State) (r : DramReq) : State :=
  let c := chanAt s r.addr
  let s1 := noteCmd (srExit s c) c (if r.write.isSome then 2 else 1)
  let poison := (readUnits r).any (fun u => s.dram.poisoned.contains u)
  let x := { r with tag := s.dram.nextTag, ch := c, at_ := lt s, poison := poison
                    data := memRead s.dram.mem r.addr r.len }
  let d := { s1.dram with reqs := s1.dram.reqs ++ [x], nextTag := s1.dram.nextTag + 1 }
  match r.write with
  | none => { s1 with dram := d }
  | some b =>
    let whole := wholeUnits r.addr r.len
    { s1 with dram := { d with
      mem := memStore d.mem r.addr b
      poisoned := d.poisoned.filter (fun u => !whole.contains u) } }

/-- The cycles of MCLK in which any port waited for a tag, counted up to now (R344). -/
def stallCount (s : State) : State :=
  if s.dram.waiting.isEmpty then s
  else bumpN { s with dram := { s.dram with stallAt := lt s } } memStall ((lt s - s.dram.stallAt) / 2)

/-- Waiting requests take the tags that have become free. -/
def serveWaiting (s : State) : State :=
  match s.dram.waiting.find? (fun r => tagFree s r.port) with
  | none => s
  | some r =>
    let s1 := stallCount s
    takeTag { s1 with dram := { s1.dram with waiting := s1.dram.waiting.erase r } } r

/-- A request waits at its port (R344). -/
def waitTag (s : State) (r : DramReq) : State :=
  let from_ := if s.dram.waiting.isEmpty then lt s else s.dram.stallAt
  { s with dram := { s.dram with waiting := s.dram.waiting ++ [r], stallAt := from_ } }
/-- A corrected single-bit error (R333). -/
def corrected (s : State) (c : Nat) : State := bump (bump s memCe) (memChCe + 4 * c)

/-- The check word read with an uncorrectable unit: poisoned or not, with a code that is not given (R333, R336). -/
def checkWord (s : State) (u : Nat) : Word :=
  (if s.dram.poisoned.contains (u / 32) then 0xFC00 else 0) ||| (Config.checkCode s.free u).zeroExtend 32

/-- An uncorrectable read of the unit of an address by a port (R336). -/
def uncorrectable (s : State) (p a : Nat) : State :=
  let u := a / 32 * 32
  let c := chanAt s u
  let s1 := bump (bump s memUe) (memChUe + 4 * c)
  let s2 := wr (wr s1 memUeAddrHi (w32 (u / 2 ^ 32))) memUeAddrLo (w32 u)
  if s2.rcd.marks.contains (p, nowSec s2) then s2
  else
    let s3 := { s2 with
      free := s2.free + 1
      rcd := { s2.rcd with marks := (p, nowSec s2) :: s2.rcd.marks.filter (fun m => m.1 != p) } }
    recordX s3 xDramError
      [w32 (u / 2 ^ 32), w32 u, w32 c, w32 (mapNow s3 u).p, w32 p, checkWord s2 u]

/-- The pool block of 1,152 bytes at an address, counted from `base`. -/
def blockAt (base a : Nat) : Option Nat := if base ≤ a then some ((a - base) / 1152) else none

/-- The canvas block whose data stand at a system address: the canvas pool holds its buffers one after the other,
each rounded up to whole units (R345). -/
def canvasBlockAt (s : State) (f : CanvasFrame) (a : Nat) : Option Nat :=
  let base := 65536 * (1024 + getF s memPoolIng 18 0)
  let size := (f.wb * f.hb * 1152 + 65535) / 65536 * 65536
  if a < base ∨ 3 * size ≤ a - base ∨ f.wb * f.hb ≤ (a - base) % size / 1152 then none
  else some ((a - base) % size / 1152)

/-- The line of a source frame that the fill could not read stays unfilled (R337; log 103). -/
def fillFails (s : State) (a : Nat) : State :=
  match Config.fillLine a with
  | none => s
  | some (id, l) =>
    { s with net := { s.net with streams := s.net.streams.map (fun x =>
      if x.id = id then { x with unread := l :: x.unread.filter (· != l) } else x) } }

/-- The response of a requestor to an uncorrectable read (R337). Port 9 keeps the block for the packet that would
have carried it. On port 11 firmware rebuilds the structure, as it can every one of its own (R348). -/
def respond (s : State) (p a : Nat) : State :=
  let pool := 65536 * 1024
  if p = 1 then
    match blockAt pool a with
    | some k =>
      match (List.range (frontMap s).length).find? (fun i =>
          let e := (frontMap s).getD i entNone
          e.valid && e.slot == k) with
      | some i => readFault s i
      | none => s
    | none => s
  else if p = 2 ∨ p = 3 then fillFails s a
  else if 4 ≤ p ∧ p ≤ 7 then abandonCanvas s
  else if p = 8 then
    match s.canvas.newest with
    | none => s
    | some f => match canvasBlockAt s f a with
    | none => s
    | some b =>
      s.canvas.rects.foldl (fun t r =>
        let d := dmgOf t r.na
        let hit := (List.range (r.wtb * r.htb)).filter (fun i => rectBlock f.wb r i == b)
        setDmg t { d with pending := d.pending ++ hit.filter (fun i => !d.pending.contains i) }) s
  else if p = 9 then
    match s.flume.delivery with
    | none => s
    | some d => match canvasBlockAt s d.canvas a with
      | some b => { s with flume := { s.flume with unread := b :: s.flume.unread.filter (· != b) } }
      | none => s
  else if p = 10 then
    match s.flume.owlQueue with
    | [] => bump s owlSkip
    | e :: l => bump { s with flume := { s.flume with owlQueue := l.filter (fun y => y.2 != e.2) } } owlSkip
  else s

/-- A request completes at once with the poison flag, and the requestor of a read responds (R347). -/
def poisonAnswer (s : State) (p a : Nat) (write : Bool) : State :=
  let s1 := emit s (.dram p [] true)
  if write then s1 else respond s1 p a

/-- DRAM_REQUEST. After a freeze a request completes at once with the poison flag, and its requestor responds; before the
controller is ready none is taken (log 15); without a free tag it waits at its port. Port 0 only writes (R337). -/
def execDramRequest (p a : Nat) (w : Option (List Byte)) (n : Nat) (s : State) : Out1 :=
  if s.boot.held then .next s
  else
    let len := match w with | some b => b.length | none => n
    if !portServes s.id.sender p || (p == 0 && w.isNone) || len == 0 then .next s
    else if s.dram.state = 3 ∨ s.dram.state = 4 ∨ s.dram.ended = true then
      commit s (poisonAnswer s p a w.isSome)
    else if s.dram.state ≠ 2 then .next s
    else if dramSpace s < a + len then .fault .dramOutside
    else
      let r : DramReq := { tag := 0, port := p, ch := 0, addr := a, len := len, write := w, at_ := lt s
                           data := [], poison := false }
      commit s (if tagFree s p then takeTag s r else waitTag s r)

/-- The age bound of a request in ns (R342). -/
def ageBound (s : State) (p : Nat) : Nat :=
  if portBg p then 1000 * getF s memSched 31 16 else getF s memSched 15 0

/-! ### Freezes (R347 to R349) -/

/-- What a freeze leaves of a tile's image (R347, R348): the store and both copies of it are lost, and no certificate is
honoured until a FULL delivery has been swapped. -/
def imageLost (s : State) : State :=
  let blank := List.replicate (tileNb s) entNone
  { s with
    weir := { s.weir with frozen := true }
    img := { s.img with
      ready := false, total := 0, free := [], slots := [], front := blank, back := blank, qfMap := blank
      qbMap := blank, qFront := [], qBack := [], open_ := none, service := min 1 s.img.service } }

/-- A voluntary handover, where the device holds and its standby is sound (R348). -/
def yieldIfSound (s : State) : State :=
  if s.pair.holding && standbyReady s && s.pair.handover.isNone then startHandover s .yield else s

/-- What the device does after a freeze (R348). A holder whose handover has begun keeps its lamps until it ends. -/
def freezeAction (s : State) : State :=
  let s1 := leaveLockstep s 5
  if s1.id.sender then yieldIfSound (railYield (framesLost s1) true)
  else
    let s2 := yieldIfSound (imageLost s1)
    if s2.pair.holding && s2.pair.handover.isSome then { s2 with img := { s2.img with reduce := 2 } }
    else askResync { s2 with img := { s2.img with reduce := 1 } } 1

/-- A command-path error freezes the controller: every outstanding request completes with the poison flag.
The third freeze within an hour of the first ends recovery. -/
def freeze (s : State) (source c : Nat) : State :=
  let tags := s.dram.reqs.length
  let mine : List Word := (s.dram.cmds.filter (fun e => e.1 == c)).map (fun e => w32 e.2)
  let last := (mine ++ List.replicate 8 0).take 8
  let all := s.dram.reqs ++ s.dram.waiting
  let s0 := stallCount s
  let hist := lt s :: s.dram.freezes.filter (fun t => decide (lt s ≤ t + 3600 * 10 ^ 9))
  let ended := decide (3 ≤ hist.length)
  let s1 := { s0 with dram := { s0.dram with
    state := if ended then 5 else 3, reqs := [], waiting := [], freezes := hist, frozenAt := some (lt s)
    ended := s0.dram.ended || ended } }
  let s2 := bump (all.foldl (fun t r => poisonAnswer t r.port r.addr r.write.isSome) s1) memFreeze
  let words := w32 source :: w32 c :: last ++ [w32 tags]
  let s3 := recordX s2 xFreeze words
  freezeAction (if ended then event s3 .both (Config.trigger xFreeze) words else s3)

/-- COMMAND_PATH_ERROR. -/
def execCommandPathError (source c : Nat) (s : State) : Out1 :=
  act s fun s => if s.dram.state = 2 ∨ s.dram.state = 1 ∨ s.dram.state = 4 then freeze s source c else s

/-- One side of a crossing is reset (17 R368): a word or event that waited in one is lost, counted and recorded. -/
def sideReset (s : State) : State :=
  let s1 := { s with free := s.free + 1 }
  match Config.crossingLost s.free with
  | some n => recordX (setF (bump s1 pwrCdcLost) pwrSts 29 29 1) xCrossing [w32 n]
  | none => s1

/-- The controller is reset, and training begins again on every channel in use: all but those that failed (R349). -/
def trainAll (s0 : State) : State :=
  let s := sideReset s0
  let l := s.dram.chans.filter (fun x => !x.failed)
  let s1 := l.foldl (fun t x => if 1 ≤ x.step ∧ x.step < 8 then creditReturn t (isDramTrain x.ch) else t) s
  (l.map (·.ch)).foldl dramAsk { s1 with dram := { s1.dram with
    state := 4, srCh := []
    chans := s1.dram.chans.map (fun x => if x.failed then x else { x with trained := false, step := 0, tries := 0 }) } }

/-- FREEZE_RECOVERY: 10 ms after the freeze the controller is reset and every channel in use trains
again. -/
def execFreezeRecovery (s : State) : Out1 :=
  act s fun s =>
    match s.dram.frozenAt with
    | none => s
    | some t =>
      if s.dram.state ≠ 3 then s else trainAll (toLt (t + 10 ^ 7) s)

/-- The units that the transaction `r` left poisoned: a whole-unit write that took a later tag replaces its unit, and
the reads between find the poison (R334, R343). -/
def poisonUnits (s : State) (r : DramReq) : State :=
  let stop (u : Nat) : Option DramReq :=
    s.dram.reqs.find? (fun x => decide (r.tag < x.tag) && x.write.isSome && (wholeUnits x.addr x.len).contains u)
  let units := readUnits r
  let finds (x : DramReq) (u : Nat) : Bool :=
    decide (r.tag < x.tag) && (readUnits x).contains u
      && (match stop u with | some y => decide (x.tag < y.tag) | none => true)
  { s with dram := { s.dram with
    poisoned := s.dram.poisoned
      ++ units.filter (fun u => !s.dram.poisoned.contains u && (stop u).isNone)
    reqs := s.dram.reqs.map (fun x => if units.any (finds x) then { x with poison := true } else x) } }

/-- The address of the unit that a transaction read wrong: the first one known as poisoned, else the first one it
reads. -/
def badUnit (s : State) (r : DramReq) : Nat :=
  match (readUnits r).find? (fun u => s.dram.poisoned.contains u) with
  | some u => 32 * u
  | none => 32 * ((readUnits r).headD (r.addr / 32))

/-- DRAM_READ_RETURN: the judgement of the transaction of a tag: 0 clean, 1 corrected, 2 uncorrectable. A
tag that is not outstanding is a command-path error; the requests of one port to one channel complete in
tag order (R343). -/
def execDramReadReturn (tag outcome : Nat) (s : State) : Out1 :=
  act s fun s =>
    if s.dram.state ≠ 2 then s
    else match s.dram.reqs.find? (fun r => r.tag == tag) with
      | none => freeze s 3 0
      | some r =>
        if s.dram.reqs.any (fun x => x.port == r.port && x.ch == r.ch && decide (x.tag < tag)) then s
        else
          let aged := decide (ageBound s r.port ≤ lt s - r.at_)
          let s1 := chanBusy { s with dram := { s.dram with reqs := s.dram.reqs.filter (fun x => x.tag != tag) } } r.ch
          let s2 := if aged then bump s1 memAged else s1
          let bad := decide (outcome = 2) || r.poison
          let s3 :=
            if r.write.isSome then
              let s2 := emit s2 (.dram r.port [] false)
              if readUnits r = [] then s2
              else if bad then poisonUnits (uncorrectable s2 r.port (badUnit s r)) r
              else if outcome = 1 then corrected s2 r.ch
              else s2
            else if bad then
              respond (uncorrectable (emit s2 (.dram r.port r.data true)) r.port (badUnit s r)) r.port (badUnit s r)
            else
              let s2 := emit s2 (.dram r.port r.data false)
              if outcome = 1 then corrected s2 r.ch else s2
          serveWaiting s3

/-- A unit that reads uncorrectable until it is rewritten. -/
def staysPoisoned (s : State) (u : Nat) : State :=
  { s with dram := { s.dram with poisoned := u :: s.dram.poisoned.filter (· != u) } }

/-- The instant at which the scrubber reads its next unit: the units of a pass share its time evenly (R338; log 67). -/
def scrubDue (s : State) : Nat :=
  s.dram.scrubAt + getF s memScrub 7 0 * (3600 * 10 ^ 9) / (dramSpace s / 32)

/-- The step at which the unit of the scrubber's place is read: its time, and the place after it. -/
def scrubMove (s : State) : State :=
  let t := toLt (scrubDue s) s
  { t with dram := { t.dram with scrub := (s.dram.scrub % (dramSpace s / 32) + 1) % (dramSpace s / 32), scrubAt := lt t } }

/-- SCRUB_STEP: the next unit of the patrol scrubber; an uncorrectable one stays poisoned until it is rewritten (R337,
R338). -/
def execScrubStep (outcome : Nat) (s : State) : Out1 :=
  act s fun s =>
    let units := dramSpace s / 32
    if s.dram.state ≠ 2 ∨ getF s memScrub 7 0 = 0 ∨ units = 0 ∨ 1 ≤ throttleStep s then s
    else
      let u := s.dram.scrub % units
      let s1 := scrubMove s
      if outcome = 2 ∨ s.dram.poisoned.contains u = true then staysPoisoned (uncorrectable s1 12 (32 * u)) u
      else if outcome = 1 then corrected s1 (chanAt s (32 * u))
      else s1

/-! ### Self-refresh (R346) -/

/-- The refreshes put off on a channel are issued before it enters self-refresh. -/
def settleRefresh (s : State) (c : Nat) : State :=
  (List.range 16).foldl (fun t b => refreshNow t c b 0) s

/-- The instant at which the idle time of a channel is reached (R346). -/
def idleEnd (s : State) (x : DramCh) : Nat := x.busy + 1000 * getF s memSr 15 0

/-- SELF_REFRESH_ENTRY: the idle time of a channel is reached. With a request from before that instant it is not; one
that takes its tag before SRE, 22 ns on, cancels the entry; one that comes later ends it again. -/
def execSelfRefreshEntry (c : Nat) (s : State) : Out1 :=
  act s fun s =>
    match chanOf s c with
    | some x =>
      if !x.trained || s.dram.state != 2 || getF s memSr 15 0 == 0 || s.dram.srCh.contains c then s
      else
        let i := idleEnd s x
        let mine := s.dram.reqs.filter (fun r => r.ch == c)
        if mine.any (fun r => decide (r.at_ < i)) then s
        else
          let t := noteCmd (settleRefresh (toLt i s) c) c 6
          if mine.any (fun r => decide (r.at_ < i + 22)) then bump t memSrCancel
          else
            let u := noteCmd (bump { t with dram := { t.dram with srCh := c :: t.dram.srCh } } memSrEntry) c 4
            if mine = [] then u else srExit u c
    | none => s

/-! ### Status words (R350) -/

def memStsWord (s : State) : Word :=
  mkFld 31 28 s.dram.state ||| mkFld 27 24 (chansInUse s).length ||| flagAt s.dram.degraded 23
    ||| mkFld 19 16 s.dram.grain ||| mkFld 15 0 (dramSpace s / 2 ^ 20)

def memChWord (s : State) (c : Nat) : Word :=
  match chanOf s c with
  | some x => mkFld 31 24 x.rdEye ||| mkFld 23 16 x.wrEye ||| flagAt x.hot 15 ||| mkFld 11 8 x.dens
      ||| mkFld 3 0 x.total
  | none => 0

end Sys2Proof.Machine
end

