-- ==== Sys2Proof/Machine/Sram.lean ====
section
/-! DEFINITION. On-chip memory (16): uncorrectable words and their owners' responses, and the march
engine. -/

namespace Sys2Proof.Machine

/-! ### Uncorrectable words (R352) -/

/-- The owner of a bank. -/
def ownerOfBank (s : State) (k : Nat) : Nat := (s.sram.banks.getD k ⟨0, false, false, false, 0⟩).owner

/-- A lamp whose value was lost: the blocks of its group-row join the next pass. -/
def lampLost (s : State) (n : Nat) : State :=
  if lampCount s ≤ n then s
  else
    let row := groupRowOf s n
    let blocks := (List.range (tileNb s)).filter (fun b => b == lampBlock s n || (rowsOfBlock s b).contains row)
    { s with img := { s.img with redo := s.img.redo ++ blocks.filter (fun b => !s.img.redo.contains b) } }

/-- Pixels whose matrix words, or written bits, one read found wrong: one fault is counted, also where an earlier read
found them wrong already (07 R163). -/
def pixelsLost (s : State) (l : List Nat) : State :=
  let hit := l.filter (fun px => decide (px < picW s * picH s))
  if hit = [] then s
  else wr (hit.foldl pixelLost s) tilMfault (satAdd (rd s tilMfault) 1)

/-- The open frame whose duplicate map stands at place `j`, in the order of streams and slots, is dropped, and its
packets count as OVERRUN (03 R63, R66). -/
def dropOpen (s : State) (j : Nat) : State :=
  let l := s.net.streams.flatMap (fun x => ((ownFrames x).filter (fun y => y.st == .filling)).map (fun y => (x, y)))
  match l[j]? with
  | none => s
  | some (x, y) =>
    setStream (bumpN s (ingUnrec + 4 * x.id) (y.seen.map (·.1)).eraseDups.length)
      { putSlot x (slotFree y.idx y.units) with refused := histPut y.ts x.refused }

/-- A packet of the receiver buffers dropped: it counts as OVERRUN of its stream. -/
def dropPacket (s : State) (id : Nat) : State :=
  if (streamOf s id).isSome then bump s (ingUnrec + 4 * id) else s

/-- Blocks of the canvas whose PENDING bits were lost count as changed (04 R94). -/
def blocksChanged (s : State) (l : List Nat) : State :=
  match s.canvas.newest with
  | none => s
  | some f => s.canvas.rects.foldl (fun t r =>
      let d := dmgOf t r.na
      let hit := (List.range (r.wtb * r.htb)).filter (fun i => l.contains (rectBlock f.wb r i))
      setDmg t { d with pending := d.pending ++ hit.filter (fun i => !d.pending.contains i) }) s

/-- The proof age of lamps counts as run out. -/
def agesLost (s : State) (l : List Nat) : State :=
  let xs := (l.filter (fun n => decide (n < lampCount s))).map (fun n => { lampX s n with pass := none })
  policyCheck (setLamps s xs)

/-- What the owner of a word does after an uncorrectable read. -/
def sramRespond (s : State) (bank word : Nat) : State :=
  let o := ownerOfBank s bank
  let at_ (first : Nat) : Nat := 524288 * (bank - first) + 8 * word
  if o = 2 then pixelsLost s [at_ 4 / 18, (at_ 4 + 7) / 18]
  else if o = 3 then
    ((List.range 4).map (fun i => at_ 31 % (if lpMode (rd s) = 2 then 393216 else 4718592) / 2 + i)).foldl
      lampLost (setChk s 2 false)
  else if o = 4 then
    let b := at_ 40 % 884736 / 288
    if s.img.qInUse && decide (b < tileNb s) then readFault s b else s
  else if o = 5 then
    let a := 8 * word
    if a < 49152 then (if word % 3072 < tileNb s then readFault s (word % 3072) else s)
    else if 389120 ≤ a then pixelsLost s ((List.range 64).map (· + (a - 389120) * 8))
    else s
  else if o = 6 then agesLost s ((List.range 4).map (fun i => at_ 45 / 2 + i))
  else if o = 7 then dropPacket s (Config.rxStream bank word)
  else if o = 8 then abandonCanvas s
  else if o = 9 then
    if at_ 21 < 524288 then blocksChanged s ((List.range 64).map (· + at_ 21 % 262144 * 8)) else s
  else if o = 10 then dropOpen s (at_ 25 / 32768)
  else s

/-- An uncorrectable word read: counted, and recorded once a second for each bank. -/
def sramBad (s : State) (bank word : Nat) : State :=
  let s1 := wr (bump s srmUe) srmUeAddr (flagAt true 31 ||| mkFld 30 24 bank ||| w32 (word % 65536))
  let key := (200 + bank, nowSec s1)
  if s1.rcd.marks.contains key then s1
  else recordX { s1 with rcd := { s1.rcd with
    marks := key :: s1.rcd.marks.filter (fun m => m.1 != key.1) } } xSramError [w32 bank, w32 word]

/-- An uncorrectable read of a word, answered by its owner. -/
def sramUncorrectable (s : State) (bank word : Nat) : State := sramRespond (sramBad s bank word) bank word

/-! ### Requests at the ports (R351 to R353, R358, R362) -/

/-- The whole word at an address, read from bytes. -/
def sramWord (l : List Host.Cell) (a : Nat) : List Byte := memRead l a 8

/-- Bytes written into a word: a whole word clears its poison; a part is merged, and a merge that reads an
uncorrectable word leaves it so (R352). What the merge reads is counted as a read (log 69). -/
def sramStore (s : State) (r : SramReq) (off : Nat) (b : List Byte) : State :=
  let a := sramAddr r.bank r.word
  let rest := s.sram.poisoned.filter (· != a)
  let bad := r.err == 2 || s.sram.poisoned.contains a
  let s1 := if 8 ≤ b.length then s
    else if bad then sramBad s r.bank r.word
    else if r.err = 1 then bump s srmCe else s
  { s1 with sram := { s1.sram with
    mem := memStore s1.sram.mem (a + off) b
    poisoned := if bad && decide (b.length < 8) then a :: rest else rest } }

/-- Whether port 1 writes the word of a request in the same cycle. -/
def displaced (peers : List SramReq) (r : SramReq) : Bool :=
  r.port == 0 && peers.any (fun q => q.port == 1 && q.write.isSome && q.bank == r.bank && q.word == r.word)

/-- The bank's answer to a request, `pre` the bytes before the writes of the cycle and `peers` the requests of the
cycle. The secure bank answers only secure requests at port 0, and none while it is wiped (R358, R359). -/
def sramAnswer (pre : List Host.Cell) (peers : List SramReq) (s : State) (r : SramReq) : State :=
  let out (t : State) (x : SramRes) : State := emit t (.sram r.port r.bank r.word x)
  if r.bank = 64 ∧ !(r.port == 0 && r.secure) then out (bump s srmUe) .busError
  else if r.bank = 64 ∧ s.sec.wiping then out s .busError
  else match r.write with
    | some (off, b) =>
      if displaced peers r then out (bump s srmWcoll) .lost else out (sramStore s r off b) .done
    | none =>
      let a := sramAddr r.bank r.word
      let bad := r.err == 2 || s.sram.poisoned.contains a
      let s1 := if bad then sramUncorrectable s r.bank r.word
        else if r.err = 1 then bump s srmCe else s
      out s1 (.data (sramWord pre a) bad)

/-- The requests of one cycle served. -/
def sramCycle (s : State) (l : List SramReq) : State := l.foldl (sramAnswer s.sram.mem l) s

/-- Requests served cycle by cycle, each with the cycle in which it is served. -/
def sramServe (s : State) (l : List (Nat × SramReq)) : State :=
  let cycles := (l.foldr (fun e acc => insertNat e.1 acc) [])
  cycles.foldl (fun t c => sramCycle t ((l.filter (fun e => e.1 == c)).map (·.2))) s

/-- The cycle in which each request is served where a granule of a bank is locked from cycle 0 to `release`: a request
to it stalls, and those that stall are served in the order of their arrival after the release. One in the cycle the
lock would be taken comes before it (R362). -/
def lockedServe (bank granule release : Nat) (l : List SramReq) : List (Nat × SramReq) :=
  let held (r : SramReq) : Bool :=
    r.bank == bank && r.word / 64 == granule && decide (0 < r.cycle) && decide (r.cycle ≤ release)
  let order := (l.filter held).foldr (fun r acc => insertNat r.cycle acc) []
  l.map (fun r => (if held r then release + 1 + order.idxOf r.cycle else r.cycle, r))

/-- SECURE_WIPE_END (R359): 4.1 µs after the cause; SRM.WIPES and the record. The keys a tamper does not withhold are loaded again. -/
def execSecureWipeEnd (s : State) : Out1 :=
  act s fun s =>
    if !s.sec.wiping then s
    else
      let t := toLt (s.sec.wipeAt + 4100) s
      let s1 := recordX (bump { t with sec := { t.sec with wiping := false } } srmWipes) xWipe []
      if s1.sec.tamperSeen && getF s1 secTamper 1 0 == 0 then s1 else loadKeys s1

/-! ### The march engine (R360 to R363) -/

def isMarch (b : Nat) (o : HeavyOp) : Bool := o == .march b
def isMarchAny (o : HeavyOp) : Bool := match o with | .march _ => true | _ => false

/-- A bank engine that holds its credit begins. -/
def marchGranted (s : State) (b : Nat) : State :=
  { s with sram := { s.sram with
    mstate := 2, todo := s.sram.todo.filter (· != b), active := s.sram.active ++ [(b, 0)]
    from_ := put b (lt s) s.sram.from_, last := b } }

/-- The local time kept for a bank with an engine. -/
def marchFrom (s : State) (b : Nat) : Nat := (look b s.sram.from_).getD 0

/-- Engines ask for credits for the next banks, at most four at once, in increasing number. -/
def marchFill : Nat → State → State
  | 0, s => s
  | n + 1, s =>
    match s.sram.todo with
    | [] => s
    | b :: _ =>
      if 4 ≤ s.sram.active.length ∨ s.slu.waiting.any (fun c => isMarchAny c.op) = true then s
      else match sluiceAsk s (.march b) 3 1 0 with
        | (t, .granted _) => marchFill n (marchGranted t b)
        | (t, _) =>
          if t.sram.active = [] then { t with sram := { t.sram with mstate := 1 } } else t

/-- The banks of the mask words. -/
def marchMask (lo hi : Word) : List Nat := (List.range 64).filter (fun k => if k < 32 then bit lo k else bit hi (k - 32))

/-- The engine stops: its credits return. -/
def marchStop (s : State) : State :=
  let s1 := withdrawAsk (creditReturn s isMarchAny) isMarchAny
  { s1 with sram := { s1.sram with mstate := 0, todo := [], active := [], doneAt := none } }

/-- A run over the banks of the mask begins in mode 1 or 2; mode 0 stops the engine. -/
def marchStart (s : State) (mode : Nat) : State :=
  let s1 := marchStop s
  let banks := marchMask (rd s srmMarchMaskLo) (rd s srmMarchMaskHi)
  if mode = 0 then s1
  else if banks = [] then { s1 with sram := { s1.sram with mmode := mode, mstate := 3, doneAt := some (lt s1) } }
  else marchFill 4 { s1 with sram := { s1.sram with mmode := mode, todo := banks, mstate := 1 } }

/-- A bank changed. -/
def setBank (s : State) (k : Nat) (f : Bank → Bank) : State :=
  { s with sram := { s.sram with banks := s.sram.banks.modify k f } }

/-- A march that finds a failing word (R363). -/
def marchFail (s : State) (bank word element : Nat) : State :=
  recordX (bump (setBank s bank (fun b => { b with fault := true })) srmMfail) xMarch
    [w32 bank, w32 word, w32 element]

/-- The run ends once no bank is left. -/
def marchEnd (s : State) : State :=
  let s1 := marchFill 4 s
  if s1.sram.todo = [] ∧ s1.sram.active = [] then
    { s1 with sram := { s1.sram with mstate := 3, doneAt := some (lt s1) } }
  else s1

/-- A granule of a bank released: the engine goes on to the next one after SRM.MARCH.GAP µs (R361). -/
def granuleDone (s : State) (bank g : Nat) : State :=
  { s with sram := { s.sram with
    active := s.sram.active.map (fun e => if e.1 = bank then (bank, g + 1) else e)
    from_ := put bank (lt s + 1000 * getF s srmMarch 23 16) s.sram.from_ } }

/-- MARCH_GRANULE_LOCK: one granule of a preserving march. `diff1` and `diff2` tell that the first and the
second comparison differ, `element` at which element of the march `word` failed (0: none), `reqs` are the requests at
the ports from the cycle of the lock on. SRM.MAXSTALL follows their stalls, and a word that differs twice stays
uncorrectable. -/
def execMarchGranuleLock (bank : Nat) (diff1 diff2 : Bool) (word element : Nat) (reqs : List SramReq) (s : State) : Out1 :=
  act s fun s =>
    match s.sram.active.find? (fun e => e.1 == bank) with
    | none => s
    | some (_, g) =>
      if s.sram.mmode ≠ 1 ∨ 1024 ≤ g ∨ 1 ≤ throttleStep s then s
      else
        let release := if diff1 then 960 else 832
        let served := lockedServe bank g release reqs
        let stall := (served.map (fun e => e.1 - e.2.cycle)).foldl max 0
        let s2 := granuleDone (sramServe (ticks (release / 4) (toLt (marchFrom s bank) s)) served) bank g
        let s3 := wr s2 srmMaxstall (w32 (max (rd s2 srmMaxstall).toNat (sat32 stall)))
        let both := diff1 && diff2
        let s4 := if both || element != 0 then marchFail s3 bank word element else s3
        if both then
          let s5 := sramUncorrectable s4 bank word
          { s5 with sram := { s5.sram with poisoned := insertNat (sramAddr bank word) s5.sram.poisoned } }
        else s4

/-- MARCH_BANK_DONE: a bank engine has marched its whole bank; `failed` names the failing word and element
of a destructive march, which takes 655,360 cycles (R360). -/
def execMarchBankDone (bank : Nat) (failed : Option (Nat × Nat)) (s : State) : Out1 :=
  act s fun s =>
    match s.sram.active.find? (fun e => e.1 == bank) with
    | none => s
    | some (_, g) =>
      if s.sram.mmode = 1 ∧ g < 1024 then s
      else
        let t := if s.sram.mmode = 1 then s else toLt (marchFrom s bank + 655360) s
        let s1 := creditReturn { t with sram := { t.sram with
          active := t.sram.active.filter (fun e => e.1 != bank) } } (isMarch bank)
        let s2 := setBank s1 bank (fun b => { b with passes := min 65535 (b.passes + 1) })
        let s3 := match failed with
          | some (w, e) => marchFail s2 bank w e
          | none => s2
        marchEnd (if s.sram.mmode = 1 then s3 else clearBanks s3 (· == bank))

/-- MARCH_PERIOD: a preserving run begins again after PERIOD hours. -/
def execMarchPeriod (s : State) : Out1 :=
  act s fun s =>
    let hours := getF s srmMarch 15 0
    match s.sram.doneAt with
    | none => s
    | some t =>
      if s.sram.mmode ≠ 1 ∨ hours = 0 ∨ getF s srmMarch 31 30 ≠ 1 then s
      else marchStart (toLt (t + hours * 3600 * 10 ^ 9) s) 1

/-! ### Status words (R364) -/

def marchStsWord (s : State) : Word :=
  let gran := match s.sram.active.find? (fun e => e.1 == s.sram.last) with | some e => e.2 | none => 0
  mkFld 31 30 s.sram.mstate ||| mkFld 29 24 s.sram.last ||| mkFld 23 21 s.sram.active.length
    ||| mkFld 9 0 (gran % 1024)

def bankWord (s : State) (k : Nat) : Word :=
  match s.sram.banks[k]? with
  | some b => mkFld 31 28 b.owner ||| flagAt b.on 27 ||| flagAt b.clear 26 ||| flagAt b.fault 25
      ||| mkFld 15 0 b.passes
  | none => 0

end Sys2Proof.Machine
end

