-- ==== Sys2Proof/Machine/Power.lean ====
section
/-! DEFINITION. Rails, the non-volatile write stop, clocks, die temperature and the raise of the Sluice
factor (17; 21 R448), and what the block does on an empty queue. -/

namespace Sys2Proof.Machine

/-! ### Reset held from within -/

/-- The device taken into reset and held there for a cause: a holder releases drive (12 R270). -/
def holdReset (s : State) (cause : Nat) : State :=
  let s1 := if s.pair.holding || s.pair.pull then release s else s
  { s1 with boot := { s1.boot with held := true, cause := cause, resetPending := none } }

/-- What an idle block does (log 3): one tick passes, and the links do what falls due in it; a reset that is due takes the device into reset
(13 R301). In reset nothing happens. -/
def idle (s : State) : Out1 :=
  if s.boot.held then .next s
  else
    let t := linkTick (tick s)
    match t.boot.resetPending with
    | some d => if d ≤ t.time.lt then commit s (holdReset t t.boot.cause) else commit s t
    | none => commit s t

/-! ### Credits of a brightness step (R380) -/

/-- The lamp credits of a step from brightness `old` to `new`. -/
def stepLamp (s : State) (new old : Nat) : Nat :=
  if !s.lamp.lit then 0
  else if old = 0 then Config.stepFromDark new
  else
    let base := 1000 * getF s pwrLamp 15 0
    cdiv (base * old + (lampI s - base) * new) (100000 * old) - lampInUse s

/-- The factor of a raise goes to the twin with the edge from which it applies (12 R273). -/
def slgCoef (s : State) (v : Nat) : State :=
  if named s && s.pair.holding then
    twinSend s (.coef (coefMsg (edgeAfter s (now s)) v (coefsSoon s)))
  else s

/-- SLG_RAISE: the estimate has stayed at or below 3/4 of the budget for PWR.RAISE.DELAY. -/
def execSlgRaise (s : State) : Out1 :=
  act s fun s =>
    match s.slu.lowSince with
    | none => s
    | some t =>
      let old := getF s tilSlg 15 0
      if s.id.sender || !ownCoefs s || decide (32768 ≤ old) then s
      else
        let s1 := toLt (t + 10 ^ 6 * getF s pwrRaise 15 0) s
        let v := min 32768 (old + getF s1 pwrRaise 31 16)
        let bright := getF s1 tilBright 15 0
        let need := stepLamp s1 (limitG bright v) (limitG bright old)
        let s2 := { s1 with slu := { s1.slu with raised := true, lowSince := none } }
        let n := s2.slu.granted.length
        match askRecompute s2 (idOfItem 0 0 0) (.slg v) none need with
        | (t, st) =>
          if st ≠ stPending then
            { t with slu := { t.slu with raised := false, lowSince := some (lt t) } }
          else if n < t.slu.granted.length then slgCoef t v else t

/-! ### The write stop (R372, R373) -/

/-- A flash operation that will not run ends: its command hears `st` (17 R372, R376). A confirmation that ends so past
its deadline starts the fallback (19 R414). -/
def flashRefuse (s : State) (x : FlashItem) (st : Nat) : State :=
  let mine (o : HeavyOp) : Bool := o == .flash x.id || (match o with
    | .verify c => x.ref == some c
    | .download c _ _ _ => x.ref == some c && !dlOpen s
    | _ => false)
  let s0 := withdrawAsk (creditReturn { s with fl := { s.fl with
    queue := s.fl.queue.filter (fun y => y.id != x.id) } } mine) mine
  let s1 := match x.op with
    | .fwConfirm => { s0 with fl := { s0.fl with confirming := false } }
    | .recClear => { s0 with rcd := { s0.rcd with clearing := none } }
    | .paramSave _ => setF s0 sysSettings 7 0 st
    | _ => s0
  let s2 := notifyO s1 x.ref st []
  match x.op with
  | .fwConfirm => if trialEnd s2 ≤ opTime s2 then fallBack s2 5 else s2
  | _ => s2

/-- The lamp-board flash at the start of a stop: an erase in progress is suspended, what has not begun is
refused. -/
def boardStop (s : State) : State :=
  let refuse (l : List BoardOp) (t : State) : State := l.foldl (fun u o => notify (nvRefuse u) o.ref stNvHeld []) t
  match s.lamp.boardOps with
  | [] => s
  | o :: r =>
    if o.ready then
      refuse r (suspendBoard { s with lamp := { s.lamp with boardOps := [o] } })
    else
      refuse (o :: r) (withdrawAsk { s with lamp := { s.lamp with boardOps := [] } } (fun x => x == .boardFlash))

/-- An operation in progress that the stop cuts short: the settings record of an ENROL takes an erase and several
programs, the next of which may not start (R372; 01 R21), and the boot record of an FW_CONFIRM an erase that is
suspended (19 R414). -/
def cutShort (o : FlashOp) : Bool := match o with | .enrol _ => true | .fwConfirm => true | _ => false

/-- The write stop begins: counted, recorded, and the operations that have not begun or are cut short refused. In
reset only the stop itself takes hold. -/
def enterStop (s : State) : State :=
  if s.pwr.stopped then s
  else
    let s1 := { s with pwr := { s.pwr with stopped := true, goodSince := some (lt s) } }
    if s1.boot.held then s1
    else
      let s2 := recordX (bump s1 pwrSags) xSag [flagAt s1.pwr.pfail 0 ||| flagAt s1.pwr.vio18Low 1]
      let wait := match flashHead s2 with
        | some x => if cutShort x.op then s2.fl.queue else s2.fl.queue.drop 1
        | none => s2.fl.queue
      boardStop (wait.foldl (fun t x => flashRefuse (nvRefuse t) x stNvHeld) s2)

/-- PFAIL_ASSERT: the stop, and a holder with a ready standby hands over (R372; 12 R275). -/
def execPfailAssert (s : State) : Out1 :=
  commit s <|
    let s1 := enterStop { s with pwr := { s.pwr with pfail := true } }
    if !s1.boot.held && s1.pair.holding && standbyReady s1 && s1.pair.handover.isNone then
      startHandover s1 .pfail
    else s1

/-- NV_STOP_LIFT: PFAIL_N has been deasserted and VIO18 has been at or above 1.750 V for 100 ms. -/
def execNvStopLift (s : State) : Out1 :=
  if !s.pwr.stopped || s.pwr.vio18Low then .next s
  else
    let s1 := match s.pwr.goodSince with
      | some t => toLt (t + 10 ^ 8) s
      | none => s
    commit s (resumeBoard { s1 with pwr := { s1.pwr with pfail := false, stopped := false, goodSince := none } })

/-! ### Rails (R369 to R371; 21 R448) -/

/-- Nominal, warning and fault level of rails 0 to 6 in mV, in RAIL_READ order. -/
def railLevels : List (Nat × Nat × Nat) :=
  [(750, 722, 690), (800, 770, 736), (850, 818, 782), (1200, 1155, 1104), (1050, 1010, 966), (500, 481, 460)
  , (1800, 1710, 1620)]

/-- A reading below the warning level of a rail; equality counts as below. VIOL has no level before its
nominal is latched. -/
def railLow (s : State) (k mv : Nat) : Bool :=
  match railLevels[k]? with
  | some (_, w, _) => decide (mv ≤ w)
  | none => match s.pwr.violNominal with
    | some n => decide (100 * mv ≤ 95 * n)
    | none => false

/-- A reading below the fault level of a rail, or more than 8 % above its nominal. -/
def railBad (s : State) (k mv : Nat) : Bool :=
  match railLevels[k]? with
  | some (n, _, f) => decide (mv ≤ f) || decide (108 * n < 100 * mv)
  | none => match s.pwr.violNominal with
    | some n => decide (100 * mv ≤ 90 * n) || decide (108 * n < 100 * mv)
    | none => false

/-- A filtered value taken: PWR.RAIL_k and the levels it lies below. -/
def railTake (s : State) (k mv : Nat) : State :=
  let w := rd s (pwrRail + k)
  let s1 := wr s (pwrRail + k) (mkFld 31 16 (min (fld w 31 16) mv) ||| mkFld 15 0 mv)
  let set (on : Bool) (l : List Nat) : List Nat := if on then insertNat k l else l.filter (· != k)
  { s1 with pwr := { s1.pwr with
    rails := put k mv s1.pwr.rails
    railWarn := set (railLow s k mv) s1.pwr.railWarn
    railFault := set (railBad s k mv) s1.pwr.railFault } }

/-- Every CorsinLink and network port goes down (R371, R125). -/
def portsDown (s : State) : State :=
  let down (t : State) (p : Nat) : State :=
    let t1 := trainEnd (linkDown t p false) p
    match portAt t1 p with
    | some x => setPort t1 { x with st := 0, step := 0 }
    | none => t1
  let s1 := (s.link.ports.map (·.p)).foldl down s
  { s1 with net := { s1.net with ports := s1.net.ports.map (fun x => { x with link := 0, align := 0 }) } }

/-- Lamp drive switched off by the VIOL rail, as by LAMP_DRIVE with ON = 0. -/
def violOff (s : State) : State :=
  if s.id.sender || !(s.lamp.drive || s.lamp.on) then s
  else driveDark (driveOnEnd { s with lamp := { s.lamp with drive := false } } stNotInState)

/-- The action of a rail that has fallen below its fault level or risen above its over-voltage limit. -/
def railFaultAction (s : State) (k : Nat) : State :=
  if k = 2 ∨ k = 3 then portsDown s
  else if k = 4 ∨ k = 5 then (if s.dram.state = 1 ∨ s.dram.state = 2 ∨ s.dram.state = 4 then freeze s 5 0 else s)
  else if k = 7 then violOff s
  else holdReset s causeRail

/-! ### Throttle steps (R383) -/

/-- Valid die sensors (R382). -/
def validDie (s : State) : List DieSensor := s.pwr.sensors.filter (fun x => !x.impl && !x.xfail)

/-- TMAX in 1/16 °C as THM.STS holds it. -/
def tmaxOf (s : State) : Int := (BitVec.ofNat 16 (getF s thmSts 15 0)).toInt

/-- The number of THERM_N among the pins the device drives: it is low at throttle step 3 and throughout a protective
shutdown, and let go at the restart (21 R447). -/
def pinThermN : Nat := 33

/-- The throttle step in force brought up to date: that of the temperature, at least 2 while fewer than 4
sensors are valid, and at least 1 while VDD or VDDM is below warning (R371, R382). -/
def throttle (s : State) : State :=
  let old := throttleStep s
  let a := if (validDie s).length < 4 then 2 else 0
  let b := if s.pwr.railWarn.contains 0 || s.pwr.railWarn.contains 1 then 1 else 0
  let new := max s.pwr.tstep (max a b)
  if new = old then s
  else
    let s1 := recEventX (setF s thmSts 31 24 new) .wall xThermal [w32 new, w32 old, rd s thmSts]
    let s1 := if (old == 3) == (new == 3) then s1 else emit s1 (.pin pinThermN (new != 3))
    let s2 := if old < new then bump s1 thmSteps else s1
    if old < 3 ∧ new = 3 ∧ s2.pair.holding = true ∧ standbyReady s2 = true ∧ s2.pair.handover.isNone = true then
      startHandover s2 .yield
    else s2

/-- RAIL_THRESHOLD_CROSS: the filtered value of a rail has crossed a level. In reset the monitors alone
run. -/
def execRailThresholdCross (rail mv : Nat) (s : State) : Out1 :=
  commit s <|
    if 8 ≤ rail then s
    else
      let warn0 := s.pwr.railWarn.contains rail
      let bad0 := s.pwr.railFault.contains rail
      let s1 := railTake s rail mv
      let warn := s1.pwr.railWarn.contains rail && !warn0
      let bad := s1.pwr.railFault.contains rail && !bad0
      let s2 := if rail = 6 ∧ warn = true then
          enterStop { s1 with pwr := { s1.pwr with vio18Low := true } }
        else s1
      if s2.boot.held then s2
      else
        let s3 := if warn || bad then recordX s2 xRail [w32 rail, w32 mv, flagAt bad 0] else s2
        let s4 := throttle s3
        if bad then railFaultAction s4 rail else s4

/-- RAIL_RECOVERY: a rail has risen above a level, or fallen from an over-voltage. Once both analogue rails are
good the ports train again. VIO18 holds the write stop until it reaches 1.750 V (R373). -/
def execRailRecovery (rail mv : Nat) (s : State) : Out1 :=
  commit s <|
    if 8 ≤ rail then s
    else
      let low (t : State) : Bool := [2, 3].any (fun k => t.pwr.railWarn.contains k || t.pwr.railFault.contains k)
      let s1 := railTake s rail mv
      let s2 := if rail = 6 ∧ s1.pwr.vio18Low = true ∧ 1750 ≤ mv then
          { s1 with pwr := { s1.pwr with vio18Low := false, goodSince := some (lt s1) } }
        else s1
      if s2.boot.held then s2
      else
        let s3 := throttle s2
        if low s && !low s3 then
          ((s3.link.ports.filter (fun x => x.st == 0)).map (·.p)).foldl (fun t p => trainStart t p 0) s3
        else s3

/-- VIOL_NOMINAL_LATCH: 1 ms after VIOL first rises above 1.60 V following a power-on. -/
def execViolNominalLatch (mv : Nat) (s : State) : Out1 :=
  commit s <|
    match s.pwr.violNominal with
    | some _ => s
    | none => railTake { s with pwr := { s.pwr with
        violNominal := some (if 2600 ≤ mv then 3300 else 1800) } } 7 mv

/-! ### Clocks (R366) -/

/-- XIN_LOSS: XIN has stopped for `lengthNs`; operating time keeps counting, and the device is held in
reset until XIN has run for 1 ms. -/
def execXinLoss (lengthNs : Nat) (s : State) : Out1 :=
  act s fun s =>
    let s1 := setF (bumpF s pwrClk 23 16) pwrClk 31 31 1
    let s2 := holdReset (setChk s1 3 false) causeXin
    let s3 := ticks ((lengthNs + 10 ^ 6) / 4) s2
    { s3 with boot := { s3.boot with lossNs := lengthNs } }

/-- PLL_LOSS_OF_LOCK of the system PLL (0) or the DRAM PLL (1). -/
def execPllLossOfLock (pll : Nat) (s : State) : Out1 :=
  act s fun s => if pll < 2 then fatalFall (bumpF s pwrClk 15 8) 3 else s

/-- Whether a count of a window of 400 µs lies within ±500 ppm of its nominal. -/
def countOk (nominal n : Nat) : Bool :=
  decide (2000 * n ≤ 2001 * nominal) && decide (1999 * nominal ≤ 2000 * n)

/-- FREQ_CHECK_WINDOW: the counts of CCLK, LCLK and TCLK over 10,000 XIN cycles, at the end of the window. A good window changes nothing
else: a CLK that has fallen rises again only at reset (17 R366). -/
def execFreqCheckWindow (cclk lclk tclk : Nat) (s : State) : Out1 :=
  act s fun s =>
    let t := toLt ((lt s / 400000 + 1) * 400000) s
    if countOk 400000 cclk && countOk 100000 lclk && countOk 100000 tclk then t
    else fatalFall (bumpF t pwrClk 7 0) 3

/-! ### Die temperature (R381, R382, R384) -/

/-- The neighbours of a sensor on the 4 × 4 grid. -/
def dieNeighbours (k : Nat) : List Nat :=
  (if k % 4 = 0 then [] else [k - 1]) ++ (if k % 4 = 3 then [] else [k + 1])
    ++ (if k < 4 then [] else [k - 4]) ++ (if 12 ≤ k then [] else [k + 4])

/-- A new reading and its plausibility. -/
def dieRead (x : DieSensor) (t : Int) : DieSensor :=
  let bad := decide (t < -880) || decide (2400 < t)
  if bad then { x with t := t, impl := true, goodRun := 0 }
  else if x.impl then { x with t := t, impl := decide (x.goodRun + 1 < 3), goodRun := x.goodRun + 1 }
  else { x with t := t }

/-- The cross-check of sensor `k` against its valid neighbours; `tol` in °C. -/
def dieCross (l : List DieSensor) (tol k : Nat) (x : DieSensor) : DieSensor :=
  let ns := ((dieNeighbours k).map (fun j => l.getD j ⟨0, true, true, 0, 0, 0⟩)).filter
    (fun y => !y.impl && !y.xfail)
  let n := Int.ofNat ns.length
  let sum := (ns.map (·.t)).foldl (· + ·) 0
  if x.impl || ns.isEmpty then { x with lowRun := 0, okRun := 0 }
  else if n * x.t + n * 16 * Int.ofNat tol < sum then
    { x with lowRun := x.lowRun + 1, okRun := 0, xfail := x.xfail || decide (3 ≤ x.lowRun + 1) }
  else { x with lowRun := 0, okRun := x.okRun + 1, xfail := x.xfail && decide (x.okRun + 1 < 10) }

/-- THM.SENS_k. -/
def dieWord (x : DieSensor) : Word :=
  flagAt (!x.impl && !x.xfail) 31 ||| flagAt x.xfail 30 ||| flagAt x.impl 29 ||| w32 (unsigned 16 x.t)

/-- The highest reading among valid sensors, `old` with none. -/
def hottestOf (old : Int) (l : List DieSensor) : Int :=
  match (l.filter (fun x => !x.impl && !x.xfail)).map (·.t) with
  | [] => old
  | a :: r => r.foldl max a

/-- The thresholds of steps 1 to 3 in °C. -/
def stepAt (k : Nat) : Int := 95 + 5 * Int.ofNat k

/-- The step whose threshold a TMAX has reached. -/
def stepOfTmax (t : Int) : Nat := ((List.range 3).filter (fun k => decide (16 * stepAt (k + 1) ≤ t))).length

/-- The sensors after a conversion, with a record for each that changes validity. -/
def dieConvert (s : State) (raws : List Int) : State :=
  let old := s.pwr.sensors
  let a := (List.range 16).map (fun k =>
    let x := old.getD k ⟨0, false, false, 0, 0, 0⟩
    dieRead x (raws.getD k x.t + s.cal.sensors.getD k 0))
  let b := (List.range 16).map (fun k => dieCross a (getF s thmCfg 7 0) k (a.getD k ⟨0, true, true, 0, 0, 0⟩))
  let rose := s.pwr.lastConv.isSome && (old.zip b).any (fun e => decide (32 ≤ e.2.t - e.1.t))
  let tmax := hottestOf (tmaxOf s) b
  let hot := rose || decide (1440 ≤ tmax)
  let calm := if hot || decide (1408 ≤ tmax) then none else some (s.pwr.calmSince.getD (lt s))
  let still := match calm with | some t => decide (lt s < t + 10 ^ 9) | none => true
  let s1 := (List.range 16).foldl (fun t k => wr t (thmSens + k) (dieWord (b.getD k ⟨0, true, true, 0, 0, 0⟩))) s
  let valid := (b.filter (fun x => !x.impl && !x.xfail)).length
  let s2 := setF (setF s1 thmSts 23 16 valid) thmSts 15 0 (unsigned 16 tmax)
  let s3 := { s2 with pwr := { s2.pwr with
    sensors := b, lastConv := some (lt s), fastConv := hot || (s.pwr.fastConv && still), calmSince := calm
    tstep := max s.pwr.tstep (stepOfTmax tmax), hottest := max s.pwr.hottest tmax
    below := (List.range 3).map (fun k =>
      if tmax < 16 * (stepAt (k + 1) - 3) then some ((s.pwr.below.getD k none).getD (lt s)) else none) } }
  let turned := (List.range 16).filter (fun k =>
    let x := old.getD k ⟨0, false, false, 0, 0, 0⟩
    let y := b.getD k ⟨0, true, true, 0, 0, 0⟩
    (x.impl || x.xfail) != (y.impl || y.xfail))
  turned.foldl (fun t k => recordX t xSensor [w32 k, rd t (thmSens + k)]) s3

/-- The protective shutdown at 120 °C (R384). -/
def dieShutdown (s : State) : State :=
  let s1 := holdReset s causeThermal
  { s1 with pwr := { s1.pwr with shutdown := true, coolSince := none } }

/-- A conversion of sensor 0 while the device is shut down, every 100 ms. -/
def coolConvert (s : State) (t : Int) : State :=
  let s1 := toLt ((s.pwr.lastConv.getD (lt s)) + 10 ^ 8) s
  { s1 with pwr := { s1.pwr with
    lastConv := some (lt s1), hottest := max s1.pwr.hottest t
    coolSince := if t < 1520 then some (s1.pwr.coolSince.getD (lt s1)) else none } }

/-- THERMAL_CONVERSION: every 10 ms, or every 1 ms while the die is hot or warming; `raws` are the readings
of the 16 sensors before their calibration, in 1/16 °C. -/
def execThermalConversion (raws : List Int) (s : State) : Out1 :=
  if s.pwr.shutdown then commit s (coolConvert s (raws.getD 0 0 + s.cal.sensors.getD 0 0))
  else
    act s fun s =>
      let gap := if s.pwr.fastConv then 10 ^ 6 else 10 ^ 7
      let s1 := toLt (s.pwr.lastConv.getD 0 + gap) s
      let s2 := throttle (dieConvert s1 raws)
      if 1920 ≤ tmaxOf s2 then dieShutdown s2 else s2

/-- THROTTLE_STEP_LEAVE: TMAX has stayed below the threshold of the step minus 3 °C for 1 s. -/
def execThrottleStepLeave (s : State) : Out1 :=
  act s fun s =>
    match s.pwr.tstep with
    | 0 => s
    | k + 1 =>
      match s.pwr.below.getD k none with
      | none => s
      | some t =>
        let s1 := toLt (t + 10 ^ 9) s
        throttle { s1 with pwr := { s1.pwr with tstep := k } }

/-- THERMAL_RESTART: sensor 0 has read below 95 °C for 10 s; the device may leave reset. -/
def execThermalRestart (s : State) : Out1 :=
  if !s.pwr.shutdown then .next s
  else match s.pwr.coolSince with
    | none => .next s
    | some t =>
      let s1 := toLt (t + 10 ^ 10) s
      commit s (emit { s1 with pwr := { s1.pwr with shutdown := false, coolSince := none, tstep := 0 } }
        (.pin pinThermN true))

/-! ### Reading (13 R310) and status words (R385) -/

/-- SLUICE_READ. -/
def sluiceReadRule : Handler := withLen 0 fun _ _ s =>
  .ok s [mkFld 31 16 (chipBudget s) ||| mkFld 15 0 (chipGranted s)
    , if s.id.sender then 0 else mkFld 31 16 (lampBudget s) ||| w32 (min 65535 (lampInUse s))
    , mkFld 31 16 s.slu.waiting.length ||| w32 (min 65535 (rd s pwrRefused).toNat)]

def execSluiceRead (p : Smb) (s : State) : Out1 := smibenRow 0x0901 sluiceReadRule p s

/-- THERMAL_READ. -/
def thermalReadRule : Handler := withLen 0 fun _ _ s =>
  .ok s ((mkFld 31 24 16 ||| mkFld 23 16 (throttleStep s)) ::
    s.pwr.sensors.zipIdx.map (fun e => mkFld 31 24 e.2 ||| flagAt e.1.xfail 16 ||| w32 (unsigned 16 e.1.t)))

def execThermalRead (p : Smb) (s : State) : Out1 := smibenRow 0x0910 thermalReadRule p s

/-- The filtered value of a rail: the last one a crossing reported, or else a free value. -/
def railMv (s : State) (k : Nat) : Nat := ((look k s.pwr.rails).getD (Config.railMv k (lt s))) % 65536

/-- RAIL_READ. -/
def railReadRule : Handler := withLen 0 fun _ _ s =>
  .ok s ((List.range 8).map (fun k => w32 (railMv s k))
    ++ [flagAt s.pwr.pfail 0 ||| flagAt s.pwr.stopped 1])

def execRailRead (p : Smb) (s : State) : Out1 := smibenRow 0x0920 railReadRule p s

def pwrStsWord (s : State) : Word :=
  (rd s pwrSts &&& 0x20000000) ||| flagAt s.pwr.stopped 31 ||| flagAt s.pwr.pfail 30
    ||| w32 ((s.pwr.railFault.map (fun k => 2 ^ k)).sum % 256)

def pwrRailWord (s : State) (k : Nat) : Word := (rd s (pwrRail + k) &&& 0xFFFF0000) ||| w32 (railMv s k)

def pwrChipStsWord (s : State) : Word := mkFld 31 16 (standing s) ||| mkFld 15 0 (chipGranted s)

def pwrLampStsWord (s : State) : Word :=
  mkFld 31 16 (if s.id.sender then 0 else min 65535 (lampInUse s)) ||| mkFld 15 0 s.slu.waiting.length

def pwrLampMaWord (s : State) : Word := w32 (sat32 (lampI s / 1000))

end Sys2Proof.Machine
end

