-- ==== Sys2Proof/Machine/Calib.lean ====
section
/-! DEFINITION. Calibration items and their record, and the loading of lamp-board correction data
(18 R395 to R401; 13 R311; 07 R159). -/

namespace Sys2Proof.Machine

/-! ### The items (R396, R397) -/

/-- The SerDes lanes of a role (01 R13). -/
def roleLanes (snd : Bool) : List Nat := if snd then List.range 18 else [8, 9, 10, 11, 12, 13, 16, 17]

/-- Whether the port of a lane is down or off. The second lane of a two-lane chain belongs to the first (01 R14). -/
def laneIdle (s : State) (l : Nat) : Bool :=
  let cln (p : Nat) : Bool := decide (portSt s p ≤ 1) || decide (6 ≤ portSt s p)
  if 16 ≤ l then cln 8
  else if 8 ≤ l then
    let p := l - 8
    if !s.id.sender then cln (p / 2)
    else cln (if p % 2 = 1 ∧ bit (portCfg s (p - 1)) 4 then p - 1 else p)
  else let x := netPort s (l / 4); x.mode == 0 || x.link == 0

/-- RESULT and FIGURE of an item set; an implausible result writes a record. -/
def calResult (s : State) (item result fig : Nat) : State :=
  let s1 := { s with cal := { s.cal with results := put item (result, fig) s.cal.results } }
  if result = 2 then recordX s1 xCal [w32 item, w32 fig] else s1

/-- RESULT from what was measured: 3 where it failed, 2 where it is implausible. -/
def resultOf (failed bad : Bool) : Nat := if failed then 3 else if bad then 2 else 1

/-- Item 1 over the lanes `ls`. -/
def calLanes (s : State) (ls : List Nat) (m : List (Nat × Option Int)) : State :=
  let got (l : Nat) : Option Int := (look l m).getD none
  let ok (l : Nat) : Bool := match got l with | some o => decide (o.natAbs ≤ 6) | none => false
  let fig := ((roleLanes s.id.sender).map (fun l =>
    (if ls.contains l then (got l).getD 0 else s.cal.lanes.getD l 0).natAbs)).foldl max 0
  let s1 := { s with cal := { s.cal with
    lanes := s.cal.lanes.zipIdx.map (fun e => if ls.contains e.2 && ok e.2 then (got e.2).getD e.1 else e.1) } }
  calResult s1 1 (resultOf (ls.any (fun l => (got l).isNone)) (ls.any (fun l => !ok l))) fig

/-- Item 2: the gain error in 0.01 % and ZERO in mA. -/
def calSupply (s : State) (gain : Option Int) (z : Nat) : State :=
  match gain with
  | none => calResult s 2 3 0
  | some g =>
    if 200 < g.natAbs then calResult s 2 2 g.natAbs
    else calResult { s with cal := { s.cal with gain := g, zero := z % 65536 } } 2 1 g.natAbs

/-- TRIM′ of item 3 from a count. -/
def trimFrom (trim n : Nat) : Nat :=
  (clampI 0 255 (Int.ofNat trim - fdiv (Int.ofNat n - 12800 + 16) 32)).toNat

/-- Item 3: N counted, and N′ after the trim. -/
def calOsc (s : State) (count : Option Nat) (trimmed : Nat) : State :=
  match count with
  | none => calResult s 3 3 0
  | some n =>
    let d := (Int.ofNat trimmed - 12800).natAbs
    let s1 := { s with cal := { s.cal with rcCount := trimmed % 65536 } }
    let ok := decide (12160 ≤ n) && decide (n ≤ 13440) && decide (d ≤ 64)
    let s2 := if ok then { s1 with cal := { s1.cal with trim := trimFrom s.cal.trim n } } else s1
    calResult s2 3 (resultOf false (!ok)) (d * 10000 / 12800)

/-- A reading inserted in rising order. -/
def insertInt (x : Int) : List Int → List Int
  | [] => [x]
  | a :: r => if x ≤ a then x :: a :: r else a :: insertInt x r

/-- Item 4: the offsets to the median of the 16 readings. -/
def calSensors (s : State) (raws : List (Option Int)) : State :=
  let l := raws.filterMap id
  let r := l.foldr insertInt []
  let med := fdiv (r.getD 7 0 + r.getD 8 0) 2
  let offs := l.map (fun x => med - x)
  let fig := (offs.map Int.natAbs).foldl max 0
  if l.length < 16 then calResult s 4 3 0
  else
    let bad := l.any (fun t => decide (t < -880) || decide (2400 < t)) || decide (96 < r.getD 15 0 - r.getD 0 0)
    if bad then calResult s 4 2 fig
    else calResult { s with cal := { s.cal with sensors := offs.take 16 } } 4 1 fig

/-- One item measured in service. -/
def calItem (s : State) (item : Nat) (m : CalIn) : State :=
  if item = 1 then calLanes s ((roleLanes s.id.sender).filter (laneIdle s)) m.lanes
  else if item = 2 then calSupply s m.gainErr m.zero
  else if item = 3 then calOsc s m.rcCount m.rcTrimmed
  else calSensors s m.sensors

/-! ### CAL_RUN and CAL_READ -/

/-- RESULT of an item. -/
def calResultOf (s : State) (item : Nat) : Nat := ((look item s.cal.results).getD (0, 0)).1

/-- Whether the stored values differ between two states. -/
def calChanged (a b : State) : Bool :=
  a.cal.trim != b.cal.trim || a.cal.lanes != b.cal.lanes || a.cal.sensors != b.cal.sensors
    || a.cal.gain != b.cal.gain || a.cal.zero != b.cal.zero

/-- A run that holds its credits measures and ends; a changed value is stored, and the notification
follows the write (R397, R398). -/
def calGranted (s : State) (item : Nat) : State :=
  match s.cal.running.find? (fun x => x.1 == item) with
  | none => s
  | some (_, c, m) =>
    let s1 := calItem s item m
    let s2 := creditReturn { s1 with cal := { s1.cal with
      running := s1.cal.running.filter (fun x => x.1 != item) } } (fun o => o == .calRun item c)
    let st := if calResultOf s2 item = 1 then stOk else stInternal
    let keep := calChanged s s2 || (s.cal.recBad && st == stOk)
    if !keep then notify s2 c st []
    else
      let s3 := { s2 with cal := { s2.cal with changed := true } }
      let (s4, r) := flashAsk s3 (.calRecord st) (some c) 2 false
      if r = stPending then s4 else notify s4 c r []

/-- A run whose credits are refused. -/
def calRefused (s : State) (item : Nat) : State :=
  match s.cal.running.find? (fun x => x.1 == item) with
  | none => s
  | some (_, c, _) =>
    notify { s with cal := { s.cal with running := s.cal.running.filter (fun x => x.1 != item) } } c stNoCredit []

/-- Whether a run of an item is in progress. -/
def calBusy (s : State) (item : Nat) : Bool :=
  s.cal.running.any (fun x => x.1 == item)

/-- CAL_RUN; `m` is what the run measures. -/
def calRunRule (m : CalIn) : Handler := withLen 1 fun c p s =>
  let item := fld (pw p 0) 3 0
  if item = 0 ∨ 4 < item then .no s stBadParam
  else if item = 2 ∧ (s.id.sender = true ∨ s.lamp.lit = true) then .no s stNotInState
  else if calBusy s item then .no s stBusy
  else
    let s1 := { s with cal := { s.cal with running := s.cal.running ++ [(item, c, m)] } }
    match sluiceAsk s1 (.calRun item c) 3 5 0 with
    | (t, .granted _) => { Res.pend t with post := fun u => calGranted u item }
    | (t, .waiting _) => .pend t
    | (_, .refused) => .no (bump s pwrRefused) stNoCredit

def execCalRun (p : Smb) (m : CalIn) (s : State) : Out1 := smibenRow 0x0A01 (calRunRule m) p s

/-- CAL.Q_i. -/
def calQWord (s : State) (item : Nat) : Word :=
  let (r, f) := (look item s.cal.results).getD (0, 0)
  mkFld 31 28 r ||| w32 (min 65535 f)

/-- CAL_READ. -/
def calReadRule : Handler := withLen 1 fun _ p s =>
  let item := fld (pw p 0) 3 0
  if item = 0 ∨ 4 < item then .no s stBadParam else .ok s [calQWord s item]

def execCalRead (p : Smb) (s : State) : Out1 := smibenRow 0x0A02 calReadRule p s

/-- MATRIX_SAVE. -/
def matrixSaveRule : Handler := withLen 0 fun c _ s =>
  match flashAsk s .matrixSave (some c) 2 false with
  | (t, st) => if st = stPending then .pend t else .no t st

def execMatrixSave (p : Smb) (s : State) : Out1 := smibenRow 0x0A41 matrixSaveRule p s

/-! ### Board loads (R400, R401) -/

/-- A board changed. -/
def setBoard (s : State) (b : Nat) (f : Board → Board) : State :=
  { s with cal := { s.cal with boards := s.cal.boards.modify b f } }

/-- The boards of a mask. -/
def boardsIn (m : Nat) : List Nat := (List.range 16).filter (fun b => m / 2 ^ b % 2 == 1)

/-- Whether the points of a table rise strictly (07 R159). -/
def tableRises (l : List TPoint) : Bool :=
  l.length == 8 && (l.zip (l.drop 1)).all (fun e => decide (e.1.t < e.2.t))

/-- The loads of a TTAB_LOAD that holds its credits begin. -/
def ttabGranted (s : State) (mask : Nat) (ref : Option CmdRef) : State :=
  let t := (boardsIn mask).foldl (fun t b => setBoard t b (fun x => { x with loading := some ref })) s
  if busLoading t then loadTakesBus t else t

/-- Whether a board's load is in progress or asked for. -/
def boardBusy (s : State) (b : Nat) : Bool :=
  (s.cal.boards.getD b boardNone).loading.isSome
    || (s.slu.waiting ++ s.slu.granted).any (fun c => match c.op with
      | .ttab m _ _ => (boardsIn m).contains b
      | _ => false)

/-- TTAB_LOAD. -/
def ttabLoadRule : Handler := withLen 1 fun c p s =>
  let mask := fld (pw p 0) 15 0
  let cache := bit (pw p 0) 16
  let bs := boardsIn mask
  if bs.isEmpty || bs.any (fun b => !(boardsOn s).contains b) then .no s stBadParam
  else if bs.any (boardBusy s) then .no s stBusy
  else match sluiceAsk s (.ttab mask cache (some c)) 3 5 0 with
    | (t, .granted _) => { Res.pend t with post := fun u => ttabGranted u mask (some c) }
    | (t, .waiting _) => .pend t
    | (t, .refused) => .no t stNoCredit

def execTtabLoad (p : Smb) (s : State) : Out1 := smibenRow 0x0A50 ttabLoadRule p s

/-- The cache entry of a position. -/
def cacheAt (s : State) (b : Nat) : Option CacheEntry := s.fl.cache.find? (fun e => e.board == b)

/-- A board whose data are refused (R401). -/
def rejectBoard (s : State) (b : Nat) : State :=
  recEventX (setBoard s b (fun x => { x with st := 4, loading := none, table := [], matrix := [], waiting := true }))
    .wall xBoard [w32 b, 4]

/-- Once no board of the start loads any more, the loaded data ask for their full recompute (R401). -/
def boardsSettled (s : State) : State :=
  let on := boardsOn s
  if on.any (fun b => (s.cal.boards.getD b boardNone).loading == some none) then s
  else
    let l := on.filter (fun b => (s.cal.boards.getD b boardNone).waiting)
    if l.isEmpty || s.heavy.any (fun h => h.what == .boards l)
        || s.changes.any (fun c => c.what == .boards l) then s
    else (askRecompute s (idOfItem 0 0 0) (.boards l) none 0).1

/-- A board of the start loaded: from the cache entry named, or with what its own flash holds. -/
def loadBoard (s : State) (b : Nat) (ok : Bool) (table : List TPoint) (tableOk : Bool)
    (matrix : List (List Int)) : State :=
  let x := s.cal.boards.getD b boardNone
  let s1 :=
    if x.isNew then
      if !ok then rejectBoard s b
      else setBoard s b (fun y => { y with
        st := 3, loading := none, table := if tableOk && tableRises table then table else []
        matrix := matrix, waiting := true })
    else match cacheAt s (if x.moved then x.from_ else b) with
      | some e => setBoard s b (fun y => { y with
          st := 2, loading := none, table := if tableRises e.table then e.table else [], matrix := e.matrix
          waiting := true })
      | none => rejectBoard s b
  boardsSettled s1

/-- The tables of a TTAB_LOAD have all been loaded: its credits return, the coefficients apply from the
next edge, and with SRC 0 the cache tables are rewritten. -/
def ttabEnd (s : State) (c : CmdRef) (mask : Nat) (cache : Bool) : State :=
  let mine (o : HeavyOp) : Bool := o == .ttab mask cache (some c)
  let bs := boardsIn mask
  let bad := bs.any (fun b => !s.img.tabOk.getD b false)
  let s1 := recompute (creditReturn s mine) (edgeAfter s (now s)) bs
  let s2 := if cache then s1
    else (bs.filter (fun b => s1.img.tabOk.getD b false)).foldl
      (fun t b => (flashAsk t (.cache b) none 2 false).1) s1
  if bad then notify s2 c stInternal [] else proposeCmd s2 c (.params [])

/-- A board's table loaded by TTAB_LOAD. -/
def loadTable (s : State) (b : Nat) (c : CmdRef) (ok : Bool) (table : List TPoint) (tableOk : Bool) : State :=
  let op : Option Credit := s.slu.granted.find? (fun x => match x.op with
    | .ttab m _ r => r == some c && (boardsIn m).contains b
    | _ => false)
  match op.map Credit.op with
  | some (.ttab mask cache _) =>
    let (t, good) := if cache then (match cacheAt s b with | some e => (e.table, true) | none => ([], false))
      else (table, ok && tableOk)
    let fine := good && tableRises t
    let s1 := setBoard s b (fun y => { y with loading := none, table := if fine then t else y.table })
    let s2 := setF { s1 with img := { s1.img with
      tables := if fine then s1.img.tables.set b t else s1.img.tables
      tabOk := s1.img.tabOk.set b fine } } tilTfault b b (if fine then 0 else 1)
    if (boardsIn mask).any (fun k => (s2.cal.boards.getD k boardNone).loading.isSome) then s2
    else ttabEnd s2 c mask cache
  | _ => setBoard s b (fun y => { y with loading := none })

/-- BOARD_LOAD_DONE: `ok` tells that TCRC and MCRC passed, `tableOk` that the reserved bytes of the table
are 0; `table` and `matrix` are what the board's flash holds. -/
def execBoardLoadDone (board : Nat) (ok : Bool) (table : List TPoint) (tableOk : Bool)
    (matrix : List (List Int)) (s : State) : Out1 :=
  act s fun s =>
    match (s.cal.boards.getD board boardNone).loading with
    | none => s
    | some none => fullService (busFreed (loadBoard s board ok table tableOk matrix))
    | some (some c) => busFreed (loadTable s board c ok table tableOk)

/-- What the header of board `b` tells (R400): Known, Moved, New or Unreadable. -/
def judgeBoard (s : State) (heads : List (Nat × Option (BitVec 64 × Nat × Nat))) (b : Nat) : Board :=
  let w := rd s (lmpBoard + b)
  match (look b heads).getD none with
  | none => { boardNone with st := 4, waiting := true }
  | some (serial, pw, ph) =>
    if pw * ph ≠ 256 * fld w 18 12 * fld w 11 6 then { boardNone with st := 4, waiting := true }
    else
      let x := { boardNone with st := 1, serial := serial, pw := pw, ph := ph, loading := some none }
      match cacheAt s b with
      | some e =>
        if e.serial = serial then x
        else match s.fl.cache.find? (fun e => e.serial == serial && e.pw == pw && e.ph == ph) with
          | some e => { x with moved := true, from_ := e.board }
          | none => { x with isNew := true }
      | none => match s.fl.cache.find? (fun e => e.serial == serial && e.pw == pw && e.ph == ph) with
          | some e => { x with moved := true, from_ := e.board }
          | none => { x with isNew := true }

/-- The headers of every enabled board judged before any data is loaded (R400, R401). -/
def judgeBoards (s : State) (heads : List (Nat × Option (BitVec 64 × Nat × Nat))) : State :=
  let on := boardsOn s
  let s1 := { s with cal := { s.cal with
    boards := (List.range 16).map (fun b => if on.contains b then judgeBoard s heads b else boardNone) } }
  let note (t : State) (b : Nat) : State :=
    let x := t.cal.boards.getD b boardNone
    if x.st = 4 then recEventX t .wall xBoard [w32 b, 4]
    else if x.moved || x.isNew then
      recordX t xBoard (w32 b :: (if x.moved then 2 else 3) :: wordsOfNat 2 x.serial.toNat)
    else t
  boardsSettled (on.foldl note s1)

/-- CAL.BOARD_b. -/
def calBoardWord (s : State) (b : Nat) : Word :=
  let x := s.cal.boards.getD b boardNone
  mkFld 31 28 (if x.loading.isSome then 1 else x.st) ||| flagAt x.moved 27 ||| flagAt x.isNew 26
    ||| mkFld 19 16 x.from_ ||| w32 (x.serial.toNat % 65536)

/-- CAL.STS. -/
def calStsWord (s : State) : Word :=
  mkFld 31 28 s.boot.phase ||| flagAt s.cal.recBad 27 ||| flagAt s.cal.copyB 26 ||| flagAt s.boot.xsel 25
    ||| flagAt s.boot.rcvy 24 ||| w32 s.boot.tfull

def calRcWord (s : State) : Word := mkFld 31 24 s.cal.trim ||| w32 s.cal.rcCount

def calLimonWord (s : State) : Word := mkFld 31 16 s.cal.zero ||| w32 (Config.limonMa (lt s) % 65536)

def calSensWord (s : State) (k : Nat) : Word := w32 (unsigned 16 (s.cal.sensors.getD k 0))

def calLaneWord (s : State) (l : Nat) : Word := w32 (unsigned 8 (s.cal.lanes.getD l 0))

end Sys2Proof.Machine
end

