-- ==== Sys2Proof/Machine/Status.lean ====
section
/-! DEFINITION. Reading a parameter (14 R318 to R322, R326; 13 R303): the words that other state
determines are computed here, every other word is that of the parameter file. -/

namespace Sys2Proof.Machine

/-- The place of index `i` in `count` indices from `base` in steps of `stride`. -/
def slotIn (i base stride count : Nat) : Option Nat :=
  if base ≤ i ∧ (i - base) % stride = 0 ∧ (i - base) / stride < count then some ((i - base) / stride) else none

/-- The value of a row of indices at `i`, if `i` lies in it. -/
def rowAt (i base stride count : Nat) (f : Nat → Word) (other : Word) : Word :=
  match slotIn i base stride count with
  | some k => f k
  | none => other

/-! ### SYS (R326; 01 R12, R16, R19; 02 R51) -/

/-- The indices that hold a staged value not yet applied. -/
def stagedIdx (s : State) : List Nat :=
  let of (w : EdgeWhat) : List Nat := match w with
    | .params l => l.map (·.1)
    | .badger (.params l) => l.map (·.1)
    | _ => []
  (s.changes.flatMap (fun c => of c.what) ++ s.heavy.flatMap (fun h => of h.what)).foldl
    (fun l i => insertNat i l) []

/-- The claim number of an owner, 0 with none. -/
def claimWord (o : Option Owner) : Word := match o with | some x => x.claim | none => 0

/-- The session of an owner, 0xF with none. -/
def ownSess (o : Option Owner) : Nat := match o with | some x => x.sess.num | none => 15

/-- Whether a PARAM_SAVE runs. -/
def saving (s : State) : Bool :=
  let is (x : FlashItem) : Bool := match x.op with | .paramSave _ => true | _ => false
  s.fl.queue.any is || s.fl.deferred.any is

def settingsWord (s : State) : Word :=
  mkFld 31 24 s.fl.fw.setVer ||| mkFld 23 16 s.fl.loadVer ||| mkFld 15 14 s.fl.loadSrc
    ||| flagAt (settingsNow s != s.fl.saved || (s.fl.queue ++ s.fl.deferred).any (·.op == .unenrol)) 13 ||| flagAt (saving s) 12
    ||| mkFld 7 0 (getF s sysSettings 7 0)

def sysWord (s : State) (i : Nat) : Word :=
  if i = sysSettings then settingsWord s
  else if i = sysStaged then w32 (stagedIdx s).length
  else if i = sysRole then roleWord s
  else if i = sysNa then flagAt s.id.na.isSome 31 ||| w32 (naOr0 s).toNat
  else if i = sysPlaceHi then w32 (if s.id.placeOk && !s.id.sender then s.id.place.toNat / 2 ^ 32 else 0)
  else if i = sysPlaceLo then w32 (if s.id.placeOk && !s.id.sender then s.id.place.toNat % 2 ^ 32 else 0)
  else if i = sysSmbLevel then mkFld 15 8 (smbHigh s) ||| mkFld 7 0 (smbHigh s - 1)
  else if i = sysOwnWall then claimWord s.smb.wall
  else if i = sysOwnSafety then claimWord s.smb.safety
  else if i = sysOwnUpdate then claimWord s.smb.update
  else if i = sysOwnSess then
    mkFld 11 8 (ownSess s.smb.update) ||| mkFld 7 4 (ownSess s.smb.safety) ||| mkFld 3 0 (ownSess s.smb.wall)
  else rd s i

/-! ### NET, ING, CMP, FLM -/

def netWord (s : State) (i : Nat) : Word :=
  if i = netMacHi then w32 (s.net.mac.toNat / 2 ^ 32)
  else if i = netMacLo then w32 (s.net.mac.toNat % 2 ^ 32)
  else rowAt i netPortSts 1 2 (portStsWord s) (rowAt i netIfSts 16 8 (ifStsWord s) (rd s i))

def ingWord (s : State) (i : Nat) : Word :=
  if i = ingPoolFree then w32 (poolFree s)
  else rowAt i ingSts 4 64 (ingStsWord s) (rd s i)

/-- The word +k of CMP.LAYER_n (04 R76). -/
def layerWord (s : State) (n k : Nat) : Word :=
  let y := s.canvas.layers.getD n layerOff
  if k < 8 then lyW y.words k
  else if k = 8 then mkFld 31 30 y.src ||| w32 (min 65535 y.early)
  else if k = 9 then w32 (sat32 y.repeats)
  else 0

/-- A word of band `p`, 0 beyond the bands in use (04 R71). -/
def bandWord (s : State) (f : Tables → Nat → Nat) (p : Nat) : Word :=
  let t := tablesNow s
  if p < t.pipes then w32 (f t p) else 0

def cmpWord (s : State) (i : Nat) : Word :=
  if cmpLayerCtrl ≤ i ∧ i < cmpLayerCtrl + 512 then layerWord s ((i - cmpLayerCtrl) / 16) ((i - cmpLayerCtrl) % 16)
  else if i = cmpBudget then w32 (loadBudget (tablesNow s))
  else
    rowAt i cmpBand 1 4 (bandWord s (fun t p => bandStart t p * 2 ^ 16 + bandWidth t p))
      (rowAt i cmpLbuf 1 4 (bandWord s lbufMax) (rowAt i cmpLoad 1 4 (bandWord s bandLoad) (rd s i)))

def flmWord (s : State) (i : Nat) : Word :=
  if i = flmLevel then mkFld 15 8 (ownHigh s) ||| mkFld 7 0 (ownLow s)
  else rowAt i flmChBw 4 8 (fun c => w32 (chainBw s c)) (rd s i)

/-! ### CLN, WEIR, OWL, TIL -/

def clnWord (s : State) (i : Nat) : Word :=
  rowAt i clnPortSts 8 9 (clnStsWord s)
    (rowAt i clnPortEye 8 9 (clnEyeWord s) (rowAt i clnPortLat 8 9 (clnLatWord s) (rd s i)))

/-- The tiles whose verdict is UNPROVEN (10 R237). -/
def unproven (s : State) : Nat := (s.canvas.rects.filter (fun r => (proofOf s r.na).verdict == 2)).length

def weirWord (s : State) (i : Nat) : Word :=
  if i = weirRegions then w32 s.flume.regions.length
  else if i = proofUnproven then w32 (unproven s)
  else if i = weirTSts then weirStsWord s
  else rowAt i owlSts 1 256 (owlStsWord s) (rd s i)

def tilWord (s : State) (i : Nat) : Word :=
  if i = tilSts then tilStsWord s
  else if i = tilPool then tilPoolWord s
  else rowAt i tilBtemp 1 16 (tilBtempWord s) (rd s i)

/-! ### BDG, LMP -/

def bdgWord (s : State) (i : Nat) : Word :=
  if i = bdgSts then bdgStsWord s
  else if i = bdgGlyph then bdgGlyphWord s
  else if i = bdgRomsig then romSigWord
  else if bdgEngW0 ≤ i ∧ i < bdgEngW0 + 128 then bdgEngWord s ((i - bdgEngW0) / 8) ((i - bdgEngW0) % 8)
  else
    rowAt i bdgField 1 44 (bdgFieldWord s)
      (rowAt i bdgTest 1 3 (fun k => wAt s.bdg.test.words k) (rd s i))

def lmpWord (s : State) (i : Nat) : Word :=
  if i = lmpSts then lmpStsWord s
  else if i = lmpTiming then lmpTimingWord s
  else if i = lmpWfull then if lpMode (rd s) = 0 then 0 else w32 (sat32 (lpWfull (rd s)))
  else if i = lmpFailed then w32 (failedLamps s).length
  else if i = lmpStrict then lmpStrictWord s
  else
    rowAt i lmpStemp 1 32 (lmpStempWord s)
      (rowAt i lmpLsig 1 64 (fun k => s.lamp.lsig.getD k 0) (rd s i))

/-! ### TIM (11 R264) -/

/-- The word +k of TIM.DOM_d. -/
def domWord (s : State) (d k : Nat) : Word :=
  let x := ptp s d
  let sat (v : Int) : Word := wInt (clampI (-(2 ^ 31 - 1)) (2 ^ 31 - 1) v)
  let gm : Nat := match x.master with | some m => m.gm.toNat | none => 0
  if k = 1 then
    mkFld 31 28 x.st ||| flagAt (s.time.sel == some d) 27
      ||| mkFld 26 24 (match x.master with | some m => m.iface | none => 0)
      ||| mkFld 15 8 (unsigned 8 x.logSync)
  else if k = 2 then sat x.offset
  else if k = 3 then sat x.mpd
  else if k = 4 then w32 (gm / 2 ^ 32)
  else if k = 5 then w32 (gm % 2 ^ 32)
  else rd s (timDomCfg + 8 * d + k)

/-- TIM.TOUT_k: MODE in effect and the comparator held. -/
def toutWord (s : State) (k : Nat) : Word :=
  match s.time.comps.zipIdx.find? (fun e => match e.1.use with | some (.trig o _ _ _) => o == k | _ => false) with
  | some (c, j) => match c.use with
    | some (.trig _ m _ _) => mkFld 31 30 m ||| w32 j
    | _ => 0xFF
  | none => 0xFF

/-- TIM.CMP_k. -/
def compWord (s : State) (k : Nat) : Word :=
  let c := s.time.comps.getD k compFree
  let owner : Nat := match c.use with
    | none => 0
    | some (.trig _ _ _ _) => 1
    | some (.cycle _ _ _ _ _ _ _) => 2
    | some .snap => 3
  mkFld 31 30 owner ||| mkFld 29 28 (if c.missed then 2 else if c.use.isSome then 1 else 0)
    ||| w32 (min 65535 c.misses)

def timWord (s : State) (i : Nat) : Word :=
  if i = timSts then
    flagAt s.time.valid 31 ||| mkFld 30 28 s.time.src ||| mkFld 27 24 s.time.state
      ||| mkFld 23 16 s.time.epoch.toNat
  else if i = timHerr then w32 (sat32 (herr s))
  else if timDomCfg ≤ i ∧ i < timDomCfg + 16 then domWord s ((i - timDomCfg) / 8) ((i - timDomCfg) % 8)
  else
    rowAt i timTsq 1 2 (fun p => rd s (timTsq + p) ||| mkFld 20 16 (tsq s p).length)
      (rowAt i timTin 1 4 (fun k => rd s (timTin + k) ||| mkFld 5 0 (s.time.trig.getD k []).length)
        (rowAt i timTout 1 4 (toutWord s) (rowAt i timCmp 1 16 (compWord s) (rd s i))))

/-! ### PAIR to SEC -/

def pairWord (s : State) (i : Nat) : Word :=
  if i = pairSts then pairStsWord s
  else if i = pairChk then pairChkWord s
  else if i = pairLeaseLeft then pairLeaseWord s
  else rd s i

def memWord (s : State) (i : Nat) : Word :=
  if i = memSts then memStsWord s else if i = memStall then rd (stallCount s) i else rowAt i memChSts 4 4 (memChWord s) (rd s i)

def srmWord (s : State) (i : Nat) : Word :=
  if i = srmMarchSts then marchStsWord s else rowAt i srmBank 1 65 (bankWord s) (rd s i)

def pwrWord (s : State) (i : Nat) : Word :=
  if i = pwrChipSts then pwrChipStsWord s
  else if i = pwrLampSts then pwrLampStsWord s
  else if i = pwrLampMa then pwrLampMaWord s
  else if i = pwrSts then pwrStsWord s
  else rowAt i pwrRail 1 8 (pwrRailWord s) (rd s i)

def calWord (s : State) (i : Nat) : Word :=
  if i = calSts then calStsWord s
  else if i = calRc then calRcWord s
  else if i = calLimon then calLimonWord s
  else
    rowAt i calQ 1 4 (fun k => calQWord s (k + 1))
      (rowAt i calBoard 1 16 (calBoardWord s)
        (rowAt i calSensoff 1 16 (calSensWord s) (rowAt i calLaneoff 1 18 (calLaneWord s) (rd s i))))

def fwuWord (s : State) (i : Nat) : Word :=
  if i = fwuSts then fwuStsWord s
  else if i = fwuConfLeft then w32 (sat32 (confLeft s))
  else if i = fwuRollback then w32 s.otp.rollback
  else if i = fwuSeq then (bootCur s).seq
  else rowAt i fwuSlot 1 2 (fwuSlotWord s) (rowAt i fwuVer 1 2 (fwuVerWord s) (rd s i))

def evrWord (s : State) (i : Nat) : Word :=
  if i = evrRing then evrRingWord s
  else if i = evrArch then evrArchWord s
  else if i = evrOptHi then w32 (opTime s / 2 ^ 32 % 2 ^ 16)
  else if i = evrOptLo then w32 (opTime s % 2 ^ 32)
  else rd s i

def secWord (s : State) (i : Nat) : Word :=
  if i = secSts then secStsWord s
  else if i = secSlots then secSlotsWord s
  else rowAt i secSerial 1 4 (fun w => w32 (s.otp.serial.toNat / 2 ^ (32 * (3 - w)))) (rd s i)

/-- The value in effect of parameter `i` as PARAM_READ returns it. -/
def paramWord (s : State) (i : Nat) : Word :=
  match i / 1024 with
  | 0 => sysWord s i
  | 1 => netWord s i
  | 2 => ingWord s i
  | 3 => cmpWord s i
  | 4 => flmWord s i
  | 5 => clnWord s i
  | 6 => weirWord s i
  | 7 => tilWord s i
  | 8 => bdgWord s i
  | 9 => lmpWord s i
  | 10 => timWord s i
  | 11 => pairWord s i
  | 12 => memWord s i
  | 13 => srmWord s i
  | 14 => pwrWord s i
  | 15 => calWord s i
  | 16 => fwuWord s i
  | 17 => evrWord s i
  | 18 => secWord s i
  | _ => rd s i

/-- One word of PARAM_READ with its status (R303, R318). -/
def readOne (s : State) (i : Nat) : Word × Nat :=
  match findRow s.id.sender i with
  | some _ => (paramWord s i, stOk)
  | none => (0, if assigned i then stNotInState else stBadParam)

/-- PARAM_READ (13 R303): the reply carries COUNT words whatever the status. NOT_IN_STATE is the higher
code. -/
def paramReadRule : Handler := withLen 1 fun c p s =>
  let i := fld (pw p 0) 31 16
  let n := fld (pw p 0) 15 0
  if n = 0 ∨ 256 < n ∨ 65536 < i + n then .no s stBadParam
  else if replyRoom s p.via < 4 * n then .no s stBadLength
  else if queueFull s c then .no s stBusy
  else
    let l := (List.range n).map (fun k => readOne s (i + k))
    let st := l.foldl (fun m e => max m e.2) stOk
    .noW s st (l.map (·.1))

def execParamRead (p : Smb) (s : State) : Out1 := smibenRow 0x0100 paramReadRule p s

end Sys2Proof.Machine
end

