-- ==== Sys2Proof/Machine/Params.lean ====
section
/-! DEFINITION. Writing parameters (00 R4 to R7; 13 R304; 14 R319 to R325): the checks of a set of
pairs, what a write stages and applies, and PARAM_SAVE. -/

namespace Sys2Proof.Machine

/-! ### One word (00 R4, R5; 14 R319) -/

/-- The type of a word: that of its writable fields, RO if it has none. -/
def rowAcc (r : PRow) : Acc :=
  let has (a : Acc) : Bool := r.fields.any (fun f => !f.rsv && f.acc == a)
  if has .saf then .saf else if has .rws then .rws else if has .rw then .rw else if has .w1c then .w1c else .ro

/-- The mask of the fields of a type. -/
def accMask (r : PRow) (a : Acc) : Word :=
  r.fields.foldl (fun m f => if !f.rsv && f.acc == a then m ||| maskOf f.hi f.lo else m) 0

/-- A value written into a word: RO fields keep theirs, W1C bits written as 1 clear. -/
def mergeWord (r : PRow) (old v : Word) : Word :=
  let ro := accMask r .ro
  let wc := accMask r .w1c
  let plain := ~~~(ro ||| wc ||| r.reserved)
  (old &&& ro) ||| (old &&& wc &&& ~~~v) ||| (v &&& plain)

/-- Whether every writable field lies in its range. -/
def rangeOk (r : PRow) (v : Word) : Bool :=
  r.fields.all (fun f => f.acc == .ro || f.rsv || f.range.isEmpty
    || f.range.any (fun e => decide (e.1 ≤ fld v f.hi f.lo) && decide (fld v f.hi f.lo ≤ e.2)))

/-- The bounds a word sets on itself (09 R220; 03 R54; 15 R329). -/
def wordOk (snd : Bool) (i : Nat) (v : Word) : Bool :=
  if i = lmpCfg then
    let n := fld v 29 24
    if fld v 31 30 = 1 then decide (1 ≤ n) && decide (n ≤ 32)
    else if fld v 31 30 = 2 then decide (3 ≤ n) && decide (n ≤ 48)
    else decide (1 ≤ n) && decide (n ≤ 48)
  else if (slotIn i lmpBoard 1 16).isSome then
    !bit v 31 || (decide (1 ≤ fld v 18 12) && decide (1 ≤ fld v 11 6))
  else if (slotIn i netIfCtrl 16 8).isSome then
    !bit v 12 || (decide (1 ≤ fld v 11 0) && decide (fld v 11 0 ≤ 4094))
  else if i = timDomCfg ∨ i = timDomCfg + 8 then
    let few (a : Nat) : Bool := decide (((List.range 4).filter (fun k => bit v (a + k))).length ≤ 1)
    few 16 && few 20
  else if i = memBootcfg then
    if snd then fld v 3 0 == 15 else fld v 3 0 == 1 || fld v 3 0 == 3
  else if i = tilRate ∨ i = cmpRate then
    decide (1 ≤ fld v 15 0) && decide (fld v 15 0 ≤ fld v 31 16) && decide (fld v 31 16 ≤ 240 * fld v 15 0)
  else true

/-- The checks of one pair: assignment, role, reserved bits, access type, range. -/
def pairStatus (snd : Bool) (i : Nat) (v : Word) : Option Nat :=
  match findRow snd i with
  | none => some (if assigned i then stNotInState else stBadParam)
  | some r =>
    if v &&& r.reserved ≠ 0 ∨ rowAcc r = .ro ∨ rangeOk r v = false ∨ wordOk snd i v = false then
      some stBadParam
    else none

/-! ### The set as it will stand (R304) -/

/-- A word as it will stand: the last value staged for it, or the word in effect. -/
def stagedPar (s : State) (i : Nat) : Word :=
  let of (w : Word) (x : EdgeWhat) : Word := match x with
    | .params l => (look i l.reverse).getD w
    | .badger (.params l) => (look i l.reverse).getD w
    | _ => w
  let q := s.fl.queue.foldl (fun w x => match x.op with | .badger c => of w (.badger c) | _ => w)
    (s.changes.foldl (fun w c => of w c.what) (rd s i))
  s.heavy.foldl (fun w h => of w h.what) q

/-- The lookup of the set as it would stand after the pairs. -/
def setAfter (s : State) (pairs : List (Nat × Word)) : Lookup := fun i =>
  match findRow s.id.sender i with
  | none => 0
  | some r => (pairs.filter (fun e => e.1 = i)).foldl (fun w e => mergeWord r w e.2) (stagedPar s i)

/-- Whether an index is one of a list. -/
def among (l : List Nat) (i : Nat) : Bool := l.contains i

/-- A refusal where a condition fails. -/
def refuseIf (b : Bool) (st : Nat) : Option (Nat × Word) := if b then some (st, 0) else none

/-- The indices R202 checks. -/
def scanIdx : List Nat :=
  [lmpCfg, lmpScanCfg, lmpRowt, lmpPre, lmpSmode, lmpShow, lmpProof, lmpProofAge, tilRate, tilGeom, pairCfg]

/-- R70, R81, R83 and R84 on the canvas a set describes. -/
def canvasCheck (s : State) (g : Lookup) : Bool :=
  let t := tablesOf g (layersSoon s)
  let unit := cdiv (1152 * t.wb * t.hb) 65536
  decide (512 * t.pipes < t.wb)
    || t.layers.any (fun l => lyEn l && !lyInside t l)
    || (rectsSoon s).any (fun r => decide (t.wb < r.xb + r.wtb) || decide (t.hb < r.yb + r.htb))
    || decide (fld (g memPoolCnv) 18 0 < 3 * unit)

/-- The standing credits that a set would need (17 R374). -/
def standingSoon (s : State) (g : Lookup) : Nat :=
  standingWith s (pipesOn (g cmpCanvas)) (s.net.ports.map (·.mode)) (fld (g lmpCfg) 31 30)

/-- The refusal of a set whose standing credits exceed its budget. -/
def standingCheck (s : State) (g : Lookup) : Option (Nat × Word) :=
  let n := standingSoon s g
  if fld (g pwrChip) 31 16 < n then some (stConflict, conflictWord 0x08 1 n) else none

/-- Two enabled PTP slots with the same domain on a common interface (11 R243). -/
def domClash (g : Lookup) : Bool :=
  let a := g timDomCfg
  let b := g (timDomCfg + 8)
  bit a 31 && bit b 31 && fld a 7 0 == fld b 7 0 && (a &&& b &&& 0x00FF0000) != 0

/-- The bytes of the firmware region and the pools of a set (15 R345). -/
def poolsAfter (snd : Bool) (g : Lookup) : Nat :=
  65536 * (1024 + (if snd then fld (g memPoolIng) 18 0 + fld (g memPoolCnv) 18 0 else fld (g memPoolTile) 18 0))

/-- The whole-set checks of a sender's own parameters, each with the indices it is made for. -/
def senderChecks (s : State) (g : Lookup) : List ((Nat → Bool) × Option (Nat × Word)) :=
  [(among [cmpCanvas], refuseIf (canvasCheck s g) stBadParam),
   (among [cmpCanvas, cmpRate], refuseIf (loadRefusal (tablesOf g (layersSoon s))).isSome stBadParam),
   (among [cmpLatch, cmpRate], refuseIf (decide (fld (g cmpRate) 15 0 * 10 ^ 9
     < 2000 * fld (g cmpLatch) 15 0 * fld (g cmpRate) 31 16)) stBadParam),
   (among [flmPtCfg], refuseIf (bit (g flmPtCfg) 16 && fld (g flmPtFixed) 23 0 == 0) stBadParam),
   (among [timDomCfg, timDomCfg + 8], refuseIf (domClash g) stBadParam)]

/-- The whole-set checks of a tile's own parameters. -/
def tileChecks (g : Lookup) : List ((Nat → Bool) × Option (Nat × Word)) :=
  [(among [tilGeom], refuseIf (decide (65536 * fld (g memPoolTile) 18 0
     < 1152 * (2 * lpWt g * lpHt g + 64))) stBadParam),
   (among scanIdx, scanCheck g)]

/-- The whole-set checks that also hold for a load (R325). -/
def staticChecks (s : State) (g : Lookup) : List ((Nat → Bool) × Option (Nat × Word)) :=
  (if s.id.sender then senderChecks s g else tileChecks g)
    ++ [(among [cmpCanvas, lmpCfg, pwrChip], standingCheck s g),
        (among [memPoolIng, memPoolCnv, memPoolTile], refuseIf (decide (dramSpace s ≠ 0)
          && decide (dramSpace s < poolsAfter s.id.sender g)) stBadParam)]

/-- Whether a set would name for a destructive march a bank that is not FREE (16 R360). -/
def marchClash (s : State) (g : Lookup) : Bool :=
  fld (g srmMarch) 31 30 == 2
    && (marchMask (g srmMarchMaskLo) (g srmMarchMaskHi)).any (fun k => decide (ownerOfBank s k ≠ 0))

/-- What the state of the device refuses: lamp drive (09 R214), pools in use (15 R345), banks with an
owner (16 R360), the life cycle (20 R438). -/
def stateChecks (s : State) (g : Lookup) : List ((Nat → Bool) × Option (Nat × Word)) :=
  let sized (w : Word) : Bool := fld w 27 16 != 0 && fld w 10 0 != 0
  let drv (b : Bool) : Option (Nat × Word) := refuseIf (s.lamp.drive && b) stNotInState
  [(fun i => i == lmpCfg || i == tilGeom || (slotIn i lmpBoard 1 16).isSome, drv true),
   (among [lmpScanCfg], drv (lpScan g != lpScan (stagedPar s))),
   (among [memPoolIng], refuseIf (!s.net.streams.isEmpty) stNotInState),
   (among [memPoolCnv], refuseIf (sized (rd s cmpCanvas) || sized (g cmpCanvas)) stNotInState),
   (among [memPoolTile], refuseIf (decide (tileNb s ≠ 0)) stNotInState),
   (among [srmMarch, srmMarchMaskHi, srmMarchMaskLo], refuseIf (marchClash s g) stNotInState),
   (among [secTamper], refuseIf (decide (1 < s.otp.lcs)) stNotInState)]

/-- The first failure of a set: status, word 0 and the place of the first pair it concerns. Each pair is
checked by itself first. -/
def setRefusal (s : State) (pairs : List (Nat × Word)) : Option (Nat × Word × Nat) :=
  match pairs.zipIdx.findSome? (fun e => (pairStatus s.id.sender e.1.1 e.1.2).map (fun st => (st, e.2))) with
  | some (st, k) => some (st, 0, k)
  | none =>
    let g := setAfter s pairs
    (staticChecks s g ++ stateChecks s g).findSome? fun c =>
      match pairs.findIdx? (fun e => c.1 e.1), c.2 with
      | some k, some (st, w) => some (st, w, k)
      | _, _ => none

/-- The block of an index, by its base over 256 (14 R318): 1,024 indices each, but that WEIR and PROOF end where OWL
begins, and PWR where THM does. -/
def parBlock (i : Nat) : Nat :=
  if i / 1024 = 6 then (if i < 0x1900 then 0x18 else 0x19)
  else if i / 1024 = 14 then (if i < 0x3A00 then 0x38 else 0x3A)
  else 4 * (i / 1024)

/-- Whether the kept values of a block pass its range and whole-set checks (R325). -/
def blockOk (s : State) (b : Nat) : Bool :=
  let idx := ((keptPar s.id.sender s.par).map (·.1)).filter (fun i => parBlock i == b)
  idx.all (fun i => (pairStatus s.id.sender i (rd s i)).isNone)
    && (staticChecks s (rd s)).all (fun c => c.2.isNone || !idx.any c.1)

/-! ### Staging (00 R6; 14 R320, R321; 07 R152; 17 R380) -/

/-- A change without the pairs of the given indices. -/
def dropPairs (l : List Nat) (w : EdgeWhat) : EdgeWhat :=
  match w with
  | .params p => .params (p.filter (fun e => !l.contains e.1))
  | .badger (.params p) => .badger (.params (p.filter (fun e => !l.contains e.1)))
  | w => w

/-- Whether a change has lost its last pair. -/
def emptied (l : List Nat) (w : EdgeWhat) : Bool :=
  w != dropPairs l w
    && (match dropPairs l w with | .params [] => true | .badger (.params []) => true | _ => false)

/-- Whether a recompute's request is one of a list. -/
def isRecompute (l : List Nat) (o : HeavyOp) : Bool :=
  match o with
  | .recompute n => l.contains n
  | _ => false

/-- Earlier staged values of the given indices never take effect (R6): a change left without a pair sends
no notification and gives its credits back; one whose edge the holder names stays, empty. -/
def supersede (s : State) (l : List Nat) : State :=
  let gone (c : EdgeChange) : Bool := emptied l c.what && !(named s && shared s.id.sender c.what)
  let dead := (s.changes.filter gone).filterMap (·.credit)
    ++ (s.heavy.filter (fun h => emptied l h.what)).map (·.num)
  let cut (c : EdgeChange) : EdgeChange :=
    { c with what := dropPairs l c.what, ref := if emptied l c.what then none else c.ref }
  let item (x : FlashItem) : FlashItem := match x.op with
    | .badger b => match dropPairs l (.badger b) with
      | .badger d => { x with op := .badger d, ref := if emptied l (.badger b) then none else x.ref }
      | _ => x
    | _ => x
  let s1 := { s with
    changes := (s.changes.filter (fun c => !gone c)).map cut
    heavy := (s.heavy.filter (fun h => !emptied l h.what)).map
      (fun h => { h with what := dropPairs l h.what })
    fl := { s.fl with queue := s.fl.queue.map item } }
  withdrawAsk (creditReturn s1 (isRecompute dead)) (isRecompute dead)

/-- Whether staged words need a full recompute with credits: they may raise a lamp value (07 R152). -/
def needsCredits (s : State) (g : Lookup) (l : List Nat) : Bool :=
  !s.id.sender
    && ((l.contains tilBright && decide (getF s tilBright 15 0 < fld (g tilBright) 15 0))
      || (l.contains tilPeak && decide ((rd s tilQk).toNat < qkOf (fld (g tilPeak) 13 0)))
      || (l.any (fun i => decide (tilAvgM ≤ i) && decide (i ≤ tilAvgM4) && g i != rd s i) && avgInUse s))

/-- The lamp credits of the brightness step that staged words make (17 R380). -/
def stepCredits (s : State) (g : Lookup) : Nat :=
  let slg := getF s tilSlg 15 0
  let new := limitG (fld (g tilBright) 15 0) slg * qkOf (fld (g tilPeak) 13 0)
  let old := limitG (getF s tilBright 15 0) slg * (rd s tilQk).toNat
  if new ≤ old then 0 else stepLamp s new old

/-- Words staged by a command: one change that applies at one edge. -/
def stagePairs (s : State) (c : CmdRef) (l : List (Nat × Word)) : State × Nat :=
  let g := setAfter s l
  let idx := l.map (·.1)
  let lamp := stepCredits s g
  let s1 := supersede s idx
  if needsCredits s g idx then askRecompute s1 (idOfCmd c) (.params l) (some c) lamp
  else (proposeCmd s1 c (.params l), stPending)

/-! ### What a write sets off -/

/-- The address family that an offset of an interface's words belongs to: none, one, or all. -/
def offFams (k : Nat) : List Nat :=
  if k = 0 then [0, 1, 2] else if k = 2 then [0] else if 5 ≤ k ∧ k ≤ 8 then [2] else []

/-- TIM.DOM_d.CFG written: the slot listens from the start, or is off. -/
def domWritten (s : State) (d : Nat) : State :=
  let on := ptpOn s d
  ptpGroups (selectSlot (setPtp s d { ptpSlotOff with st := if on then 1 else 0 }))

/-- What follows the write of word `i`, from `old` to the value now in effect. A change of IF_CTRL restarts duplicate
detection like a write of the address words it names (log 95). -/
def afterWrite (s : State) (i : Nat) (old : Word) : State :=
  let new := rd s i
  match slotIn i netIfCtrl 1 128, slotIn i lmpSens 1 32 with
  | some k, _ =>
    if k % 16 = 0 ∧ old = new then s
    else (offFams (k % 16)).foldl (fun t f => startDad t (k / 16) f) s
  | _, some k =>
    if bit new 31 && !bit old 31 then
      { s with lamp := { s.lamp with sensors := s.lamp.sensors.set k ⟨none, none⟩ } }
    else s
  | none, none =>
    if i = tilGeom then if old = new then s else newPicture s
    else if i = srmMarch then marchStart s (fld new 31 30)
    else if i = pairCfg then startResync (pairCheck s)
    else if (i = timDomCfg ∨ i = timDomCfg + 8) ∧ old ≠ new then domWritten s ((i - timDomCfg) / 8)
    else s

/-- RW and W1C pairs take effect: the words first, then what follows them. -/
def writeNow (s : State) (settingNow : List (Nat × Word)) (l : List (Nat × Word)) : State :=
  let one (t : State) (e : Nat × Word) : State :=
    match findRow s.id.sender e.1 with
    | some r =>
      let held := ((look e.1 settingNow).getD 0) &&& accMask r .w1c
      wr t e.1 (mergeWord r (rd t e.1) e.2 ||| held)
    | none => t
  let s1 := l.foldl one s
  pairCheck ((l.map (·.1)).eraseDups.foldl (fun t i => afterWrite t i (rd s i)) s1)

/-! ### PARAM_WRITE (R304) -/

/-- The type of a pair's word. -/
def pairAcc (s : State) (i : Nat) : Acc := match findRow s.id.sender i with | some r => rowAcc r | none => .ro

/-- The staged pairs of a command, each word as it will stand. -/
def stagedOf (s : State) (pairs : List (Nat × Word)) : List (Nat × Word) :=
  let g := setAfter s pairs
  let idx := ((pairs.map (·.1)).filter (fun i => pairAcc s i == .rws || pairAcc s i == .saf)).eraseDups
  idx.map (fun i => (i, g i))

/-- The reply to staged pairs repeats the value each write staged (00 R6). -/
def echoPairs (l : List (Nat × Word)) : List Word := l.flatMap (fun e => [w32 (e.1 * 2 ^ 16), e.2])

/-- The rule of PARAM_WRITE; `settingNow` are the bits whose event occurs in the same CCLK cycle (00 R7). -/
def paramWriteRule (settingNow : List (Nat × Word)) : Handler := fun c p s =>
  let n := fld (pw p 0) 15 0
  let pairs := pairsOf (p.payload.drop 1)
  if p.payload.length ≠ 1 + 2 * n then .no s stBadLength
  else if n = 0 ∨ 64 < n then .no s stBadParam
  else match setRefusal s pairs with
    | some (st, w, k) => .noW s st [w, pairPlace pairs k]
    | none =>
      let staged := stagedOf s pairs
      let plain := pairs.filter (fun e => pairAcc s e.1 == .rw || pairAcc s e.1 == .w1c)
      let saf := pairs.any (fun e => pairAcc s e.1 == .saf)
      if staged.isEmpty then .ok (writeNow s settingNow plain) []
      else
        let (t, st) := if saf then flashAsk (supersede s (staged.map (·.1))) (.badger (.params staged)) (some c) 1 false
          else stagePairs s c staged
        if st = stPending then
          { Res.pend (writeNow t settingNow plain) with words := echoPairs staged }
        else
          let t0 := if st = stNvHeld then nvRefuse s else bump s pwrRefused
          .noW t0 st [0, pairPlace pairs 0]

def execParamWrite (p : Smb) (s : State) : Out1 := smibenRow 0x0101 (paramWriteRule []) p s

/-- TIL_GEOM_WRITE: a PARAM_WRITE that names TIL.GEOM (07 R141). -/
def execTilGeomWrite (p : Smb) (s : State) : Out1 := smibenRow 0x0101 (paramWriteRule []) p s

/-- W1C_WRITE: a PARAM_WRITE that names W1C bits, with the bits whose event occurs in the same cycle
(00 R7). -/
def execW1cWrite (p : Smb) (settingNow : List (Nat × Word)) (s : State) : Out1 :=
  smibenRow 0x0101 (paramWriteRule settingNow) p s

/-- PARAM_SAVE (R304, R325). -/
def paramSaveRule : Handler := withLen 0 fun c _ s =>
  if saving s then .no s stBusy
  else
    let (t, st) := settingsAsk s (.paramSave (settingsNow s)) (some c)
    if st = stPending then .pend t else .no t st

def execParamSave (p : Smb) (s : State) : Out1 := smibenRow 0x0102 paramSaveRule p s

end Sys2Proof.Machine
end

