-- ==== Sys2Proof/Machine/Boot.lean ====
section
/-! DEFINITION. Start-up (18 R387 to R394): what a reset release keeps, the slot the boot ROM starts
(19 R412), the loading of the records (14 R324, R325; 19 R416, R417), the calibrations, the first lamp
rewrite and the loss of power. -/

namespace Sys2Proof.Machine

/-! ### What a reset keeps -/

/-- The answer of a reset release: the personality is the one now latched, and the loading of kept values is
no change of SYS.PGEN (14 R326). -/
def commitReset (s t : State) : Out1 :=
  .next { t with
    par := canonPar t.id.sender t.par
    dram := { t.dram with mem := canonMem t.dram.mem }
    pending := s.pending }

/-- The code of a reset cause in the start record (20 R428). -/
def causeCode (c : Nat) : Word :=
  if c = 0 then 1
  else if c = causeCommand then 2
  else if c = causeActivate ∨ c = causeTrial ∨ c = causeMigration then 3
  else if c = causeStructure then 4
  else if c = causeRail then 5
  else if c = causeXin then 6
  else if c = causeThermal then 7
  else 8

/-- Whether the reset that ends is a power-on. -/
def coldStart (s : State) : Bool := s.boot.cause == 0

/-- Operating time at the release: it runs through a reset, and at a power-on is that of the newest record of
the archive (20 R427). -/
def opAtStart (s : State) : Nat :=
  if coldStart s then (match s.rcd.archive.head? with | some r => r.optime | none => 0) else opTime s

/-- The power-cycle count before this start (20 R427). -/
def pccBefore (s : State) : Word :=
  if coldStart s then (match s.rcd.archive.head? with | some r => r.pcc | none => 0) else rd s evrPcc

/-- PWR.CLK at the release: an XIN loss stays on view after the reset it caused (log 53). -/
def clkAtStart (s : State) : Word := if s.boot.cause = causeXin then flagAt true 31 ||| mkFld 23 16 1 else 0

/-- Power as a reset leaves it: the monitors of the always-on domain keep what they know. -/
def powerKept (p : Power) : Power :=
  { powerAtReset with
    pfail := p.pfail, vio18Low := p.vio18Low, stopped := p.stopped, goodSince := p.goodSince.map (fun _ => 0)
    rails := p.rails, railWarn := p.railWarn, railFault := p.railFault, violNominal := p.violNominal }

/-- Flash as a reset leaves it: what stands in flash, and what the always-on domain holds. -/
def flashKept (s : State) : Flash :=
  { s.fl with
    queue := [], next := 0, trial := false, fallback := false, migFail := false, confirming := false
    deferred := [], saved := [], dl := none, staged := [], loadVer := 0, loadSrc := 0
    bootReq := if coldStart s then none else s.fl.bootReq
    recReq := !coldStart s && s.fl.recReq
    loops := if coldStart s then 0 else min 255 (s.fl.loops + 1)
    failWhy := if coldStart s then 0 else s.fl.failWhy }

/-- The recorder as a reset or a loss of power leaves it: the archive. A clear of the archive that had begun is
finished at the next start (20 R430). -/
def recorderKept (s : State) : Recorder :=
  let begun := match flashHead s with | some x => x.op == .recClear | none => false
  let t := match s.rcd.clearing with
    | some c => if begun && c.archive then clearDone s c else s
    | none => s
  { recorderAtReset with archive := t.rcd.archive, arcHead := t.rcd.arcHead }

/-- The state in which the boot ROM begins: everything at its reset value but what a reset keeps, the straps
latched. -/
def bootBase (s : State) (b : BootIn) : State :=
  let z := State.reset
  { z with
    id := { sender := b.pers, side := b.side, step := s.id.step, place := 0, placeOk := false, na := none }
    par := [(evrPcc, pccBefore s), (pwrClk, clkAtStart s)]
    rcd := recorderKept s
    otp := s.otp
    sec := { secureAtReset with
      tamperLow := b.tamperLow
      tamperSeen := s.sec.tamperSeen && s.sec.tamperLow && b.tamperLow
      hold := s.sec.hold && !(coldStart s && !b.tamperLow) }
    pwr := powerKept s.pwr
    fl := flashKept s
    sram := sramAtReset b.pers
    boot := { bootAtReset with
      held := false, cause := s.boot.cause, lossNs := s.boot.lossNs, xsel := b.xsel, rcvy := b.rcvy
      autodrive := false }
    net := { netAtReset with mac := s.net.mac }
    link := { State.reset.link with ports := portsAtReset b.pers }
    time := { timeAtReset b.pers with opBase := opAtStart s }
    pair := { pairAtReset with high := s.pair.high }
    free := s.free
    out := s.out }

/-! ### The slot that starts (19 R412) -/

/-- What the boot ROM has settled: the slot it starts, whether on trial, and the marks firmware makes: slots
with their WHY, 0 for a slot made ACTIVE in a new record. -/
structure RomStart where
  run : Option Nat
  trial : Bool
  marks : List (Nat × Nat)
  failed : Bool
  deriving DecidableEq, Repr

/-- Whether the ROM's verification passes a slot. -/
def slotPasses (b : BootIn) (k : Nat) : Bool := if k = 0 then b.slotAOk else b.slotBOk

/-- Rule 5, after a trial of slot X that failed with a reason, or none. -/
def romActive (s : State) (b : BootIn) (bad : List (Nat × Nat)) : RomStart :=
  let r := bootCur s
  let other := 1 - r.active
  if slotPasses b r.active then { run := some r.active, trial := false, marks := bad, failed := !bad.isEmpty }
  else if r.st other = 5 ∧ slotPasses b other = true then
    { run := some other, trial := false, marks := [(r.active, 7)], failed := false }
  else { run := none, trial := false, marks := [], failed := false }

/-- Rule 2: neither copy of the boot record is valid. -/
def romNoRecord (s : State) (b : BootIn) : RomStart :=
  let ver (k : Nat) : Word := (headerOf (slotOf s k)).version
  let pass := [0, 1].filter (slotPasses b)
  match pass with
  | [] => { run := none, trial := false, marks := [], failed := false }
  | [k] => { run := some k, trial := false, marks := [(k, 0)], failed := false }
  | _ =>
    let k := if ver 0 < ver 1 then 1 else 0
    { run := some k, trial := false, marks := [(k, 0)], failed := false }

/-- A trial of slot X: verified first, its MARK programmed. -/
def romTrial (s : State) (b : BootIn) (x : Nat) : RomStart :=
  if slotPasses b x then { run := some x, trial := true, marks := [], failed := false }
  else romActive s b [(x, 7)]

/-- The rules of R412 in their order, and what the ROM programs. -/
def romSelect (s : State) (b : BootIn) : State × RomStart :=
  let r := bootCur s
  let x := 1 - r.active
  let none_ : RomStart := { run := none, trial := false, marks := [], failed := false }
  let done := { s with fl := { s.fl with bootReq := none } }
  if b.rcvy || s.fl.recReq || decide (8 ≤ s.fl.loops) then (done, none_)
  else if s.fl.boot0.isNone && s.fl.boot1.isNone then (done, romNoRecord s b)
  else if s.fl.bootReq = some x ∧ r.st x = 3 then
    if nvStop s then (done, romActive s b [])
    else (bootProgram done (fun y => { y with arm := true, armTime := opTime s, marks := 1 }), romTrial s b x)
  else if r.arm = true ∧ r.st x = 3 then
    if 3 ≤ r.marks then (done, romActive s b [(x, if s.fl.failWhy = 0 then 4 else s.fl.failWhy)])
    else if nvStop s then (done, romActive s b [])
    else (bootProgram done (fun y => { y with marks := y.marks + 1 }), romTrial s b x)
  else (done, romActive s b [])

/-! ### The records (14 R324, R325; 19 R416, R417) -/

/-- Whether a firmware reads a copy of a record version. -/
def reads (lo hi ver : Nat) : Bool := decide (lo ≤ ver) && decide (ver ≤ hi)

/-- The settings copy taken, with its SRC. -/
def settingsTaken (s : State) : Option (SetRec × Nat) :=
  let ok (r : Option SetRec) : Option SetRec := match r with
    | some x => if reads s.fl.fw.setMin s.fl.fw.setVer x.ver then some x else none
    | none => none
  let src (x : SetRec) (n : Nat) : Nat := if x.ver < s.fl.fw.setVer then 3 else n
  match ok s.fl.setA, ok s.fl.setB with
  | some a, some b =>
    if a.ver < b.ver ∨ (a.ver = b.ver ∧ a.seq < b.seq) then some (b, src b 2) else some (a, src a 1)
  | some a, none => some (a, src a 1)
  | none, some b => some (b, src b 2)
  | none, none => none

/-- The Badger copy taken. -/
def badgerTaken (s : State) : Option BdgRec :=
  let ok (r : Option BdgRec) : Option BdgRec := match r with
    | some x => if reads s.fl.fw.bdgMin s.fl.fw.bdgVer x.ver then some x else none
    | none => none
  match ok s.fl.bdgA, ok s.fl.bdgB with
  | some a, some b => if a.ver < b.ver ∨ (a.ver = b.ver ∧ a.seq < b.seq) then some b else some a
  | some a, none => some a
  | none, some b => some b
  | none, none => none

/-- Kept values put into the parameter file; those that have no place in this role are left out. -/
def putKept (s : State) (l : List (Nat × Word)) : State :=
  { s with par := l.filter (fun e => (findRow s.id.sender e.1).isSome) ++ s.par }

/-- Whether a value of a record has no place in the format of this firmware. -/
def misplaced (s : State) (l : List (Nat × Word)) : Bool := l.any (fun e => (findRow s.id.sender e.1).isNone)

/-- The settings record loaded: its kept values and the sections of its commands. -/
def loadSettings (s : State) : State :=
  match settingsTaken s with
  | none => s
  | some (r, src) =>
    let s1 := putKept s r.kept
    { s1 with
      id := { s1.id with na := r.na }
      fl := { s1.fl with saved := r.kept, loadVer := r.ver, loadSrc := src }
      flume := { s1.flume with
        enrolled := if s.id.sender then r.enrolled else []
        regions := if s.id.sender then r.regions.map (fun g =>
            { num := g.1, words := g.2, fails := [], vouched := [] }) else []
        watches := if s.id.sender then r.watches.map (fun w =>
            { num := w.1, words := w.2, since := 0, wsig := none, st := 1 }) else [] }
      lamp := { s1.lamp with
        policies := if s.id.sender then [] else r.policies.map (fun p => { region := p.1, pol := p.2, inFault := false }) } }

/-- The Badger record loaded (08 R186): stored fields are drawn not live. -/
def loadBadger (s : State) : State :=
  if s.id.sender then s
  else match badgerTaken s with
    | none =>
      recordX { s with
        bdg := { s.bdg with recBad := true }
        fl := { s.fl with bdgNow := { ver := s.fl.fw.bdgVer, seq := 0, kept := [], fields := [], glyphs := [] } } } xRecBad []
    | some r =>
      let s1 := putKept { s with
        bdg := { s.bdg with recBad := false, glyphs := r.glyphs }, fl := { s.fl with bdgNow := r } } r.kept
      r.fields.foldl (fun t e => applyDefine t e.1 e.2) s1

/-- The blocks of kept values that fail their checks take their reset values, each with a record (14 R325). -/
def checkBlocks (s : State) : State × Bool :=
  let bad := (List.range 76).filter (fun b => !blockOk s b)
  let keep (e : Nat × Word) : Bool := !bad.contains (parBlock e.1) || (keptPar s.id.sender [e]).isEmpty
  let s1 := { s with par := s.par.filter keep }
  (bad.foldl (fun t b => recordX t xSettings [w32 b]) s1, !bad.isEmpty)

/-- Whether a migration fails (19 R417), `lost` telling that a block took its reset values. -/
def migrationFails (s : State) (lost : Bool) : Bool :=
  let old := decide (s.fl.loadSrc = 3)
  let noSet := (s.fl.setA.isSome || s.fl.setB.isSome) && (settingsTaken s).isNone
  let noBdg := !s.id.sender && (s.fl.bdgA.isSome || s.fl.bdgB.isSome) && (badgerTaken s).isNone
  let oldBdg := match badgerTaken s with
    | some r => !s.id.sender && decide (r.ver < s.fl.fw.bdgVer) && misplaced s r.kept
    | none => false
  noSet || noBdg || (old && (misplaced s s.fl.saved || lost)) || oldBdg

/-- The copy of the calibration record that is taken, and whether it is copy B (18 R395). -/
def calTaken (s : State) : Option (CalRec × Bool) :=
  match s.fl.calA.filter (fun r => r.ver == 1), s.fl.calB.filter (fun r => r.ver == 1) with
  | some a, _ => some (a, false)
  | none, some b => some (b, true)
  | none, none => none

/-- The stored values of a record in effect. -/
def calValues (s : State) (r : CalRec) : State :=
  { s with cal := { s.cal with
    lanes := (List.range 18).map (fun l => (look l r.lanes).getD 0), gain := r.gain, zero := r.zero
    trim := r.trim, sensors := r.sensors } }

/-- The calibration record loaded (18 R395): a trim and offsets measured at this start and accepted stay. -/
def loadCalibration (s : State) : State :=
  match calTaken s with
  | some (r, b) =>
    let t := calValues s r
    { t with cal := { t.cal with
      trim := if calResultOf s 3 = 1 then s.cal.trim else r.trim
      sensors := if calResultOf s 4 = 1 then s.cal.sensors else r.sensors
      recBad := false, copyB := b } }
  | none => recordX { s with cal := { s.cal with recBad := true } } xRecBad [1]

/-- The stored values that the calibration record holds, or the defaults. -/
def calStored (s : State) : State :=
  match calTaken s with
  | some (r, _) => calValues s r
  | none => { s with cal := { calibAtReset with recBad := s.cal.recBad } }

/-- The calibration record written once after start-up, if a stored value has changed (R395, R398). -/
def calWriteBack (s : State) : State :=
  let any := [1, 2, 3, 4].any (fun i => decide (calResultOf s i = 1))
  if calChanged (calStored s) s || (s.cal.recBad && any) then
    (flashAsk { s with cal := { s.cal with changed := true } } (.calRecord stOk) none 2 false).1
  else s

/-! ### Firmware starts (18 R389 steps 5 to 10) -/

/-- The record of why the device was reset, after the start record (17 R366, R384). -/
def causeRecords (s : State) (hottest : Int) : State :=
  if s.boot.cause = causeXin then recordX s xClock [w32 s.boot.lossNs]
  else if s.boot.cause = causeThermal then recordX s xShutdown [wInt hottest]
  else s

/-- The firmware of slot `k` runs: its header, trial state and the credits of a trial (19 R413). -/
def runSlot (s : State) (r : RomStart) (k : Nat) : State :=
  let s1 := { s with fl := { s.fl with
    run := k, trial := r.trial, fallback := r.failed, fw := headerOf (slotOf s k)
    trialCopy := if r.trial then s.fl.trialCopy else none } }
  if r.trial then (sluiceAsk s1 .trial 1 5 0).1 else s1

/-- The marks firmware makes after a failed trial or slot (19 R412). -/
def makeMarks (s : State) (l : List (Nat × Nat)) : State :=
  l.foldl (fun t e => (flashAsk t (.bootMark e.1 e.2) none 2 false).1) s

/-- The state of a migration that failed (19 R419). -/
def migrated (s : State) (lost : Bool) : State :=
  if migrationFails s lost then
    recEventX { s with fl := { s.fl with migFail := true } } .both xFirmware [9]
  else s

/-- TAMPER_N at the sample, and the class keys (20 R432, R437). -/
def startKeys (s : State) : State :=
  if s.sec.tamperLow then (if s.sec.tamperSeen then s else tamper s) else loadKeys s

/-- The configuration in effect from the records: addresses, PTP slots, marches, lamp drive. -/
def startConfigured (s : State) : State :=
  let nets := (List.range 8).foldl (fun t i => [0, 1, 2].foldl (fun u f => startDad u i f) t) s
  let ptp := if nets.id.sender then [0, 1].foldl (fun t d => if ptpOn t d then domWritten t d else t) nets else nets
  let mode := getF ptp srmMarch 31 30
  let m := if mode = 0 ∨ marchClash ptp (rd ptp) = true then ptp else marchStart ptp mode
  { m with boot := { m.boot with autodrive := !m.id.sender && getF m calStart 0 0 == 1 } }

/-- The picture of kept values: the maps follow TIL.GEOM and TIL.QK follows TIL.PEAK (07 R141, R156, R164). -/
def startPicture (s : State) : State :=
  if s.id.sender then s
  else
    let t := layImage s
    wr t tilQk (w32 (qkOf (getF t tilPeak 13 0)))

/-- Item 2 on a tile, before the start-up lamp rewrite. -/
def startSupply (s : State) (b : BootIn) : State := if s.id.sender then s else calSupply s b.gainErr b.limonZero

/-- The lamp-board headers judged on a tile. -/
def startBoards (s : State) (b : BootIn) : State := if s.id.sender then s else judgeBoards s b.headers

/-- The self-checks after the known-answer test of step 9: hardware checks pass, the guard runs. -/
def startChecks (s : State) (b : BootIn) : State :=
  { s with pair := { s.pair with
    chk := if b.katOk then 0x1F else 0x0F, katPass := b.katOk, health := true
    guard := if s.pair.high then some 0 else none } }

/-- The boot march of every bank, or only its clear where the settings record holds BOOTMARCH 0 (16 R357; log 131). -/
def bootMarch (s : State) (b : BootIn) : State :=
  if getF s srmCfg 8 8 = 0 then s
  else
    b.marchFaults.foldl (fun t f => marchFail t f.1 f.2.1 f.2.2) { s with sram := { s.sram with
      banks := s.sram.banks.map (fun x => { x with passes := 1 }) } }

/-- Firmware started in slot `k`: steps 5 to 10 of R389. -/
def startFirmware (s0 : State) (b : BootIn) (r : RomStart) (k : Nat) (hottest : Int) : State :=
  let s1 := loadSettings (runSlot s0 r k)
  let s2 := wr { s1 with boot := { s1.boot with phase := 1 } } evrPcc (rd s1 evrPcc + 1)
  let s3 := causeRecords (record s2 0x0001 [causeCode s2.boot.cause]) hottest
  let s4 := bootMarch s3 b
  let s5 := calSensors (calOsc s4 (some b.rcCount) b.rcCountTrimmed) (b.sensors.map some)
  let s6 := loadBadger (loadCalibration s5)
  let (s7, lost) := checkBlocks s6
  let s8 := startKeys (migrated (startPicture s7) lost)
  let s9 := calLanes s8 (roleLanes s8.id.sender) ((roleLanes s8.id.sender).zip b.laneZeros)
  let s10 := startBoards (startSupply s9 b) b
  let s11 := startChecks (startConfigured s10) b
  let s12 := makeMarks (calWriteBack (throttle (dieConvert s11 b.sensors))) r.marks
  if s12.id.sender then dramStart s12 else s12

/-- Recovery mode (19 R420): the boot ROM alone, after its trim of the RC oscillator (18 R389). A tile trains its ports
at the bring-up rate; the chains of a sender carry nothing. -/
def startRecovery (s : State) (b : BootIn) : State :=
  let s1 := startKeys (calOsc s (some b.rcCount) b.rcCountTrimmed)
  { s1 with
    boot := { s1.boot with phase := 3 }
    link := { s1.link with ports :=
      if s1.id.sender then [] else s1.link.ports.map (fun x => { x with noFull := true }) } }

/-- Whether the device may leave reset: every core and PHY rail and VIO18 good, no shutdown, TMODE low
(17 R370, R384; 21 R444). -/
def mayStart (s : State) (b : BootIn) : Bool :=
  s.boot.held && !s.pwr.shutdown && !b.tmode
    && (List.range 7).all (fun k => !s.pwr.railWarn.contains k && !s.pwr.railFault.contains k)

/-- POWER_ON_RESET_RELEASE: the straps are latched and the boot order runs (R389). -/
def execPowerOnResetRelease (b : BootIn) (s : State) : Out1 :=
  if !mayStart s b then .next s
  else
    let s0 := bootBase s b
    let (s1, r) := romSelect s0 b
    commitReset s <| match r.run with
      | some k => startFirmware s1 b r k s.pwr.hottest
      | none => startRecovery s1 b

/-! ### The loss of power (19 R415; 20 R427) -/

/-- POWER_LOSS: volatile state and the always-on domain are lost, flash and one-time storage keep what they
hold, operations on flash in progress are lost with their effects. -/
def execPowerLoss (s : State) : Out1 :=
  let z := State.reset
  commit s { z with
    id := { z.id with side := s.id.side, step := s.id.step }
    rcd := recorderKept s
    otp := s.otp
    fl := { flashKept { s with boot := { s.boot with cause := 0 } } with next := 0 }
    sram := sramAtReset s.id.sender
    net := { netAtReset with mac := s.net.mac }
    link := { z.link with ports := portsAtReset s.id.sender }
    time := timeAtReset s.id.sender
    pair := { pairAtReset with high := s.pair.high || s.pair.pull }
    free := s.free
    out := s.out }

/-! ### The start-up lamp rewrite (R391) and the edge -/

/-- A tile asks for the DRAM training credits once its start-up lamp rewrite has ended. -/
def dramOnce (s : State) : State :=
  if s.id.sender || s.boot.phase != 1 || s.dram.state != 0 || !s.dram.chans.isEmpty || s.boot.autodrive
      || (s.lamp.drive && !s.lamp.on) then s
  else dramStart s

/-- FRAME_EDGE (07 R147): the next frame edge of a tile. -/
def execFrameEdge (s : State) : Out1 :=
  act s fun s =>
    if s.id.sender then s
    else
      let e := nextEdge s
      dramOnce (edgeTrig (frameEdgeAt (toClk e s) e))

/-- SHOW_INSTANT of a show whose cut-off was met (09 R204). -/
def execShowInstant (s : State) : Out1 := act s fun s => dramOnce (showInstant s)

end Sys2Proof.Machine
end

