-- ==== Sys2Proof/Machine/Trig.lean ====
section
/-! DEFINITION. Trigger inputs and outputs, the wall-time comparators and timed snapshots (11 R259 to R261;
20 R431; 13 R313), and the GPIO pins (21 R445, R446). -/

namespace Sys2Proof.Machine

/-! ### Snapshots (20 R431) -/

/-- The parameter indices of EVR.SNAP_IDX, up to the first 0. -/
def snapIdx (s : State) : List Nat :=
  ((List.range 8).flatMap (fun j => [getF s (evrSnapIdx + j) 31 16, getF s (evrSnapIdx + j) 15 0])).takeWhile
    (fun i => i != 0)

/-- The snapshot words: an index that PARAM_READ would refuse reads as 0. -/
def snapWords (s : State) : List Word :=
  (snapIdx s).map (fun i => let r := readOne s i; if r.2 = stOk then r.1 else 0)

/-! ### Trigger inputs (R259) -/

/-- The edges selected for input `k`: 0 none, 1 rising, 2 falling, 3 both. -/
def tinEdges (s : State) (k : Nat) : Nat := getF s timTinCfg (2 * k + 1) (2 * k)

/-- The four words of a stamp at `subns` ns past the present tick. -/
def stampWords (s : State) (subns : Nat) : List Word :=
  let t := now s + subns
  let sec := t / 10 ^ 9
  [flagAt s.time.valid 31 ||| mkFld 23 16 s.time.epoch.toNat ||| mkFld 15 0 (sec / 2 ^ 32)
  , w32 sec, w32 (t % 10 ^ 9), w32 (lt s + subns)]

/-- The queue of an input changed. -/
def setTrig (s : State) (k : Nat) (l : List (List Word)) : State :=
  { s with time := { s.time with trig := s.time.trig.set k l } }

/-- TRIG_IN_EDGE: a selected edge of input `k` is stamped; a stamp that finds 32 entries is dropped. With
its bit of EVR.CFG.TINSNAP set it also writes a snapshot record whose instant is the stamp. -/
def execTrigInEdge (k : Nat) (rising : Bool) (subns : Nat) (s : State) : Out1 :=
  act s fun s =>
    let sel := tinEdges s k
    if 4 ≤ k ∨ sel &&& (if rising then 1 else 2) = 0 then s
    else
      let q := s.time.trig.getD k []
      let s1 := if 32 ≤ q.length then bumpF s (timTin + k) 31 16
        else setTrig s k (q ++ [stampWords s (subns % 4)])
      if bit (rd s1 evrCfg) k then
        putRec s1 { mkRec s1 0x0C11 (snapWords s1) with wt := now s1 + subns % 4 }
      else s1

/-- TRIG_IN_READ: the entries of an input, which leave its queue. -/
def trigInReadRule : Handler := withLen 1 fun _ p s =>
  let k := fld (pw p 0) 1 0
  let q := s.time.trig.getD k []
  .ok (setTrig s k []) (w32 q.length :: q.flatMap id)

def execTrigInRead (p : Smb) (s : State) : Out1 := smibenRow 0x0704 trigInReadRule p s

/-! ### Comparators (R260) -/

/-- Comparator `k`. -/
def comp (s : State) (k : Nat) : Comp := s.time.comps.getD k compFree

/-- Comparator `k` changed. -/
def setComp (s : State) (k : Nat) (c : Comp) : State :=
  { s with time := { s.time with comps := s.time.comps.set k c } }

/-- The lowest free comparator. -/
def freeComp (s : State) : Option Nat := (List.range 16).find? (fun k => (comp s k).use.isNone)

/-- The priority rank of what a comparator does (01 R27, code 0x07). -/
def useRank (u : CmpUse) : Nat :=
  match u with
  | .trig _ _ _ _ => 1
  | .cycle _ _ _ _ _ _ _ => 2
  | .snap => 3

/-- The CONFLICT word of a request that finds every comparator held: the lowest held comparator and the rank of its
holder (01 R25; log 96). -/
def compConflict (s : State) : Word :=
  match (List.range 16).findSome? (fun k => (comp s k).use.map (fun u => (k, useRank u))) with
  | some (k, r) => conflictWord 0x07 r k
  | none => conflictWord 0x07 0 0

/-- A comparator taken for a use, or CONFLICT (01 R25, R27 code 0x07). -/
def takeComp (s : State) (u : CmpUse) (at_ : Nat) (c : CmdRef) : Res :=
  match freeComp s with
  | none => .noW s stConflict [compConflict s]
  | some k => .ok (setComp s k { use := some u, missed := false, instant := at_, misses := 0, ref := some c })
      [w32 k]

/-- The first of start + k × period that lies after the present (R261). -/
def firstAhead (s : State) (start per : Nat) : Nat :=
  if now s < start then start else start + ((now s - start) / max 1 per + 1) * per

/-- The comparator that an output holds. -/
def compOfOut (s : State) (o : Nat) : Option Nat :=
  (List.range 16).find? (fun k => match (comp s k).use with
    | some (.trig x _ _ _) => x == o
    | _ => false)

/-- The comparator of an output freed. -/
def freeOut (s : State) (o : Nat) : State :=
  match compOfOut s o with
  | some k => setComp s k compFree
  | none => s

/-- The widest pulse of a mode (R261). -/
def widthMax (s : State) (mode per : Nat) : Nat :=
  if mode = 1 then 10 ^ 9 else if mode = 2 then per / 2 else period (rate s) / 2

/-- TRIG_OUT_SET. A schedule of an output replaces the one it has. -/
def trigOutSetRule : Handler := withLen 6 fun c p s =>
  let o := fld (pw p 0) 31 30
  let mode := fld (pw p 0) 29 28
  let start := clkOfWords (pw p 1) (pw p 2) (pw p 3)
  let per := (pw p 4).toNat
  let width := (pw p 5).toNat
  let timed : Bool := mode == 1 || mode == 2
  if mode = 0 then .ok (freeOut s o) [0xFF]
  else if timed && decide (999999999 < (pw p 3).toNat) then .no s stBadParam
  else if mode = 2 ∧ (per < 1000 ∨ 4000000000 < per) then .no s stBadParam
  else if width < 8 ∨ widthMax s mode per < width then .no s stBadParam
  else if mode = 1 ∧ start < now s then .no s stBadParam
  else
    let first := if mode = 1 then start else if mode = 2 then firstAhead s start per else 0
    takeComp (freeOut s o) (.trig o mode per width) first c

def execTrigOutSet (p : Smb) (s : State) : Out1 := smibenRow 0x0702 trigOutSetRule p s

/-- CMP_FREE (R262). -/
def cmpFreeRule : Handler := withLen 1 fun _ p s =>
  let k := fld (pw p 0) 3 0
  match (comp s k).use with
  | some .snap => .no s stNotInState
  | some _ => .ok (setComp s k compFree) []
  | none => .ok s []

def execCmpFree (p : Smb) (s : State) : Out1 := smibenRow 0x0712 cmpFreeRule p s

/-- REC_SNAP_AT (13 R313). -/
def recSnapAtRule : Handler := withLen 3 fun c p s =>
  if 999999999 < (pw p 2).toNat then .no s stBadParam
  else takeComp s .snap (clkOfWords (pw p 0) (pw p 1) (pw p 2)) c

def execRecSnapAt (p : Smb) (s : State) : Out1 := smibenRow 0x0C03 recSnapAtRule p s

/-! ### GPIO (21 R445, R446) -/

/-- The mode of pin 8 + `n`: 0 input, 1 low, 2 high, 3 alternate. -/
def gpioMode (s : State) (n : Nat) : Nat := s.gpio.modes.getD n 0

/-- The result byte of GPIO_MODE_SET. -/
def gpioResult (s : State) (pin mode : Nat) : Nat :=
  let m := gpioMode s (pin - 8)
  if inRecovery s then 0x40
  else if 15 < pin ∨ 3 < mode then 0x11
  else if pin < 8 then 0x31
  else if (m = 3 ∧ (mode = 1 ∨ mode = 2)) ∨ (mode = 3 ∧ (m = 1 ∨ m = 2)) then 0x31
  else 0

/-- GPIO_MODE_SET, instruction 0x20 of MGMT. -/
def execGpioModeSet (pin mode : Byte) (s : State) : Out1 :=
  act s fun s =>
    let r := gpioResult s pin.toNat mode.toNat
    let s1 := if r = 0 then
        { s with gpio := { s.gpio with modes := s.gpio.modes.set (pin.toNat - 8) mode.toNat } }
      else s
    emit s1 (.busRead [BitVec.ofNat 8 r])

/-- The level an alternate function drives on pin 8 + `n`; nothing where the pin is let go. -/
def alternate (s : State) (n : Nat) : Option Bool :=
  match n with
  | 0 => some (if s.id.sender then s.pair.holding else s.pair.outputs)
  | 1 => some (s.boot.phase == 2)
  | 2 => some (if s.id.sender then s.flume.watches.any (fun w => w.st == 2)
      else s.weir.regions.any (fun r => r.stale))
  | 3 => some (decide (1 ≤ throttleStep s))
  | 4 => some (nvStop s)
  | 5 => if chkAll s then none else some false
  | 6 => some (portUp s 8)
  | _ => some s.gpio.hbeat

/-- The level of pin 8 + `n`, whose ball carries `ball` from outside where the device does not drive it. -/
def gpioLevel (s : State) (n : Nat) (ball : Bool) : Bool :=
  match gpioMode s n with
  | 1 => false
  | 2 => true
  | 3 => (alternate s n).getD ball
  | _ => ball

/-- GPIO_READ, instruction 0x21 of MGMT; `balls` are the levels of the balls where the device does not drive
them, and of the trigger pins. -/
def execGpioRead (balls : BitVec 16) (s : State) : Out1 :=
  act s fun s =>
    let hi := (List.range 8).foldl (fun a n => a + (if gpioLevel s n (balls.getLsbD (8 + n)) then 2 ^ n else 0)) 0
    emit s (.busRead [BitVec.ofNat 8 hi, BitVec.ofNat 8 balls.toNat])

end Sys2Proof.Machine
end

