-- ==== Sys2Proof/Machine/Grant.lean ====
section
/-! DEFINITION. Timed cycles and the firing of comparators (11 R260, R262), and what follows when Sluice
grants or refuses a request that waited (17 R376). -/

namespace Sys2Proof.Machine

/-! ### The commands a cycle may run -/

/-- The rules of classes 0x00 to 0x04 that an embedded command can reach (13 R300 to R305). -/
def ruleLow (op : Nat) : Option Handler :=
  match op with
  | 0x0002 => some sessionCloseRule
  | 0x0003 => some pingRule
  | 0x0004 => some claimRule
  | 0x0005 => some releaseRule
  | 0x0006 => some noticeFetchRule
  | 0x0008 => some resetRule
  | 0x0010 => some enrolRule
  | 0x0011 => some unenrolRule
  | 0x0030 => some linkRetrainRule
  | 0x0100 => some paramReadRule
  | 0x0101 => some (paramWriteRule [])
  | 0x0102 => some paramSaveRule
  | 0x0201 => some streamDefineRule
  | 0x0202 => some streamRemoveRule
  | 0x0203 => some streamReadRule
  | 0x0210 => some portModeRule
  | 0x0301 => some layerSetRule
  | 0x0310 => some commitAtRule
  | 0x0311 => some holdDiscardRule
  | 0x0320 => some tileRectRule
  | 0x0321 => some rectReadRule
  | 0x0401 => some regionDefineRule
  | 0x0402 => some regionReadRule
  | 0x0420 => some owlWatchRule
  | 0x0421 => some owlReadRule
  | 0x0440 => some proofReadRule
  | _ => none

/-- The rules of classes 0x06 to 0x0C (13 R307 to R313). -/
def ruleHigh (x : FireIn) (op : Nat) : Option Handler :=
  match op with
  | 0x0601 => some lampDriveRule
  | 0x0630 => some engineSetRule
  | 0x0638 => some testPatternRule
  | 0x0640 => some lampPolicyRule
  | 0x0641 => some lampClearRule
  | 0x0642 => some lampFailsRule
  | 0x0650 => some (lsbI2cRule x.i2c x.i2cBytes)
  | 0x0651 => some (lsbFlashRule x.flash)
  | 0x0660 => some glyphRomReadRule
  | 0x0701 => some timeReadRule
  | 0x0702 => some trigOutSetRule
  | 0x0704 => some trigInReadRule
  | 0x0712 => some cmpFreeRule
  | 0x0801 => some pairHandoverRule
  | 0x0802 => some pairStatusRule
  | 0x0803 => some pairClearRule
  | 0x0901 => some sluiceReadRule
  | 0x0910 => some thermalReadRule
  | 0x0920 => some railReadRule
  | 0x0A01 => some (calRunRule x.cal)
  | 0x0A02 => some calReadRule
  | 0x0A40 => some matrixWriteRule
  | 0x0A41 => some matrixSaveRule
  | 0x0A50 => some ttabLoadRule
  | 0x0C01 => some recReadRule
  | 0x0C02 => some recClearRule
  | 0x0C03 => some recSnapAtRule
  | _ => none

/-- The rule of an opcode; an open of a session inside a session is refused (log 34). -/
def ruleOf (x : FireIn) (op : Nat) : Handler :=
  match ruleLow op, ruleHigh x op with
  | some h, _ => h
  | none, some h => h
  | none, none => fun _ _ s => .no s stBadParam

/-! ### CYCLE_SET (R262) -/

/-- Whether an opcode may be embedded: not of classes 0x05, 0x0B, 0x0D and 0x0F, and not CYCLE_SET. -/
def mayEmbed (op : Nat) : Bool := !([0x05, 0x0B, 0x0D, 0x0F].contains (op / 256)) && op != 0x0710

/-- The header that the eight words from word 5 on spell. -/
def embeddedHdr (p : Smb) : BitVec 256 :=
  BitVec.ofNat 256 (((p.payload.drop 5).take 8).foldl (fun a w => a * 2 ^ 32 + w.toNat) 0)

/-- CYCLE_SET. A periodic start that has passed is taken at its first instant ahead. -/
def cycleSetRule : Handler := fun c p s =>
  let h := embeddedHdr p
  let per := (pw p 3).toNat
  let start := clkOfWords (pw p 0) (pw p 1) (pw p 2)
  if p.payload.length < 13 then .no s stBadLength
  else if 999999999 < (pw p 2).toNat ∨ (per ≠ 0 ∧ (per < 1000 ∨ 4000000000 < per)) then .no s stBadParam
  else if hKind h ≠ 1 ∨ hDmode h ≠ 0 ∨ hKeyc h ≠ c.keyc ∨ mayEmbed (hOpcode h) = false ∨ 1024 < hLength h then
    .no s stBadParam
  else if hLength h ≠ 4 * (p.payload.length - 13) then .no s stBadLength
  else
    let cmd : Smb := { via := .mgmt, hdr := h, payload := p.payload.drop 13, tag := 0, size := 0 }
    let first := if per = 0 then start else firstAhead s start (1000 * per)
    takeComp s (.cycle s.smb.wall per (fld (pw p 4) 31 16) 0 cmd (hOpcode h) (hKeyc h)) first c

def execCycleSet (p : Smb) (s : State) : Out1 := smibenRow 0x0710 cycleSetRule p s

/-- Steps 7 to 9 of R40 for an embedded command: the refusal, if any. -/
def embeddedRefusal (s : State) (owner : Option Owner) (op keyc : Nat) (p : Smb) : Option Nat :=
  match opSpec op with
  | none => some stBadOpcode
  | some o =>
    let mine : Bool := match domOf o keyc with
      | none => true
      | some d => match ownerOf s d with
        | none => true
        | some w => owner.map (·.sess) == some w.sess
    if !(if s.id.sender then o.snd else o.tile) then some stNotInState
    else if !(o.keys.contains keyc && keyOk op p) then some stAuthFail
    else if !mine then some stNotOwner
    else none

/-- The reference of firing `n` of comparator `k`: the commands that name a session act for the owner, and
every other firing answers to no session. -/
def firingRef (k n : Nat) (owner : Option Owner) (op keyc : Nat) (p : Smb) : CmdRef :=
  let none_ : SRef := ⟨256 + k, none⟩
  { sess := if [0x0002, 0x0004, 0x0005, 0x0006].contains op then (owner.map (·.sess)).getD none_ else none_
    serial := 0, level := hLevel p.hdr, keyc := keyc, opcode := op, seq := w32 n, nonote := true }

/-- An embedded command run: its status and the state it leaves. -/
def runEmbedded (s : State) (x : FireIn) (k n : Nat) (owner : Option Owner) (op keyc : Nat) (p : Smb) :
    Nat × State :=
  match embeddedRefusal s owner op keyc p with
  | some st => (st, s)
  | none =>
    let r := ruleOf x op (firingRef k n owner op keyc p) p s
    (r.st, if isRefusal r.st then r.s else r.post r.s)

/-- Firing `n` of a cycle: one that is not OK or PENDING is recorded and reported, and NOT_OWNER cancels the
cycle. -/
def fireCycle (s : State) (x : FireIn) (k n : Nat) (owner : Option Owner) (op keyc : Nat) (p : Smb) : State :=
  let (st, t) := runEmbedded s x k n owner op keyc p
  if st = stOk ∨ st = stPending then t
  else
    let t1 := recEventX t .wall xCycle [w32 k, w32 op, w32 st]
    if st = stNotOwner then setComp t1 k compFree else t1

/-! ### COMPARATOR_FIRE (R260) -/

/-- A one-shot whose instant passes while VALID is 0: it reads MISSED and is freed, and the session that
asked for it hears. -/
def compMissed (s : State) (k : Nat) (c : Comp) : State :=
  let s1 := setComp s k { compFree with missed := true }
  match c.ref with
  | some r => eventTo s1 r.sess 0x0C80 0 [w32 (Config.trigger xMissed * 2 ^ 16), w32 k]
  | none => s1

/-- A comparator at its instant, VALID being `valid`. -/
def fireComp (s : State) (x : FireIn) (k : Nat) (c : Comp) : State :=
  let valid := s.time.valid
  let late (per : Nat) : State := setComp s k { c with instant := c.instant + per, misses := c.misses + 1 }
  match c.use with
  | none => s
  | some (.trig o mode per w) =>
    if mode = 1 then
      if valid then emit (setComp s k compFree) (.trigOut o w) else compMissed s k c
    else if valid then emit (setComp s k { c with instant := c.instant + per }) (.trigOut o w)
    else late per
  | some .snap =>
    if valid then record (setComp s k compFree) 0x0C10 (snapWords s) else compMissed s k c
  | some (.cycle owner per count firings p op keyc) =>
    let n := firings + 1
    if !valid then if per = 0 then compMissed s k c else late (1000 * per)
    else
      let last : Bool := per == 0 || (count != 0 && decide (count ≤ n))
      let next : Comp := if last then compFree
        else { c with use := some (.cycle owner per count n p op keyc), instant := c.instant + 1000 * per }
      fireCycle (setComp s k next) x k n owner op keyc p

/-- The rank of a comparator that fires at an instant of the clock; none for a free one and for MODE 3 outputs, which
fire with their edges. -/
def fireRank (c : Comp) : Option Nat :=
  match c.use with
  | none => none
  | some (.trig _ 3 _ _) => none
  | some u => some (useRank u)

/-- Comparator `k` fired if the clock is at or past its instant. -/
def fireDue (x : FireIn) (s : State) (k : Nat) : State :=
  if (fireRank (comp s k)).isSome && decide ((comp s k).instant ≤ now s) then fireComp s x k (comp s k) else s

/-- The comparators that are due, in the order of their actions: by rank, then by index (01 R26, R27 code 0x07). -/
def fireOrder (s : State) : List Nat :=
  [1, 2, 3].flatMap fun r => (List.range 16).filter fun k =>
    fireRank (comp s k) == some r && decide ((comp s k).instant ≤ now s)

/-- COMPARATOR_FIRE: the first tick at which the clock is at or past the instant of comparator `k`. The comparators due
in that tick that go before it fire first, whatever the order in which the commands come (01 R26, R27).
A comparator whose action starts later in the tick of a tie is not counted as deferred (log 110, DESIGN CHOICE). -/
def execComparatorFire (k : Nat) (x : FireIn) (s : State) : Out1 :=
  act s fun s =>
    if (fireRank (comp s k)).isNone then s
    else
      let s1 := toClk (comp s k).instant s
      fireDue x (((fireOrder s1).takeWhile (fun j => j != k)).foldl (fireDue x) s1) k

/-! ### Grants and refusals of waiting requests (17 R376) -/

/-- A flash operation whose credits have come. -/
def flashReady (s : State) (id : Nat) : State :=
  { s with fl := { s.fl with queue := s.fl.queue.map (fun x => if x.id = id then { x with ready := true } else x) } }

/-- A recompute whose credits have come; the factor of a raise goes to the twin. -/
def recomputeGranted (s : State) (n : Nat) : State :=
  match s.heavy.find? (fun h => h.num == n) with
  | some h => match h.what with
    | .slg v => slgCoef (heavyGranted s n) v
    | _ => heavyGranted s n
  | none => s

/-- The lamp-board operation at the head of the queue, its credit held: under the write stop it ends. -/
def boardGranted (s : State) : State :=
  if nvStop s then startBoard (creditReturn s (fun o => o == .boardFlash)) s.lamp.boardOps else beginBoard s

/-- The operation of a granted request starts. -/
def opGranted (s : State) (op : HeavyOp) : State :=
  match op with
  | .portTrain p => trainGranted s p
  | .portMode p m f c => startPortMode s p m f c
  | .dramTrain c => dramGranted s c
  | .lampOn _ => driveGranted s
  | .flash id => flashReady s id
  | .recompute n => recomputeGranted s n
  | .verify c => fwReady s c
  | .download c _ _ _ => downloadGranted s c
  | .trial => s
  | .calRun item _ => calGranted s item
  | .ttab mask _ ref => ttabGranted s mask ref
  | .boardFlash => boardGranted s
  | .march b => marchFill 4 (marchGranted s b)

/-- Whether the wait of a request has run out: a grant in the tick of the timeout is not made. -/
def waitOver (s : State) (c : Credit) : Bool :=
  match waitLimit s c.cls with
  | some l => decide (c.at_ + l ≤ lt s)
  | none => false

/-- SLUICE_GRANT: the request that is next in order starts, if it fits. -/
def execSluiceGrant (s : State) : Out1 :=
  act s fun s =>
    match nextGrant s with
    | some c => if waitOver s c then s else dramOnce (opGranted (grant s c) c.op)
    | none => s

/-- A recompute refused: a raise is tried again after its delay, and boards ask again. -/
def recomputeRefused (s : State) (n : Nat) : State :=
  match s.heavy.find? (fun h => h.num == n) with
  | some h =>
    let t := heavyRefused s n
    match h.what with
    | .slg _ => { t with slu := { t.slu with raised := false, lowSince := some (lt t) } }
    | .boards _ => boardsSettled t
    | _ => t
  | none => s

/-- The operation of a request refused after its wait. -/
def opRefused (s : State) (op : HeavyOp) : State :=
  match op with
  | .portTrain _ | .portMode _ _ _ _ | .dramTrain _ | .trial => s
  | .lampOn _ => driveRefused s
  | .flash id => match s.fl.queue.find? (fun x => x.id == id) with
    | some x => flashRefuse s x stNoCredit
    | none => s
  | .recompute n => recomputeRefused s n
  | .verify c => fwNoCredit s c
  | .download c _ _ _ => fwNoCredit s c
  | .calRun item _ => calRefused s item
  | .ttab _ _ ref => notifyO s ref stNoCredit []
  | .boardFlash => match s.lamp.boardOps with
    | o :: r => startBoard (notify s o.ref stNoCredit []) r
    | [] => s
  | .march _ => marchFill 4 s

/-- SLUICE_WAIT_TIMEOUT: a request of class 2 or 3 still waiting at its limit is refused; PWR.REFUSED rises. -/
def execSluiceWaitTimeout (req : Nat) (s : State) : Out1 :=
  act s fun s =>
    match s.slu.waiting.find? (fun c => c.id == req) with
    | none => s
    | some c => match waitLimit s c.cls with
      | none => s
      | some l =>
        let s1 := toLt (c.at_ + l) s
        let s2 := { s1 with slu := { s1.slu with waiting := s1.slu.waiting.filter (fun x => x.id != req) } }
        dramOnce (opRefused (bump s2 pwrRefused) c.op)

end Sys2Proof.Machine
end

