-- ==== Sys2Proof/Machine/Dispatch.lean ====
section
/-! DEFINITION. The one table from a command to its meaning: one arm for each constructor. -/

namespace Sys2Proof.Machine

/-- The effect of a command on everything but the queue. -/
def exec (i : Instr) (s : State) : Host.Outcome State Fault Refusal :=
  match i with
  | .sessionOpen p => Sys2Proof.Machine.execSessionOpen p s
  | .sessionClose p => Sys2Proof.Machine.execSessionClose p s
  | .sessionIdleClose sess => Sys2Proof.Machine.execSessionIdleClose sess s
  | .sessionAnnounce rail sess keyc na side nh nd withdraw => Sys2Proof.Machine.execSessionAnnounce rail sess keyc na side nh nd withdraw s
  | .ping p => Sys2Proof.Machine.execPing p s
  | .claim p => Sys2Proof.Machine.execClaim p s
  | .release p => Sys2Proof.Machine.execRelease p s
  | .noticeFetch p => Sys2Proof.Machine.execNoticeFetch p s
  | .reset p => Sys2Proof.Machine.execReset p s
  | .enrol p => Sys2Proof.Machine.execEnrol p s
  | .unenrol p => Sys2Proof.Machine.execUnenrol p s
  | .linkRetrain p => Sys2Proof.Machine.execLinkRetrain p s
  | .paramRead p => Sys2Proof.Machine.execParamRead p s
  | .paramWrite p => Sys2Proof.Machine.execParamWrite p s
  | .paramSave p => Sys2Proof.Machine.execParamSave p s
  | .tilGeomWrite p => Sys2Proof.Machine.execTilGeomWrite p s
  | .w1cWrite p settingNow => Sys2Proof.Machine.execW1cWrite p settingNow s
  | .streamDefine p => Sys2Proof.Machine.execStreamDefine p s
  | .streamRemove p => Sys2Proof.Machine.execStreamRemove p s
  | .streamRead p => Sys2Proof.Machine.execStreamRead p s
  | .portMode p => Sys2Proof.Machine.execPortMode p s
  | .portRetrainComplete port => Sys2Proof.Machine.execPortRetrainComplete port s
  | .layerSet p => Sys2Proof.Machine.execLayerSet p s
  | .commitAt p => Sys2Proof.Machine.execCommitAt p s
  | .holdDiscard p => Sys2Proof.Machine.execHoldDiscard p s
  | .tileRect p => Sys2Proof.Machine.execTileRect p s
  | .rectRead p => Sys2Proof.Machine.execRectRead p s
  | .regionDefine p => Sys2Proof.Machine.execRegionDefine p s
  | .regionRead p => Sys2Proof.Machine.execRegionRead p s
  | .owlWatch p => Sys2Proof.Machine.execOwlWatch p s
  | .owlRead p => Sys2Proof.Machine.execOwlRead p s
  | .proofRead p => Sys2Proof.Machine.execProofRead p s
  | .fieldDefine p => Sys2Proof.Machine.execFieldDefine p s
  | .fieldRemove p => Sys2Proof.Machine.execFieldRemove p s
  | .fieldRead p => Sys2Proof.Machine.execFieldRead p s
  | .badgerValues p => Sys2Proof.Machine.execBadgerValues p s
  | .glyphWrite p => Sys2Proof.Machine.execGlyphWrite p s
  | .glyphErase p => Sys2Proof.Machine.execGlyphErase p s
  | .lampDrive p => Sys2Proof.Machine.execLampDrive p s
  | .engineSet p => Sys2Proof.Machine.execEngineSet p s
  | .testPattern p => Sys2Proof.Machine.execTestPattern p s
  | .lampPolicy p => Sys2Proof.Machine.execLampPolicy p s
  | .lampClear p => Sys2Proof.Machine.execLampClear p s
  | .lampFails p => Sys2Proof.Machine.execLampFails p s
  | .lsbI2c p result bytes => Sys2Proof.Machine.execLsbI2c p result bytes s
  | .lsbFlash p read => Sys2Proof.Machine.execLsbFlash p read s
  | .glyphRomRead p => Sys2Proof.Machine.execGlyphRomRead p s
  | .timeRead p => Sys2Proof.Machine.execTimeRead p s
  | .trigOutSet p => Sys2Proof.Machine.execTrigOutSet p s
  | .trigInRead p => Sys2Proof.Machine.execTrigInRead p s
  | .cycleSet p => Sys2Proof.Machine.execCycleSet p s
  | .cmpFree p => Sys2Proof.Machine.execCmpFree p s
  | .pairHandover p => Sys2Proof.Machine.execPairHandover p s
  | .pairStatus p => Sys2Proof.Machine.execPairStatus p s
  | .pairClear p => Sys2Proof.Machine.execPairClear p s
  | .sluiceRead p => Sys2Proof.Machine.execSluiceRead p s
  | .thermalRead p => Sys2Proof.Machine.execThermalRead p s
  | .railRead p => Sys2Proof.Machine.execRailRead p s
  | .calRun p m => Sys2Proof.Machine.execCalRun p m s
  | .calRead p => Sys2Proof.Machine.execCalRead p s
  | .matrixWrite p => Sys2Proof.Machine.execMatrixWrite p s
  | .matrixSave p => Sys2Proof.Machine.execMatrixSave p s
  | .ttabLoad p => Sys2Proof.Machine.execTtabLoad p s
  | .fwBegin p => Sys2Proof.Machine.execFwBegin p s
  | .fwBlock p => Sys2Proof.Machine.execFwBlock p s
  | .fwVerify p => Sys2Proof.Machine.execFwVerify p s
  | .fwStatus p => Sys2Proof.Machine.execFwStatus p s
  | .fwActivate p => Sys2Proof.Machine.execFwActivate p s
  | .fwConfirm p => Sys2Proof.Machine.execFwConfirm p s
  | .fwAbort p => Sys2Proof.Machine.execFwAbort p s
  | .recRead p => Sys2Proof.Machine.execRecRead p s
  | .recClear p => Sys2Proof.Machine.execRecClear p s
  | .recSnapAt p => Sys2Proof.Machine.execRecSnapAt p s
  | .devInfo p => Sys2Proof.Machine.execDevInfo p s
  | .attest p => Sys2Proof.Machine.execAttest p s
  | .keyProvision p => Sys2Proof.Machine.execKeyProvision p s
  | .lifecycleSet p => Sys2Proof.Machine.execLifecycleSet p s
  | .recoveryEnter p => Sys2Proof.Machine.execRecoveryEnter p s
  | .recoveryWrite p => Sys2Proof.Machine.execRecoveryWrite p s
  | .recoveryBoot p => Sys2Proof.Machine.execRecoveryBoot p s
  | .unknownOpcode p => Sys2Proof.Machine.execUnknownOpcode p s
  | .summaryGatherTimeout gather => Sys2Proof.Machine.execSummaryGatherTimeout gather s
  | .mgmtWritePacket p => Sys2Proof.Machine.execMgmtWritePacket p s
  | .mgmtReadPacket => Sys2Proof.Machine.execMgmtReadPacket s
  | .mgmtReadStatus => Sys2Proof.Machine.execMgmtReadStatus s
  | .gpioModeSet pin mode => Sys2Proof.Machine.execGpioModeSet pin mode s
  | .gpioRead balls => Sys2Proof.Machine.execGpioRead balls s
  | .netFrameDrop at_ f => Sys2Proof.Machine.execNetFrameDrop at_ f s
  | .arpNdReceived at_ fam op mac addr => Sys2Proof.Machine.execArpNdReceived at_ fam op mac addr s
  | .dadTimer iface fam interval => Sys2Proof.Machine.execDadTimer iface fam interval s
  | .igmpMldQuery at_ q maxResp delay => Sys2Proof.Machine.execIgmpMldQuery at_ q maxResp delay s
  | .membershipReportTimer iface m => Sys2Proof.Machine.execMembershipReportTimer iface m s
  | .icmpEchoRequest at_ ip body => Sys2Proof.Machine.execIcmpEchoRequest at_ ip body s
  | .pauseFrame iface => Sys2Proof.Machine.execPauseFrame iface s
  | .rtpPacketReceived r => Sys2Proof.Machine.execRtpPacketReceived r s
  | .ssrcLockRelease stream pathB => Sys2Proof.Machine.execSsrcLockRelease stream pathB s
  | .pathDown stream pathB => Sys2Proof.Machine.execPathDown stream pathB s
  | .mergeWindowClose stream ts => Sys2Proof.Machine.execMergeWindowClose stream ts s
  | .ptpSync rx seq twoStep t1 t2 corr logSync => Sys2Proof.Machine.execPtpSync rx seq twoStep t1 t2 corr logSync s
  | .ptpFollowUp rx seq t1 corr => Sys2Proof.Machine.execPtpFollowUp rx seq t1 corr s
  | .ptpDelayResp rx id t4 corr logMin => Sys2Proof.Machine.execPtpDelayResp rx id t4 corr logMin s
  | .ptpAnnounce rx set steps gm src interval => Sys2Proof.Machine.execPtpAnnounce rx set steps gm src interval s
  | .delayReqTimer slot => Sys2Proof.Machine.execDelayReqTimer slot s
  | .tsqEntryExpire port id => Sys2Proof.Machine.execTsqEntryExpire port id s
  | .announceTimeout slot => Sys2Proof.Machine.execAnnounceTimeout slot s
  | .quarantineEnd slot => Sys2Proof.Machine.execQuarantineEnd slot s
  | .herrLimit => Sys2Proof.Machine.execHerrLimit s
  | .markSendTimer => Sys2Proof.Machine.execMarkSendTimer s
  | .secondsReceived tw secs => Sys2Proof.Machine.execSecondsReceived tw secs s
  | .markReceived tw epoch valid subns wt rxSub => Sys2Proof.Machine.execMarkReceived tw epoch valid subns wt rxSub s
  | .markSourceLoss tw => Sys2Proof.Machine.execMarkSourceLoss tw s
  | .validHoldExpire => Sys2Proof.Machine.execValidHoldExpire s
  | .trigInEdge input rising subns => Sys2Proof.Machine.execTrigInEdge input rising subns s
  | .comparatorFire k x => Sys2Proof.Machine.execComparatorFire k x s
  | .canvasLatch => Sys2Proof.Machine.execCanvasLatch s
  | .canvasFrameStart => Sys2Proof.Machine.execCanvasFrameStart s
  | .canvasFrameComplete => Sys2Proof.Machine.execCanvasFrameComplete s
  | .deliveryStart => Sys2Proof.Machine.execDeliveryStart s
  | .flumeEmit chain => Sys2Proof.Machine.execFlumeEmit chain s
  | .nackReceived chain start data term => Sys2Proof.Machine.execNackReceived chain start data term s
  | .reportReceived chain start rest => Sys2Proof.Machine.execReportReceived chain start rest s
  | .repairTimeout chain na => Sys2Proof.Machine.execRepairTimeout chain na s
  | .deliveryEdgeReached => Sys2Proof.Machine.execDeliveryEdgeReached s
  | .certInstant => Sys2Proof.Machine.execCertInstant s
  | .resyncReqReceived na reason => Sys2Proof.Machine.execResyncReqReceived na reason s
  | .proofReceived m => Sys2Proof.Machine.execProofReceived m s
  | .proofSilenceTimeout na => Sys2Proof.Machine.execProofSilenceTimeout na s
  | .latencyReportReceived chain place m => Sys2Proof.Machine.execLatencyReportReceived chain place m s
  | .flumePacketForward start data term => Sys2Proof.Machine.execFlumePacketForward start data term s
  | .upstreamFlumeForward fromBr arrived start data early term => Sys2Proof.Machine.execUpstreamFlumeForward fromBr arrived start data early term s
  | .regionPacketReceived start rest => Sys2Proof.Machine.execRegionPacketReceived start rest s
  | .commitReceived start rest => Sys2Proof.Machine.execCommitReceived start rest s
  | .certificateReceived start rest => Sys2Proof.Machine.execCertificateReceived start rest s
  | .deliveryIdleFail => Sys2Proof.Machine.execDeliveryIdleFail s
  | .frameEdge => Sys2Proof.Machine.execFrameEdge s
  | .correctionPassEnd => Sys2Proof.Machine.execCorrectionPassEnd s
  | .matrixRowReload px crcOk => Sys2Proof.Machine.execMatrixRowReload px crcOk s
  | .refreshStart lrbLow => Sys2Proof.Machine.execRefreshStart lrbLow s
  | .keepalivePulse => Sys2Proof.Machine.execKeepalivePulse s
  | .groupRowWrite g r => Sys2Proof.Machine.execGroupRowWrite g r s
  | .showCutoff => Sys2Proof.Machine.execShowCutoff s
  | .showInstant => Sys2Proof.Machine.execShowInstant s
  | .statusReadoutDone g r short flagged => Sys2Proof.Machine.execStatusReadoutDone g r short flagged s
  | .proofAgeExpire lamp => Sys2Proof.Machine.execProofAgeExpire lamp s
  | .sensorPoll raws => Sys2Proof.Machine.execSensorPoll raws s
  | .sensorValidityExpire k => Sys2Proof.Machine.execSensorValidityExpire k s
  | .qspiFlashDone => Sys2Proof.Machine.execQspiFlashDone s
  | .qspiBusyTimeout => Sys2Proof.Machine.execQspiBusyTimeout s
  | .signalDetect x => Sys2Proof.Machine.execSignalDetect x s
  | .trainingWordExchange port w m => Sys2Proof.Machine.execTrainingWordExchange port w m s
  | .trainingStepTimeout x => Sys2Proof.Machine.execTrainingStepTimeout x s
  | .rateSwitch port first again fec2 => Sys2Proof.Machine.execRateSwitch port first again fec2 s
  | .trainingRetryTimer port => Sys2Proof.Machine.execTrainingRetryTimer port s
  | .eyeScanTimer port eye => Sys2Proof.Machine.execEyeScanTimer port eye s
  | .linkDown port => Sys2Proof.Machine.execLinkDown port s
  | .controlPacketReceived port k => Sys2Proof.Machine.execControlPacketReceived port k s
  | .ackReceived port cum sack => Sys2Proof.Machine.execAckReceived port cum sack s
  | .arqRetransmitTimeout port cseq => Sys2Proof.Machine.execArqRetransmitTimeout port cseq s
  | .loopReqReceived port id residence => Sys2Proof.Machine.execLoopReqReceived port id residence s
  | .loopRspReceived port id residence t1 t4 y => Sys2Proof.Machine.execLoopRspReceived port id residence t1 t4 y s
  | .brSignalSample port signal => Sys2Proof.Machine.execBrSignalSample port signal s
  | .crossDownReceived port => Sys2Proof.Machine.execCrossDownReceived port s
  | .crossUpReceived => Sys2Proof.Machine.execCrossUpReceived s
  | .crossAnswerReceived down port grant => Sys2Proof.Machine.execCrossAnswerReceived down port grant s
  | .guestPacketReceived port k => Sys2Proof.Machine.execGuestPacketReceived port k s
  | .revertStableElapsed x => Sys2Proof.Machine.execRevertStableElapsed x s
  | .uncrossReceived m => Sys2Proof.Machine.execUncrossReceived m s
  | .railYieldReceived on => Sys2Proof.Machine.execRailYieldReceived on s
  | .regionSetReceived r => Sys2Proof.Machine.execRegionSetReceived r s
  | .regionDeadline region => Sys2Proof.Machine.execRegionDeadline region s
  | .fieldDeadline field => Sys2Proof.Machine.execFieldDeadline field s
  | .owlCheck watch => Sys2Proof.Machine.execOwlCheck watch s
  | .owlFreeze watch => Sys2Proof.Machine.execOwlFreeze watch s
  | .helloSend => Sys2Proof.Machine.execHelloSend s
  | .helloReceived m => Sys2Proof.Machine.execHelloReceived m s
  | .leaseRenewal => Sys2Proof.Machine.execLeaseRenewal s
  | .heartbeatSend => Sys2Proof.Machine.execHeartbeatSend s
  | .heartbeatReceived m => Sys2Proof.Machine.execHeartbeatReceived m s
  | .heartbeatLoss => Sys2Proof.Machine.execHeartbeatLoss s
  | .stepHoldEnd => Sys2Proof.Machine.execStepHoldEnd s
  | .leaseExpiry => Sys2Proof.Machine.execLeaseExpiry s
  | .fatalCheckFail bit => Sys2Proof.Machine.execFatalCheckFail bit s
  | .ownNChange high => Sys2Proof.Machine.execOwnNChange high s
  | .padActivity => Sys2Proof.Machine.execPadActivity s
  | .guardEnd => Sys2Proof.Machine.execGuardEnd s
  | .claimArbitration sampledLow => Sys2Proof.Machine.execClaimArbitration sampledLow s
  | .acceptReceived id tick => Sys2Proof.Machine.execAcceptReceived id tick s
  | .agreeTimeout id => Sys2Proof.Machine.execAgreeTimeout id s
  | .edgeSetReceived id edge => Sys2Proof.Machine.execEdgeSetReceived id edge s
  | .coefReceived m => Sys2Proof.Machine.execCoefReceived m s
  | .cmpReceived m => Sys2Proof.Machine.execCmpReceived m s
  | .cmpPartnerTimeout shown => Sys2Proof.Machine.execCmpPartnerTimeout shown s
  | .verdictReceived code failed => Sys2Proof.Machine.execVerdictReceived code failed s
  | .verdictTimeout => Sys2Proof.Machine.execVerdictTimeout s
  | .handoverReqReceived b0 => Sys2Proof.Machine.execHandoverReqReceived b0 s
  | .handoverAckReceived b0 accept => Sys2Proof.Machine.execHandoverAckReceived b0 accept s
  | .handoverAckTimeout => Sys2Proof.Machine.execHandoverAckTimeout s
  | .handoverBoundary => Sys2Proof.Machine.execHandoverBoundary s
  | .handoverClaimBack => Sys2Proof.Machine.execHandoverClaimBack s
  | .stateReceived m => Sys2Proof.Machine.execStateReceived m s
  | .delivReceived start frame => Sys2Proof.Machine.execDelivReceived start frame s
  | .delivTimeout => Sys2Proof.Machine.execDelivTimeout s
  | .canvasMsgReceived start picks incs overflow => Sys2Proof.Machine.execCanvasMsgReceived start picks incs overflow s
  | .canvsigReceived start dsigs => Sys2Proof.Machine.execCanvsigReceived start dsigs s
  | .lampstateReceived ents => Sys2Proof.Machine.execLampstateReceived ents s
  | .sluiceGrant => Sys2Proof.Machine.execSluiceGrant s
  | .sluiceWaitTimeout req => Sys2Proof.Machine.execSluiceWaitTimeout req s
  | .slgRaise => Sys2Proof.Machine.execSlgRaise s
  | .thermalConversion raws => Sys2Proof.Machine.execThermalConversion raws s
  | .throttleStepLeave => Sys2Proof.Machine.execThrottleStepLeave s
  | .thermalRestart => Sys2Proof.Machine.execThermalRestart s
  | .powerOnResetRelease b => Sys2Proof.Machine.execPowerOnResetRelease b s
  | .boardLoadDone board ok table tableOk matrix => Sys2Proof.Machine.execBoardLoadDone board ok table tableOk matrix s
  | .railThresholdCross rail mv => Sys2Proof.Machine.execRailThresholdCross rail mv s
  | .pfailAssert => Sys2Proof.Machine.execPfailAssert s
  | .nvStopLift => Sys2Proof.Machine.execNvStopLift s
  | .violNominalLatch mv => Sys2Proof.Machine.execViolNominalLatch mv s
  | .xinLoss lengthNs => Sys2Proof.Machine.execXinLoss lengthNs s
  | .pllLossOfLock pll => Sys2Proof.Machine.execPllLossOfLock pll s
  | .freqCheckWindow cclk lclk tclk => Sys2Proof.Machine.execFreqCheckWindow cclk lclk tclk s
  | .dramTrainingStepTimeout ch step => Sys2Proof.Machine.execDramTrainingStepTimeout ch step s
  | .dramTrainingDone ch dens rd wr => Sys2Proof.Machine.execDramTrainingDone ch dens rd wr s
  | .dramChannelRetry ch => Sys2Proof.Machine.execDramChannelRetry ch s
  | .dqsOscRead ch drift => Sys2Proof.Machine.execDqsOscRead ch drift s
  | .mr4Read ch refreshNs hot => Sys2Proof.Machine.execMr4Read ch refreshNs hot s
  | .dramRefresh ch bank postpone => Sys2Proof.Machine.execDramRefresh ch bank postpone s
  | .dramRequest port addr write len => Sys2Proof.Machine.execDramRequest port addr write len s
  | .dramReadReturn tag outcome => Sys2Proof.Machine.execDramReadReturn tag outcome s
  | .selfRefreshEntry ch => Sys2Proof.Machine.execSelfRefreshEntry ch s
  | .scrubStep outcome => Sys2Proof.Machine.execScrubStep outcome s
  | .commandPathError source ch => Sys2Proof.Machine.execCommandPathError source ch s
  | .freezeRecovery => Sys2Proof.Machine.execFreezeRecovery s
  | .marchGranuleLock bank diff1 diff2 word element reqs => Sys2Proof.Machine.execMarchGranuleLock bank diff1 diff2 word element reqs s
  | .marchPeriod => Sys2Proof.Machine.execMarchPeriod s
  | .flashOperationDone ok => Sys2Proof.Machine.execFlashOperationDone ok s
  | .downloadIdleTimeout => Sys2Proof.Machine.execDownloadIdleTimeout s
  | .trialDeadline => Sys2Proof.Machine.execTrialDeadline s
  | .migrationFallback => Sys2Proof.Machine.execMigrationFallback s
  | .bootLoopClear => Sys2Proof.Machine.execBootLoopClear s
  | .archiveCopy => Sys2Proof.Machine.execArchiveCopy s
  | .checkpointTimer => Sys2Proof.Machine.execCheckpointTimer s
  | .tamperAssert => Sys2Proof.Machine.execTamperAssert s
  | .tamperRelease => Sys2Proof.Machine.execTamperRelease s
  | .tamperKeyReload => Sys2Proof.Machine.execTamperKeyReload s
  | .netLinkChange iface link align => Sys2Proof.Machine.execNetLinkChange iface link align s
  | .powerLoss => Sys2Proof.Machine.execPowerLoss s
  | .railRecovery rail mv => Sys2Proof.Machine.execRailRecovery rail mv s
  | .syncHeaderError x => Sys2Proof.Machine.execSyncHeaderError x s
  | .resolutionChecksDone failed => Sys2Proof.Machine.execResolutionChecksDone failed s
  | .lampEraseSuspendTimeout => Sys2Proof.Machine.execLampEraseSuspendTimeout s
  | .marchBankDone bank failed => Sys2Proof.Machine.execMarchBankDone bank failed s
  | .healthCheckTimeout fw => Sys2Proof.Machine.execHealthCheckTimeout fw s
  | .pipelineKatTimer pass => Sys2Proof.Machine.execPipelineKatTimer pass s
  | .otpProgramDone => Sys2Proof.Machine.execOtpProgramDone s
  | .entropyHealthChange pass => Sys2Proof.Machine.execEntropyHealthChange pass s
  | .secureWipeEnd => Sys2Proof.Machine.execSecureWipeEnd s

end Sys2Proof.Machine
end

