-- ==== Sys2Proof/Safety.lean ====
section
/-! DEFINITION. What every state of a run keeps, what a safe run is, and the terms claims are stated in. -/

namespace Sys2Proof.Safety

open Sys2Proof.Machine

/-- The invariant of the machine: the parameter file, the DRAM bytes and the SRAM bytes are in canonical form. So every
reserved bit of every parameter reads 0 (00 R4), and an index that does not serve the role holds nothing. -/
def Inv (s : State) : Prop :=
  parWf s.id.sender s.par = true ∧ Memory.wf s.dram.mem = true ∧ Memory.wf s.sram.mem = true

/-- A run of `n` steps from `s` meets no fault and no refusal. -/
def Runs (n : Nat) (s : State) : Prop :=
  match n with
  | 0 => True
  | k + 1 => match step s with
    | .next t => Runs k t
    | _ => False

/-- The command `i` completes in `s`: what it leaves is the commit of `u`. Everything that `u` shares with `s`
is unchanged, but for what `commitState` says. -/
def Completes (i : Instr) (s u : State) : Prop := exec i s = .next (commitState s u)

/-- A Smiben packet under opcode `op` passes steps 1 to 9 and 11 of 02 R40 in `s`: `a` is the state that has
taken its SEQ, `c` what its reply needs. -/
structure Accepted (op : Nat) (p : Smb) (s a : State) (c : CmdRef) : Prop where
  awake : s.boot.held = false
  passes : checkSteps op p s = .accept c a
  queue : queueFull a c = false

/-- The reply words fit the transport of the command (02 R41, 03 R55). -/
def Room (a : State) (p : Smb) (words : List Word) : Prop := 4 * words.length ≤ replyRoom a p.via

/-- `i` is carried out and answered OK with `words` over the transport of `p`, leaving `u` before the reply. -/
def AnswersOk (i : Instr) (p : Smb) (s u : State) (c : CmdRef) (words : List Word) : Prop :=
  Completes i s (reply u c p.via stOk words)

/-- `i` is accepted and answered PENDING, leaving `u` before the reply. -/
def AnswersPending (i : Instr) (p : Smb) (s u : State) (c : CmdRef) : Prop :=
  Completes i s (reply u c p.via stPending [])

/-- `i` is refused with a status and words. -/
def AnswersNo (i : Instr) (p : Smb) (s u : State) (c : CmdRef) (st : Nat) (words : List Word) : Prop :=
  Completes i s (reply u c p.via st words)

/-- A Flume packet of type `t` arrives whole at chain port `c` of a sender, on its own rail and from a tile of the chain,
at a level the sender accepts, with header `h` and body `b` (05 R99, R100, R112; 06 R118). -/
structure FromTile (s : State) (c t : Nat) (k : LinkPkt) (h : FlumeHdr) (b : List Byte) : Prop where
  rail : ownRail s k = true
  good : linkGood k = true
  sender : s.id.sender = true
  body : flumeBody k t = some (h, b)
  low : ownLow s ≤ h.level
  high : h.level ≤ ownHigh s
  chain : h.route.toNat / 2 ^ 37 = c

/-- The commands that act while the device is held in reset: the always-on domain and the loss of power (17 R366,
R370 to R373, R384; 18 R389; 19 R415; 21 R448). -/
def alwaysOn (i : Instr) : Bool :=
  match i with
  | .powerOnResetRelease _ => true
  | .railThresholdCross _ _ => true
  | .railRecovery _ _ => true
  | .pfailAssert => true
  | .nvStopLift => true
  | .violNominalLatch _ => true
  | .thermalConversion _ => true
  | .thermalRestart => true
  | .powerLoss => true
  | _ => false

/-- A comparator just taken for a use (11 R260). -/
def taken (u : CmpUse) (at_ : Nat) (c : CmdRef) : Comp :=
  { use := some u, missed := false, instant := at_, misses := 0, ref := some c }

end Sys2Proof.Safety
end

