-- ==== Sys2Proof/WellFormed.lean ====
section
/-! DEFINITION. The commands the block can be sent: what arrives names an item that exists. -/

namespace Sys2Proof

/-- The VID of a tag has 12 bits. -/
def vlanWf (v : Option Nat) : Bool := v.all (fun x => decide (x < 4096))

/-- A datagram came on an interface of the eight, between IPv4 or IPv6 addresses and UDP ports. -/
def udpWf (u : UdpIn) : Bool :=
  decide (u.iface < 8) && vlanWf u.vlan && decide (u.addr < 2 ^ 128) && decide (u.port < 2 ^ 16)
    && decide (u.dst < 2 ^ 128) && decide (u.dport < 2 ^ 16)

/-- The transport of a Smiben packet exists. -/
def viaWf : Via → Bool
  | .udp u => udpWf u
  | .relay _ => true
  | .mgmt => true

/-- A Smiben packet as a transport can bring it: at most a datagram of 65,535 bytes. -/
def smbWf (p : Smb) : Bool := viaWf p.via && decide (4 * p.payload.length ≤ 65535) && decide (p.size ≤ 65535)

/-- The START block of a CorsinLink packet: CLASS of 4 bits, LEN 16 to 8,256 (06 R116, R117). -/
def linkWf (k : LinkStart) : Bool := decide (k.cls < 16) && decide (16 ≤ k.len) && decide (k.len ≤ 8256)

/-- The fields of an RTP packet have the widths of 03 R62 and R63, with one to three sample row data headers. -/
def rtpWf (r : RtpPkt) : Bool :=
  decide (r.iface < 8) && vlanWf r.vlan && decide (r.udp < 2 ^ 16) && decide (r.version < 4)
    && decide (r.ptype < 128) && decide (r.srd.length ≤ 3) && decide (r.data.length ≤ 65535)
    && r.srd.all (fun h => decide (h.len < 2 ^ 16) && decide (h.line < 2 ^ 15) && decide (h.offset < 2 ^ 15))

/-- A frame came on an interface of the eight. -/
def netWf (a : NetIn) : Bool := decide (a.iface < 8) && vlanWf a.vlan

/-- A request names a port of a bank and bytes within a word of it (16 R351). -/
def sramWf (q : SramReq) : Bool :=
  decide (q.port ≤ 1) && decide (q.bank ≤ 64) && decide (q.word < 65536)
    && q.write.all (fun w => decide (w.1 + w.2.length ≤ 8))

/-- Whether a command names items that exist. -/
def Instr.wf : Instr → Bool
  | .sessionOpen p | .sessionClose p | .ping p | .claim p | .release p | .noticeFetch p | .reset p | .enrol p
  | .unenrol p | .linkRetrain p | .paramRead p | .paramWrite p | .paramSave p | .tilGeomWrite p | .w1cWrite p _
  | .streamDefine p | .streamRemove p | .streamRead p | .portMode p | .layerSet p | .commitAt p
  | .holdDiscard p | .tileRect p | .rectRead p | .regionDefine p | .regionRead p | .owlWatch p | .owlRead p
  | .proofRead p | .fieldDefine p | .fieldRemove p | .fieldRead p | .badgerValues p | .glyphWrite p
  | .glyphErase p | .lampDrive p | .engineSet p | .testPattern p | .lampPolicy p | .lampClear p | .lampFails p
  | .lsbFlash p _ | .glyphRomRead p | .timeRead p | .trigOutSet p | .trigInRead p | .cycleSet p | .cmpFree p
  | .pairHandover p | .pairStatus p | .pairClear p | .sluiceRead p | .thermalRead p | .railRead p | .calRun p _
  | .calRead p | .matrixWrite p | .matrixSave p | .ttabLoad p | .fwBegin p | .fwBlock p | .fwVerify p
  | .fwStatus p | .fwActivate p | .fwConfirm p | .fwAbort p | .recRead p | .recClear p | .recSnapAt p
  | .devInfo p | .attest p | .keyProvision p | .lifecycleSet p | .recoveryEnter p | .recoveryWrite p
  | .recoveryBoot p | .unknownOpcode p | .mgmtWritePacket p => smbWf p
  | .sessionIdleClose sess => decide (sess < 16)
  | .sessionAnnounce _ sess keyc _ _ _ _ _ => decide (sess < 16) && decide (keyc < 4)
  | .portRetrainComplete port | .signalDetect ⟨port, _⟩ | .trainingWordExchange port _ _ | .trainingStepTimeout ⟨port, _⟩
  | .rateSwitch port _ _ _ | .trainingRetryTimer port | .eyeScanTimer port _ | .linkDown port
  | .ackReceived port _ _ | .arqRetransmitTimeout port _
  | .loopReqReceived port _ _ | .loopRspReceived port _ _ _ _ _ | .brSignalSample port _
  | .crossDownReceived port | .crossAnswerReceived _ port _ => decide (port < 9)
  | .uncrossReceived m => decide (m.port < 9)
  | .syncHeaderError e => decide (e.port < 9) && decide (e.lane < 2)
  | .controlPacketReceived port k | .guestPacketReceived port k => decide (port < 9) && linkWf k.toLinkStart
  | .lsbI2c p result _ => smbWf p && decide (result < 4)
  | .rtpPacketReceived r => rtpWf r
  | .netFrameDrop a _ => netWf a
  | .nackReceived chain a _ _ | .reportReceived chain a _ => decide (chain < 8) && linkWf a
  | .flumePacketForward a _ _ | .regionPacketReceived a _ | .commitReceived a _ | .certificateReceived a _ => linkWf a
  | .upstreamFlumeForward _ arrived a _ _ _ => !arrived || linkWf a
  | .marchGranuleLock bank _ _ _ _ reqs => decide (bank < 64) && reqs.all sramWf
  | .summaryGatherTimeout _ | .mgmtReadPacket | .mgmtReadStatus | .gpioModeSet _ _ | .gpioRead _
  | .herrLimit | .markSendTimer | .secondsReceived _ _ | .markSourceLoss _
  | .validHoldExpire | .canvasLatch | .canvasFrameStart | .canvasFrameComplete | .deliveryStart
  | .deliveryEdgeReached | .certInstant | .resyncReqReceived _ _ | .proofReceived _ | .proofSilenceTimeout _
  | .deliveryIdleFail | .frameEdge | .correctionPassEnd
  | .matrixRowReload _ _ | .refreshStart _ | .keepalivePulse | .groupRowWrite _ _ | .showCutoff | .showInstant
  | .statusReadoutDone _ _ _ _ | .proofAgeExpire _ | .sensorPoll _ | .qspiFlashDone | .qspiBusyTimeout
  | .crossUpReceived | .railYieldReceived _ | .regionSetReceived _ | .helloSend
  | .helloReceived _ | .leaseRenewal | .heartbeatSend | .heartbeatReceived _ | .heartbeatLoss | .stepHoldEnd
  | .leaseExpiry | .ownNChange _ | .padActivity | .guardEnd | .claimArbitration _ | .acceptReceived _ _
  | .agreeTimeout _ | .edgeSetReceived _ _ | .coefReceived _ | .cmpReceived _ | .cmpPartnerTimeout _
  | .verdictTimeout | .handoverReqReceived _ | .handoverAckReceived _ _ | .handoverAckTimeout
  | .handoverBoundary | .handoverClaimBack | .stateReceived _ | .delivReceived _ _ | .delivTimeout
  | .canvasMsgReceived _ _ _ _ | .canvsigReceived _ _ | .lampstateReceived _ | .sluiceGrant
  | .sluiceWaitTimeout _ | .slgRaise | .thermalConversion _ | .throttleStepLeave | .thermalRestart
  | .powerOnResetRelease _ | .pfailAssert | .nvStopLift | .violNominalLatch _ | .xinLoss _ | .pllLossOfLock _
  | .freqCheckWindow _ _ _ | .freezeRecovery | .marchPeriod | .flashOperationDone _ | .downloadIdleTimeout
  | .trialDeadline | .migrationFallback | .bootLoopClear | .archiveCopy | .checkpointTimer | .tamperAssert
  | .tamperRelease | .tamperKeyReload | .powerLoss | .resolutionChecksDone _ | .lampEraseSuspendTimeout
  | .healthCheckTimeout _ | .pipelineKatTimer _ | .otpProgramDone | .entropyHealthChange _
  | .secureWipeEnd => true
  | .arpNdReceived a fam _ _ _ => netWf a && decide (fam < 3)
  | .dadTimer iface fam _ => decide (iface < 8) && decide (fam < 3)
  | .igmpMldQuery a _ _ _ | .icmpEchoRequest a _ _ => netWf a
  | .membershipReportTimer iface _ | .pauseFrame iface | .netLinkChange iface _ _ => decide (iface < 8)
  | .ssrcLockRelease stream _ | .pathDown stream _ | .mergeWindowClose stream _ => decide (stream < 64)
  | .ptpSync rx _ _ _ _ _ _ | .ptpFollowUp rx _ _ _ | .ptpDelayResp rx _ _ _ _ | .ptpAnnounce rx _ _ _ _ _ =>
    decide (rx.slot < 2) && netWf rx.at_
  | .delayReqTimer slot | .announceTimeout slot | .quarantineEnd slot => decide (slot < 2)
  | .tsqEntryExpire port _ => decide (port < 2)
  | .markReceived _ _ _ subns _ rxSub => decide (subns < 4) && decide (rxSub < 4)
  | .trigInEdge input _ subns => decide (input < 4) && decide (subns < 4)
  | .comparatorFire k _ => decide (k < 16)
  | .flumeEmit chain | .repairTimeout chain _ | .latencyReportReceived chain _ _
  | .revertStableElapsed ⟨chain, _⟩ => decide (chain < 8)
  | .sensorValidityExpire k => decide (k < 32)
  | .regionDeadline region => decide (region < 4096)
  | .fieldDeadline field => decide (field < 44)
  | .owlCheck watch | .owlFreeze watch => decide (watch < 256)
  | .fatalCheckFail bit => decide (bit < 6)
  | .verdictReceived code _ => decide (code < 256)
  | .boardLoadDone board _ _ _ _ => decide (board < 16)
  | .railThresholdCross rail _ | .railRecovery rail _ => decide (rail < 8)
  | .dramTrainingStepTimeout ch step => decide (ch < 4) && decide (step < 8)
  | .dramTrainingDone ch _ rd wr => decide (ch < 4) && (rd ++ wr).all (fun l => l.length == 4)
  | .dramChannelRetry ch | .dqsOscRead ch _ | .mr4Read ch _ _
  | .selfRefreshEntry ch | .commandPathError _ ch => decide (ch < 4)
  | .dramRefresh ch bank _ => decide (ch < 4) && decide (bank < 16)
  | .dramRequest port _ _ _ => decide (port < 13)
  | .dramReadReturn _ outcome | .scrubStep outcome => decide (outcome < 3)
  | .marchBankDone bank _ => decide (bank < 64)

end Sys2Proof
end

