-- ==== Sys2Proof/Certificates/Slice0/Obligations.lean ====
section
/-! DEFINITION. The statements of this model. -/

open Sys2Proof Sys2Proof.Machine Sys2Proof.Safety


/-- PING answers the device clock and its own payload of up to 16 words (13 R301). CLAIM gives a free domain to the
session, lets its owner replace the number it holds and a session with a greater number take the domain over, which
the displaced session is told by an event, and is refused NOT_OWNER with the held number otherwise (02 R44). RELEASE
frees an own domain, answers OK for a free one and is refused NOT_OWNER for another session's (02 R45). A domain
code of 3 and a claim number of 0 are refused BAD_PARAM (02 R44). -/
def Obligations.OwnershipCommands : Prop :=
  (∀ p s a c, Accepted 0x0003 p s a c →
    (p.payload.length ≤ 16 → Room a p (wt80 a.time.valid (now a) ++ p.payload) →
      AnswersOk (.ping p) p s a c (wt80 a.time.valid (now a) ++ p.payload))
    ∧ (16 < p.payload.length → AnswersNo (.ping p) p s a c stBadLength []))
  ∧ (∀ p s a c w n, Accepted 0x0004 p s a c → p.payload = [w, n] →
    ((fld w 1 0 = 3 ∨ n = 0) → AnswersNo (.claim p) p s a c stBadParam [])
    ∧ (fld w 1 0 ≠ 3 → n ≠ 0 →
      (ownerOf a (fld w 1 0) = none →
        AnswersOk (.claim p) p s (setOwner a (fld w 1 0) (some ⟨c.sess, n⟩)) c [])
      ∧ (∀ o, ownerOf a (fld w 1 0) = some o →
        (o.sess = c.sess →
          AnswersOk (.claim p) p s (setOwner a (fld w 1 0) (some ⟨c.sess, n⟩)) c [])
        ∧ (o.sess ≠ c.sess → o.claim < n →
          AnswersOk (.claim p) p s (eventTo (setOwner a (fld w 1 0) (some ⟨c.sess, n⟩)) o.sess 0x0004 0
            [w32 (fld w 1 0), n]) c [])
        ∧ (o.sess ≠ c.sess → ¬ o.claim < n → AnswersNo (.claim p) p s a c stNotOwner [o.claim]))))
  ∧ (∀ p s a c w, Accepted 0x0005 p s a c → p.payload = [w] →
    (fld w 1 0 = 3 → AnswersNo (.release p) p s a c stBadParam [])
    ∧ (fld w 1 0 ≠ 3 →
      (ownerOf a (fld w 1 0) = none → AnswersOk (.release p) p s a c [])
      ∧ (∀ o, ownerOf a (fld w 1 0) = some o →
        (o.sess = c.sess → AnswersOk (.release p) p s (setOwner a (fld w 1 0) none) c [])
        ∧ (o.sess ≠ c.sess → AnswersNo (.release p) p s a c stNotOwner []))))

/-- A SESSION_OPEN that passes its checks opens the session number found, in place of the MGMT session or of the session
idle too long where need be, under the key derived from the class key, the device nonce and the host nonce; a known
host nonce and a stale ISSUE are refused REPLAY, a nonce of another length BAD_LENGTH, and one that finds no number
BUSY (02 R35, R36). SESSION_CLOSE closes a session opened here after its reply, an idle session closes after its
idle time, and a tile opens and closes the slot that an announcement names, and passes it on (02 R36, R37).
NOTICE_FETCH answers OK and then sends a kept notification again, and is refused NOT_IN_STATE for one that is not
kept (02 R49; 13 R301). A gather that ends at its limit sends its summary (02 R50). An opcode that no table lists,
in a session and past steps 1 to 6, is answered BAD_OPCODE (02 R40; 13 R296). Readings of the model itself that it
rests on: logs 17, 33, 34, 86 and 93. -/
def Obligations.SessionCommands : Prop :=
  (
  (∀ p s a k, s.boot.held = false → hSess p.hdr = 15 → (∀ r, p.via ≠ .relay r) →
    reaches 0x0001 s p = true → policed (freeBuf s p) p 2 = some a →
    shapeOk p = true → levelOk a p = true → hDmode p.hdr = 0 → openKey a (hKeyc p.hdr) = some k →
    tagOk (some k) p = true →
    (issueOk a p = false → Completes (.sessionOpen p) s (refuseOpen a p k stReplay))
    ∧ (issueOk a p = true → ∀ t, t = countNotime a p → (inRecovery a = false ∨ hKeyc p.hdr = keyUpdate) →
      (p.payload.length ≠ 4 → Completes (.sessionOpen p) s (refuseOpen t p k stBadLength))
      ∧ (p.payload.length = 4 → ∀ nh, nh = BitVec.ofNat 128 (natOfWords p.payload) →
        (t.smb.nhHist.contains nh = true → Completes (.sessionOpen p) s (refuseOpen t p k stReplay))
        ∧ (t.smb.nhHist.contains nh = false → a.sec.entropyOk = true →
          (roomFor t p.via = none → Completes (.sessionOpen p) s (refuseOpen t p k stBusy))
          ∧ (∀ n b, roomFor t p.via = some (n, b) →
            ∃ u, Completes (.sessionOpen p) s u ∧ u.free = s.free + 1 ∧ ∃ x, u.smb.sess = x :: b.smb.sess
              ∧ x.ref = ⟨n, none⟩ ∧ x.keyc = hKeyc p.hdr ∧ x.level = hLevel p.hdr ∧ x.hi = 0 ∧ x.dseq = 1
              ∧ x.key = (if s.id.sender = true ∧ hKeyc p.hdr = keySafety then none
                  else some (sessionKey k n (naOr0 s) s.id.side nh (Config.nonce s.free))))))))
  ∧ (∀ p s a c, Accepted 0x0002 p s a c → p.payload = [] →
    (c.sess.rail = none → Completes (.sessionClose p) s (closeSess (reply a c p.via stOk []) c.sess))
    ∧ (c.sess.rail.isSome = true → AnswersOk (.sessionClose p) p s a c []))
  ∧ (∀ n s, s.boot.held = false →
    (∀ x, findSess s ⟨n, none⟩ = some x →
      ∃ u, Completes (.sessionIdleClose n) s u ∧ findSess u ⟨n, none⟩ = none
        ∧ lt u = lt s + 4 * cdiv (x.lastAt + idleNs s + 4 - lt s) 4)
    ∧ (findSess s ⟨n, none⟩ = none → Completes (.sessionIdleClose n) s s))
  ∧ (∀ rail n keyc na side nh nd w s, s.boot.held = false →
    (s.id.sender = true →
      (rail = s.id.side → Completes (.sessionAnnounce rail n keyc na side nh nd w) s s)
      ∧ (rail ≠ s.id.side → Completes (.sessionAnnounce rail n keyc na side nh nd w) s
        (linkCast s (List.range 8) (.announce rail n keyc na side nh nd w))))
    ∧ (s.id.sender = false →
      (w = false → n < 8 → ∃ u, Completes (.sessionAnnounce rail n keyc na side nh nd w) s u
        ∧ ∃ x, findSess u ⟨n, some rail⟩ = some x ∧ x.keyc = keyc
          ∧ x.key = (look keyc s.sec.keys).map (fun k => sessionKey k n na side nh nd))
      ∧ (w = true → ∃ u, Completes (.sessionAnnounce rail n keyc na side nh nd w) s u
        ∧ findSess u ⟨n, some rail⟩ = none)))
  )
  ∧
  (
  (∀ p s a c e, Accepted 0x0006 p s a c → p.payload = [e] → ∀ q, q = (findSess a c.sess).bind (fun x => look e x.notes) →
    (q = none → AnswersNo (.noticeFetch p) p s a c stNotInState [])
    ∧ (∀ n, q = some n → Completes (.noticeFetch p) s (sendAgain c n (reply a c p.via stOk []))))
  ∧ (∀ n s g, s.boot.held = false →
    s.smb.gathers.find? (fun g => g.id == n && !g.single && g.deadline != 0) = some g →
    Completes (.summaryGatherTimeout n) s (endGather (toLt g.deadline s) g))
  ∧ (∀ n s, s.boot.held = false →
    s.smb.gathers.find? (fun g => g.id == n && !g.single && g.deadline != 0) = none →
    Completes (.summaryGatherTimeout n) s s)
  ∧ (∀ p s b x, s.boot.held = false → opSpec (hOpcode p.hdr) = none →
    reaches (hOpcode p.hdr) (handTwin (hOpcode p.hdr) s p) p = true →
    shapeOk p = true → levelOk (freeBuf (handTwin (hOpcode p.hdr) s p) p) p = true → hSess p.hdr ≠ 15 →
    matchSess (freeBuf (handTwin (hOpcode p.hdr) s p) p) p = some x →
    (s.id.sender = false ∨ hDmode p.hdr = 0) →
    policed (freeBuf (handTwin (hOpcode p.hdr) s p) p) p 0 = some b →
    tagOk x.key p = true → inWindow x (hSeq p.hdr) = true →
    issueOk (passFive b p x) p = true →
    Completes (.unknownOpcode p) s
      (reply (countNotime (passFive b p x) p) (cmdRef (passFive b p x) (hOpcode p.hdr) p) p.via stBadOpcode []))
  )

/-- The MGMT port: a written packet takes the command buffer, one written while it is held is dropped under class 2; a
read returns the oldest waiting packet or a length of 0, MGMT_INT_N going high with the last one, and the status
byte tells whether the buffer is free and a packet waits (02 R33, R34). GPIO_MODE_SET and GPIO_READ answer as 21
R446 says. Readings of the model itself that it rests on: logs 85 and 91. -/
def Obligations.MgmtPort : Prop :=
  ∀ s, s.boot.held = false →
  (∀ p, s.smb.cmdBuf = none → Completes (.mgmtWritePacket p) s { s with smb := { s.smb with cmdBuf := some p } })
  ∧ (∀ p q, s.smb.cmdBuf = some q → Completes (.mgmtWritePacket p) s (smbDrop s 2))
  ∧ (s.smb.mgmtOut = [] → Completes .mgmtReadPacket s (emit s (.busRead [0, 0])))
  ∧ (∀ q r, s.smb.mgmtOut = q :: r →
      let t := emit { s with smb := { s.smb with mgmtOut := r } }
        (.busRead (bytesOf 2 (BitVec.ofNat 16 (packetBytes q).length) ++ packetBytes q))
      (r = [] → Completes .mgmtReadPacket s (emit t (.pin pinMgmtInt true)))
      ∧ (r ≠ [] → Completes .mgmtReadPacket s t))
  ∧ Completes .mgmtReadStatus s (emit s (.busRead
      [(if s.smb.cmdBuf.isSome then 0 else 1) + (if s.smb.mgmtOut = [] then 0 else 2)]))
  ∧ (∀ pin mode : Byte, inRecovery s = false → 8 ≤ pin.toNat → pin.toNat ≤ 15 → mode.toNat ≤ 3 →
      ((gpioMode s (pin.toNat - 8) = 0 ∨ mode.toNat = 0 ∨ mode.toNat = gpioMode s (pin.toNat - 8)
          ∨ (mode.toNat ≠ 3 ∧ gpioMode s (pin.toNat - 8) ≠ 3)) →
        Completes (.gpioModeSet pin mode) s
          (emit { s with gpio := { s.gpio with modes := s.gpio.modes.set (pin.toNat - 8) mode.toNat } }
            (.busRead [0x00])))
      ∧ (gpioMode s (pin.toNat - 8) = 3 → (mode.toNat = 1 ∨ mode.toNat = 2) →
        Completes (.gpioModeSet pin mode) s (emit s (.busRead [0x31])))
      ∧ (gpioMode s (pin.toNat - 8) = 1 ∨ gpioMode s (pin.toNat - 8) = 2 → mode.toNat = 3 →
        Completes (.gpioModeSet pin mode) s (emit s (.busRead [0x31]))))
  ∧ (∀ pin mode : Byte, inRecovery s = false → (15 < pin.toNat ∨ 3 < mode.toNat) →
      Completes (.gpioModeSet pin mode) s (emit s (.busRead [0x11])))
  ∧ (∀ pin mode : Byte, inRecovery s = false → pin.toNat < 8 → mode.toNat ≤ 3 →
      Completes (.gpioModeSet pin mode) s (emit s (.busRead [0x31])))
  ∧ (∀ pin mode : Byte, inRecovery s = true → Completes (.gpioModeSet pin mode) s (emit s (.busRead [0x40])))
  ∧ (∀ balls, ∃ hi : Byte, Completes (.gpioRead balls) s (emit s (.busRead [hi, BitVec.ofNat 8 balls.toNat]))
      ∧ ∀ n, n < 8 → hi.getLsbD n = gpioLevel s n (balls.getLsbD (8 + n)))

/-- RESET answers OK and resets 1 ms later where the device holds nothing; on a holder it waits for a handover to a
standby that is ready, and where none can begin it is refused NOT_IN_STATE unless FORCE is 1 (13 R301). ENROL and
UNENROL, judged with the ENROL and UNENROL commands accepted before (02 R40). A device keeps the node address it
has, answers NOT_IN_STATE for another, and otherwise takes the address once it stands in flash; a sender routes the
command to the place it names, refuses an address that stands for another place with CONFLICT and a 513th one with
BAD_PARAM, and routes UNENROL by its table; UNENROL on the device that holds the address ends it. A mask of no side,
one without the side of the device that would act, a place that is none or another's, and an UNENROL of an address
that the device neither holds nor has in its table are refused with BAD_PARAM (01 R20 to R23). Readings of the model
itself that it rests on: log 50. -/
def Obligations.DeviceCommands : Prop :=
  (
  ∀ p s a c w, Accepted 0x0008 p s a c → p.payload = [w] →
  (a.pair.holding = false → Completes (.reset p) s (resetIn (reply a c p.via stOk []) (10 ^ 6) causeCommand))
  ∧ (a.pair.holding = true → a.pair.handover = none → standbyReady a = true →
    Completes (.reset p) s (enqueue (startHandover a (.follow (some c) 0x0008 (flagAt (bit w 0) 31))) c))
  ∧ (a.pair.holding = true → (a.pair.handover.isSome = true ∨ standbyReady a = false) →
    (bit w 0 = true → Completes (.reset p) s (resetIn (reply a c p.via stOk []) (10 ^ 6) causeCommand))
    ∧ (bit w 0 = false → AnswersNo (.reset p) p s a c stNotInState []))
  )
  ∧
  (
  (∀ p s a c w0 w1 w2 pl, Accepted 0x0010 p s a c → p.payload = [w0, w1, w2] →
    pl = placeClean (BitVec.ofNat 64 (w0.toNat * 2 ^ 32 + w1.toNat)) →
    (fld w2 1 0 = 0 ∨ placeOk pl = false
      ∨ (a.id.sender = true ∧ plHop pl = 0 ∧ (sidesOf (fld w2 1 0)).contains a.id.side = false)
      ∨ (a.id.sender = false ∧ (routeOf pl ≠ routeOf a.id.place ∨ a.id.placeOk = false
        ∨ (sidesOf (fld w2 1 0)).contains a.id.side = false))) →
    AnswersNo (.enrol p) p s a c stBadParam []) ∧
  (∀ p s a c w na, Accepted 0x0011 p s a c → p.payload = [w] → na = BitVec.ofNat 16 (fld w 31 16) →
    (fld w 1 0 = 0
      ∨ (willNa a = some na ∧ (sidesOf (fld w 1 0)).contains a.id.side = false)
      ∨ (willNa a ≠ some na ∧ a.id.sender = true ∧ (enrolAll a).find? (fun e => e.1 == na) = none)) →
    AnswersNo (.unenrol p) p s a c stBadParam []) ∧
  (∀ p s a c w0 w1 w2 pl na, Accepted 0x0010 p s a c → p.payload = [w0, w1, w2] → fld w2 1 0 ≠ 0 →
    pl = placeClean (BitVec.ofNat 64 (w0.toNat * 2 ^ 32 + w1.toNat)) → na = BitVec.ofNat 16 (fld w2 31 16) →
    placeOk pl = true →
    (((a.id.sender = false ∧ routeOf pl = routeOf a.id.place ∧ a.id.placeOk = true)
        ∨ (a.id.sender = true ∧ plHop pl = 0)) → (sidesOf (fld w2 1 0)).contains a.id.side = true →
      (∀ n, willNa a = some n →
        (n = na → AnswersOk (.enrol p) p s a c [])
        ∧ (n ≠ na → AnswersNo (.enrol p) p s a c stNotInState []))
      ∧ (willNa a = none → ∀ t, flashAsk a (.enrol na) (some c) 2 false = (t, stPending) →
        AnswersPending (.enrol p) p s t c))
    ∧ (a.id.sender = true → plHop pl ≠ 0 →
      (∀ e, (enrolAll a).find? (fun e => e.1 == na) = some e →
        (e.2 ≠ pl → AnswersNo (.enrol p) p s a c stConflict [conflictWord 0x0A 1 na.toNat])
        ∧ (e.2 = pl → Completes (.enrol p) s (enqueue (relayTo { a with flume := { a.flume with
          enrolling := ⟨na, pl, sidesOf (fld w2 1 0), c⟩ :: a.flume.enrolling } } 0x0010 p [(na, pl)]) c)))
      ∧ ((enrolAll a).find? (fun e => e.1 == na) = none →
        (512 ≤ (enrolAll a).length → AnswersNo (.enrol p) p s a c stBadParam [])
        ∧ ((enrolAll a).length < 512 →
          Completes (.enrol p) s (enqueue (relayTo { a with flume := { a.flume with
            enrolling := ⟨na, pl, sidesOf (fld w2 1 0), c⟩ :: a.flume.enrolling } } 0x0010 p [(na, pl)]) c)))))
  ∧ (∀ p s a c w na, Accepted 0x0011 p s a c → p.payload = [w] → fld w 1 0 ≠ 0 →
    na = BitVec.ofNat 16 (fld w 31 16) →
    (willNa a = some na → (sidesOf (fld w 1 0)).contains a.id.side = true →
      AnswersOk (.unenrol p) p s (unenrolHere a) c [] ∧ (unenrolHere a).id.na = none)
    ∧ (willNa a ≠ some na →
      (a.id.sender = false → AnswersNo (.unenrol p) p s a c stBadParam [])
      ∧ (a.id.sender = true → ∀ e, (enrolAll a).find? (fun e => e.1 == na) = some e →
        Completes (.unenrol p) s (enqueue (relayTo a 0x0011 p [e]) c))))
  )

/-- PARAM_READ answers COUNT words in effect under the highest status of their indices, and is refused BAD_PARAM for a
COUNT of 0 or beyond 256 or a range beyond 0xFFFF, BAD_LENGTH where the words do not fit the MTU (13 R303; 03 R55).
PARAM_WRITE, TIL_GEOM_WRITE and W1C_WRITE refuse a set as a whole with the status of its first failure and the pair
it concerns, apply a set whose pairs all take effect at once and answer OK, and answer PENDING with the staged pairs
where some wait for their edge, or refuse the set where their credits or their flash write are refused (13 R304; 14
R319 to R321; 00 R5, R6). PARAM_SAVE puts the values in effect into the flash queue and answers PENDING, or is
refused as the queue refuses it, and with BUSY while one is running (14 R325). LINK_RETRAIN answers PENDING and
takes the ports of its mask down, unless one of them does not exist or is crossed (06 R140). A port whose sub-ports
all have link again, or whose time is over, ends its PORT_MODE with a notification and gives its credits back (03
R53). Readings of the model itself that it rests on: logs 76, 77 and 119. -/
def Obligations.ParameterCommands : Prop :=
  (
  (∀ p s a c w, Accepted 0x0100 p s a c → p.payload = [w] → ∀ i n, i = fld w 31 16 → n = fld w 15 0 →
    (n = 0 ∨ 256 < n ∨ 65536 < i + n → AnswersNo (.paramRead p) p s a c stBadParam [])
    ∧ (1 ≤ n → n ≤ 256 → i + n ≤ 65536 →
      (∀ l : List (Word × Nat), l = (List.range n).map (fun k => readOne a (i + k)) → Room a p (l.map (·.1)) →
        Completes (.paramRead p) s (reply a c p.via (l.foldl (fun m e => max m e.2) stOk) (l.map (·.1))))
      ∧ ((∀ k, k < n → (findRow a.id.sender (i + k)).isSome = true) →
        Room a p ((List.range n).map (fun k => paramWord a (i + k))) →
        AnswersOk (.paramRead p) p s a c ((List.range n).map (fun k => paramWord a (i + k))))))
  ∧ (∀ p s a c w l, Accepted 0x0101 p s a c → p.payload = w :: l → l.length = 2 * fld w 15 0 →
    1 ≤ fld w 15 0 → fld w 15 0 ≤ 64 → ∀ set,
    (∀ st x k, setRefusal a (pairsOf l) = some (st, x, k) → isRefusal st = true →
      AnswersNo (.paramWrite p) p s a c st [x, pairPlace (pairsOf l) k]
      ∧ AnswersNo (.tilGeomWrite p) p s a c st [x, pairPlace (pairsOf l) k]
      ∧ AnswersNo (.w1cWrite p set) p s a c st [x, pairPlace (pairsOf l) k])
    ∧ (setRefusal a (pairsOf l) = none →
      ∀ now_, now_ = (pairsOf l).filter (fun e => pairAcc a e.1 == .rw || pairAcc a e.1 == .w1c) →
      (stagedOf a (pairsOf l) = [] →
        AnswersOk (.paramWrite p) p s (writeNow a [] now_) c []
        ∧ AnswersOk (.tilGeomWrite p) p s (writeNow a [] now_) c []
        ∧ AnswersOk (.w1cWrite p set) p s (writeNow a set now_) c [])
      ∧ (stagedOf a (pairsOf l) ≠ [] → ∀ r : State × Nat,
        r = (if (pairsOf l).any (fun e => pairAcc a e.1 == .saf)
          then flashAsk (supersede a ((stagedOf a (pairsOf l)).map (·.1))) (.badger (.params (stagedOf a (pairsOf l))))
            (some c) 1 false
          else stagePairs a c (stagedOf a (pairsOf l))) →
        (r.2 = stPending → Room a p (echoPairs (stagedOf a (pairsOf l))) →
          Completes (.paramWrite p) s
            (reply (writeNow r.1 [] now_) c p.via stPending (echoPairs (stagedOf a (pairsOf l))))
          ∧ Completes (.tilGeomWrite p) s
            (reply (writeNow r.1 [] now_) c p.via stPending (echoPairs (stagedOf a (pairsOf l))))
          ∧ Completes (.w1cWrite p set) s
            (reply (writeNow r.1 set now_) c p.via stPending (echoPairs (stagedOf a (pairsOf l)))))
        ∧ (isRefusal r.2 = true → ∀ t, t = (if r.2 = stNvHeld then nvRefuse a else bump a pwrRefused) →
          AnswersNo (.paramWrite p) p s t c r.2 [0, pairPlace (pairsOf l) 0]
          ∧ AnswersNo (.tilGeomWrite p) p s t c r.2 [0, pairPlace (pairsOf l) 0]
          ∧ AnswersNo (.w1cWrite p set) p s t c r.2 [0, pairPlace (pairsOf l) 0]))))
  )
  ∧
  (
  (∀ p s a c, Accepted 0x0102 p s a c → p.payload = [] →
    (saving a = true → AnswersNo (.paramSave p) p s a c stBusy [])
    ∧ (saving a = false → ∀ t st, settingsAsk a (.paramSave (settingsNow a)) (some c) = (t, st) →
      (st = stPending → AnswersPending (.paramSave p) p s t c)
      ∧ (isRefusal st = true → AnswersNo (.paramSave p) p s t c st [])))
  ∧ (∀ p s a c w, Accepted 0x0030 p s a c → p.payload = [w] →
    (∀ q ∈ maskPorts (fld w 8 0), portExists a q = true) →
    (∀ q ∈ maskPorts (fld w 8 0), ∀ x, portAt a q = some x → x.cross = false) →
    Completes (.linkRetrain p) s (beginRetrain c (maskPorts (fld w 8 0)) (reply a c p.via stPending [])))
  ∧ (∀ n s c d, s.boot.held = false → (netPort s n).training = some (c, d) →
    ∀ up, up = (subPorts (netPort s n).mode).all (fun k => ((netPort s n).link >>> k) % 2 == 1) →
    Completes (.portRetrainComplete n) s
      (notify (creditReturn (setNetPort (if up then s else toLt d s) n { netPort s n with training := none })
        (fun o => match o with | .portMode q _ _ _ => q == n | _ => false)) c stOk []))
  )

/-- STREAM_DEFINE is refused BAD_PARAM with the word of its first failing check, or answers PENDING and defines the
stream (03 R59, R60). STREAM_REMOVE removes a stream and answers OK, at once where no slot is being read and else
with those slots kept until their reads end; STREAM_READ answers the words in effect (03 R66; 13 R305). PORT_MODE is
refused while its port changes, where it passes the chip budget and without credits; else it answers PENDING and
retrains its port when its credits are granted (03 R53; 17 R374). A stream packet at an active interface of a
sender. One that belongs to no path is class 1 where it is multicast and class 6 where it is for an own address (03
R58). One that finds the receiver buffer full is counted (03 R63), one with a wrong version, payload type, SSRC or
payload header is class 7, one of another SSRC than the lock's sets SSRC_CLASH (03 R62). An accepted one brings its
path up, and lands in the frame of its timestamp, opens one where no later frame has closed its time, or changes no
frame where that frame has closed; one of a frame that found no slot is counted (03 R62, R63, R66). A merge window
that closes hands its frame to the loss policy (03 R63, R64). Readings of the model itself that it rests on: logs
35, 38, 94 and 112. -/
def Obligations.StreamsAndReception : Prop :=
  (
  (∀ p s a c, Accepted 0x0201 p s a c → p.payload.length = 24 →
    (streamRefusal a p.payload = none → AnswersPending (.streamDefine p) p s (defineStream a p.payload c) c)
    ∧ (∀ v, streamRefusal a p.payload = some v → AnswersNo (.streamDefine p) p s a c stBadParam [v]))
  ∧ (∀ p s a c w, Accepted 0x0202 p s a c → p.payload = [w] →
    (64 ≤ fld w 31 24 → AnswersNo (.streamRemove p) p s a c stBadParam [])
    ∧ (fld w 31 24 < 64 →
      (streamOf a (fld w 31 24) = none → AnswersOk (.streamRemove p) p s a c [])
      ∧ (∀ x, streamOf a (fld w 31 24) = some x →
        ∀ s1 rest, s1 = notifyO (memberChange a (fld w 31 24) x.words true) x.ref stNotInState [] →
        rest = s1.net.streams.filter (fun y => y.id != fld w 31 24) →
        ((∀ y ∈ x.slots, (y.st == .reading) = false) →
          AnswersOk (.streamRemove p) p s { s1 with net := { s1.net with streams := rest } } c [])
        ∧ ((∃ y ∈ x.slots, y.st = .reading) → ∀ z : Machine.Stream,
          z = { x with st := 0, upA := false, upB := false, clash := false, tsusp := false, ref := none
                       slots := (x.slots.filter (fun y => y.st == .reading)).map
                         (fun y => { y with old := true, dies := true }) } →
          AnswersOk (.streamRemove p) p s { s1 with net := { s1.net with streams := z :: rest } } c []))))
  ∧ (∀ p s a c w, Accepted 0x0203 p s a c → p.payload = [w] →
    (∀ x, streamOf a (fld w 31 24) = some x → Room a p x.words → AnswersOk (.streamRead p) p s a c x.words)
    ∧ (streamOf a (fld w 31 24) = none → AnswersNo (.streamRead p) p s a c stNotInState []))
  ∧ (∀ p s a c w, Accepted 0x0210 p s a c → p.payload = [w] →
    ∀ port mode fec need, port = fld w 24 24 → mode = fld w 17 16 → fec = fld w 3 0 →
    need = standingWith a (pipesOn (rd a cmpCanvas)) ((a.net.ports.map (·.mode)).set port mode) (getF a lmpCfg 31 30) →
    (portChanging a port = true → AnswersNo (.portMode p) p s a c stBusy [])
    ∧ (portChanging a port = false →
      (getF a pwrChip 31 16 < need → AnswersNo (.portMode p) p s a c stConflict [conflictWord 0x08 1 need])
      ∧ (need ≤ getF a pwrChip 31 16 →
        (∀ t n, sluiceAsk a (.portMode port mode fec c) 1 3 0 = (t, .granted n) →
          Completes (.portMode p) s (startPortMode (reply t c p.via stPending []) port mode fec c))
        ∧ (∀ t n, sluiceAsk a (.portMode port mode fec c) 1 3 0 = (t, .waiting n) →
          AnswersPending (.portMode p) p s t c)
        ∧ (∀ t, sluiceAsk a (.portMode port mode fec c) 1 3 0 = (t, .refused) →
          AnswersNo (.portMode p) p s t c stNoCredit []))))
  )
  ∧
  (
  (∀ r s, s.boot.held = false → s.id.sender = true → bit (rd s (netIfCtrl + 16 * r.iface)) 31 = true →
    (vlanOk s r.iface r.vlan = false → Completes (.rtpPacketReceived r) s (dropFrame s 0))
    ∧ (vlanOk s r.iface r.vlan = true →
      (matchPath s r = none →
        (isGroup r.group = true → Completes (.rtpPacketReceived r) s (dropFrame s 1))
        ∧ (isGroup r.group = false → holdsAddr s r.iface (hostAddr r.group) = true →
          Completes (.rtpPacketReceived r) s (dropFrame s 6)))
      ∧ (∀ x b, matchPath s r = some (x, b) →
        (rxTake s r = none → Completes (.rtpPacketReceived r) s (bump s (ingUnrec + 4 * x.id)))
        ∧ (∀ a, rxTake s r = some a →
          ((r.version ≠ 2 ∨ r.ptype ≠ sdPt x.words ∨ srdOk x.words r = false) →
            Completes (.rtpPacketReceived r) s (dropFrame (setStream a { x with wrong := x.wrong + 1 }) 7))
          ∧ (r.version = 2 → r.ptype = sdPt x.words → srdOk x.words r = true →
            (∀ v, (if sdSsrc x.words = 0 then x.lock else some (sdSsrc x.words)) = some v → v ≠ r.ssrc →
              Completes (.rtpPacketReceived r) s
                (dropFrame (setStream a { x with clash := true, wrong := x.wrong + 1 }) 7))
            ∧ ((sdSsrc x.words ≠ 0 ∧ sdSsrc x.words = r.ssrc ∨ sdSsrc x.words = 0 ∧ (x.lock = none ∨ x.lock = some r.ssrc)) →
              let y := { x with
                lock := if sdSsrc x.words = 0 then some r.ssrc else x.lock
                lastA := if b then x.lastA else some (lt a), lastB := if b then some (lt a) else x.lastB
                upA := x.upA || !b, upB := x.upB || b
                st := if x.st = 4 then (if x.announced then 3 else 2) else x.st }
              let d := pathDiff a y b r.ts
              let q := passFrames d.1 d.2 b r.ts
              Completes (.rtpPacketReceived r) s (takePacket q.1 q.2 b r)))))))
  ∧ (∀ s x b r, ∀ own, own = (ownFrames x).find? (fun y => y.ts == r.ts) →
    (∀ f, own = some f → takePacket s x b r = landPacket s x f b r)
    ∧ (own = none → x.refused.contains r.ts = true →
      takePacket s x b r = bump (setStream s (passedBy x r)) (ingUnrec + 4 * x.id))
    ∧ (own = none → x.refused.contains r.ts = false → x.closed.contains r.ts = true →
      takePacket s x b r = setStream s x)
    ∧ (own = none → x.refused.contains r.ts = false → x.closed.contains r.ts = false →
      ∀ first, first = (((ownFrames x).filter (fun y => decide (0 < sdiff y.ts r.ts))).map (·.opened)).min? →
      (∀ o, first = some o →
        takePacket s x b r = if o + mergeNs x ≤ lt s then setStream s x else openFrame s x b r (some o))
      ∧ (first = none → takePacket s x b r
        = if (x.closed ++ x.refused).any (fun t => decide (0 < sdiff t r.ts)) then setStream s x
          else openFrame s x b r none)))
  ∧ (∀ id ts s x f w, s.boot.held = false → streamOf s id = some x →
    x.slots.find? (fun y => !y.old && y.st == .filling && y.ts == ts) = some f → f.window = some w →
    Completes (.mergeWindowClose id ts) s
      (lossPolicy (bumpN (bumpF (toLt (w + mergeNs x) s) (ingSts + 4 * id) 15 0) (ingUnrec + 4 * id)
        (neverCame x f (frameEnd x f))) (accounted x f (frameEnd x f)) f))
  )

/-- Frames at an active interface of a sender (03 R58): a bad FCS or another VLAN tag is class 0, PAUSE class 8, a
foreign unicast class 0, broadcast other than ARP class 2, other multicast than that of a known group class 1, TCP,
and UDP to an own address on another port than Smiben's and PTP's, class 6; ARP, Neighbour Discovery, IGMP, MLD and
echo requests pass their policer or are dropped under its class. An echo request to an own address is answered where
a next hop is known (03 R54, R58). A query times the answers of the memberships it names within its maximum response
time, and an older one sets the compatibility mode (03 R57). A neighbour's ARP or ND for an address of the interface
makes a conflict while it is probed, is answered while it is held, and a held IPv4 address is defended once in 10 s
(03 R56). The timers of a network interface. An IPv4 address is probed three times, 1 to 2 s apart, and confirmed
with an announcement 2 s after the third, an IPv6 address probed once and confirmed 1 s later; the second
announcement follows the first (03 R56). A membership is reported at its time, and one that is left is gone with its
last report (03 R57). A link change is taken for a sub-port in use (03 R53). An SSRC lock without a packet for 1 s
is released (03 R62); a path without one for 100 ms is down, with an event, and with both paths down a stream in
state 3 goes to 4 (03 R63; log 113). Readings of the model itself that it rests on: logs 23, 36 and 95. -/
def Obligations.NetworkFramesAndTimers : Prop :=
  (
  ∀ s i, s.boot.held = false → s.id.sender = true → i < 8 → bit (rd s (netIfCtrl + 16 * i)) 31 = true →
  (∀ (f : EthFrame) vlan,
    ((f.fcsOk = false ∨ vlanOk s i vlan = false) → Completes (.netFrameDrop ⟨i, vlan⟩ f) s (dropFrame s 0))
    ∧ (f.fcsOk = true → vlanOk s i vlan = true →
      ∀ foreign, foreign = (!f.dst.getLsbD 40 && f.dst != ifMac s i) →
      (f.kind = .pause → Completes (.netFrameDrop ⟨i, vlan⟩ f) s (dropFrame s 8))
      ∧ (f.kind = .arp →
        (foreign = true → Completes (.netFrameDrop ⟨i, vlan⟩ f) s (dropFrame s 0))
        ∧ (foreign = false → Completes (.netFrameDrop ⟨i, vlan⟩ f) s ((netToken s i 3).getD (dropFrame s 3))))
      ∧ (f.kind ≠ .pause → f.kind ≠ .arp →
        (f.dst = BitVec.allOnes 48 → Completes (.netFrameDrop ⟨i, vlan⟩ f) s (dropFrame s 2))
        ∧ (f.dst ≠ BitVec.allOnes 48 → foreign = true → Completes (.netFrameDrop ⟨i, vlan⟩ f) s (dropFrame s 0))
        ∧ (f.dst ≠ BitVec.allOnes 48 → foreign = false →
          (f.kind = .tcp → Completes (.netFrameDrop ⟨i, vlan⟩ f) s (dropFrame s 6))
          ∧ (f.kind = .nd → Completes (.netFrameDrop ⟨i, vlan⟩ f) s ((netToken s i 3).getD (dropFrame s 3)))
          ∧ (f.kind = .igmp ∨ f.kind = .mld →
            Completes (.netFrameDrop ⟨i, vlan⟩ f) s ((netToken s i 4).getD (dropFrame s 4)))
          ∧ (f.kind = .echo → Completes (.netFrameDrop ⟨i, vlan⟩ f) s ((netToken s i 5).getD (dropFrame s 5)))
          ∧ (f.kind = .otherIcmp → Completes (.netFrameDrop ⟨i, vlan⟩ f) s (dropFrame s 5))
          ∧ (∀ dst port frag, f.kind = .udp dst port frag →
            (f.dst.getLsbD 40 = true → knownGroup f.dst = false →
              Completes (.netFrameDrop ⟨i, vlan⟩ f) s (dropFrame s 1))
            ∧ (f.dst.getLsbD 40 = false → holdsAddr s i dst = true → port ≠ 319 → port ≠ 320 →
              port ≠ getF s sysSmbPort 15 0 → Completes (.netFrameDrop ⟨i, vlan⟩ f) s (dropFrame s 6)))))))
  ∧ Completes (.pauseFrame i) s (dropFrame s 8)
  ∧ (∀ vlan src dst body, vlanOk s i vlan = true →
    (holdsAddr s i (hostAddr dst) = false → Completes (.icmpEchoRequest ⟨i, vlan⟩ ⟨src, dst⟩ body) s s)
    ∧ (holdsAddr s i (hostAddr dst) = true →
      (netToken s i 5 = none → Completes (.icmpEchoRequest ⟨i, vlan⟩ ⟨src, dst⟩ body) s (dropFrame s 5))
      ∧ (∀ b, netToken s i 5 = some b →
        (∀ h, nextHop b i (hostAddr src) = some h →
          Completes (.icmpEchoRequest ⟨i, vlan⟩ ⟨src, dst⟩ body) s (emitNet b i (.echoReply h src body)))
        ∧ (nextHop b i (hostAddr src) = none → Completes (.icmpEchoRequest ⟨i, vlan⟩ ⟨src, dst⟩ body) s b))))
  ∧ (∀ vlan q maxResp delay, vlanOk s i vlan = true →
    (netToken s i 4 = none → Completes (.igmpMldQuery ⟨i, vlan⟩ q maxResp delay) s (dropFrame s 4))
    ∧ (∀ b, netToken s i 4 = some b → ∃ u, Completes (.igmpMldQuery ⟨i, vlan⟩ q maxResp delay) s u
      ∧ u.net.compat = (if q.compat = 1 ∨ (q.compat = 2 ∧ q.v6 = false) then
          put (compatKey i q.v6 q.compat) (lt s + compatNs maxResp) s.net.compat else s.net.compat)
      ∧ u.net.members.map (·.group) = s.net.members.map (·.group)
      ∧ ∀ m ∈ u.net.members, m.iface = i → groupV6 m.group = q.v6 → m.leave = false →
          (q.group = 0 ∨ (m.group = q.group ∧ (q.sources = [] ∨ m.source = 0 ∨ q.sources.contains m.source = true))) →
          ∃ t, m.answer = some t ∧ t ≤ lt s + min delay maxResp))
  ∧ (∀ vlan f op mac addr, vlanOk s i vlan = true →
    (netToken s i 3 = none → Completes (.arpNdReceived ⟨i, vlan⟩ f op mac addr) s (dropFrame s 3))
    ∧ (∀ b, netToken s i 3 = some b → ∀ own, own = b.net.addrs.find? (fun x =>
        x.iface == i && (x.fam == 0) == (f == 0) && addrOf b i x.fam == addr) →
      (own = none → Completes (.arpNdReceived ⟨i, vlan⟩ f op mac addr) s b)
      ∧ (∀ x, own = some x → ∀ foreign, foreign = (mac != ifMac b i) →
        (x.st = 1 → (op = 2 ∨ op = 3 ∧ foreign = true) →
          Completes (.arpNdReceived ⟨i, vlan⟩ f op mac addr) s (recordX (addrConflict b x) xAddrConflict [w32 i, w32 x.fam]))
        ∧ (x.st = 2 → op ≠ 2 →
          Completes (.arpNdReceived ⟨i, vlan⟩ f op mac addr) s (emitNet b i (.arpReply x.fam addr)))
        ∧ (x.st = 2 → op = 2 → foreign = true →
          ((x.fam ≠ 0 ∨ ∃ t, x.defended = some t ∧ lt b - t < 10 ^ 10) →
            Completes (.arpNdReceived ⟨i, vlan⟩ f op mac addr) s (addrConflict b x))
          ∧ (x.fam = 0 → (∀ t, x.defended = some t → 10 ^ 10 ≤ lt b - t) →
            Completes (.arpNdReceived ⟨i, vlan⟩ f op mac addr) s
              (emitNet (setAddr b { x with defended := some (lt b) }) i (.arpAnnounce 0)))))))
  )
  ∧
  (
  (∀ i f n s x d, s.boot.held = false → s.net.addrs.find? (fun a => a.iface == i && a.fam == f) = some x →
    x.next = some d → ∀ s1 k want, s1 = toLt d s → k = (if x.st = 3 then 0 else x.probes) →
    want = (if f = 0 then 3 else 1) →
    (x.st = 2 → Completes (.dadTimer i f n) s
      (emit (setAddr s1 { x with announced := 2, next := none }) (.net i (txTag s i) (.arpAnnounce f))))
    ∧ (x.st ≠ 2 → k < want → ∃ g, 10 ^ 9 ≤ g ∧ g ≤ 2 * 10 ^ 9 ∧ (f = 0 → k = 2 → g = 2 * 10 ^ 9)
      ∧ (f ≠ 0 → g = 10 ^ 9)
      ∧ Completes (.dadTimer i f n) s (emit (setAddr s1 { x with st := 1, probes := k + 1, next := some (lt s1 + g) })
          (.net i (txTag s i) (.arpProbe f))))
    ∧ (x.st ≠ 2 → want ≤ k →
      (f = 0 → Completes (.dadTimer i f n) s
        (emit (setAddr s1 { x with st := 2, announced := 1, next := some (lt s1 + 2 * 10 ^ 9) })
          (.net i (txTag s i) (.arpAnnounce f))))
      ∧ (f ≠ 0 → Completes (.dadTimer i f n) s (setAddr s1 { x with st := 2, next := none }))))
  ∧ (∀ i g src s m d, s.boot.held = false →
    s.net.members.find? (fun m => m.iface == i && m.group == g && m.source == src) = some m → m.due = some d →
    ∀ rest, rest = s.net.members.filter (fun y => !(y == m)) →
    (m.leave = true → m.answer = none → ∃ u, Completes (.membershipReportTimer i ⟨g, src⟩) s u
      ∧ u.net.members = (if m.left - 1 = 0 then rest
          else { m with left := m.left - 1, next := some (lt u + 10 ^ 9) } :: rest)
      ∧ ∀ t, t = { toLt d s with net := { s.net with members := u.net.members } } →
        u.out = s.out ++ (reportOf t m).toList.map (fun n => .net i (txTag s i) n))
    ∧ (m.leave = false → (∀ x ∈ defined s, x.ref = none) → ∃ u, Completes (.membershipReportTimer i ⟨g, src⟩) s u
      ∧ d ≤ lt u ∧ ∃ ver only anon, u.out = s.out ++ [.net i (txTag s i) (.member ver g only true anon)]))
  ∧ (∀ i link align s, s.boot.held = false →
    (s.id.sender = true → i < 8 → (subPorts (netPort s (i / 4)).mode).contains (i % 4) = true →
      ∃ x, Completes (.netLinkChange i link align) s (setNetPort s (i / 4) x)
        ∧ x.mode = (netPort s (i / 4)).mode ∧ x.training = (netPort s (i / 4)).training
        ∧ x.link.testBit (i % 4) = link
        ∧ ∀ k, k ≠ i % 4 → x.link.testBit k = (netPort s (i / 4)).link.testBit k)
    ∧ ((s.id.sender = false ∨ 8 ≤ i ∨ (subPorts (netPort s (i / 4)).mode).contains (i % 4) = false) →
      Completes (.netLinkChange i link align) s s))
  ∧ (∀ id b s x, s.boot.held = false → streamOf s id = some x →
    (x.lock.isSome = true → Completes (.ssrcLockRelease id b) s
      (setStream (toLt (max (x.lastA.getD 0) (x.lastB.getD 0) + 10 ^ 9) s) { x with lock := none, upTo := none }))
    ∧ (x.lock = none → Completes (.ssrcLockRelease id b) s s))
  ∧ (∀ id b s x t, s.boot.held = false → streamOf s id = some x →
    (if b then x.lastB else x.lastA) = some t →
    ((if b then x.upB else x.upA) = false → Completes (.pathDown id b) s s)
    ∧ ((if b then x.upB else x.upA) = true →
      ∀ y : Machine.Stream, y = (if b then { x with upB := false } else { x with upA := false }) →
      ∀ q, q = pathMisses (toLt (t + 10 ^ 8) s) y b →
      ((y.upA || y.upB) = true →
        Completes (.pathDown id b) s (recEventX (setStream q.1 q.2) .wall xPathDown [w32 id, flagAt b 0]))
      ∧ ((y.upA || y.upB) = false →
        Completes (.pathDown id b) s
          (recEventX (setStream q.1 { q.2 with st := if x.st = 3 then 4 else x.st, upTo := none }) .wall xPathDown
            [w32 id, flagAt b 0]))))
  )

/-- The PTP messages that reach an active interface of a sender with the right tag: one that finds no token is dropped
under class 9 (03 R54, R58). For a slot that runs, on an interface of its mask, an Announce gives the slot its first
master, a master's next one is taken over, one of a better master takes its place and one of a worse is passed over;
any other changes nothing (11 R243). Of the master, a one-step Sync gives the pair of times and a two-step one waits
for its Follow_Up, and a Delay_Resp completes the exchange whose stamp is still in the queue with the mean of the
two one-way times; those of another source change nothing (11 R243 to R245). The PTP timers: a Delay_Req leaves with
the next ID and its stamp waits in the queue, which says so where it is full; without an address the slot loses its
lock; a stamp is kept 10 ms (11 R243, R245). A slot without Announce for three intervals has no master and goes to
ACQUIRING unless it is in quarantine or suspect; a quarantine that ends lets new exchanges give the mean (11 R243,
R246). Readings of the model itself that it rests on: logs 20, 21, 89 and 127. -/
def Obligations.PtpSlots : Prop :=
  (
  ∀ s (rx : PtpIn), s.boot.held = false → s.id.sender = true → bit (rd s (netIfCtrl + 16 * rx.at_.iface)) 31 = true →
  vlanOk s rx.at_.iface rx.at_.vlan = true →
  (netToken s rx.at_.iface 9 = none →
    (∀ set steps gm src interval, Completes (.ptpAnnounce rx set steps gm src interval) s (dropFrame s 9))
    ∧ (∀ seq two t1 t2 corr logSync, Completes (.ptpSync rx seq two t1 t2 corr logSync) s (dropFrame s 9))
    ∧ (∀ seq t1 corr, Completes (.ptpFollowUp rx seq t1 corr) s (dropFrame s 9))
    ∧ (∀ id t4 corr logMin, Completes (.ptpDelayResp rx id t4 corr logMin) s (dropFrame s 9)))
  ∧ (∀ b, netToken s rx.at_.iface 9 = some b →
    (∀ set steps gm src interval, ptpOn b rx.slot = true → bit (ptpCfg b rx.slot) (16 + rx.at_.iface % 8) = true →
      ∀ m : Master, m = { set := set, steps := steps, gm := gm, src := src, iface := rx.at_.iface } →
      ((ptp b rx.slot).master = none → Completes (.ptpAnnounce rx set steps gm src interval) s
        (setPtp b rx.slot { ptp b rx.slot with
          st := max (ptp b rx.slot).st 2, master := some m, annAt := lt b, interval := Int.ofNat interval }))
      ∧ (∀ o, (ptp b rx.slot).master = some o →
        (o.src = src → Completes (.ptpAnnounce rx set steps gm src interval) s
          (setPtp b rx.slot { ptp b rx.slot with master := some m, annAt := lt b, interval := Int.ofNat interval }))
        ∧ (o.src ≠ src → betterMaster m o = true → Completes (.ptpAnnounce rx set steps gm src interval) s
          (selectSlot (setPtp b rx.slot (newMaster (ptp b rx.slot) m (lt b) interval))))
        ∧ (o.src ≠ src → betterMaster m o = false → Completes (.ptpAnnounce rx set steps gm src interval) s b)))
    ∧ (∀ set steps gm src interval, (ptpOn b rx.slot = false ∨ bit (ptpCfg b rx.slot) (16 + rx.at_.iface % 8) = false) →
      Completes (.ptpAnnounce rx set steps gm src interval) s b)
    ∧ (fromMaster b rx = false →
      (∀ seq two t1 t2 corr logSync, Completes (.ptpSync rx seq two t1 t2 corr logSync) s b)
      ∧ (∀ seq t1 corr, Completes (.ptpFollowUp rx seq t1 corr) s b)
      ∧ (∀ id t4 corr logMin, Completes (.ptpDelayResp rx id t4 corr logMin) s b))
    ∧ (fromMaster b rx = true →
      (∀ seq t1 t2 corr logSync, -7 ≤ logSync → logSync ≤ 1 →
        Completes (.ptpSync rx seq false t1 t2 corr logSync) s
          (setPtp b rx.slot { ptp b rx.slot with logSync := logSync, sync := none, pair := some (t1 + corr, t2) })
        ∧ Completes (.ptpSync rx seq true t1 t2 corr logSync) s
          (setPtp b rx.slot { ptp b rx.slot with logSync := logSync, sync := some (seq, t2, corr) }))
      ∧ (∀ seq t1 t2 c corr, (ptp b rx.slot).sync = some (seq, t2, c) →
        Completes (.ptpFollowUp rx seq t1 corr) s
          (setPtp b rx.slot { ptp b rx.slot with sync := none, pair := some (t1 + corr + c, t2) }))
      ∧ (∀ id t4 corr logMin iface t1 t2 e, (ptp b rx.slot).req = some (id, iface) →
        (ptp b rx.slot).pair = some (t1, t2) →
        (tsq b (iface / 4)).find? (fun e => e.id == id && e.slot == rx.slot) = some e →
        Completes (.ptpDelayResp rx id t4 corr logMin) s
          (exchange
            (setTsq (setPtp b rx.slot { ptp b rx.slot with req := none, logMin := logMin }) (iface / 4)
              ((tsq b (iface / 4)).filter (fun y => y.id != id)))
            rx.slot (fdiv ((t2 - t1) + (t4 - e.t3 - corr)) 2) (t2 - t1)))))
  )
  ∧
  (
  (∀ s d m, s.boot.held = false → ptpOn s d = true → (ptp s d).master = some m →
    hasAddr s m.iface (bit (ptpCfg s d) 28) = true → (tsq s (m.iface / 4)).length < 16 →
    ∃ u e, Completes (.delayReqTimer d) s u ∧ tsq u (m.iface / 4) = (s.time.tsq.set (m.iface / 4)
        (tsq s (m.iface / 4) ++ [e])).getD (m.iface / 4) []
      ∧ e.id = BitVec.ofNat 8 (getF s (timTsq + m.iface / 4) 15 8) ∧ e.slot = d ∧ e.at_ = lt u
      ∧ (∀ t, (ptp s d).reqAt = some t → t ≤ lt u)
      ∧ u.out = s.out ++ [.net m.iface (txTag s m.iface) (.delayReq d e.id (m.iface / 4) (bit (ptpCfg s d) 29))])
  ∧ (∀ s d m, s.boot.held = false → ptpOn s d = true → (ptp s d).master = some m →
    ∃ v, (∀ t, (ptp s d).reqAt = some t → t ≤ lt v) ∧ (∀ e, ptp v e = ptp s e)
      ∧ (hasAddr s m.iface (bit (ptpCfg s d) 28) = false → Completes (.delayReqTimer d) s
        (selectSlot (setPtp v d { ptp s d with
          st := if (ptp s d).st = 3 then 2 else (ptp s d).st, lockRun := 0, lockedAt := none })))
      ∧ (hasAddr s m.iface (bit (ptpCfg s d) 28) = true → 16 ≤ (tsq s (m.iface / 4)).length →
        Completes (.delayReqTimer d) s
          (setPtp (setF v (timTsq + m.iface / 4) 31 31 1) d { ptp s d with req := none, reqAt := some (lt v) })))
  ∧ (∀ s p id, s.boot.held = false →
    (∀ e, (tsq s p).find? (fun e => e.id == id) = some e → Completes (.tsqEntryExpire p id) s
      (setTsq (toLt (e.at_ + 10 ^ 7) s) p ((tsq s p).filter (fun y => y.id != id))))
    ∧ ((tsq s p).find? (fun e => e.id == id) = none → Completes (.tsqEntryExpire p id) s s))
  ∧ (∀ s d, s.boot.held = false → ptpOn s d = true → (ptp s d).master.isSome = true →
    Completes (.announceTimeout d) s
      (selectSlot (setPtp (toLt ((ptp s d).annAt + 3 * (ptp s d).interval.toNat) s) d
        { ptp s d with
          st := if (ptp s d).st = 4 ∨ (ptp s d).st = 5 then (ptp s d).st else 2
          master := none, lockRun := 0, lockedAt := none })))
  ∧ (∀ s d, s.boot.held = false → (ptpOn s d = false ∨ (ptp s d).master = none) → Completes (.announceTimeout d) s s)
  ∧ (∀ s d, s.boot.held = false →
    (∀ t, (ptp s d).quar = some t → Completes (.quarantineEnd d) s
      (setPtp (toLt t s) d { ptp s d with quar := none, delays := [], fresh := 0 }))
    ∧ ((ptp s d).quar = none → Completes (.quarantineEnd d) s s))
  )

/-- Holdover and validity: past 900 ns of estimated error the loss of frame lock is reported once, past VLIM VALID falls
(11 R249); VALID falls when the hold of a tile that has lost its marks ends (11 R252); TIME_READ answers the time
bases of one tick (11 R263). Marks: every 100 µs of the clock a SECONDS block and a MARK leave on every port towards
a follower, with the time at which they leave (11 R251; 06 R120); a device without time sends none; the seconds of a
mark source are kept (11 R252); a tile that holds no time takes the clock of its first mark on UP, with VALID and
epoch (11 R252); a tile that follows UP and loses both sources enters holdover and keeps VALID for 100 ms (11 R252).
Readings of the model itself that it rests on: log 48. -/
def Obligations.TimeAndMarks : Prop :=
  (
  (∀ s h, s.boot.held = false → s.id.sender = true → s.time.holdSince = some h → 1 ≤ getF s timHold 15 0 →
    (s.time.herrTold = true → ∃ u, Completes .herrLimit s u ∧ u.time.valid = false
      ∧ getF s timValid 15 0 * 1000 < s.time.filtered.natAbs + getF s timHold 15 0 * (lt u - h) / 10 ^ 9)
    ∧ (s.time.herrTold = false → 1 ≤ getF s timValid 15 0 → ∃ u, Completes .herrLimit s u ∧ u.time.herrTold = true
      ∧ 900 < s.time.filtered.natAbs + getF s timHold 15 0 * (lt u - h) / 10 ^ 9))
  ∧ (∀ s t, s.boot.held = false → s.time.validUntil = some t →
    ∃ u, Completes .validHoldExpire s u ∧ u.time.valid = false ∧ u.time.validUntil = none ∧ t ≤ lt u)
  ∧ (∀ p s a c, Accepted 0x0701 p s a c → p.payload = [] → Room a p (timeWords a) →
    AnswersOk (.timeRead p) p s a c (timeWords a))
  )
  ∧
  (
  (∀ s, s.boot.held = false → (s.id.sender = true ∨ s.time.has = true) →
    ∃ u, Completes .markSendTimer s u ∧ now s ≤ now u ∧ s.time.lastMark + 100000 ≤ now u ∧ u.time.lastMark = now u
      ∧ u.out = s.out ++ (markPorts s).flatMap (fun p =>
          [.block p (secondsBlock ((now u + alignShift u p) / 10 ^ 9))
          , .block p (markBlock s.time.epoch s.time.valid ((now u + alignShift u p) % 4)
              (wt32 (now u + alignShift u p)))]))
  ∧ (∀ tw secs s, s.boot.held = false →
    ∃ u, Completes (.secondsReceived tw secs) s u ∧ (markSrc u tw).secs = some secs.toNat
      ∧ markSrc u (!tw) = markSrc s (!tw))
  ∧ (∀ s epoch subns wt secs x, s.boot.held = false → s.id.sender = false → s.time.has = false →
    (markSrc s false).secs = some secs → s.link.ports.find? (fun x => x.p == 0) = some x →
    (4 * wt.toNat + subns + 2 ^ 34 - secs * 10 ^ 9 % 2 ^ 34) % 2 ^ 34 < 10 ^ 9 →
    ∃ u, Completes (.markReceived false epoch true subns wt 0) s u ∧ u.time.has = true ∧ u.time.valid = true
      ∧ u.time.epoch = epoch ∧ u.time.src = 3
      ∧ now u = (secs * 10 ^ 9 + (4 * wt.toNat + subns + 2 ^ 34 - secs * 10 ^ 9 % 2 ^ 34) % 2 ^ 34 + x.lat) / 4 * 4)
  ∧ (∀ s t, s.boot.held = false → s.id.sender = false → s.time.src = 3 → (markSrc s false).last = some t →
    (markSrc s true).last = none → s.time.valid = true →
    ∃ u, Completes (.markSourceLoss false) s u ∧ u.time.src = 5 ∧ u.time.state = 3 ∧ u.time.valid = true
      ∧ u.time.validUntil = some (lt u + 100 * 10 ^ 6) ∧ t + 400000 < lt u)
  )

/-- A selected edge of a trigger input is stamped with the clock and LT at 1 ns, and dropped where 32 stamps wait; where
EVR.CFG selects the input it also writes a snapshot whose instant is the stamp (20 R431); an edge that is not
selected does nothing (11 R259). TRIG_IN_READ returns the stamps and removes them. The comparator commands:
TRIG_OUT_SET in each of its modes, REC_SNAP_AT and CYCLE_SET take the lowest free comparator and answer its index,
or are refused with CONFLICT where none is free, with the rank of the holder of comparator 0 (01 R25, R27), where
the answer fits the transport (03 R55). TRIG_OUT_SET with MODE 0 frees the comparator of its output and answers
0xFF, and is refused with BAD_PARAM for a width below 8 ns or a one-shot start that has passed; CMP_FREE frees one
held by TRIG_OUT_SET or CYCLE_SET, answers OK for a free one and is refused for one the recorder holds (11 R260 to
R262; 13 R313). A comparator at its instant, those due with it of a lower rank or index having fired before it (01
R26, R27). One that goes first: a one-shot output pulses and the comparator is free again, a periodic output pulses
and goes on one period later, a timed snapshot writes its record, and a cycle runs its command, being free again
with its last firing. While VALID is 0 a one-shot output, a snapshot and a one-shot cycle read MISSED and are free,
and a periodic one counts the firing it misses and goes on one period later (11 R260 to R262; 20 R431). Readings of
the model itself that it rests on: logs 83, 84, 96 and 110. -/
def Obligations.TriggersAndComparators : Prop :=
  (
  (∀ s k rising subns, s.boot.held = false → k < 4 → subns < 4 →
    tinEdges s k &&& (if rising then 1 else 2) ≠ 0 →
    ∀ q, q = (if (s.time.trig.getD k []).length < 32 then
        setTrig s k (s.time.trig.getD k [] ++
          [[flagAt s.time.valid 31 ||| mkFld 23 16 s.time.epoch.toNat
              ||| mkFld 15 0 ((now s + subns) / 10 ^ 9 / 2 ^ 32)
            , w32 ((now s + subns) / 10 ^ 9), w32 ((now s + subns) % 10 ^ 9), w32 (lt s + subns)]])
      else bumpF s (timTin + k) 31 16) →
    (bit (rd s evrCfg) k = false → Completes (.trigInEdge k rising subns) s q)
    ∧ (bit (rd s evrCfg) k = true →
      Completes (.trigInEdge k rising subns) s
        (putRec q { mkRec q 0x0C11 (snapWords q) with wt := now s + subns })))
  ∧ (∀ s k rising subns, s.boot.held = false → k < 4 →
    tinEdges s k &&& (if rising then 1 else 2) = 0 → Completes (.trigInEdge k rising subns) s s)
  ∧ (∀ p s a c w, Accepted 0x0704 p s a c → p.payload = [w] →
    Room a p (w32 (a.time.trig.getD (fld w 1 0) []).length :: (a.time.trig.getD (fld w 1 0) []).flatMap id) →
    AnswersOk (.trigInRead p) p s (setTrig a (fld w 1 0) []) c
      (w32 (a.time.trig.getD (fld w 1 0) []).length :: (a.time.trig.getD (fld w 1 0) []).flatMap id))
  )
  ∧
  (
  (∀ p s a c o hi sec ns per w, Accepted 0x0702 p s a c → p.payload = [o, hi, sec, ns, per, w] →
    4 ≤ replyRoom a p.via →
    (fld o 29 28 = 0 → AnswersOk (.trigOutSet p) p s (freeOut a (fld o 31 30)) c [0xFF])
    ∧ (fld o 29 28 ≠ 0 → w.toNat < 8 → AnswersNo (.trigOutSet p) p s a c stBadParam [])
    ∧ (fld o 29 28 = 1 → clkOfWords hi sec ns < now a → AnswersNo (.trigOutSet p) p s a c stBadParam [])
    ∧ (∀ first, 8 ≤ w.toNat →
      ((fld o 29 28 = 1 ∧ ns.toNat < 10 ^ 9 ∧ w.toNat ≤ 10 ^ 9 ∧ now a ≤ clkOfWords hi sec ns
          ∧ first = clkOfWords hi sec ns)
        ∨ (fld o 29 28 = 2 ∧ ns.toNat < 10 ^ 9 ∧ 1000 ≤ per.toNat ∧ per.toNat ≤ 4 * 10 ^ 9 ∧ w.toNat ≤ per.toNat / 2
          ∧ first = firstAhead a (clkOfWords hi sec ns) per.toNat)
        ∨ (fld o 29 28 = 3 ∧ w.toNat ≤ period (rate a) / 2 ∧ first = 0)) →
      (∀ k, freeComp (freeOut a (fld o 31 30)) = some k →
        AnswersOk (.trigOutSet p) p s
          (setComp (freeOut a (fld o 31 30)) k
            (taken (.trig (fld o 31 30) (fld o 29 28) per.toNat w.toNat) first c)) c [w32 k])
      ∧ (∀ u, freeComp (freeOut a (fld o 31 30)) = none → (comp (freeOut a (fld o 31 30)) 0).use = some u →
        AnswersNo (.trigOutSet p) p s (freeOut a (fld o 31 30)) c stConflict [conflictWord 0x07 (useRank u) 0])))
  ∧ (∀ p s a c hi sec ns, Accepted 0x0C03 p s a c → p.payload = [hi, sec, ns] → ns.toNat < 10 ^ 9 →
    4 ≤ replyRoom a p.via →
    (∀ k, freeComp a = some k →
      AnswersOk (.recSnapAt p) p s (setComp a k (taken .snap (clkOfWords hi sec ns) c)) c [w32 k])
    ∧ (∀ u, freeComp a = none → (comp a 0).use = some u →
      AnswersNo (.recSnapAt p) p s a c stConflict [conflictWord 0x07 (useRank u) 0]))
  ∧ (∀ p s a c hi sec ns per cnt l first, Accepted 0x0710 p s a c → p.payload = hi :: sec :: ns :: per :: cnt :: l →
    8 ≤ l.length → ns.toNat < 10 ^ 9 → hKind (embeddedHdr p) = 1 → hDmode (embeddedHdr p) = 0 →
    hKeyc (embeddedHdr p) = c.keyc → mayEmbed (hOpcode (embeddedHdr p)) = true → hLength (embeddedHdr p) ≤ 1024 →
    hLength (embeddedHdr p) = 4 * (l.length - 8) → 4 ≤ replyRoom a p.via →
    ((per.toNat = 0 ∧ first = clkOfWords hi sec ns)
      ∨ (1000 ≤ per.toNat ∧ per.toNat ≤ 4 * 10 ^ 9
        ∧ first = firstAhead a (clkOfWords hi sec ns) (1000 * per.toNat))) →
    (∀ k, freeComp a = some k →
      AnswersOk (.cycleSet p) p s
        (setComp a k (taken (.cycle a.smb.wall per.toNat (fld cnt 31 16) 0
            { via := .mgmt, hdr := embeddedHdr p, payload := l.drop 8, tag := 0, size := 0 }
            (hOpcode (embeddedHdr p)) (hKeyc (embeddedHdr p))) first c)) c [w32 k])
    ∧ (∀ u, freeComp a = none → (comp a 0).use = some u →
      AnswersNo (.cycleSet p) p s a c stConflict [conflictWord 0x07 (useRank u) 0]))
  ∧ (∀ p s a c w, Accepted 0x0712 p s a c → p.payload = [w] →
    ((comp a (fld w 3 0)).use = none → AnswersOk (.cmpFree p) p s a c [])
    ∧ ((comp a (fld w 3 0)).use = some .snap → AnswersNo (.cmpFree p) p s a c stNotInState [])
    ∧ (∀ u, (comp a (fld w 3 0)).use = some u → u ≠ .snap →
      AnswersOk (.cmpFree p) p s (setComp a (fld w 3 0) compFree) c []))
  )
  ∧
  (
  ∀ s k x, s.boot.held = false → k < s.time.comps.length →
  ((fireRank (comp s k)).isSome = true → Completes (.comparatorFire k x) s
    (fireDue x (((fireOrder (toClk (comp s k).instant s)).takeWhile (fun j => j != k)).foldl (fireDue x)
      (toClk (comp s k).instant s)) k))
  ∧ ((fireOrder (toClk (comp s k).instant s)).head? = some k →
  (∀ o per w, (comp s k).use = some (.trig o 1 per w) → s.time.valid = true →
    Completes (.comparatorFire k x) s
      (emit (setComp (toClk (comp s k).instant s) k compFree) (.trigOut o w)))
  ∧ (∀ o per w, (comp s k).use = some (.trig o 2 per w) → s.time.valid = true →
    Completes (.comparatorFire k x) s
      (emit (setComp (toClk (comp s k).instant s) k { comp s k with instant := (comp s k).instant + per })
        (.trigOut o w)))
  ∧ ((comp s k).use = some .snap → s.time.valid = true →
    Completes (.comparatorFire k x) s
      (record (setComp (toClk (comp s k).instant s) k compFree) 0x0C10 (snapWords (toClk (comp s k).instant s))))
  ∧ (∀ owner per cnt n p op keyc, (comp s k).use = some (.cycle owner per cnt n p op keyc) → s.time.valid = true →
    ((per = 0 ∨ cnt ≠ 0 ∧ cnt ≤ n + 1) → Completes (.comparatorFire k x) s
      (fireCycle (setComp (toClk (comp s k).instant s) k compFree) x k (n + 1) owner op keyc p))
    ∧ (per ≠ 0 → (cnt = 0 ∨ n + 1 < cnt) → Completes (.comparatorFire k x) s
      (fireCycle (setComp (toClk (comp s k).instant s) k { comp s k with
        use := some (.cycle owner per cnt (n + 1) p op keyc), instant := (comp s k).instant + 1000 * per })
        x k (n + 1) owner op keyc p)))
  ∧ (s.time.valid = false →
    (((∃ o per w, (comp s k).use = some (.trig o 1 per w)) ∨ (comp s k).use = some .snap
        ∨ (∃ owner cnt n p op keyc, (comp s k).use = some (.cycle owner 0 cnt n p op keyc))) →
      ∃ u, Completes (.comparatorFire k x) s u ∧ (comp u k).use = none ∧ (comp u k).missed = true)
    ∧ (∀ d, ((∃ o w, (comp s k).use = some (.trig o 2 d w))
        ∨ (∃ owner per cnt n p op keyc, (comp s k).use = some (.cycle owner per cnt n p op keyc) ∧ per ≠ 0
          ∧ d = 1000 * per)) →
      Completes (.comparatorFire k x) s
        (setComp (toClk (comp s k).instant s) k
          { comp s k with instant := (comp s k).instant + d, misses := (comp s k).misses + 1 }))))
  )

/-- LAYER_SET: a layer that passes R77 is held where bit 8 of word 0 asks for it; else it is answered PENDING as a
change of the canvas, and refused with NOT_IN_STATE while the held set changes that layer; a layer that fails,
judged with the held set where it is to be held, is refused with BAD_PARAM and the word that says why, and so is one
with a reserved bit (04 R77, R79, R83). HOLD_DISCARD empties the held set (04 R79). COMMIT_AT takes the held set for
the frame nearest its WT32 and marks it late where the latch of that frame has passed; it needs VALID, a target at
most 8 s ahead, and fewer than four sets already waiting; an empty held set answers OK (04 R80). Readings of the
model itself that it rests on: logs 24 and 97. -/
def Obligations.LayersAndCommit : Prop :=
  (
  (∀ p s a c w l, Accepted 0x0301 p s a c → p.payload = w :: l → l.length = 8 →
    (w &&& ~~~0x11F ≠ 0 → AnswersNo (.layerSet p) p s a c stBadParam [whyWord 4 0 0])
    ∧ (w &&& ~~~0x11F = 0 → bit w 8 = true →
      ∀ v, v = layerRefusal a { tablesSoon a with
          layers := a.canvas.held.foldr (fun e m => m.set e.1 e.2) (tablesSoon a).layers } (fld w 4 0) l →
      (v = none → AnswersOk (.layerSet p) p s
          { a with canvas := { a.canvas with held := put (fld w 4 0) l a.canvas.held } } c [])
      ∧ (∀ x, v = some x → AnswersNo (.layerSet p) p s a c stBadParam [x]))
    ∧ (w &&& ~~~0x11F = 0 → bit w 8 = false →
      (layerRefusal a (tablesSoon a) (fld w 4 0) l = none →
        (a.canvas.held.any (fun e => e.1 == fld w 4 0) = false →
          AnswersPending (.layerSet p) p s (proposeCmd a c (.layer (fld w 4 0) l)) c)
        ∧ (a.canvas.held.any (fun e => e.1 == fld w 4 0) = true →
          AnswersNo (.layerSet p) p s a c stNotInState []))
      ∧ (∀ x, layerRefusal a (tablesSoon a) (fld w 4 0) l = some x →
        AnswersNo (.layerSet p) p s a c stBadParam [x])))
  ∧ (∀ p s a c, Accepted 0x0311 p s a c → p.payload = [] →
    AnswersOk (.holdDiscard p) p s { a with canvas := { a.canvas with held := [] } } c [])
  )
  ∧
  (
  ∀ p s a c t, Accepted 0x0310 p s a c → p.payload = [t] →
  (a.time.valid = false → AnswersNo (.commitAt p) p s a c stNotInState [])
  ∧ (a.time.valid = true → 8 * 10 ^ 9 < 4 * sdiff t (nowW a) → AnswersNo (.commitAt p) p s a c stBadParam [])
  ∧ (a.time.valid = true → 4 * sdiff t (nowW a) ≤ 8 * 10 ^ 9 →
    (a.canvas.held = [] → AnswersOk (.commitAt p) p s a c [])
    ∧ (a.canvas.held ≠ [] →
      (4 ≤ (takenSets a).length → AnswersNo (.commitAt p) p s a c stBusy [])
      ∧ ((takenSets a).length < 4 →
        AnswersPending (.commitAt p) p s
          (proposeCmd { a with canvas := { a.canvas with held := [] } } c
            (.commit (decide (decision a (instantAt (rate a) (nearClk (now a) t)) ≤ now a)) (nearClk (now a) t)
              a.canvas.held.reverse)) c)))
  )

/-- TILE_RECT stages the rectangle of an enrolled tile that fits the canvas and overlaps no other, and refuses one that
overlaps, that does not fit, that is wider than 64 or higher than 48 blocks or has one dimension 0 alone, and one
beside 512 others; one of 0 by 0 blocks, which takes the rectangle away, is staged as it is, and one of a tile not
enrolled is refused; RECT_READ answers the rectangle in effect, or NOT_IN_STATE where there is none (04 R72).
REGION_DEFINE with EN 1 keeps a region that lies in the canvas, answers PENDING and tells the tiles that it crosses
or has crossed, and refuses one that lies outside or does not fit its limits; with EN 0 it takes the region away,
telling its tiles, or answers OK where there is none; REGION_READ answers a region (10 R221 to R223, R238); a tile
queues a region set for its next edge, takes the certificates of its rail and chain that lie in its level window (10
R226; 05 R100, R112) and holds a region stale from its deadline on (10 R228). Readings of the model itself that it
rests on: log 26. -/
def Obligations.RectanglesAndRegions : Prop :=
  (
  (∀ p s a c w0 w1 w2, Accepted 0x0320 p s a c → p.payload = [w0, w1, w2] →
    (a.flume.enrolled.any (fun e => e.1 == BitVec.ofNat 16 (fld w0 31 16)) = false →
      AnswersNo (.tileRect p) p s a c stBadParam [])
    ∧ (a.flume.enrolled.any (fun e => e.1 == BitVec.ofNat 16 (fld w0 31 16)) = true →
      fld w2 31 16 = 0 → fld w2 15 0 = 0 →
      AnswersPending (.tileRect p) p s { a with canvas := { a.canvas with stagedRects := a.canvas.stagedRects
        ++ [({ na := BitVec.ofNat 16 (fld w0 31 16), xb := fld w1 31 16, yb := fld w1 15 0, wtb := 0, htb := 0
               fresh := true }, now a, c)] } } c)
    ∧ (a.flume.enrolled.any (fun e => e.1 == BitVec.ofNat 16 (fld w0 31 16)) = true →
      1 ≤ fld w2 31 16 → 1 ≤ fld w2 15 0 →
      ((tablesSoon a).wb < fld w1 31 16 + fld w2 31 16 ∨ (tablesSoon a).hb < fld w1 15 0 + fld w2 15 0) →
      AnswersNo (.tileRect p) p s a c stBadParam [])
    ∧ (((fld w2 31 16 = 0 ∧ fld w2 15 0 ≠ 0) ∨ (fld w2 31 16 ≠ 0 ∧ fld w2 15 0 = 0)
        ∨ 64 < fld w2 31 16 ∨ 48 < fld w2 15 0
        ∨ (1 ≤ fld w2 31 16
          ∧ 512 ≤ ((rectsSoon a).filter (fun x => x.na != BitVec.ofNat 16 (fld w0 31 16))).length)) →
      AnswersNo (.tileRect p) p s a c stBadParam []))
  ∧ (∀ p s a c w0 w1 w2, Accepted 0x0320 p s a c → p.payload = [w0, w1, w2] →
    a.flume.enrolled.any (fun e => e.1 == BitVec.ofNat 16 (fld w0 31 16)) = true →
    1 ≤ fld w2 31 16 → fld w2 31 16 ≤ 64 → 1 ≤ fld w2 15 0 → fld w2 15 0 ≤ 48 →
    fld w1 31 16 + fld w2 31 16 ≤ (tablesSoon a).wb → fld w1 15 0 + fld w2 15 0 ≤ (tablesSoon a).hb →
    ∀ r : Rect, r = { na := BitVec.ofNat 16 (fld w0 31 16), xb := fld w1 31 16, yb := fld w1 15 0
                      wtb := fld w2 31 16, htb := fld w2 15 0, fresh := true } →
    ((rectsSoon a).filter (fun x => x.na != r.na)).length < 512 →
    ((rectsSoon a).any (fun x => x.na != r.na && rectsOverlap x r) = false →
      AnswersPending (.tileRect p) p s
        { a with canvas := { a.canvas with stagedRects := a.canvas.stagedRects ++ [(r, now a, c)] } } c)
    ∧ ((rectsSoon a).any (fun x => x.na != r.na && rectsOverlap x r) = true →
      AnswersNo (.tileRect p) p s a c stBadParam []))
  ∧ (∀ p s a c w, Accepted 0x0321 p s a c → p.payload = [w] →
    (∀ r, rectOf a (BitVec.ofNat 16 (fld w 31 16)) = some r → 12 ≤ replyRoom a p.via →
      AnswersOk (.rectRead p) p s a c
        [mkFld 31 16 r.na.toNat, mkFld 31 16 r.xb ||| w32 r.yb, mkFld 31 16 r.wtb ||| w32 r.htb])
    ∧ (rectOf a (BitVec.ofNat 16 (fld w 31 16)) = none → AnswersNo (.rectRead p) p s a c stNotInState []))
  )
  ∧
  (
  (∀ p s a c w, Accepted 0x0401 p s a c → p.payload.length = 4 → w = rgClean p.payload →
    (rgEn w = false →
      (regionOf a (rgNum w) = none → AnswersOk (.regionDefine p) p s a c [])
      ∧ (∀ o, regionOf a (rgNum w) = some o →
        Completes (.regionDefine p) s
          (a.canvas.rects.foldl (fun u r => sendRegionChange u r (some o.words) none (some c))
            (reply (keepSettings { a with flume := { a.flume with
              regions := a.flume.regions.filter (fun x => x.num != rgNum w) } }) c p.via stOk []))))
    ∧ (rgEn w = true → rgRangeOk w = true → rgXb w + rgWb w ≤ getF a cmpCanvas 27 16 →
      rgYb w + rgHb w ≤ getF a cmpCanvas 10 0 → tooManyRegions a w = false →
      ∀ x : Region, x = (match regionOf a (rgNum w) with
        | some o => { o with words := w }
        | none => { num := rgNum w, words := w, fails := [], vouched := [] }) →
      Completes (.regionDefine p) s
        (regionsAcked (a.canvas.rects.foldl
          (fun u r => sendRegionChange u r ((regionOf a (rgNum w)).map (·.words)) (some w) (some c))
          (reply (keepSettings { a with flume := { a.flume with
            regions := x :: a.flume.regions.filter (fun x => x.num != rgNum w)
            defining := a.flume.defining ++ [(rgNum w, c)] } }) c p.via stPending []))))
    ∧ (rgEn w = true → (rgRangeOk w = false ∨ getF a cmpCanvas 27 16 < rgXb w + rgWb w
        ∨ getF a cmpCanvas 10 0 < rgYb w + rgHb w ∨ tooManyRegions a w = true) →
      AnswersNo (.regionDefine p) p s a c stBadParam []))
  ∧ (∀ p s a c w, Accepted 0x0402 p s a c → p.payload = [w] →
    (a.id.sender = true → regionOf a (fld w 11 0) = none → AnswersNo (.regionRead p) p s a c stNotInState [])
    ∧ (∀ g, a.id.sender = true → regionOf a (fld w 11 0) = some g →
      Room a p (g.words ++ (List.range 8).map (fun c => w32 ((look c g.fails).getD 0))) →
      AnswersOk (.regionRead p) p s a c (g.words ++ (List.range 8).map (fun c => w32 ((look c g.fails).getD 0))))
    ∧ (a.id.sender = false → Room a p (regionWords a (fld w 11 0)) →
      AnswersOk (.regionRead p) p s a c (regionWords a (fld w 11 0))))
  ∧ (∀ r s, s.boot.held = false → s.id.sender = false →
    Completes (.regionSetReceived r) s { s with weir := { s.weir with sets := s.weir.sets ++ [(r, now s)] } })
  ∧ (∀ k h b x s, s.boot.held = false → flumeBody k 3 = some (h, b) → readCert b = some x →
    (s.id.sender = false → inRecovery s = false → ownRail s k = true → h.bcast = true →
      h.route.toNat / 2 ^ 37 = plChain s.id.place → ownLow s ≤ h.level → h.level ≤ ownHigh s →
      Completes (.certificateReceived k.toLinkStart k.toLinkRest) s (x.ents.foldl (certEntry x) s))
    ∧ ((h.level < ownLow s ∨ ownHigh s < h.level) → Completes (.certificateReceived k.toLinkStart k.toLinkRest) s s))
  ∧ (∀ n s r d, s.boot.held = false → heldRegion s n = some r → r.deadline = some d → r.stale = false →
    Completes (.regionDeadline n) s (regionStale (toClk d s) n))
  ∧ (∀ n s, s.boot.held = false →
    (heldRegion s n = none ∨ (∃ r, heldRegion s n = some r ∧ (r.deadline = none ∨ r.stale = true))) →
    Completes (.regionDeadline n) s s)
  )

/-- The canvas frame of a sender: the latch fixes the next frame's start and the layers in effect (04 R73), the start
begins the composition of what was latched, where the latch did not skip the frame (04 R75), and a composition that
ends before the next latch is the newest completed frame and is counted (04 R75, R92); one that does not is
abandoned and counted so (04 R75). With nothing to latch, latched or composing these instants change nothing.
Readings of the model itself that it rests on: logs 27 and 97. -/
def Obligations.CanvasFrames : Prop :=
  ∀ s, s.boot.held = false →
  ((s.id.sender = false ∨ s.canvas.latched.isSome = true) → Completes .canvasLatch s s)
  ∧ (s.canvas.latched = none → Completes .canvasFrameStart s s)
  ∧ (s.canvas.composing = none → Completes .canvasFrameComplete s s)
  ∧ (s.id.sender = true → s.canvas.latched = none →
    ∃ u l, Completes .canvasLatch s u ∧ u.canvas.latched = some l ∧ l.start = nextEdge s ∧ l.layers = layersNow u)
  ∧ (∀ l, s.canvas.latched = some l →
    ∃ u, Completes .canvasFrameStart s u ∧ u.canvas.latched = none
      ∧ u.canvas.composing = (if l.skip then none else some l)
      ∧ u.time.lastEdge = some (l.start, lt u) ∧ l.start ≤ now u)
  ∧ (∀ l, s.canvas.composing = some l →
    (now s < decision s (nextEdge s) →
      ∃ u, Completes .canvasFrameComplete s u ∧ u.canvas.composing = none
        ∧ u.canvas.newest = some (compose s l) ∧ u.canvas.undelivered = true
        ∧ rd u cmpFrames = satAdd (rd s cmpFrames) 1)
    ∧ (decision s (nextEdge s) ≤ now s →
      ∃ u, Completes .canvasFrameComplete s u ∧ u.canvas.composing = none ∧ u.canvas.newest = s.canvas.newest
        ∧ rd u cmpAbandon = satAdd (rd s cmpAbandon) 1))

/-- Owl watches and proofs: OWL_WATCH starts a watch MOVING or removes one, with an event where the one it ends was
FROZEN, and OWL_READ answers it; a checked picture of the same signature changes nothing, one of another makes a
frozen watch MOVING with an event and moves on the time of a moving one, and a watch that does not change for its
time freezes with an event (10 R231 to R234); PROOF_READ answers the newest proof, on a sender with its verdict and
the signature expected (10 R238). Certificates and proofs: every 5 ms the due regions are vouched for on each chain
that can be sent on (10 R224, R225); a proof of a tile of the sender is kept with its verdict, which for a tile at
Flume level 1 is 2; one that does not match resynchronises the tile, counts and tells the wall sessions, one that
reports a fault is counted and recorded, and one of a tile it does not know changes nothing (10 R237); a tile whose
proofs stop coming gets verdict 2 (10 R237, R238). Readings of the model itself that it rests on: logs 28, 41 and
126. -/
def Obligations.OwlAndProofs : Prop :=
  (
  (∀ p s a c w, Accepted 0x0420 p s a c → p.payload.length = 4 →
    w = p.payload.modify 0 (fun x => x &&& 0xFFFE0000) →
    (∀ l t, ((owEn w = false ∧ l = a.flume.watches.filter (fun v => v.num != owNum w))
        ∨ (owEn w = true ∧ owlOk a w = true
          ∧ l = { num := owNum w, words := w, since := now a, wsig := none, st := 1 }
            :: a.flume.watches.filter (fun v => v.num != owNum w))) →
      t = keepSettings { a with flume := { a.flume with
        watches := l, owlQueue := a.flume.owlQueue.filter (fun e => e.1 != owNum w) } } →
      (a.flume.watches.any (fun v => v.num == owNum w && v.st == 2) = false → AnswersOk (.owlWatch p) p s t c [])
      ∧ (a.flume.watches.any (fun v => v.num == owNum w && v.st == 2) = true →
        AnswersOk (.owlWatch p) p s
          (recEvent (takeFree t).2 .wall 0x0411 [w32 (owNum w), Config.noWsig t.free]) c []))
    ∧ (owEn w = true → owlOk a w = false → AnswersNo (.owlWatch p) p s a c stBadParam []))
  ∧ (∀ p s a c w, Accepted 0x0421 p s a c → p.payload = [w] →
    (∀ v, watchOf a (fld w 31 24) = some v → Room a p v.words → AnswersOk (.owlRead p) p s a c v.words)
    ∧ (watchOf a (fld w 31 24) = none → AnswersNo (.owlRead p) p s a c stNotInState []))
  ∧ (∀ n s w id ts x f v, s.boot.held = false → watchOf s n = some w →
    s.flume.owlQueue.find? (fun e => e.1 == n) = some (n, id, ts) → streamOf s id = some x →
    x.slots.find? (fun y => y.ts == ts && (y.st == .ready || y.st == .reading)) = some f →
    wsig w.words f.words f = some v →
    ∀ t, t = { s with flume := { s.flume with owlQueue := s.flume.owlQueue.filter (fun e => e.1 != n) } } →
    (w.wsig = some v → Completes (.owlCheck n) s t)
    ∧ (w.wsig ≠ some v → ∀ u, u = setWatch t { w with wsig := some v, since := f.readyAt, st := 1 } →
      (w.st ≠ 2 → Completes (.owlCheck n) s u)
      ∧ (w.st = 2 → Completes (.owlCheck n) s (recEvent (takeFree u).2 .wall 0x0411 [w32 n, v]))))
  ∧ (∀ n s, s.boot.held = false →
    ((watchOf s n = none ∨ s.flume.owlQueue.find? (fun e => e.1 == n) = none) → Completes (.owlCheck n) s s)
    ∧ ((watchOf s n = none ∨ ∃ w, watchOf s n = some w ∧ w.st ≠ 1) → Completes (.owlFreeze n) s s))
  ∧ (∀ n s w, s.boot.held = false → watchOf s n = some w → w.st = 1 →
    Completes (.owlFreeze n) s
      (recEvent (takeFree (setWatch (toClk (w.since + owTowl w.words * 10 ^ 6) s) { w with st := 2 })).2 .wall 0x0410
        [w32 w.num, w.wsig.getD (Config.noWsig s.free), wt32 w.since]))
  ∧ (∀ p s a c, Accepted 0x0440 p s a c →
    (a.id.sender = false → p.payload = [] → Room a p (proofWords a.weir.proof) →
      AnswersOk (.proofRead p) p s a c (proofWords a.weir.proof))
    ∧ (∀ w, a.id.sender = true → p.payload = [w] → (proofOf a (BitVec.ofNat 16 (fld w 15 0))).last = none →
      Room a p (w32 2 :: 0 :: proofWords none) →
      AnswersOk (.proofRead p) p s a c (w32 2 :: 0 :: proofWords none))
    ∧ (∀ w x m n, a.id.sender = true → p.payload = [w] → x = proofOf a (BitVec.ofNat 16 (fld w 15 0)) →
      x.last = some m →
      n = (match rectOf a (BitVec.ofNat 16 (fld w 15 0)) with | some r => r.wtb * r.htb | none => 0) →
      Room a p (w32 x.verdict :: expectedSig x n :: proofWords (some m)) →
      AnswersOk (.proofRead p) p s a c (w32 x.verdict :: expectedSig x n :: proofWords (some m))))
  )
  ∧
  (
  (∀ s, s.boot.held = false → s.id.sender = true → ∀ t, t = (now s / 5000000 + 1) * 5000000 →
    Completes .certInstant s
      (((s.flume.regions.filter (fun g => certDue g.words t)).map (·.num)).foldl
        (fun u g => (List.range 8).foldl (fun v n => if chainOpen v n then vouch v t g n else v) u) (toClk t s)))
  ∧ (∀ s m, s.boot.held = false → s.id.sender = true → placeOfNa s m.na = none → Completes (.proofReceived m) s s)
  ∧ (∀ s m v, s.boot.held = false → s.id.sender = true → (placeOfNa s m.na).isSome = true →
    v = (if levelOne s m.na then 2 else proofVerdict (proofOf s m.na) m) →
    ∀ s1, s1 = setProof s { proofOf s m.na with last := some m, verdict := v, at_ := lt s } →
    (v ≠ 3 → v ≠ 4 → Completes (.proofReceived m) s s1)
    ∧ (v = 3 →
      Completes (.proofReceived m) s
        (resyncAll (recEvent (bump s1 proofMismatch) .wall 0x0420
          [w32 m.na.toNat, w32 m.frame.toNat, m.mapsig, (look m.frame (proofOf s m.na).frames).getD 0]) m.na))
    ∧ (v = 4 →
      Completes (.proofReceived m) s
        (record (bump s1 proofFault) 0x0421 [w32 m.na.toNat, w32 m.frame.toNat])))
  ∧ (∀ s na x, s.boot.held = false → s.flume.proofs.find? (fun x => x.na == na) = some x → x.last.isSome = true →
    Completes (.proofSilenceTimeout na) s (setProof (toLt (x.at_ + 2 * 10 ^ 9) s) { x with verdict := 2 }))
  )

/-- A delivery starts with the newest completed frame while blocks are pending and none is under way: it is counted and,
where a tile has something to send, numbered one after the last FRAME (05 R97, R99). In lockstep the lead does so,
and the standby with the frame that the lead named; one to which no frame has been named waits (12 R286). At its
edge a delivery ends: the clock reaches the edge, no delivery and no Ek are left, and the sender can start the next
one (05 R105, R108). RESYNC_REQ marks the whole rectangle of a tile (07 R162). What a tile reports after a training
is adopted (06 R127; 05 R112), a crossing device's part in the latency is booked and the chain counts as crossed (06
R119, R137), and the tiles below a break that cannot be bridged are unreachable and to be sent FULL (06 R135; 05
R108). What a chain sends next: at the packet boundary, once the packet in progress and the pace of the chain allow
and the control packets that go ahead have left, waiting certificates go first, then repairs, then the next region
packet, then the commit; with none of them the chain stays idle, and a chain that nothing can be sent on sends
nothing (05 R98, R111; 06 R119, R120). What the sender learns of a delivery: a NACK queues repairs of packets sent,
not queued and not yet tried out, a RECEIVED report moves the edge to the latest and marks the tile, in the tick of
its timeout it is late and the commit goes again, a FAILED one resynchronises the tile, and a chain of which a
report is late sends its commit again within the limit of tries, as long as it arrives before PT (05 R103, R105 to
R108; 11 R258). A packet that fails its check is counted and dropped (06 R118). Readings of the model itself that it
rests on: logs 29, 39, 40, 99 and 107. -/
def Obligations.Deliveries : Prop :=
  (
  ∀ s f, s.boot.held = false → s.id.sender = true → s.canvas.newest = some f → s.flume.delivery = none →
  s.canvas.undelivered = true → anyPending s = true →
  (s.pair.mode = 1 → s.pair.holding = false → s.pair.deliv = none → Completes .deliveryStart s s)
  ∧ ((s.pair.mode ≠ 1 ∨ s.pair.holding = true ∨ ∃ n, s.pair.deliv = some (wt32 f.start, n)) →
  ∃ u, Completes .deliveryStart s u ∧ u.canvas.undelivered = false ∧ rd u flmDeliv = satAdd (rd s flmDeliv) 1
    ∧ (chainPlans s ≠ [] → getF u flmFrame 15 0 = (getF s flmFrame 15 0 + 1) % 65536
      ∧ ∃ d, u.flume.delivery = some d ∧ d.canvas = f ∧ d.chains = chainPlans s ∧ d.pt = none
        ∧ d.frame = lastFrame s + 1))
  )
  ∧
  (
  (∀ s d e, s.boot.held = false → s.flume.delivery = some d → deliveryEdge s d = some e →
    ∃ u, Completes .deliveryEdgeReached s u ∧ u.flume.delivery = none ∧ u.flume.ek = none ∧ e ≤ now u)
  ∧ (∀ s na reason, s.boot.held = false → s.id.sender = true →
    (∀ r, rectOf s na = some r → Completes (.resyncReqReceived na reason) s
      (setDmg s { dmgOf s na with resync := true, pending := List.range (r.wtb * r.htb) }))
    ∧ (rectOf s na = none → Completes (.resyncReqReceived na reason) s s))
  ∧ (∀ s c pl lat fwd hi lo, s.boot.held = false → s.id.sender = true →
    ∃ u, Completes (.latencyReportReceived c pl (.hop lat fwd hi lo)) s u
      ∧ (bridged s pl = false → look pl u.flume.hops = some (lat, fwd))
      ∧ (bridged s pl = true → look pl u.flume.later = some (lat, fwd))
      ∧ look pl u.flume.levels = some (hi, lo))
  ∧ (∀ s c rail below change dn br, s.boot.held = false → s.id.sender = true →
    ∃ u, Completes (.latencyReportReceived c below (.crossed rail change dn br)) s u
      ∧ u.flume.changes = s.flume.changes
        ++ [{ chain := c, rail := rail, below := below, change := change, dn := dn, br := br }]
      ∧ u.link.crossChains = (c, rail) :: s.link.crossChains.filter (fun e => e != (c, rail))
      ∧ (rail = s.id.side → below ∈ u.flume.lost) ∧ (rail ≠ s.id.side → u.flume.lost = s.flume.lost))
  ∧ (∀ s c below, s.boot.held = false → s.id.sender = true →
    Completes (.latencyReportReceived c below .lost) s ((rectsBelow s below).foldl (fun t r =>
      setDmg t { dmgOf t r.na with reachable := false, resync := true }) { s with flume := { s.flume with
        lost := below :: s.flume.lost.filter (fun l => l != below) } }))
  )
  ∧
  (
  ∀ s c, s.boot.held = false → s.id.sender = true → c < 8 →
  ((chainOpen s c = false ∨ flumeWaits s c = false) → Completes (.flumeEmit c) s s)
  ∧ (chainOpen s c = true → flumeWaits s c = true →
    ∀ t, t = toLt (max (portBusy s (if s.link.guests.contains c then 8 else c)) ((look c s.flume.pace).getD 0)) s →
    ∀ u, u = (if s.link.guests.contains c then t else ctlFirst 16 t c) →
    (∀ e l, look c u.flume.certs = some (e :: l) → Completes (.flumeEmit c) s (emitCerts u c (e :: l)))
    ∧ ((look c u.flume.certs = none ∨ look c u.flume.certs = some []) →
      ((∀ d, u.flume.delivery = some d → d.chains.find? (fun x => x.chain == c) = none) →
        Completes (.flumeEmit c) s u)
      ∧ (∀ d x, u.flume.delivery = some d → d.chains.find? (fun x => x.chain == c) = some x →
        (∀ t, x.tiles.find? (fun t => t.repairs != []) = some t →
          Completes (.flumeEmit c) s (emitRepair u d x t (t.repairs.headD 0)))
        ∧ (x.tiles.find? (fun t => t.repairs != []) = none →
          (∀ t, x.tiles.find? (fun t => decide (t.sent < t.pkts.length)) = some t →
            Completes (.flumeEmit c) s (emitRegion u d x t))
          ∧ (x.tiles.find? (fun t => decide (t.sent < t.pkts.length)) = none →
            ((x.committed.isNone || x.again.isSome) = true → Completes (.flumeEmit c) s (emitCommit u d x))
            ∧ ((x.committed.isNone || x.again.isSome) = false → Completes (.flumeEmit c) s u))))))
  )
  ∧
  (
  (∀ s c k, s.boot.held = false → ownRail s k = true → linkGood k = false →
    Completes (.nackReceived c k.toLinkStart k.data k.toLinkTerm) s (bump s (clnAt clnPortCrcerr c))
    ∧ Completes (.reportReceived c k.toLinkStart k.toLinkRest) s (bump s (clnAt clnPortCrcerr c)))
  ∧ (∀ s d c x k h b t, s.boot.held = false → s.flume.delivery = some d →
    d.chains.find? (fun x => x.chain == c) = some x → x.tiles.find? (fun t => t.na == h.dna) = some t →
    (∀ ranges, FromTile s c 4 k h b → readNack b = some ranges →
      (d.frame ≠ h.frame → Completes (.nackReceived c k.toLinkStart k.data k.toLinkTerm) s s)
      ∧ (d.frame = h.frame → ∀ want, want = (nackList ranges).filter (fun i =>
          decide (i < t.sent) && !t.repairs.contains i
            && (match t.pkts[i]? with | some p => decide (p.tries < getF s flmRepair 23 20) | none => false)) →
        Completes (.nackReceived c k.toLinkStart k.data k.toLinkTerm) s (setChain s d (setTile x { t with
          repairs := t.repairs ++ want
          pkts := t.pkts.map (fun p => if want.contains p.pidx then { p with tries := p.tries + 1 } else p) }))))
    ∧ (∀ r0 r, FromTile s c 5 k h b → readReport h.frame b = some r0 → r = reportHere s r0 → r.frame = d.frame →
      (r.kind = 3 → Completes (.reportReceived c k.toLinkStart k.toLinkRest) s
        (resyncTile (setChain s d (setTile x { t with failed := true })) h.dna r.frame))
      ∧ (r.kind = 1 → t.received = false → t.failed = false →
        (t.full = false →
          (∀ pl tc, placeOfNa s t.na = some pl → x.committed = some tc → 4 * cdiv (reportDue s pl tc) 4 ≠ now s) →
          Completes (.reportReceived c k.toLinkStart k.toLinkRest) s
            { setChain s d (setTile x { t with received := true, edge := some r.edge }) with
              flume := { (setChain s d (setTile x { t with received := true, edge := some r.edge })).flume with
                ek := some (match s.flume.ek with
                  | some e => laterW e r.edge
                  | none => r.edge) } })
        ∧ (∀ pl tc, placeOfNa s t.na = some pl → x.committed = some tc → 4 * cdiv (reportDue s pl tc) 4 = now s →
          x.again = none → x.repeats < getF s flmRepair 23 20 →
          inTime s d c (commitBytes x.tiles.length) pl = true →
          ∃ u e y, Completes (.reportReceived c k.toLinkStart k.toLinkRest) s u
            ∧ u.flume.delivery = some e ∧ y ∈ e.chains ∧ y.chain = c ∧ y.again = some pl ∧ y.repeats = x.repeats + 1)))
    ∧ (∀ pl tc, placeOfNa s h.dna = some pl → x.committed = some tc →
      ((t.received || x.again.isSome) = true → Completes (.repairTimeout c h.dna) s s)
      ∧ ((t.received || x.again.isSome) = false →
        ∀ s1, s1 = toClk (tc + 2 * latTo s pl + 1000 + 1000 * getF s flmRepair 15 0) s →
        (x.repeats < getF s flmRepair 23 20 → inTime s1 d c (commitBytes x.tiles.length) pl = true →
          Completes (.repairTimeout c h.dna) s (setChain s1 d { x with repeats := x.repeats + 1, again := some pl }))
        ∧ ((getF s flmRepair 23 20 ≤ x.repeats ∨ inTime s1 d c (commitBytes x.tiles.length) pl = false) →
          Completes (.repairTimeout c h.dna) s s1))))
  )

/-- A tile takes the region packets addressed to its place and NA within its level window: a packet with a block that
fails its BSIG or lies outside the picture is as lost but for the count of the failing blocks, one of an old FRAME
is counted as dropped, one already landed changes nothing but the time and level of the last packet, and any other
lands in its delivery (05 R100, R102, R112). A commit that names no entry for the tile changes nothing where no
delivery is open; a repeated commit of a delivery already reported is answered with the same report, one of an old
FRAME is counted as dropped, and any other is held by its delivery, which is judged once every packet has landed (05
R104); a delivery with packets, no commit and nothing for 1 s is reported FAILED once and counted (05 R106).
Readings of the model itself that it rests on: logs 46 and 114. -/
def Obligations.TilePacketsAndCommits : Prop :=
  (
  ∀ s k, s.boot.held = false →
  (tileIn s 1 k = none → Completes (.regionPacketReceived k.toLinkStart k.toLinkRest) s s)
  ∧ (∀ h b, tileIn s 1 k = some (h, b) →
    (readRegion b = none → Completes (.regionPacketReceived k.toLinkStart k.toLinkRest) s s)
    ∧ (∀ r, readRegion b = some r → ∀ bad, bad = r.blocks.filter (fun b => crc32c b.data != b.bsig
        || decide (tileWt s ≤ b.bx) || decide (tileHt s ≤ b.by_)) →
      (bad ≠ [] → Completes (.regionPacketReceived k.toLinkStart k.toLinkRest) s (bumpN s flmRxBadsig bad.length))
      ∧ (bad = [] → frameOld s h.frame = true →
        Completes (.regionPacketReceived k.toLinkStart k.toLinkRest) s (bump s flmRxDrop))
      ∧ (bad = [] → frameOld s h.frame = false → ∀ s1 o, delivFor s h.frame r.full h.level = (s1, o) →
        (o.landed.any (fun e => e.1 == r.pidx) = true →
          Completes (.regionPacketReceived k.toLinkStart k.toLinkRest)
            s (putOpen s1 { o with lastAt := lt s1, level := h.level }))
        ∧ (o.landed.any (fun e => e.1 == r.pidx) = false →
          Completes (.regionPacketReceived k.toLinkStart k.toLinkRest) s
            (landPacketTile s1 { o with lastAt := lt s1, level := h.level } r)))))
  )
  ∧
  (
  (∀ s k h b x, s.boot.held = false → tileIn s 2 k = some (h, b) → readCommit b = some x →
    (x.ents.find? (fun e => some e.na == s.id.na) = none → s.img.open_ = none →
      Completes (.commitReceived k.toLinkStart k.toLinkRest) s s)
    ∧ (∀ e, x.ents.find? (fun e => some e.na == s.id.na) = some e →
      (∀ l r, reportFor s h.frame = some (l, r) →
        Completes (.commitReceived k.toLinkStart k.toLinkRest) s (sendUp s 0 (reportPkt s l r)))
      ∧ (reportFor s h.frame = none → frameOld s h.frame = true →
        Completes (.commitReceived k.toLinkStart k.toLinkRest) s (bump s flmRxDrop))
      ∧ (reportFor s h.frame = none → frameOld s h.frame = false → s.img.open_ = none → 1 ≤ e.npkt →
        ∃ u o, Completes (.commitReceived k.toLinkStart k.toLinkRest) s u ∧ u.img.open_ = some o ∧ o.frame = h.frame
          ∧ o.commit = some (x.pt, e.npkt, e.tsig, now s))))
  ∧ (∀ s o, s.boot.held = false → s.img.open_ = some o → o.commit = none → o.landed ≠ [] →
    ∃ u v r, Completes .deliveryIdleFail s u ∧ u = bump (sendUp v 0 (reportPkt v o.level r)) flmRxFail
      ∧ r.kind = 3 ∧ r.frame = o.frame ∧ u.img.failedFrame = some o.frame ∧ u.img.open_ = none
      ∧ o.lastAt + 10 ^ 9 ≤ lt u ∧ rd u flmRxFail = satAdd (rd s flmRxFail) 1)
  )

/-- A frame edge of a tile takes place at its schedule instant and never before (07 R147; 11 R255), a pass ends at the
instant its values are all written (07 R152), MATRIX_WRITE stages coefficients within the tile's picture (07 R160),
and the row of a pixel whose matrix word is lost is counted and taken again from the flash copy, or left on the
tile-average matrix (07 R163). Readings of the model itself that it rests on: logs 6, 45, 46, 102 and 116. -/
def Obligations.EdgesAndMatrix : Prop :=
  (∀ s, s.boot.held = false → s.id.sender = false →
    Completes .frameEdge s (dramOnce (edgeTrig (frameEdgeAt (toClk (nextEdge s) s) (nextEdge s))))
    ∧ nextEdge s ≤ now (toClk (nextEdge s) s))
  ∧ (∀ s q, s.boot.held = false → s.img.pass = some q →
    ∃ u, Completes .correctionPassEnd s u ∧ u.img.pass = none ∧ q.ends ≤ now u)
  ∧ (∀ p s a c w0 w1 l, Accepted 0x0A40 p s a c → p.payload = w0 :: w1 :: l → 1 ≤ fld w1 31 16 →
    fld w1 31 16 ≤ 448 → fld w0 25 16 < picH a → fld w0 9 0 + fld w1 31 16 ≤ picW a →
    l.length = cdiv (18 * fld w1 31 16) 4 →
    (stagedBytes a + 18 * fld w1 31 16 ≤ 65536 →
      AnswersPending (.matrixWrite p) p s { a with img := { a.img with staging := a.img.staging ++
        [⟨fld w0 25 16, fld w0 9 0, coefsOf (fld w1 31 16) l, c⟩] } } c)
    ∧ (65536 < stagedBytes a + 18 * fld w1 31 16 → AnswersNo (.matrixWrite p) p s a c stBusy []))
  ∧ (∀ s row col, s.boot.held = false → s.id.sender = false → row < picH s → col < picW s →
    ¬ (row * picW s + col) ∈ s.img.lostPx →
    (∃ u, Completes (.matrixRowReload ⟨row, col⟩ true) s u ∧ rd u tilMfault = satAdd (rd s tilMfault) 1
      ∧ ¬ row ∈ u.img.avgRows ∧ ∀ e ∈ cacheRow u row, e ∈ u.img.matrix)
    ∧ (∃ u, Completes (.matrixRowReload ⟨row, col⟩ false) s u ∧ rd u tilMfault = satAdd (rd s tilMfault) 1
      ∧ row ∈ u.img.avgRows ∧ u.img.matrix = s.img.matrix))

/-- A field definition, a field removal, a glyph written and a glyph erased wait for the flash with the credits of one
flash operation and are refused where the field, the index or the size is not allowed; a glyph that a field shows is
neither erased nor written in another size (08 R169 to R174). FIELD_READ and GLYPH_ROM_READ answer a field and a ROM
glyph. Readings of the model itself that it rests on: logs 44 and 117. -/
def Obligations.FieldsAndGlyphs : Prop :=
  (∀ p s a c, Accepted 0x0501 p s a c → p.payload.length = 6 →
    (fieldOk a (maskWords fieldMask p.payload) = true → ∀ t,
      flashAsk a (.badger (.define (fdNum (maskWords fieldMask p.payload)) (maskWords fieldMask p.payload)))
        (some c) 1 false = (t, stPending) → AnswersPending (.fieldDefine p) p s t c)
    ∧ (fieldOk a (maskWords fieldMask p.payload) = false → AnswersNo (.fieldDefine p) p s a c stBadParam []))
  ∧ (∀ p s a c w, Accepted 0x0502 p s a c → p.payload = [w] →
    (fld w 31 24 ≤ 43 → (fieldAt a (fld w 31 24)).isSome = true → ∀ t,
      flashAsk a (.badger (.remove (fld w 31 24))) (some c) 1 false = (t, stPending) →
      AnswersPending (.fieldRemove p) p s t c)
    ∧ (43 < fld w 31 24 → AnswersNo (.fieldRemove p) p s a c stBadParam [])
    ∧ (fld w 31 24 ≤ 43 → fieldAt a (fld w 31 24) = none → a.fl.queue = [] → a.changes = [] →
      AnswersOk (.fieldRemove p) p s a c []))
  ∧ (∀ p s a c w, Accepted 0x0503 p s a c → p.payload = [w] →
    (∀ f, fieldAt a (fld w 31 24) = some f → Room a p f.words → AnswersOk (.fieldRead p) p s a c f.words)
    ∧ (fieldAt a (fld w 31 24) = none → AnswersNo (.fieldRead p) p s a c stNotInState []))
  ∧ (∀ p s a c w l, Accepted 0x0520 p s a c → p.payload = w :: l → 1 ≤ fld w 15 8 → fld w 15 8 ≤ 64 →
    1 ≤ fld w 7 0 → fld w 7 0 ≤ 64 → l.length = glyphLen (fld w 15 8) (fld w 7 0) →
    (unitsUsed ((glyphsSoon a).filter (fun g => g.index ≠ fld w 25 16)) + glyphUnits (fld w 15 8) (fld w 7 0) ≤ 4096 →
      glyphConflict a (fld w 25 16) = none → ∀ t,
      flashAsk a (.badger (.glyph ⟨fld w 25 16, fld w 15 8 * 256 + fld w 7 0, l⟩)) (some c) 1 false = (t, stPending) →
      AnswersPending (.glyphWrite p) p s t c)
    ∧ (4096 < unitsUsed ((glyphsSoon a).filter (fun g => g.index ≠ fld w 25 16))
        + glyphUnits (fld w 15 8) (fld w 7 0) → AnswersNo (.glyphWrite p) p s a c stBadParam [])
    ∧ (unitsUsed ((glyphsSoon a).filter (fun g => g.index ≠ fld w 25 16)) + glyphUnits (fld w 15 8) (fld w 7 0) ≤ 4096 →
      (glyphsSoon a).any (fun g => g.index == fld w 25 16 && g.size != fld w 15 8 * 256 + fld w 7 0) = true →
      ∀ x, glyphConflict a (fld w 25 16) = some x → AnswersNo (.glyphWrite p) p s a c stConflict [x]))
  ∧ (∀ p s a c w, Accepted 0x0521 p s a c → p.payload = [w] →
    (∀ x, glyphConflict a (fld w 9 0) = some x → AnswersNo (.glyphErase p) p s a c stConflict [x])
    ∧ (glyphConflict a (fld w 9 0) = none → ∀ t,
      flashAsk a (.badger (.erase (fld w 9 0))) (some c) 1 false = (t, stPending) →
      AnswersPending (.glyphErase p) p s t c))
  ∧ (∀ p s a c w, Accepted 0x0660 p s a c → p.payload = [w] →
    (romCodeOk (fld w 15 0) = true → ∀ l, l = w32 ((cellOf (fld w 15 0 / 4096)).1 * 256
        + (cellOf (fld w 15 0 / 4096)).2) :: romWords (fld w 15 0) →
      Room a p l → AnswersOk (.glyphRomRead p) p s a c l)
    ∧ (romCodeOk (fld w 15 0) = false → AnswersNo (.glyphRomRead p) p s a c stBadParam []))

/-- A value packet whose entries are all allowed is applied at its time or at the next edge and renews the deadline of
each field it names; the first entry that is not is named in the refusal, and a time that is not allowed is refused
for itself; where both fail one of the two refusals is answered (08 R175, R176); a field whose deadline passes
expires once (08 R178). ENGINE_SET and TEST_PATTERN wait for their edge where an overlay buffer is free, and are
refused with CONFLICT where none is, with BAD_PARAM where a field is out of its range (08 R168, R187, R189).
Readings of the model itself that it rests on: logs 42, 43 and 44. -/
def Obligations.OverlayContents : Prop :=
  (
  (∀ p s a c at_ n l ents, Accepted 0x0510 p s a c → p.payload = at_ :: n :: l →
    parseValues (fld n 31 16) l = some ents → 1 ≤ fld n 31 16 → fld n 31 16 ≤ 44 →
    (firstBad (badgerSoon a) 0 [] ents = none →
      (at_ = 0 ∨ (a.time.valid = true ∧ 4 * sdiff at_ (nowW a) ≤ 8 * 10 ^ 9 ∧ -(10 ^ 9) ≤ 4 * sdiff at_ (nowW a))) →
      AnswersPending (.badgerValues p) p s
        (proposeValues (ents.foldl (fun t e => renewField t e.field) a) c at_ ents) c)
    ∧ (∀ k, firstBad (badgerSoon a) 0 [] ents = some k → atFault a at_ = none →
      AnswersNo (.badgerValues p) p s a c stBadParam [w32 k])
    ∧ (∀ st, firstBad (badgerSoon a) 0 [] ents = none → atFault a at_ = some st →
      AnswersNo (.badgerValues p) p s a c st [0xFFFFFFFF])
    ∧ (∀ k st, firstBad (badgerSoon a) 0 [] ents = some k → atFault a at_ = some st →
      AnswersNo (.badgerValues p) p s (takeFree a).2 c stBadParam [w32 k]
      ∨ AnswersNo (.badgerValues p) p s (takeFree a).2 c st [0xFFFFFFFF])
    ∧ (at_ ≠ 0 → a.time.valid = false → atFault a at_ = some stNotInState)
    ∧ (at_ ≠ 0 → a.time.valid = true →
      (8 * 10 ^ 9 < 4 * sdiff at_ (nowW a) ∨ 4 * sdiff at_ (nowW a) < -(10 ^ 9)) →
      atFault a at_ = some stBadParam))
  ∧ (∀ s n f d, s.boot.held = false → fieldAt s n = some f → f.deadline = some d →
    (f.due = false → Completes (.fieldDeadline n) s
      (expireSoon (setField (toClk d s) { f with due := true }) n))
    ∧ (f.due = true → Completes (.fieldDeadline n) s s))
  )
  ∧
  (
  (∀ p s a c w, Accepted 0x0630 p s a c → p.payload.length = 6 → w = maskWords engineMask p.payload →
    (engineOk a w = false → AnswersNo (.engineSet p) p s a c stBadParam [])
    ∧ (engineOk a w = true →
      ((enMode w = 0 ∨ noBuffer a (enNum w) = false) →
        AnswersPending (.engineSet p) p s (proposeCmd a c (.engine (enNum w) w)) c)
      ∧ (enMode w ≠ 0 → noBuffer a (enNum w) = true →
        AnswersNo (.engineSet p) p s a c stConflict [bufferConflict a])))
  ∧ (∀ p s a c w, Accepted 0x0638 p s a c → p.payload.length = 3 → w = maskWords testMask p.payload →
    (tpPitch w < 2 → AnswersNo (.testPattern p) p s a c stBadParam [])
    ∧ (2 ≤ tpPitch w → tpKind w ≠ 0 → noBuffer a 16 = true →
      AnswersNo (.testPattern p) p s a c stConflict [bufferConflict a])
    ∧ (2 ≤ tpPitch w → (tpKind w = 0 ∨ noBuffer a 16 = false) → ∀ t,
      askRecompute a (idOfCmd c) (.test w) (some c) 0 = (t, stPending) → AnswersPending (.testPattern p) p s t c))
  )

/-- LAMP_DRIVE answers OK where nothing changes; ON = 1 is refused where the settings do not allow it, and where they do
it replies PENDING and asks for the credits of a full rewrite; ON = 0 replies PENDING, gives up a drive that was not
lit yet, and darkens the lamps at the next row-slot boundary (09 R214). LAMP_POLICY is refused in S-mode, beyond
region 4095 and for a 65th region; else it replies PENDING and its change waits for its edge (09 R212). LAMP_FAILS
answers the count of failed lamps, the count of entries and the entries from START that fit 1,024 and the transport;
LAMP_CLEAR forgets the failures of all lamps or of a rectangle inside the picture and is refused for another
rectangle (09 R211). Readings of the model itself that it rests on: logs 22, 54 and 56. -/
def Obligations.LampCommands : Prop :=
  (
  (∀ p s a c w, Accepted 0x0601 p s a c → p.payload = [w] →
    (bit w 0 = a.lamp.drive → AnswersOk (.lampDrive p) p s a c [])
    ∧ (bit w 0 = true → a.lamp.drive = false →
      (driveCheck a = none →
        Completes (.lampDrive p) s (driveOn (reply a c p.via stPending []) (some c)))
      ∧ (∀ st l, driveCheck a = some (st, l) → isRefusal st = true → AnswersNo (.lampDrive p) p s a c st l))
    ∧ (bit w 0 = false → a.lamp.drive = true →
      Completes (.lampDrive p) s (driveDark (driveOnEnd
        (reply { a with lamp := { a.lamp with drive := false, offRef := some c } } c p.via stPending [])
        stNotInState))))
  ∧ (∀ p s a c w, Accepted 0x0640 p s a c → p.payload = [w] →
    (getF a lmpCfg 31 30 = 2 → AnswersNo (.lampPolicy p) p s a c stNotInState [])
    ∧ (getF a lmpCfg 31 30 ≠ 2 →
      (4095 < fld w 31 16 → AnswersNo (.lampPolicy p) p s a c stBadParam [])
      ∧ (fld w 31 16 ≤ 4095 →
        (fld w 1 0 = 0 ∨ (policyRegions a).contains (fld w 31 16) = true ∨ (policyRegions a).length < 64 →
          AnswersPending (.lampPolicy p) p s
            (policyCheck (proposeCmd a c (.policy (fld w 31 16) (fld w 1 0)))) c)
        ∧ (fld w 1 0 ≠ 0 → (policyRegions a).contains (fld w 31 16) = false → 64 ≤ (policyRegions a).length →
          AnswersNo (.lampPolicy p) p s a c stBadParam []))))
  )
  ∧
  (
  (∀ p s a c w l, Accepted 0x0642 p s a c → p.payload = [w] →
    l = ((failedLamps a).drop (fld w 15 0)).take (min 1024 (replyRoom a p.via / 4 - 2)) →
    Room a p ([w32 (failedLamps a).length, w32 l.length] ++ l.map (fun x => failWord a x.lamp (!x.openFail))) →
    AnswersOk (.lampFails p) p s a c
      ([w32 (failedLamps a).length, w32 l.length] ++ l.map (fun x => failWord a x.lamp (!x.openFail))))
  ∧ (∀ p s a c w0 w1 w2, Accepted 0x0641 p s a c → p.payload = [w0, w1, w2] →
    ∀ ok, ok = (1 ≤ fld w2 31 16 ∧ 1 ≤ fld w2 15 0 ∧ fld w1 31 16 + fld w2 31 16 ≤ picW a
        ∧ fld w1 15 0 + fld w2 15 0 ≤ picH a) →
    (bit w0 31 = true ∨ ok →
      AnswersOk (.lampClear p) p s
        (policyCheck (clearLamps a (bit w0 31) (fld w1 31 16) (fld w1 15 0) (fld w2 31 16) (fld w2 15 0))) c [])
    ∧ (bit w0 31 = false → ¬ ok → AnswersNo (.lampClear p) p s a c stBadParam []))
  )

/-- LSB_I2C runs one write and one read on its bus and answers its result and, after a done one, the bytes read; one
without bytes or with more than 32 is refused (09 R218). LSB_FLASH: a read of a board's flash suspends an erase and
answers its bytes, or waits for a page program or a load; a program or an erase replies PENDING and runs in its
turn, and is refused where non-volatile writes are held or it crosses a page or a sector; the end of one is
notified, after 2 s of busy with INTERNAL, a counter and a record (09 R219). A bus that is taken counts a loss (01
R27, R28). Readings of the model itself that it rests on: logs 57 and 111. -/
def Obligations.LampBoardBuses : Prop :=
  (∀ p s a c w l result bytes, Accepted 0x0650 p s a c → p.payload = w :: l →
    ∀ bus n, bus = fld w 31 31 → n = fld w 23 16 + fld w 15 8 →
    (n = 0 ∨ 32 < n → AnswersNo (.lsbI2c p result bytes) p s a c stBadParam [])
    ∧ (1 ≤ n → n ≤ 32 → l.length = cdiv (fld w 23 16) 4 →
      ∀ a1, a1 = i2cSend (i2cTake a bus (4 + n) (pollDue a bus || decide (lt a < (i2cTaken a bus).2))) bus
        (fld w 30 24) ((bytesOfWords l).take (fld w 23 16)) (fld w 15 8) →
      (result ≠ 0 → 4 ≤ replyRoom a p.via →
        AnswersOk (.lsbI2c p result bytes) p s (bump a1 lmpI2cErr) c [w32 (min result 3)])
      ∧ (result = 0 → ∀ b t, busBytes a1 (fld w 15 8) bytes = (b, t) → Room a p (0 :: padWords b) →
        AnswersOk (.lsbI2c p result bytes) p s t c (0 :: padWords b))))
  ∧ (∀ p s a c w0 w1 l read, Accepted 0x0651 p s a c → p.payload = w0 :: w1 :: l →
    ∀ op board addr len, op = fld w0 31 28 → board = fld w0 27 24 → addr = fld w0 23 0 → len = fld w1 8 0 →
    (op = 0 ∨ 3 < op ∨ len = 0 ∨ 256 < len → AnswersNo (.lsbFlash p read) p s a c stBadParam [])
    ∧ (1 ≤ len → len ≤ 256 → l.length = (if op = 2 then cdiv len 4 else 0) →
      ((op = 2 ∧ 256 < addr % 256 + len ∨ op = 3 ∧ addr % 4096 ≠ 0) →
        AnswersNo (.lsbFlash p read) p s a c stBadParam [])
      ∧ ((op = 2 ∧ addr % 256 + len ≤ 256 ∨ op = 3 ∧ addr % 4096 = 0) → ∀ o : BoardOp,
        o = { op := op, board := board, addr := addr, data := (bytesOfWords l).take len, ref := c, start := lt a
              ready := false, suspended := none, issued := false } →
        ∀ a1, a1 = { a with lamp := { a.lamp with boardOps := a.lamp.boardOps ++ [o] } } →
        (nvStop a = true → AnswersNo (.lsbFlash p read) p s (nvRefuse a) c stNvHeld [])
        ∧ (nvStop a = false → a.lamp.boardOps ≠ [] → AnswersPending (.lsbFlash p read) p s a1 c)
        ∧ (nvStop a = false → a.lamp.boardOps = [] →
          (∀ t k, sluiceAsk a1 .boardFlash 3 1 0 = (t, .granted k) →
            Completes (.lsbFlash p read) s (beginBoard (reply t c p.via stPending [])))
          ∧ (∀ t k, sluiceAsk a1 .boardFlash 3 1 0 = (t, .waiting k) →
            AnswersPending (.lsbFlash p read) p s t c)
          ∧ (∀ t, sluiceAsk a1 .boardFlash 3 1 0 = (t, .refused) →
            AnswersNo (.lsbFlash p read) p s (bump a pwrRefused) c stNoCredit [])))
      ∧ (op = 1 → busLoading a = true ∨ pageRunning a = true → ∀ r : BoardRead,
        r = { ref := c, via := p.via, board := board, addr := addr, len := len, data := read } →
        Completes (.lsbFlash p read) s (enqueue (busLoss { a with lamp := { a.lamp with
          reads := a.lamp.reads ++ [r] } }) c))
      ∧ (op = 1 → busLoading a = false → pageRunning a = false →
        ∀ a1, a1 = emit (suspendBoard a) (.qspi norRead board addr []) →
        ∀ a2, a2 = (if a.lamp.boardOps.any (fun o => o.ready && o.suspended.isNone) then busLoss a1 else a1) →
        ∀ b t, busBytes (resumeBoard a2) len read = (b, t) →
        Room a p (padWords b) → AnswersOk (.lsbFlash p read) p s t c (padWords b))))
  ∧ (∀ s o l, s.boot.held = false → s.lamp.boardOps = o :: l →
    (boardRunning s = true → Completes .qspiFlashDone s (endBoard (readBusy s) stOk))
    ∧ (boardRunning s = true → Completes .qspiBusyTimeout s
      (endBoard (recordX (bump (toLt (o.start + 2 * 10 ^ 9) s) lmpQspiErr) xFlash
        [mkFld 31 28 o.op ||| mkFld 27 24 o.board ||| w32 o.addr]) stInternal))
    ∧ (boardRunning s = false → Completes .qspiFlashDone s s ∧ Completes .qspiBusyTimeout s s)
    ∧ (∀ t, o.suspended = some t → o.op = 3 → Completes .lampEraseSuspendTimeout s
      (recordX (toLt (t + 10 ^ 9) s) xEraseStop [mkFld 27 24 o.board ||| w32 o.addr])))

/-- The refresh of a tile, lit or dark, begins at its instant within the frame; while lamp drive is on it counts (09
R198, R209). The first changed row of a group is sent in 48 DATA transfers and one ROW transfer, is no longer
changed and gives its line-group signature, on a standby without its pins (09 R203, R192). A keep-alive pulse leaves
every 8.192 µs of a dark interval and none at or past the next refresh of lit lamps (09 R216). The show of a frame:
at its cut-off a show whose pass has ended and whose rows are all written is met, in G-mode with VSYNC to every
group; one that is not moves to the next refresh and raises SHOW_LATE once, and no more when it moves again (09
R204). At its instant a show that was met is taken, and one that was not shows nothing (09 R204). Readings of the
model itself that it rests on: logs 55, 58, 121, 124 and 125. -/
def Obligations.RefreshAndShows : Prop :=
  (
  (∀ s low, s.boot.held = false → s.id.sender = false → lpMode (rd s) ≠ 0 → s.lamp.refEdge < lpMult (rd s) →
    s.time.lastEdge.isSome = true →
    ∃ u, Completes (.refreshStart low) s u ∧ u.lamp.refEdge = s.lamp.refEdge + 1
      ∧ u.lamp.refDrive = (if s.lamp.on then s.lamp.refDrive + 1 else s.lamp.refDrive)
      ∧ refreshAt s (edgeOf s) s.lamp.refEdge ≤ now u
      ∧ (s.lamp.on = false → u.lamp.lit = false ∧ u.out = s.out))
  ∧ (∀ s g r, s.boot.held = false → s.id.sender = false → lpMode (rd s) = 1 → s.lamp.dirty.contains (g, r) = true →
    s.lamp.dirty.any (fun e => e.1 == g && decide (e.2 < r)) = false →
    Completes (.groupRowWrite g r) s
      (sendXfers (rowSent g r (toLt (writeStart s g + rowNs (rd s)) s)) (rowXfers s g r (writeStart s g))))
  ∧ (∀ s g r t, (rowXfers s g r t).length = 49 ∧ (rowSent g r s).lamp.dirty.contains (g, r) = false)
  ∧ (∀ s d k t, s.boot.held = false → s.id.sender = false → s.lamp.dark = some (d, k) → s.pair.outputs = true →
    t = d + 8192 * (k + 1) →
    ((s.lamp.lit = false ∨ t < tailEnd s) →
      ∃ u, Completes .keepalivePulse s u ∧ u.lamp.dark = some (d, k + 1) ∧ t ≤ lt u
        ∧ u.out = s.out ++ [.lamp (.keepalive (lpGroups (rd s)) (lpMode (rd s) != 2) pulseWidth)])
    ∧ (s.lamp.lit = true → tailEnd s ≤ t → Completes .keepalivePulse s s))
  )
  ∧
  (
  (∀ s w, s.boot.held = false → s.lamp.shows = some w → w.met = false →
    ∀ s1, s1 = toClk w.cutoff s →
    ∀ s2, s2 = { s1 with lamp := { s1.lamp with shows := some { w with met := true, lights := s.lamp.wantOn } } } →
    (s.img.pass = none → s.lamp.lastWrite < w.cutoff →
      (lpMode (rd s) = 1 → s.lamp.dirty = [] →
        Completes .showCutoff s (takeGroups (toAllGroups s2 ltVsync (lt s2) 0) (lt s2 + xferNs (rd s2))))
      ∧ (lpMode (rd s) = 2 → Completes .showCutoff s s2))
    ∧ ((s.img.pass.isSome = true ∨ w.cutoff ≤ s.lamp.lastWrite ∨ (lpMode (rd s) = 1 ∧ s.lamp.dirty ≠ [])) →
      ∃ u x, Completes .showCutoff s u ∧ u.lamp.shows = some x ∧ x.moved = true ∧ x.met = false
        ∧ x.cutoff = cutoffOf s1 x.show_
        ∧ rd u lmpShowLate = (if w.moved then rd s lmpShowLate else satAdd (rd s lmpShowLate) 1)))
  ∧ (∀ s w, s.boot.held = false → s.lamp.shows = some w → w.met = true → Completes .showCutoff s s)
  ∧ (∀ s w, s.boot.held = false → s.id.sender = false → s.lamp.shows = some w →
    (w.met = true → Completes .showInstant s (dramOnce (showInstant s)))
    ∧ (w.met = false → Completes .showInstant s (dramOnce s)))
  )

/-- A status readout whose group has no row to write ends: it is no longer waited for, and a standby takes nothing from
it (09 R209). A proof age that runs out, at MAXAGE after the pass, lets the policies judge again (09 R210, R213).
The sensors are polled every POLL ms and their readings taken, and a sensor is judged again 10 s after its last good
reading (09 R217; 07 R157). Readings of the model itself that it rests on: logs 56, 120, 121 and 123. -/
def Obligations.LampProofs : Prop :=
  (∀ s g r short bits x, s.boot.held = false → readoutOf s g = some x → x.r = r → x.short = short →
    s.lamp.dirty.any (fun e => e.1 == g) = false →
    ∀ a ro, a = readOut s g → ro = (readoutOf a g).getD x →
    ∀ b, b = policyCheck { a with lamp := { a.lamp with readouts := a.lamp.readouts.erase ro } } →
    (b.pair.outputs = false → Completes (.statusReadoutDone g r short bits) s b)
    ∧ (b.pair.outputs = true → b.pair.holding = false →
      ∃ u, Completes (.statusReadoutDone g r short bits) s u ∧ u.lamp.readouts = b.lamp.readouts))
  ∧ (∀ s g r short bits x, s.boot.held = false → readoutOf s g = some x →
    s.lamp.dirty.any (fun e => e.1 == g) = true → Completes (.statusReadoutDone g r short bits) s s)
  ∧ (∀ s n, s.boot.held = false → s.id.sender = false → n < lampCount s →
    (∀ t, (lampX s n).pass = some t → Completes (.proofAgeExpire n) s (policyCheck (toLt (t + maxAge s) s)))
    ∧ ((lampX s n).pass = none → Completes (.proofAgeExpire n) s (policyCheck s)))
  ∧ (∀ s raws, s.boot.held = false → s.id.sender = false →
    ∀ s1, s1 = toLt (s.lamp.lastPoll + 10 ^ 6 * getF s lmpSvc 15 0) s →
    ∀ s2, s2 = { s1 with lamp := { s1.lamp with lastPoll := lt s1 } } →
    ∀ ks, ks = (List.range 32).filter (fun k => (sensorBoard s2 k).isSome) →
    Completes (.sensorPoll raws) s (updateTemps
      (ks.foldl (fun t k => pollOne t k ((look k raws).getD none)) (pollTake s2 ks))))
  ∧ (∀ s k v t, s.boot.held = false → s.id.sender = false →
    (s.lamp.sensors.getD k ⟨none, none⟩).last = some (v, t) →
    Completes (.sensorValidityExpire k) s (updateTemps (toLt (t + 10 ^ 10) s)))

/-- HELLO leaves every second and is taken with the place it tells and the CFGSIG it is compared by (12 R273, R289; 01
R17). A heartbeat leaves every quarter lease with the health ball toggled (12 R273); one that comes is the newest,
judges the net, and lets a pair leave lockstep whose twin has left it; a lease without one raises HBLOST once and
opens the standby's step hold, whose end leaves lockstep (12 R274). Readings of the model itself that it rests on:
log 60. -/
def Obligations.HelloAndHeartbeats : Prop :=
  (∀ s, s.boot.held = false → Completes .helloSend s (sendHello (toLt (s.pair.lastHello + 10 ^ 9) s)))
  ∧ (∀ s m, s.boot.held = false →
    Completes (.helloReceived m) s
      (startResync (pairCheck (placeCheck (placeDiffers s) m.place
        { s with pair := { s.pair with hello := some m, cfgEq := m.cfgsig == cfgsigNow s } }))))
  ∧ (∀ s, s.boot.held = false → ∀ s1, s1 = toLt (s.pair.lastBeat + leaseNs s / 4) s →
    ∀ s2, s2 = stuckCheck (ownFaultTick (coreBack (setChk (emit { s1 with
      gpio := { s1.gpio with hbeat := !s.gpio.hbeat }
      pair := { s1.pair with health := true, lastHealth := lt s1, lastBeat := lt s1 } }
        (.pin pinHealth (!s.gpio.hbeat))) 4 s.pair.katPass))) →
    Completes .heartbeatSend s (twinSend s2 (.beat (beatNow s2))))
  ∧ (∀ s m, s.boot.held = false →
    ∀ s1, s1 = { s with pair := { s.pair with beat := some (m, lt s), hbLost := false } } →
    ∀ s2, s2 = ownFaultTick
      (if m.held && s.pair.high && !s.pair.holding then ownFaultSet s1 1 none else heldGone s1) →
    ∀ s3, s3 = (if m.held || s2.pair.high then setStuck s2 false
      else if !s2.pair.pull then setStuck s2 true else s2) →
    ∀ s4, s4 = (if m.held then handoverSeen s3 else s3) →
    Completes (.heartbeatReceived m) s
      (pairCheck (if s4.pair.mode = 1 ∧ m.mode = 0 then leaveLockstep s4 5 else s4)))
  ∧ (∀ s m t, s.boot.held = false → s.pair.beat = some (m, t) →
    (s.pair.hbLost = true → Completes .heartbeatLoss s s)
    ∧ (s.pair.hbLost = false → ∀ s1, s1 = toLt (t + leaseNs s) s →
      ∀ s2, s2 = heldGone (bump { s1 with pair := { s1.pair with hbLost := true } } pairHblost) →
      (s2.pair.mode ≠ 1 → Completes .heartbeatLoss s (stuckCheck s2))
      ∧ (s2.pair.mode = 1 → s2.pair.holding = true → Completes .heartbeatLoss s (leaveLockstep s2 1))
      ∧ (s2.pair.mode = 1 → s2.pair.holding = false → Completes .heartbeatLoss s
        (setMode { s2 with pair := { s2.pair with holdUntil := some (lt s2 + leaseNs s2 + guardNs) } } 3 1))))
  ∧ (∀ s d, s.boot.held = false → s.pair.holdUntil = some d →
    (s.pair.mode = 3 → Completes .stepHoldEnd s (stuckCheck (leaveLockstep (toLt d s) 1)))
    ∧ (s.pair.mode ≠ 3 → Completes .stepHoldEnd s s))

/-- A lease is renewed a quarter after its last renewal while every check passes and the twin pulls the net and reads it
low, and ends at its end (12 R269, R270). A fatal check that falls releases at once (12 R270, R271). OWN_N going
high starts the guard, and a claim where a token is armed and the device may claim; going low ends it (12 R268,
R275). An edge on a tile's pads voids the guard (12 R272). At the guard's end a device that may claims (12 R268);
side A wins its claim after 1,280 ns, side B lets go of the net for the contest and loses it where it samples the
net low (12 R268). Half a lease without the firmware's health word lets FW fall, without a core's service CORE; the
known-answer test of each second sets what FW is judged by (12 R271). Edges in lockstep (12 R280): an ACCEPT for a
change that is not here yet is kept, one for a change of the holder gets its edge named, one for a change of the
standby keeps the partner's tick, and a field's deadline counts from the later acceptance (08 R177, R178). EDGE_SET
gives the named edge; one that comes at that edge or later raises EDGELATE and leaves lockstep with WHY 5; so does
an ACCEPT that does not come within AGREE ms, the holder's change applying at its own edge. The EDGE_SET of change 0
names the edge at which the standby that has resynchronised enters lockstep (log 129). Out of lockstep none of them
changes anything. What a standby takes from the holder: STATE with the edge it names while the standby
resynchronises (12 R289); COEF with the coefficients and the Sluice factor of its edge, on a tile that does not
compute its own (12 R273); the failures and proof ages of the holder while the pair is in lockstep (09 R210); the
delivery that DELIV names, and where none comes within two canvas periods it delivers alone and leaves lockstep with
WHY 1 (12 R286). Readings of the model itself that it rests on: logs 49, 59, 61 and 62. -/
def Obligations.HoldingAndLockstep : Prop :=
  (
  (∀ s d, s.boot.held = false → s.pair.lease = some d →
    (∀ s1, s1 = toLt (d - leaseNs s * 3 / 4) s → ∀ ok, ok = (chkAll s1 && s1.pair.pull && !s1.pair.high) →
      (lt s1 < d → ok = true →
        Completes .leaseRenewal s { s1 with pair := { s1.pair with lease := some (lt s1 + leaseNs s1) } })
      ∧ (lt s1 < d → ok = false → Completes .leaseRenewal s s1)
      ∧ (d ≤ lt s1 → Completes .leaseRenewal s (expireLease s1)))
    ∧ Completes .leaseExpiry s (expireLease (toLt d s)))
  ∧ (∀ s b, s.boot.held = false →
    ((b = 1 ∨ b = 3) → Completes (.fatalCheckFail b) s (fatalFall s b))
    ∧ (b ≠ 1 → b ≠ 3 → Completes (.fatalCheckFail b) s s))
  ∧ (∀ s, s.boot.held = false →
    ∀ s1, s1 = setStuck { s with pair := { s.pair with high := true } } false →
    (s.pair.pull = true → Completes (.ownNChange true) s s1)
    ∧ (s.pair.pull = false → ∀ s2, s2 = { s1 with pair := { s1.pair with
          guard := some (lt s1), gapFrom := some (s1.pair.gapFrom.getD (lt s1 - 80)) } } →
      (s.pair.token = none → Completes (.ownNChange true) s s2)
      ∧ (∀ a b, s.pair.token = some (a, b) →
        (a ≤ now s ∧ now s ≤ b ∧ mayClaim s2 = true → Completes (.ownNChange true) s (startClaim s2 true))
        ∧ (¬ (a ≤ now s ∧ now s ≤ b ∧ mayClaim s2 = true) → Completes (.ownNChange true) s s2))))
  ∧ (∀ s, s.boot.held = false → Completes (.ownNChange false) s (stuckCheck (driveBegin (ownFaultTick
      (heldGone { s with pair := { s.pair with
        high := false, guard := none, gapFrom := if s.pair.pull then s.pair.gapFrom else none } })))))
  ∧ (∀ s g, s.boot.held = false → s.id.sender = false → s.pair.guard = some g → s.pair.holding = false →
    s.pair.claim = none → Completes .padActivity s
      (ownFaultSet (bump { s with pair := { s.pair with guard := some (lt s) } } pairClaimLost) 0 (some (lt s))))
  ∧ (∀ s, s.boot.held = false →
    s.id.sender = true ∨ s.pair.guard = none ∨ s.pair.holding = true ∨ s.pair.claim.isSome = true →
    Completes .padActivity s s)
  ∧ (∀ s g, s.boot.held = false → s.pair.guard = some g → ∀ s1, s1 = ownFaultTick (toLt (g + guardNs) s) →
    ((s1.pair.high && mayClaim s1) = true → Completes .guardEnd s (startClaim s1 false))
    ∧ ((s1.pair.high && mayClaim s1) = false → Completes .guardEnd s s1))
  ∧ (∀ s c low, s.boot.held = false → s.pair.claim = some c →
    (s.id.side = .A → Completes (.claimArbitration low) s (claimWon (toLt (c.start + 1280) s) c.start))
    ∧ (s.id.side = .B → ∀ s1, s1 = toLt (c.start + 256) s →
      ∀ s2, s2 = toLt (c.start + 1280)
        (emit { s1 with pair := { s1.pair with pull := false } } (.pin pinOwnN true)) →
      Completes (.claimArbitration low) s
        (if low then claimLost s2 else claimWon (emit s2 (.pin pinOwnN false)) c.start)))
  )
  ∧
  (
  ∀ s, s.boot.held = false →
  (∀ s1, s1 = toLt (s.pair.lastHealth + leaseNs s / 2) s →
    Completes (.healthCheckTimeout true) s (fwCheck { s1 with pair := { s1.pair with health := false } })
    ∧ Completes (.healthCheckTimeout false) s (pairCheck (setChk s1 0 false)))
  ∧ (∀ b s1, s1 = toLt (s.pair.lastKat + 10 ^ 9) s →
    Completes (.pipelineKatTimer b) s (fwCheck { s1 with pair := { s1.pair with katPass := b, lastKat := lt s1 } }))
  )
  ∧
  (
  ∀ s, s.boot.held = false →
  (∀ id tick, s.pair.mode = 1 →
    (s.changes.find? (waitsFor id) = none →
      Completes (.acceptReceived id tick) s { s with pair := { s.pair with early := s.pair.early ++ [(id, tick)] } })
    ∧ (∀ c, s.changes.find? (waitsFor id) = some c →
      (s.pair.holding = true → Completes (.acceptReceived id tick) s (renewPaired (nameEdge s c tick) c tick))
      ∧ (s.pair.holding = false → Completes (.acceptReceived id tick) s
        (renewPaired (setChange s (waitsFor id) (fun x => { x with partner := some tick })) c tick))))
  ∧ (∀ id tick, s.pair.mode ≠ 1 → Completes (.acceptReceived id tick) s s)
  ∧ (∀ id edge, s.pair.mode = 1 → s.pair.holding = false →
    ∀ s1, s1 = setChange s (fun x => x.id == id && x.edge.isNone)
      (fun x => { x with edge := some (nearClk (now s) edge) }) →
    (now s < nearClk (now s) edge → Completes (.edgeSetReceived id edge) s s1)
    ∧ (nearClk (now s) edge ≤ now s →
      Completes (.edgeSetReceived id edge) s (leaveLockstep (bump s1 pairEdgelate) 5)))
  ∧ (∀ edge, s.pair.mode = 2 → s.pair.holding = false → s.pair.resyncDone = true →
    Completes (.edgeSetReceived 0 edge) s (enterNamed s (nearClk (now s) edge)))
  ∧ (∀ id edge, s.pair.holding = true ∨ s.pair.mode ≠ 1 ∧ s.pair.mode ≠ 2 →
    Completes (.edgeSetReceived id edge) s s)
  ∧ (∀ id c, s.pair.mode = 1 → s.pair.holding = true →
    s.changes.find? (fun c => waitsFor id c && shared s.id.sender c.what) = some c →
    Completes (.agreeTimeout id) s
      (leaveLockstep (setChange (toClk (c.acc + 10 ^ 6 * getF s pairAgree 15 0) s) (waitsFor id)
        (fun x => { x with edge := some (edgeFor s c.what c.acc) })) 5))
  )
  ∧
  (
  ∀ s, s.boot.held = false →
  (∀ m, s.pair.holding = false → s.pair.resyncing = true → Completes (.stateReceived m) s
    { s with pair := { s.pair with adopt := some m, stateEdge := some (nearClk (now s) m.edge) } })
  ∧ (∀ m, (s.pair.holding = true ∨ s.pair.resyncing = false) → Completes (.stateReceived m) s s)
  ∧ (∀ m, s.id.sender = false → ownCoefs s = false → Completes (.coefReceived m) s
    { s with img := { s.img with
      coefNext := some (nearClk (now s) m.edge, m.boards.map (fun b => ({ g := b.g.map Int.toNat, x := b.x } : Coef)))
      slgNext := some (nearClk (now s) m.edge, m.slg) } })
  ∧ (∀ m, (s.id.sender = true ∨ ownCoefs s = true) → Completes (.coefReceived m) s s)
  ∧ (∀ ents : List LampEnt, s.id.sender = false → s.pair.holding = false → named s = true →
    ∀ xs : List LampX, xs = ents.map (fun x =>
      { lamp := x.lamp, openFail := x.openFail, shortFail := x.shortFail, openCnt := x.openCnt
        shortCnt := x.shortCnt, pass := x.age.map (fun a => lt s - a) }) →
    Completes (.lampstateReceived ents) s
      (policyCheck (setLamps s (xs.filter (fun x => decide (x.lamp < lampCount s))))))
  ∧ (∀ ents, (s.id.sender = true ∨ s.pair.holding = true ∨ named s = false) →
    Completes (.lampstateReceived ents) s s)
  ∧ (∀ w f, s.id.sender = true → s.pair.holding = false → s.pair.mode = 1 → Completes (.delivReceived w f) s
    { s with pair := { s.pair with deliv := some (w, f.toNat) } })
  ∧ (∀ w f, (s.id.sender = false ∨ s.pair.holding = true ∨ s.pair.mode ≠ 1) →
    Completes (.delivReceived w f) s s)
  ∧ (∀ t f, s.flume.canvasReady = some t → s.canvas.newest = some f → s.id.sender = true → s.pair.holding = false →
    s.pair.mode = 1 → s.pair.deliv = none → s.flume.delivery = none → s.canvas.undelivered = true →
    anyPending s = true →
    Completes .delivTimeout s (leaveLockstep (startDelivery (toLt (t + 2 * period (rate s)) s) f) 1))
  )

/-- A CMP of the twin is kept and compared with the own one of the same SHOW when both are here, in lockstep and while
resynchronising; one without a partner within 10 ms counts as not comparable, unless a resolution has suspended the
comparison (12 R281, R283, R289). CANVAS and CANVSIG of the twin are kept for the delivery of that start, and the
DSIGs made or compared when both sides are here (12 R287). Each twin's checks are made on its own data and give its
verdict, 1 clean or 2 fault, sent once; the twin's verdict is taken once, a code 0 starts the run on this twin too,
both verdicts give the outcome, and a twin silent by M + 5 ms counts as faulty (12 R283, R284, R288). Readings of
the model itself that it rests on: logs 12, 62, 128 and 129. -/
def Obligations.ComparisonAndResolution : Prop :=
  (
  ∀ s, s.boot.held = false →
  (∀ m, s.id.sender = false → (s.pair.mode = 1 ∨ s.pair.mode = 2) →
    Completes (.cmpReceived m) s (tryCompare { s with pair := { s.pair with cmpTwin := s.pair.cmpTwin ++ [m] } }))
  ∧ (∀ m, (s.id.sender = true ∨ s.pair.mode ≠ 1 ∧ s.pair.mode ≠ 2) → Completes (.cmpReceived m) s s)
  ∧ (∀ shown s1, s.pair.cmpOwn.any (fun m => m.show_ == shown) ≠ s.pair.cmpTwin.any (fun m => m.show_ == shown) →
    s1 = toClk (nearClk (now s) shown + 10 ^ 7) s →
    ∀ s2, s2 = { s1 with pair := { s1.pair with
      cmpOwn := s1.pair.cmpOwn.filter (fun m => m.show_ != shown)
      cmpTwin := s1.pair.cmpTwin.filter (fun m => m.show_ != shown) } } →
    (s.pair.resolution = none → Completes (.cmpPartnerTimeout shown) s (notComparable s2))
    ∧ (s.pair.resolution.isSome = true → Completes (.cmpPartnerTimeout shown) s s2))
  ∧ (∀ start picks incs ovf, s.id.sender = true → s.pair.mode = 1 →
    Completes (.canvasMsgReceived start picks incs ovf) s
      (tryDsigs s { coOf s start with twinPicks := some picks, twinIncs := some incs, twinOverflow := ovf }))
  ∧ (∀ start sigs, s.id.sender = true → s.pair.mode = 1 →
    Completes (.canvsigReceived start sigs) s (compareDsigs s { coOf s start with twin := some sigs }))
  ∧ (∀ start picks incs ovf sigs, (s.id.sender = false ∨ s.pair.mode ≠ 1) →
    Completes (.canvasMsgReceived start picks incs ovf) s s ∧ Completes (.canvsigReceived start sigs) s s)
  )
  ∧
  (
  (∀ s r failed, s.boot.held = false → s.pair.resolution = some r →
    (r.own.isSome = true → Completes (.resolutionChecksDone failed) s s)
    ∧ (r.own = none → ∀ bits, bits = checksFailed s r.groups ||| failed →
      ∀ v : Nat × Byte, v = (if bits = 0 then 1 else 2, bits) →
      Completes (.resolutionChecksDone failed) s
        (judge (twinSend { s with pair := { s.pair with resolution := some { r with own := some v } } }
          (.verdict v.1 v.2)))))
  ∧ (∀ s r code failed, s.boot.held = false → s.pair.resolution = some r →
    ((code = 1 ∨ code = 2) → r.twin = none → Completes (.verdictReceived code failed) s
      (judge { s with pair := { s.pair with resolution := some { r with twin := some (code, failed) } } }))
    ∧ (r.twin.isSome = true → Completes (.verdictReceived code failed) s s))
  ∧ (∀ s failed, s.boot.held = false → s.pair.mode = 1 → s.pair.resolution = none →
    Completes (.verdictReceived 0 failed) s (startResolution s []))
  ∧ (∀ s r, s.boot.held = false → s.pair.resolution = some r →
    Completes .verdictTimeout s
      (outcome (toLt (r.start + 5 * 10 ^ 6) s) 5 (r.own.isNone && r.twin.isSome) r.twin.isNone))
  ∧ (∀ s, s.boot.held = false → s.pair.resolution = none →
    Completes .verdictTimeout s s ∧ ∀ b, Completes (.resolutionChecksDone b) s s)
  )

/-- PAIR_HANDOVER replies PENDING and starts a handover on a holder whose twin link is up and whose twin's checks pass;
else it is refused, and with BUSY while a handover or a resolution runs (12 R292). A standby answers HANDOVER_REQ by
its checks and arms its token with an accept; the holder keeps an accept that comes 10 µs before B0 and ends the
handover on a refusal or at 10 µs before B0 without one; it lets go at B0 and, where no one has taken the net, ends
the handover with INTERNAL and claims back if it may (12 R275). A tile notes RAIL_YIELD and, as a holder whose twin
is a standby in lockstep with its checks passing, starts a handover (12 R288). PAIR_STATUS answers PAIR.STS,
PAIR.CHK, PAIR.LEASE_LEFT, the twin's last heartbeat in one word and its firmware version, 0 where no HELLO has
come; PAIR_CLEAR clears DEGR and LASTRES and answers OK (12 R293). Either with a payload is answered BAD_LENGTH (02
R40). Readings of the model itself that it rests on: logs 32 and 61. -/
def Obligations.HandoversAndStatus : Prop :=
  (
  (∀ p s a c, Accepted 0x0801 p s a c → p.payload = [] →
    ((a.pair.holding = false ∨ portUp a 8 = false ∨ twinChk a = false) →
      AnswersNo (.pairHandover p) p s a c stNotInState [])
    ∧ (a.pair.holding = true → portUp a 8 = true → twinChk a = true →
      (a.pair.handover = none → a.pair.resolution = none →
        Completes (.pairHandover p) s (startHandover (reply a c p.via stPending []) (.command c)))
      ∧ ((a.pair.handover.isSome = true ∨ a.pair.resolution.isSome = true) →
        AnswersNo (.pairHandover p) p s a c stBusy [])))
  ∧ (∀ s b0, s.boot.held = false →
    (s.pair.holding = true → Completes (.handoverReqReceived b0) s s)
    ∧ (s.pair.holding = false →
      ∀ ok, ok = (chkAll s && lifeOk s && !s.pair.stuck && !s.pair.yield && s.pair.claim.isNone) →
      (ok = false → Completes (.handoverReqReceived b0) s (twinSend s (.handoverAck b0 false)))
      ∧ (ok = true → ∀ e, e = nearClk (now s) b0 → ∀ h : Handover,
        h = { cause := none, b0 := e, b0w := b0, acked := true, released := false, holder := false } →
        Completes (.handoverReqReceived b0) s (twinSend
          { s with pair := { s.pair with token := some (e, e + 6000), handover := some h } }
          (.handoverAck b0 true)))))
  ∧ (∀ s h, s.boot.held = false → s.pair.handover = some h → h.holder = true → h.acked = false →
    (now s + 10000 ≤ h.b0 → Completes (.handoverAckReceived h.b0w true) s
      { s with pair := { s.pair with handover := some { h with acked := true } } })
    ∧ (h.b0 < now s + 10000 → Completes (.handoverAckReceived h.b0w true) s (handoverFailed s h stNotInState))
    ∧ Completes (.handoverAckReceived h.b0w false) s (handoverFailed s h stNotInState)
    ∧ Completes .handoverAckTimeout s (handoverFailed (toClk (h.b0 - 10000) s) h stNotInState))
  ∧ (∀ s h, s.boot.held = false → s.pair.handover = some h → h.holder = true → h.acked = true →
    (h.released = false → s.pair.holding = true → ∀ s1, s1 = release (toClk h.b0 s) →
      Completes .handoverBoundary s
        { s1 with pair := { s1.pair with handover := some { h with released := true } } })
    ∧ (h.released = true → ∀ s1, s1 = toClk (h.b0 + 6144) s →
      (s.pair.high = false → Completes .handoverClaimBack s s1)
      ∧ (s.pair.high = true →
        ∀ s2, s2 = handoverFailed { s1 with pair := { s1.pair with verdictSwap := false } } h stInternal →
        Completes .handoverClaimBack s (if mayClaim s2 then startClaim s2 true else s2))))
  ∧ (∀ s on, s.boot.held = false → s.id.sender = false →
    ∀ s1, s1 = { s with pair := { s.pair with yield := on } } →
    ∀ go, go = (on && s.pair.holding && s.pair.mode == 1 && twinChk s1 && beatFresh s1
      && s.pair.handover.isNone && s.pair.resolution.isNone) →
    Completes (.railYieldReceived on) s (if go then startHandover s1 .yield else s1))
  )
  ∧
  (
  (∀ p s a c, Accepted 0x0802 p s a c →
    (p.payload = [] → 20 ≤ replyRoom a p.via →
      ∀ v : Word, v = (match a.pair.hello with | some h => h.fwver | none => 0) →
      AnswersOk (.pairStatus p) p s a c [pairStsWord a, pairChkWord a, pairLeaseWord a, beatWord a, v])
    ∧ (p.payload ≠ [] → AnswersNo (.pairStatus p) p s a c stBadLength []))
  ∧ (∀ p s a c, Accepted 0x0803 p s a c →
    (p.payload = [] →
      AnswersOk (.pairClear p) p s { a with pair := { a.pair with degr := false, lastRes := 0 } } c [])
    ∧ (p.payload ≠ [] → AnswersNo (.pairClear p) p s a c stBadLength []))
  )

/-- A port without a link that hears a signal trains, a DN or BR that samples none waits for its next sample (06 R121,
R133); sixteen invalid sync headers of a lane within 64 blocks lose its block lock, and a link whose lock is not
regained within 2 µs goes down (06 R125); a training step that misses its time starts the training again, one of the
full rate leaves the port at the bring-up rate, and a failed port tries again after 1 s (06 R121); LINK_RETRAIN
replies PENDING and takes its ports down, and is refused for a port that does not exist or is crossed (06 R140). The
exchange of training words passes only between roles and lane counts that fit, with a usable eye and with a place to
offer; without a place the port below is refused; lanes more than 64 blocks apart start the training again (06 R115,
R122; 01 R15). A port in service is scanned every 10 s unless the device throttles: an implausible scan counts, a
good one ends the run of failures and the third failing one takes the link down (06 R123). A rate switch waits for
its eye, stays slow where that fails and else calibrates at full rate (06 R120, R121, R124). The latency loop: a
request to a port in training or service is answered with its residence (06 R127); the responses are collected until
64 are here, then this end's sum and spread go out and the link is calibrated with the partner's; a calibration that
fails is made once more, then the training begins again, or at full rate the port stays at the bring-up rate (06
R121, R127). Readings of the model itself that it rests on: logs 63, 64, 100, 106, 108 and 109. -/
def Obligations.PortsTrain : Prop :=
  (
  (∀ s p x, s.boot.held = false → portAt s p = some x →
    (∀ two, (1 < x.st → Completes (.signalDetect ⟨p, two⟩) s s)
      ∧ (x.st ≤ 1 → p = 0 → s.id.sender = false →
        Completes (.signalDetect ⟨p, two⟩) s (trainStart (setPort s { x with lanes2 := two }) p 0))
      ∧ (x.st ≤ 1 → (p ≠ 0 ∨ s.id.sender = true) → Completes (.signalDetect ⟨p, two⟩) s (trainStart s p 0)))
    ∧ (s.id.sender = false → (p = 1 ∨ p = 2) → x.st ≤ 1 → ∀ s1, s1 = toLt (x.since + 10 ^ 9) s →
      Completes (.brSignalSample p true) s (trainStart s1 p 0)
      ∧ Completes (.brSignalSample p false) s (setPort s1 { x with st := 0, detector := true, since := lt s1 }))
    ∧ (∀ t, x.lockLost = some t → Completes (.linkDown p) s (linkDown (toLt (t + 2000) s) p true))
    ∧ (x.lockLost = none → Completes (.linkDown p) s s)
    ∧ (∀ lane block, ∀ s1, s1 = bump s (clnAt clnPortShe p) →
      ∀ near, near = x.headers.filter (fun e => e.1 != lane || decide (block < e.2 + 64)) →
      ∀ lost, lost = ((x.st == 3 || x.st == 5)
        && decide (15 ≤ (near.filter (fun e => e.1 == lane)).length)) →
      Completes (.syncHeaderError ⟨p, lane, block, false⟩) s (setPort s1 { x with
        stableSince := lt s, headers := (lane, block) :: near
        lockLost := if lost && x.lockLost.isNone then some (lt s) else x.lockLost }))
    ∧ (∀ lane block t, x.lockLost = some t → t + 2000 ≤ lt s →
      Completes (.syncHeaderError ⟨p, lane, block, true⟩) s
        (linkDown (setPort (bump s (clnAt clnPortShe p)) { x with stableSince := lt s }) p true))
    ∧ (∀ lane block, (∀ t, x.lockLost = some t → lt s < t + 2000) →
      Completes (.syncHeaderError ⟨p, lane, block, true⟩) s (setPort (bump s (clnAt clnPortShe p)) { x with
        stableSince := lt s, headers := [(lane, block)], lockLost := none }))
    ∧ (x.st = 7 → Completes (.trainingRetryTimer p) s (retrainsDone (trainStart (toLt (x.since + 10 ^ 9) s) p 3)))
    ∧ (x.st ≠ 7 → Completes (.trainingRetryTimer p) s s)
    ∧ (∀ step ms, x.st = 2 → (x.step < 5 ∧ (step, ms) ∈ [(2, 2), (3, 20), (4, 22)] ∨ 5 ≤ x.step ∧ (step, ms) = (5, 25)) →
      Completes (.trainingStepTimeout ⟨p, step⟩) s (retrainsDone (trainAgain (toLt (x.since + ms * 10 ^ 6) s) x)))
    ∧ (x.st = 4 → Completes (.trainingStepTimeout ⟨p, 7⟩) s (staysSlow (toLt (x.since + 150 * 10 ^ 6) s) x)))
  ∧ (∀ p s a c w, Accepted 0x0030 p s a c → p.payload = [w] →
    ((maskPorts (fld w 8 0)).any (fun q => !portExists a q) = false →
      ((maskPorts (fld w 8 0)).any (fun q => match portAt a q with | some x => x.cross | none => false) = false →
        Completes (.linkRetrain p) s (beginRetrain c (maskPorts (fld w 8 0)) (reply a c p.via stPending [])))
      ∧ ((maskPorts (fld w 8 0)).any (fun q => match portAt a q with | some x => x.cross | none => false) = true →
        AnswersNo (.linkRetrain p) p s a c stNotInState []))
    ∧ ((maskPorts (fld w 8 0)).any (fun q => !portExists a q) = true →
      AnswersNo (.linkRetrain p) p s a c stBadParam []))
  )
  ∧
  (
  ∀ s p x, s.boot.held = false → portAt s p = some x →
  (∀ w scans skew, (x.st ≠ 2 ∨ 5 ≤ x.step ∨ (lanes2Of s p = false ∧ w.lanes2 = false
        ∧ rolesMatch (portRole s p) w.role = false)) →
    Completes (.trainingWordExchange p w ⟨scans, skew⟩) s s)
  ∧ (∀ w scans skew two, x.st = 2 → x.step < 5 →
    two = (if p = 0 ∧ s.id.sender = false then w.lanes2 else lanes2Of s p) →
    (two = true → 64 < skew → Completes (.trainingWordExchange p w ⟨scans, skew⟩) s (trainAgain s x))
    ∧ ((two = true → skew ≤ 64) →
      (scanResult two scans = none → Completes (.trainingWordExchange p w ⟨scans, skew⟩) s s)
      ∧ (∀ eye impl, scanResult two scans = some (eye, impl) → (impl || !eyeFails false false two eye) = true →
        rolesMatch (portRole s p) w.role = true → w.lanes2 = two →
        (s.id.sender = true ∨ p = 8 ∨ (p = 0 ∧ w.place ≠ 0xFFFFFFFFFF) ∨ (p ≠ 0 ∧ s.id.placeOk = true)) →
        ((offerOf s p).isSome = true →
          Completes (.trainingWordExchange p w ⟨scans, skew⟩) s (exchangePass s x w eye impl))
        ∧ (offerOf s p = none → Completes (.trainingWordExchange p w ⟨scans, skew⟩) s (refuseBelow s x)))))
  ∧ (∀ eye, (x.st = 3 ∨ x.st = 5) → throttleStep s < 2 → ∀ s1, s1 = toLt (x.scanAt + 10 ^ 10) s →
    (eyeImplausible x.lanes2 eye = true → Completes (.eyeScanTimer p eye) s
      (bumpF (setPort s1 { x with scanAt := lt s1 }) (clnAt clnPortSts p) 23 16))
    ∧ (eyeImplausible x.lanes2 eye = false →
      ∀ z, z = { x with scanAt := lt s1, eye := eyeShown x.lanes2 eye, qf := eyeQf x.lanes2 eye } →
      (eyeFails (x.st == 5) x.fecOn x.lanes2 eye = false →
        Completes (.eyeScanTimer p eye) s (setPort s1 { z with failRun := 0 }))
      ∧ (eyeFails (x.st == 5) x.fecOn x.lanes2 eye = true → x.failRun ≠ 2 →
        Completes (.eyeScanTimer p eye) s (setPort s1 { z with failRun := x.failRun + 1 }))
      ∧ (eyeFails (x.st == 5) x.fecOn x.lanes2 eye = true → x.failRun = 2 →
        Completes (.eyeScanTimer p eye) s (linkDown (setPort s1 { z with failRun := 3 }) p true))))
  ∧ (∀ first more fec2, x.st ≠ 4 → mayStep s x = false → Completes (.rateSwitch p first more fec2) s s)
  ∧ (∀ first more fec2 y, (x.st = 4 ∧ y = x ∨ mayStep s x = true ∧ y = { x with st := 4, step := 6, since := lt s }) →
    (scanResult x.lanes2 (first.toList ++ more) = none → Completes (.rateSwitch p first more fec2) s (setPort s y))
    ∧ (∀ e impl, scanResult x.lanes2 (first.toList ++ more) = some (e, impl) →
      ((impl || eyeFails true (linkFec x e fec2) x.lanes2 e) = true →
        Completes (.rateSwitch p first more fec2) s (staysSlow s y))
      ∧ ((impl || eyeFails true (linkFec x e fec2) x.lanes2 e) = false →
        Completes (.rateSwitch p first more fec2) s (sendLoop (setPort s { y with
          step := 7, sumX := [], fecOn := linkFec x e fec2, eye := eyeShown x.lanes2 e
          qf := eyeQf x.lanes2 e }) p 0))))
  )
  ∧
  (
  ∀ s p id residence, s.boot.held = false →
  (2 ≤ portSt s p → portSt s p ≤ 5 →
    Completes (.loopReqReceived p id residence) s (emit s (.block p (loopRspBlock id residence))))
  ∧ ((portSt s p < 2 ∨ 5 < portSt s p) → Completes (.loopReqReceived p id residence) s s)
  ∧ (∀ x t1 t4 sumY spreadY l, portAt s p = some x → (x.st = 2 ∧ 5 ≤ x.step ∨ x.st = 4 ∧ 7 ≤ x.step) →
    l = x.sumX ++ [(t4 - t1) - residence] →
    ∀ t, t = emit s (.loopSum p l.sum (spreadOf l)) →
    (l.length < 64 → Completes (.loopRspReceived p id residence t1 t4 ⟨sumY, spreadY⟩) s
      (emit (setPort s { x with sumX := l }) (.block p (loopReqBlock ((Config.loopStart + l.length) % 256)))))
    ∧ (64 ≤ l.length → ∀ lat, calibrated l sumY spreadY = some lat →
      (x.st = 2 → Completes (.loopRspReceived p id residence t1 t4 ⟨sumY, spreadY⟩) s
        (portComesUp t { x with sumX := [] } lat))
      ∧ (x.st = 4 → Completes (.loopRspReceived p id residence t1 t4 ⟨sumY, spreadY⟩) s
        (fullRate t { x with sumX := [] } lat)))
    ∧ (64 ≤ l.length → calibrated l sumY spreadY = none →
      (x.step = 5 ∨ x.step = 7 → Completes (.loopRspReceived p id residence t1 t4 ⟨sumY, spreadY⟩) s
        (sendLoop (setPort t { x with sumX := [], step := x.step + 1 }) p 0))
      ∧ (x.st = 2 → x.step = 6 → Completes (.loopRspReceived p id residence t1 t4 ⟨sumY, spreadY⟩) s (trainAgain t x))
      ∧ (x.st = 4 → x.step = 8 →
        Completes (.loopRspReceived p id residence t1 t4 ⟨sumY, spreadY⟩) s (staysSlow t { x with sumX := [] }))))
  )

/-- Routing. A tile that knows its place routes a Flume packet of its rail by route and level, one of the other rail as
a guest, and counts a CRC error of its port where the packet is bad (05 R100; 06 R118, R128, R136); a guest goes the
way the crossings give it, or is dropped outside the levels of the device (06 R136; 05 R112). An upstream packet of
a tile's levels waits for UP behind those already there, in turn, and is dropped where 32 KiB are full; with UP free
the next one leaves, after the control packets that wait (06 R128, R134). The ARQ: an acknowledgement frees the
packets it names and lets waiting ones leave, but one that comes in the tick in which a packet's time runs out does
not free it, and that packet is sent again; a packet whose time runs out is sent again (06 R130). A control packet
that comes next in order is acknowledged and handed on with those held behind it, one ahead is acknowledged and
held, a duplicate or one more than 32 ahead is only acknowledged (the 32: log 115), a damaged one is counted, and
one whose length does not fit is ignored (06 R118, R129 to R131; log 115). Readings of the model itself that it
rests on: logs 65, 66 and 98. -/
def Obligations.RoutingAndArq : Prop :=
  (
  ∀ s, s.boot.held = false →
  (∀ k : LinkPkt, s.id.sender = false → s.id.placeOk = true →
    Completes (.flumePacketForward k.toLinkStart k.data k.toLinkTerm) s
      (countBad (if ownRail s k then routeFlume s k else guestFlume 0 k s) 0 k))
  ∧ (∀ k : LinkPkt, (s.id.sender = true ∨ s.id.placeOk = false) →
    Completes (.flumePacketForward k.toLinkStart k.data k.toLinkTerm) s s)
  ∧ (∀ port k, Completes (.guestPacketReceived port k) s
      (countBad (guestFlume port { k with guest := true } s) port k))
  ∧ (∀ port k h, flumeHdr k = some h →
    (ownLow s ≤ h.level → h.level ≤ ownHigh s → k.rail ≠ s.id.side →
      ∀ l, guestWay s port (decide (4 ≤ h.typ)) h.bcast h.route = some l →
      guestFlume port k s = l.foldl (fun t p => flumeOut t p (relayed k)) s)
    ∧ ((h.level < ownLow s ∨ ownHigh s < h.level) → guestFlume port k s = levelDrop s h.level))
  ∧ (∀ fromBr k h port, s.id.sender = false → port = (if fromBr then 2 else 1) → flumeHdr k = some h →
    (ownLow s ≤ h.level → h.level ≤ ownHigh s →
      Completes (.upstreamFlumeForward fromBr true k.toLinkStart k.data k.early k.toLinkEnd) s
        (countBad (if ownRail s k then sendUp s port (relayed k) else guestFlume port k s) port k))
    ∧ ((h.level < ownLow s ∨ ownHigh s < h.level) →
      Completes (.upstreamFlumeForward fromBr true k.toLinkStart k.data k.early k.toLinkEnd) s
        (countBad (levelDrop s h.level) port k)))
  ∧ (∀ rank k, ∀ used, used = (s.link.upQueue.map (fun e => e.2.len)).sum →
    (used + k.len ≤ 32768 → sendUp s rank k
      = upDrain { s with link := { s.link with upQueue := s.link.upQueue ++ [(rank, k)] } })
    ∧ (32768 < used + k.len → sendUp s rank k = rxDrop s))
  ∧ (∀ fromBr a data early e, s.id.sender = false →
    Completes (.upstreamFlumeForward fromBr false a data early e) s
      (upDrain (ctlFirst 16 (toLt (portBusy s (upWay s)) s) 0)))
  )
  ∧
  (
  ∀ s p x, s.boot.held = false → portAt s p = some x →
  (∀ cum sack, ∀ acked : ArqPkt → Bool, acked = (fun a => decide (cdiff a.cseq cum ≤ 0)
      || (decide (cdiff a.cseq cum ≤ 16) && sack.getLsbD ((a.cseq - cum).toNat - 1))) →
    ∀ late : ArqPkt → Bool, late = (fun a => 4 * cdiv (arqDeadline x a) 4 == lt s) →
    Completes (.ackReceived p cum sack) s
      (regionsAcked (boundary ((x.unacked.filter (fun a => acked a && late a)).foldl (fun t a => resend t p a)
        (setPort s { x with unacked := x.unacked.filter (fun a => !acked a || late a) })) p)))
  ∧ (∀ cseq a, x.unacked.find? (fun a => a.cseq == cseq) = some a →
    Completes (.arqRetransmitTimeout p cseq) s (resend (toLt (arqDeadline x a) s) p a))
  ∧ (∀ cseq, x.unacked.find? (fun a => a.cseq == cseq) = none → Completes (.arqRetransmitTimeout p cseq) s s)
  ∧ (∀ k, x.p = p → upPort s p = some x →
    (linkGood k = false → Completes (.controlPacketReceived p k) s (bump s (clnAt clnPortCrcerr p)))
    ∧ (linkGood k = true → readCtl k = none → Completes (.controlPacketReceived p k) s s)
    ∧ (∀ q, linkGood k = true → readCtl k = some q →
      ((cdiff q.cseq x.lastIn ≤ 0 ∨ 32 < cdiff q.cseq x.lastIn
          ∨ x.gotAhead.any (fun e => e.1 == q.cseq) = true) →
        Completes (.controlPacketReceived p k) s (sendAck s p))
      ∧ (0 < cdiff q.cseq x.lastIn → cdiff q.cseq x.lastIn ≤ 32 → x.gotAhead.any (fun e => e.1 == q.cseq) = false →
        ∀ got l, got = x.gotAhead ++ [(q.cseq, q)] → l = inTurn got 33 x.lastIn →
        Completes (.controlPacketReceived p k) s
          (l.foldl (fun t e => handOn p t e.2) (sendAck (setPort s { x with
            lastIn := (l.map (·.1)).foldl (fun _ c => c) x.lastIn
            gotAhead := got.filter (fun e => !l.any (fun f => f.1 == e.1)) }) p)))))
  )

/-- Crossings: a CROSS_DOWN or CROSS_UP from the twin is granted where the port is up, crossing is enabled and the
places agree, and the change in latency reported to both senders; it is turned down otherwise (06 R135, R137). A
grant hands the port's waiting packets to the twin link as guests and is reported, a refusal cuts the port off (06
R135, R136, R137). A sender takes a crossed chain of its rail back when the broken link has been stable long enough
and no delivery is open, and UNCROSS ends what the twin carried (06 R138). Readings of the model itself that it
rests on: logs 41, 66 and 98. -/
def Obligations.Crossings : Prop :=
  ∀ s, s.boot.held = false →
  (∀ p ok, ok = (portUp s p && bit (portCfg s p) 8 && !placeDiffers s) →
    (ok = false → Completes (.crossDownReceived p) s (unbridgeable (linkSend s 8 (.crossAns true p false)) p))
    ∧ (∀ s1, ok = true →
      s1 = markCross (markCross { s with link := { s.link with
        crossDown := p :: s.link.crossDown.filter (· != p) } } p true) 8 true →
      Completes (.crossDownReceived p) s (reportCross (linkSend s1 8 (.crossAns true p true)) (otherSide s.id.side)
        (placeBehind s p) (Int.ofNat (fwdOf s 8 + latOf s p + slowPart s 8 p)) 0 0)))
  ∧ (∀ ok, s.id.sender = false → ok = (portUp s 0 && bit (portCfg s 0) 8 && !placeDiffers s) →
    (ok = false → Completes .crossUpReceived s (unbridgeable (linkSend s 8 (.crossAns false 0 false)) 0))
    ∧ (∀ s1, ok = true →
      s1 = markCross (markCross { s with link := { s.link with crossUp := true } } 0 true) 8 true →
      Completes .crossUpReceived s (reportCross (linkSend s1 8 (.crossAns false 0 true)) (otherSide s.id.side)
        s.id.place (Int.ofNat (fwdOf s 0 + slowPart s 0 8)) 0 0)))
  ∧ (∀ down port p x, p = (if down then port else 0) → portAt s p = some x →
    ((portUp s p = true ∨ x.crossAsked = false) →
      ∀ grant, Completes (.crossAnswerReceived down port grant) s s)
    ∧ (portUp s p = false → x.crossAsked = true →
      Completes (.crossAnswerReceived down port false) s
        (cutOff (unbridgeable (setPort s { x with crossAsked := false }) p) p)
      ∧ ∀ s1 s2 s3, s1 = markCross (setPort s { x with waiting := [], cross := true, crossAsked := false }) 8 true →
        s2 = { s1 with link := { s1.link with guests := p :: s1.link.guests.filter (· != p) } } →
        s3 = x.waiting.foldl (fun t i => linkItem t 8 ⟨true, i.body, i.cause⟩) s2 →
        (down = true → Completes (.crossAnswerReceived down port true) s
          (reportCross s3 s.id.side (placeBehind s p)
            (Int.ofNat (latOf s 8 + slowPart s 0 8) - Int.ofNat (x.lat + slowPart s 0 p)) 0 0))
        ∧ (down = false → Completes (.crossAnswerReceived down port true) s
          (reportCross s3 s.id.side (placeBehind s p) (Int.ofNat (latOf s 8)) (pastPart s 1) (pastPart s 2)))))
  ∧ (∀ c x below, portAt s c = some x → s.id.sender = true →
    s.link.crossChains.contains (c, s.id.side) = true → openOn s c = false →
    (plHop below ≤ 1 → portUp s c = true → Completes (.revertStableElapsed ⟨c, below⟩) s
      (uncrossChain (toLt (x.stableSince + 10 ^ 6 * x.stable) s) c below))
    ∧ (1 < plHop below → Completes (.revertStableElapsed ⟨c, below⟩) s (uncrossChain s c below)))
  ∧ (∀ c x below, portAt s c = some x → openOn s c = true → Completes (.revertStableElapsed ⟨c, below⟩) s s)
  ∧ (∀ p below, ∃ u, Completes (.uncrossReceived ⟨p, below⟩) s u
      ∧ u.link.crossDown = s.link.crossDown.filter (· != p)
      ∧ u.link.guests = s.link.guests.filter (· != p)
      ∧ (s.id.sender = true → ∀ e ∈ u.flume.changes,
        ¬ (e.chain = p ∧ e.rail = otherSide s.id.side ∧ e.below = below)))

/-- A write to the system space lands where it says and nowhere else, and a read finds what the earlier writes left and
changes no byte (15 R331, R343); one that finds no tag waits at its port (15 R344); an access beyond the space stops
(log 15); with the controller frozen a request is answered at once with the poison flag, and the requestor of a read
responds (15 R347, R337); before the controller is ready none is taken (the model's choice, log 15); a port of the
other role is not served and port 0 only writes (15 R337), and a request of no bytes does nothing. Readings of the
model itself that it rests on: logs 13, 14 and 15. -/
def Obligations.DramTransactions : Prop :=
  ∀ s p a n, s.boot.held = false →
  (∀ w, (portServes s.id.sender p = false ∨ (p = 0 ∧ w = none)) → exec (.dramRequest p a w n) s = .next s) ∧
  (exec (.dramRequest p a none 0) s = .next s ∧ exec (.dramRequest p a (some []) n) s = .next s) ∧
  (portServes s.id.sender p = true →
  (s.dram.state = 2 → s.dram.ended = false →
    (∀ b : List Byte, 1 ≤ b.length → a + b.length ≤ dramSpace s → tagFree s p = true →
      ∃ t, exec (.dramRequest p a (some b) n) s = .next t
        ∧ ∀ x, memByte t.dram.mem x = if a ≤ x ∧ x < a + b.length then b.getD (x - a) 0 else memByte s.dram.mem x)
    ∧ (p ≠ 0 → 1 ≤ n → a + n ≤ dramSpace s → tagFree s p = true →
      ∃ t, exec (.dramRequest p a none n) s = .next t ∧ (∀ x, memByte t.dram.mem x = memByte s.dram.mem x)
        ∧ ∃ r, t.dram.reqs = s.dram.reqs ++ [r] ∧ r.data = (List.range n).map (fun i => memByte s.dram.mem (a + i)))
    ∧ (p ≠ 0 → 1 ≤ n → a + n ≤ dramSpace s → tagFree s p = false →
      Completes (.dramRequest p a none n) s (waitTag s
        { tag := 0, port := p, ch := 0, addr := a, len := n, write := none, at_ := lt s, data := [], poison := false }))
    ∧ (∀ b : List Byte, 1 ≤ b.length → a + b.length ≤ dramSpace s → tagFree s p = false →
      Completes (.dramRequest p a (some b) n) s (waitTag s
        { tag := 0, port := p, ch := 0, addr := a, len := b.length, write := some b, at_ := lt s, data := []
          poison := false }))
    ∧ (p ≠ 0 → 1 ≤ n → dramSpace s < a + n → exec (.dramRequest p a none n) s = .fault .dramOutside)
    ∧ (∀ b : List Byte, 1 ≤ b.length → dramSpace s < a + b.length →
      exec (.dramRequest p a (some b) n) s = .fault .dramOutside))
  ∧ ((s.dram.state = 3 ∨ s.dram.state = 4 ∨ s.dram.ended = true) → p ≠ 0 → 1 ≤ n →
    Completes (.dramRequest p a none n) s (respond (emit s (.dram p [] true)) p a))
  ∧ (∀ b : List Byte, (s.dram.state = 3 ∨ s.dram.state = 4 ∨ s.dram.ended = true) → 1 ≤ b.length →
    Completes (.dramRequest p a (some b) n) s (emit s (.dram p [] true)))
  ∧ (s.dram.state ≠ 2 → s.dram.state ≠ 3 → s.dram.state ≠ 4 → s.dram.ended = false →
    ∀ w, exec (.dramRequest p a w n) s = .next s))

/-- The address mapping is the arithmetic of 15 R331, under the grain that MEM.BOOTCFG names at the start: channel,
address in the channel, check frame, physical address of a byte and of its check word, column, bank and row; with
one channel the channel is 0 and L is A; no place of a byte or of a check word lies in the last 16 bytes of a check
frame. No two bytes share a place, and no byte lies where a check word does. -/
def Obligations.AddressMapping : Prop :=
  ∀ s a g n l f o, g = 256 * 2 ^ s.dram.grain → n = (chansInUse s).length → 1 ≤ n →
  l = a / (g * n) * g + a % g → f = l / 3840 → o = l % 3840 →
  (dramStart s).dram.grain = getF s memBootcfg 11 8
  ∧ (mapNow s a).c = a / g % n ∧ (mapNow s a).l = l
  ∧ (mapNow s a).p = f * 4096 + o
  ∧ (mapNow s a).k = f * 4096 + 3840 + 2 * (o / 32)
  ∧ colOf (mapNow s a).p = (mapNow s a).p % 2 ^ 12
  ∧ bankOf (mapNow s a).p = ((mapNow s a).p / 2 ^ 12 % 2 ^ 4) ^^^ ((mapNow s a).p / 2 ^ 16 % 2 ^ 4)
  ∧ rowOf (mapNow s a).p = (mapNow s a).p / 2 ^ 16 % 2 ^ 17
  ∧ (n = 1 → (mapNow s a).c = 0 ∧ (mapNow s a).l = a)
  ∧ (mapNow s a).p % 4096 < 4080 ∧ ((mapNow s a).k + 1) % 4096 < 4080
  ∧ (∀ b, a ≠ b → (mapNow s a).c ≠ (mapNow s b).c ∨ (mapNow s a).p ≠ (mapNow s b).p)
  ∧ (∀ b, (mapNow s a).p ≠ (mapNow s b).k ∧ (mapNow s a).p ≠ (mapNow s b).k + 1)

/-- Training: an attempt that runs out of time, reads a density that does not fit or an eye that is too small fails, an
implausible eye scan is made again up to three times, a good attempt trains the channel at the end of its zero fill
(a late one fails), gives its credits back and may settle the whole; a failed channel of a sender is tried again
when its time comes (15 R330, R339, R340). Running channels: every 100 ms the oscillator corrects drift beyond its
limit, every 32 ms the temperature reading is kept and recorded once when it turns hot, a refresh is put off up to
eight times or runs with those put off (15 R341), and a channel enters self-refresh once its idle time has passed
without a request, unless one cancels the entry (15 R346). A channel that is not trained, and a refresh or an entry
while the controller is not ready, the channel is in self-refresh or entry is off, change nothing. Reads return in
tag order within a port and channel (15 R343), a clean one with its data, a correctable one counts, an uncorrectable
one leaves with the poison flag and its requestor responds (15 R333, R336); one as old as its class bound counts as
aged (15 R342); a partial write whose unit reads uncorrectable leaves that unit poisoned (15 R334, R336); each
return lets a waiting request take its tag (15 R344); a return without a request freezes the controller (15 R347);
the scrubber takes one unit after the other and corrects it, and stands still while it is off, the controller is not
ready or the device throttles (15 R338; 17 R383). A command-path error while the controller trains or is ready
freezes it (15 R347); 10 ms later a frozen controller trains its channels again (15 R349); with nothing frozen this
changes nothing. Readings of the model itself that it rests on: logs 14, 67, 68 and 104. -/
def Obligations.DramUpkeep : Prop :=
  (
  ∀ s c x, s.boot.held = false → chanOf s c = some x →
  (1 ≤ x.step → x.step < 8 →
    (∀ step, Completes (.dramTrainingStepTimeout c step) s
      (attemptFailed (toLt (x.since + 10 ^ 6 * stepLimit step) s) x))
    ∧ (∀ dens rds wrs, (dens = 0 ∨ 4 < dens) → Completes (.dramTrainingDone c dens rds wrs) s (attemptFailed s x))
    ∧ (∀ dens rds wrs y, c ≠ 0 → chanOf s 0 = some y → y.trained = true → y.dens ≠ dens →
      Completes (.dramTrainingDone c dens rds wrs) s (attemptFailed s x))
    ∧ (∀ dens rds wrs, 1 ≤ dens → dens ≤ 4 →
      (c = 0 ∨ ∀ y, chanOf s 0 = some y → y.trained = true → y.dens = dens) →
      (laneScan rds = none → Completes (.dramTrainingDone c dens rds wrs) s s)
      ∧ (laneScan rds = some none → Completes (.dramTrainingDone c dens rds wrs) s (attemptFailed s x))
      ∧ (∀ r, laneScan rds = some (some r) →
        (laneScan wrs = none → Completes (.dramTrainingDone c dens rds wrs) s s)
        ∧ (laneScan wrs = some none →
          Completes (.dramTrainingDone c dens rds wrs) s (attemptFailed s { x with rdEye := r }))
        ∧ (∀ w, laneScan wrs = some (some w) → ∀ s1, s1 = toLt (x.since + chanUsable dens / 30) s →
          (x.since + 400 * 10 ^ 6 < lt s1 → Completes (.dramTrainingDone c dens rds wrs) s
            (attemptFailed s1 { x with rdEye := r, wrEye := w }))
          ∧ (lt s1 ≤ x.since + 400 * 10 ^ 6 → Completes (.dramTrainingDone c dens rds wrs) s
          (dramSettle (densOthers (setChan (creditReturn s1 (isDramTrain c)) (chanTrained s1 { x with
            dens := dens, rdEye := r, wrEye := w })) c dens)))))))
  ∧ ((x.step = 0 ∨ 8 ≤ x.step) → ∀ dens rds wrs, Completes (.dramTrainingDone c dens rds wrs) s s)
  ∧ (∀ t, x.retryAt = some t → s.id.sender = true → x.failed = true →
    Completes (.dramChannelRetry c) s
      (dramAsk (setChan (toLt t s) { x with failed := false, tries := 0, retryAt := none }) c))
  )
  ∧
  (
  (∀ s c, s.boot.held = false → (chanOf s c = none ∨ ∃ x, chanOf s c = some x ∧ x.trained = false) →
    (∀ d, Completes (.dqsOscRead c d) s s) ∧ (∀ ns h, Completes (.mr4Read c ns h) s s)
    ∧ (∀ b put, Completes (.dramRefresh c b put) s s) ∧ Completes (.selfRefreshEntry c) s s) ∧
  (∀ s c, s.boot.held = false → (s.dram.state ≠ 2 ∨ s.dram.srCh.contains c = true) →
    (∀ b put, Completes (.dramRefresh c b put) s s) ∧ Completes (.selfRefreshEntry c) s s) ∧
  (∀ s c, s.boot.held = false → getF s memSr 15 0 = 0 → Completes (.selfRefreshEntry c) s s) ∧
  ∀ s c x, s.boot.held = false → chanOf s c = some x → x.trained = true →
  (∀ (drift : Int) t, t = toLt (x.dqsAt + 100 * 10 ^ 6) s → Completes (.dqsOscRead c drift) s
    (setChan t { x with drift := if 2 < drift.natAbs then 0 else drift, dqsAt := lt t }))
  ∧ (∀ t, t = toLt (x.mr4At + 32 * 10 ^ 6) s →
    (∀ ns, Completes (.mr4Read c ns false) s (setChan t { x with refreshNs := ns, hot := false, mr4At := lt t }))
    ∧ ∀ ns u, u = setChan t { x with refreshNs := Config.fastestRefresh, hot := true, mr4At := lt t } →
      Completes (.mr4Read c ns true) s (if x.hot then u else recordX u xDramError [w32 c]))
  ∧ (∀ b, s.dram.srCh.contains c = false → s.dram.state = 2 →
    ∀ t, t = refreshMark (toLt (refreshDue x b) s) x b →
    (postponedOf s c b < 8 → Completes (.dramRefresh c b true) s
      { t with dram := { t.dram with postponed := put (c, b) (postponedOf s c b + 1) t.dram.postponed } })
    ∧ (∀ p, (8 ≤ postponedOf s c b ∨ p = false) → Completes (.dramRefresh c b p) s (refreshNow t c b 1)))
  ∧ (s.dram.state = 2 → getF s memSr 15 0 ≠ 0 → s.dram.srCh.contains c = false →
    ((∃ r ∈ s.dram.reqs, r.ch = c ∧ r.at_ < idleEnd s x) → Completes (.selfRefreshEntry c) s s)
    ∧ ((∀ r ∈ s.dram.reqs, r.ch = c → idleEnd s x ≤ r.at_) →
      (∃ r ∈ s.dram.reqs, r.ch = c ∧ r.at_ < idleEnd s x + 22) →
      ∃ u, Completes (.selfRefreshEntry c) s u ∧ u.dram.srCh = s.dram.srCh
        ∧ rd u memSrCancel = satAdd (rd s memSrCancel) 1)
    ∧ ((∀ r ∈ s.dram.reqs, r.ch ≠ c) →
      ∃ u, Completes (.selfRefreshEntry c) s u ∧ u.dram.srCh = c :: s.dram.srCh
        ∧ x.busy + 1000 * getF s memSr 15 0 ≤ lt u ∧ rd u memSrEntry = satAdd (rd s memSrEntry) 1))
  )
  ∧
  (
  ∀ s, s.boot.held = false →
  (s.dram.state ≠ 2 → (∀ tag k, Completes (.dramReadReturn tag k) s s) ∧ ∀ k, Completes (.scrubStep k) s s)
  ∧ ((getF s memScrub 7 0 = 0 ∨ dramSpace s < 32 ∨ 1 ≤ throttleStep s) → ∀ k, Completes (.scrubStep k) s s)
  ∧ (s.dram.state = 2 →
  (∀ tag k, s.dram.reqs.find? (fun r => r.tag == tag) = none →
    Completes (.dramReadReturn tag k) s (freeze s 3 0))
  ∧ (∀ tag r, s.dram.reqs.find? (fun r => r.tag == tag) = some r →
    (s.dram.reqs.any (fun x => x.port == r.port && x.ch == r.ch && decide (x.tag < tag)) = true →
      ∀ k, Completes (.dramReadReturn tag k) s s)
    ∧ (s.dram.reqs.any (fun x => x.port == r.port && x.ch == r.ch && decide (x.tag < tag)) = false →
      ∀ s0, s0 = chanBusy { s with dram := { s.dram with reqs := s.dram.reqs.filter (fun x => x.tag != tag) } } r.ch →
      ∀ s1, s1 = (if ageBound s r.port ≤ lt s - r.at_ then bump s0 memAged else s0) →
      (r.write = none →
        (r.poison = false →
          Completes (.dramReadReturn tag 0) s (serveWaiting (emit s1 (.dram r.port r.data false)))
          ∧ Completes (.dramReadReturn tag 1) s (serveWaiting (corrected (emit s1 (.dram r.port r.data false)) r.ch)))
        ∧ (∀ k, (k = 2 ∨ r.poison = true) → Completes (.dramReadReturn tag k) s (serveWaiting
          (respond (uncorrectable (emit s1 (.dram r.port r.data true)) r.port (badUnit s r)) r.port (badUnit s r)))))
      ∧ (r.write.isSome = true → ∀ s2, s2 = emit s1 (.dram r.port [] false) →
        (readUnits r = [] → ∀ k, Completes (.dramReadReturn tag k) s (serveWaiting s2))
        ∧ (readUnits r ≠ [] →
          (r.poison = false → Completes (.dramReadReturn tag 0) s (serveWaiting s2)
            ∧ Completes (.dramReadReturn tag 1) s (serveWaiting (corrected s2 r.ch)))
          ∧ (∀ k, (k = 2 ∨ r.poison = true) → Completes (.dramReadReturn tag k) s
            (serveWaiting (poisonUnits (uncorrectable s2 r.port (badUnit s r)) r)))))))
  ∧ (getF s memScrub 7 0 ≠ 0 → 32 ≤ dramSpace s → throttleStep s = 0 →
    ∀ u s1, u = s.dram.scrub % (dramSpace s / 32) →
    s1 = scrubMove s →
    (s.dram.poisoned.contains u = false →
      Completes (.scrubStep 0) s s1 ∧ Completes (.scrubStep 1) s (corrected s1 (chanAt s (32 * u))))
    ∧ (∀ k, (k = 2 ∨ s.dram.poisoned.contains u = true) →
      Completes (.scrubStep k) s (staysPoisoned (uncorrectable s1 12 (32 * u)) u))))
  )
  ∧
  (
  (∀ s source c, s.boot.held = false →
    ((s.dram.state = 1 ∨ s.dram.state = 2 ∨ s.dram.state = 4) →
      Completes (.commandPathError source c) s (freeze s source c))
    ∧ (s.dram.state ≠ 1 → s.dram.state ≠ 2 → s.dram.state ≠ 4 → Completes (.commandPathError source c) s s))
  ∧ (∀ s, s.boot.held = false → (s.dram.frozenAt = none ∨ s.dram.state ≠ 3) → Completes .freezeRecovery s s)
  ∧ (∀ s t, s.boot.held = false → s.dram.frozenAt = some t → s.dram.state = 3 → ∀ s1, s1 = toLt (t + 10 ^ 7) s →
    Completes .freezeRecovery s (trainAll s1))
  )

/-- On-chip memory: a request to the secure bank that does not come from a secure core at port 0, or during a wipe, gets
a bus error, the first counted (16 R358, R359), a write that meets one of port 1 in the same cycle is lost and
counts (16 R353), a read gives the bytes held before the cycle's writes (16 R353), and a whole word written is no
longer poisoned (16 R352). The march engine: a granule of a bank under test stalls the requests to it for its time
and the longest stall is kept (16 R361, R362), a word that differs is a failure of the bank, one that differs twice
stays uncorrectable (16 R363); a bank whose granules are done counts a pass, gives its credits back and lets the
next begin; a periodic march starts its time after the last (16 R360). Without a bank under test, beyond its
granules or while the device throttles these change nothing. Readings of the model itself that it rests on: logs 69,
103 and 131. -/
def Obligations.MarchTests : Prop :=
  (∀ pre peers s r,
    (r.bank = 64 → (r.port ≠ 0 ∨ r.secure = false) →
      sramAnswer pre peers s r = emit (bump s srmUe) (.sram r.port r.bank r.word .busError))
    ∧ (r.bank = 64 → r.port = 0 → r.secure = true → s.sec.wiping = true →
      sramAnswer pre peers s r = emit s (.sram r.port r.bank r.word .busError))
    ∧ ((r.bank ≠ 64 ∨ (r.port = 0 ∧ r.secure = true ∧ s.sec.wiping = false)) →
      (∀ off b, r.write = some (off, b) →
        (displaced peers r = true → sramAnswer pre peers s r = emit (bump s srmWcoll) (.sram r.port r.bank r.word .lost))
        ∧ (displaced peers r = false →
          ∃ t, sramAnswer pre peers s r = emit t (.sram r.port r.bank r.word .done)
            ∧ (8 ≤ b.length → ¬ sramAddr r.bank r.word ∈ t.sram.poisoned)))
      ∧ (r.write = none →
        (r.err ≠ 2 → ¬ sramAddr r.bank r.word ∈ s.sram.poisoned →
          sramAnswer pre peers s r = emit (if r.err = 1 then bump s srmCe else s)
            (.sram r.port r.bank r.word (.data (memRead pre (sramAddr r.bank r.word) 8) false)))
        ∧ ((r.err = 2 ∨ sramAddr r.bank r.word ∈ s.sram.poisoned) →
          sramAnswer pre peers s r = emit (sramUncorrectable s r.bank r.word)
            (.sram r.port r.bank r.word (.data (memRead pre (sramAddr r.bank r.word) 8) true))))))
  ∧ (∀ s bank, s.boot.held = false → s.sram.active.find? (fun e => e.1 == bank) = none →
    (∀ d1 d2 w e l, Completes (.marchGranuleLock bank d1 d2 w e l) s s)
    ∧ ∀ f, Completes (.marchBankDone bank f) s s)
  ∧ (∀ s bank g, s.boot.held = false → s.sram.active.find? (fun e => e.1 == bank) = some (bank, g) →
    ((s.sram.mmode ≠ 1 ∨ 1024 ≤ g ∨ 1 ≤ throttleStep s) →
      ∀ d1 d2 w e l, Completes (.marchGranuleLock bank d1 d2 w e l) s s)
    ∧ (s.sram.mmode = 1 → g < 1024 → throttleStep s = 0 → ∀ word element reqs d1 d2,
      ∀ wait, wait = (if d1 then 960 else 832) →
      ∀ served, served = lockedServe bank g wait reqs →
      ∀ s1, s1 = sramServe (ticks (wait / 4) (toLt (marchFrom s bank) s)) served →
      ∀ s2, s2 = { s1 with sram := { s1.sram with
          active := s1.sram.active.map (fun e => if e.1 = bank then (bank, g + 1) else e)
          from_ := put bank (lt s1 + 1000 * getF s1 srmMarch 23 16) s1.sram.from_ } } →
      ∀ s3, s3 = wr s2 srmMaxstall (w32
          (max (rd s2 srmMaxstall).toNat (sat32 ((served.map (fun e => e.1 - e.2.cycle)).foldl max 0)))) →
      ((d1 && d2) = false → Completes (.marchGranuleLock bank d1 d2 word element reqs) s
        (if element = 0 then s3 else marchFail s3 bank word element))
      ∧ ((d1 && d2) = true → ∀ s4, s4 = sramUncorrectable (marchFail s3 bank word element) bank word →
        Completes (.marchGranuleLock bank d1 d2 word element reqs) s { s4 with sram := { s4.sram with
          poisoned := insertNat (sramAddr bank word) s4.sram.poisoned } }))
    ∧ (s.sram.mmode = 1 → g < 1024 → ∀ f, Completes (.marchBankDone bank f) s s)
    ∧ ((s.sram.mmode ≠ 1 ∨ 1024 ≤ g) → ∀ s0, s0 = (if s.sram.mmode = 1 then s else toLt (marchFrom s bank + 655360) s) →
      ∀ s1, s1 = creditReturn { s0 with sram := { s0.sram with
        active := s0.sram.active.filter (fun e => e.1 != bank) } } (isMarch bank) →
      ∀ cl : State → State, cl = (fun t => if s.sram.mmode = 1 then t else clearBanks t (· == bank)) →
      Completes (.marchBankDone bank none) s
        (marchEnd (cl (setBank s1 bank (fun b => { b with passes := min 65535 (b.passes + 1) }))))
      ∧ ∀ w e, Completes (.marchBankDone bank (some (w, e))) s
        (marchEnd (cl (marchFail (setBank s1 bank (fun b => { b with passes := min 65535 (b.passes + 1) })) bank w e)))))
  ∧ (∀ s, s.boot.held = false →
    (∀ t, s.sram.doneAt = some t → s.sram.mmode = 1 → getF s srmMarch 15 0 ≠ 0 → getF s srmMarch 31 30 = 1 →
      Completes .marchPeriod s (marchStart (toLt (t + getF s srmMarch 15 0 * 3600 * 10 ^ 9) s) 1))
    ∧ ((s.sram.doneAt = none ∨ s.sram.mmode ≠ 1 ∨ getF s srmMarch 15 0 = 0 ∨ getF s srmMarch 31 30 ≠ 1) →
      Completes .marchPeriod s s))

/-- Sluice grants the request that is next, whole, where the chip credits and, for a lamp request, the lamp credits in
use and the request lie within the budgets, equality fitting, and none whose wait has run out; a wait that runs out
is refused and counted; with nothing to grant or no such wait these change nothing (17 R376). SLUICE_READ answers
the budgets and what is in use (13 R310). The source gain of a tile whose current has been low for its time asks for
the recompute of the gain one step higher, never above full: with credits at once its coefficients are made, else it
waits for them, and refused it starts its time afresh; one at full gain, one whose twin makes the coefficients, a
sender and a tile whose current was not low do nothing (17 R380). Readings of the model itself that it rests on: log
73. -/
def Obligations.SluiceAndGain : Prop :=
  (
  (∀ s c, s.boot.held = false → nextGrant s = some c →
    (waitOver s c = false → Completes .sluiceGrant s (dramOnce (opGranted (grant s c) c.op)))
    ∧ (waitOver s c = true → Completes .sluiceGrant s s)
    ∧ chipGranted s + c.chip + standing s ≤ chipBudget s
    ∧ (c.lamp = 0 ∨ lampInUse s + c.lamp ≤ lampBudget s))
  ∧ (∀ s, s.boot.held = false → nextGrant s = none → Completes .sluiceGrant s s)
  ∧ (∀ s req, s.boot.held = false →
    (s.slu.waiting.find? (fun c => c.id == req) = none
      ∨ ∃ c, s.slu.waiting.find? (fun c => c.id == req) = some c ∧ waitLimit s c.cls = none) →
    Completes (.sluiceWaitTimeout req) s s)
  ∧ (∀ s req c l, s.boot.held = false → s.slu.waiting.find? (fun c => c.id == req) = some c →
    waitLimit s c.cls = some l → ∀ s1, s1 = toLt (c.at_ + l) s →
    Completes (.sluiceWaitTimeout req) s
      (dramOnce (opRefused (bump { s1 with slu := { s1.slu with
        waiting := s1.slu.waiting.filter (fun x => x.id != req) } } pwrRefused) c.op)))
  ∧ (∀ p s a c, Accepted 0x0901 p s a c → p.payload = [] → 12 ≤ replyRoom a p.via → ∀ lamp : Word,
    lamp = (if a.id.sender then 0 else mkFld 31 16 (lampBudget a) ||| w32 (min 65535 (lampInUse a))) →
    AnswersOk (.sluiceRead p) p s a c
      [mkFld 31 16 (chipBudget a) ||| mkFld 15 0 (chipGranted a), lamp
      , mkFld 31 16 a.slu.waiting.length ||| w32 (min 65535 (rd a pwrRefused).toNat)])
  )
  ∧
  (
  ∀ s, s.boot.held = false →
  ((s.slu.lowSince = none ∨ s.id.sender = true ∨ ownCoefs s = false ∨ 32768 ≤ getF s tilSlg 15 0) →
    Completes .slgRaise s s)
  ∧ (∀ t, s.slu.lowSince = some t → s.id.sender = false → ownCoefs s = true → getF s tilSlg 15 0 < 32768 →
    ∀ s1 v need s2 u st, s1 = toLt (t + 10 ^ 6 * getF s pwrRaise 15 0) s →
    v = min 32768 (getF s tilSlg 15 0 + getF s1 pwrRaise 31 16) →
    need = stepLamp s1 (limitG (getF s1 tilBright 15 0) v) (limitG (getF s1 tilBright 15 0) (getF s tilSlg 15 0)) →
    s2 = { s1 with slu := { s1.slu with raised := true, lowSince := none } } →
    askRecompute s2 (idOfItem 0 0 0) (.slg v) none need = (u, st) →
    (st = stPending → Completes .slgRaise s (if s2.slu.granted.length < u.slu.granted.length then slgCoef u v else u))
    ∧ (st ≠ stPending →
      Completes .slgRaise s { u with slu := { u.slu with raised := false, lowSince := some (lt u) } }))
  )

/-- The write stop: PFAIL_N begins it at once, and hands over where the device holds, a standby is ready and no handover
runs (17 R372); it lifts 100 ms after the supply is good again and not before, and the suspended lamp-board
operation goes on (17 R373). The rails: a new warning or fault of a rail is recorded with the rail and its voltage,
the warning of VIO18 begins the write stop, and a fault has the action of its rail (17 R371, R372); VIO18 back at
1,750 mV starts the time of its recovery (17 R373), and the ports that stopped with VDDA or VDDH train again once
both are good (17 R371); held in reset only the measured value and the stop are kept. The nominal of VIOL is latched
once (21 R448); RAIL_READ answers the eight rails and the stop (13 R310). Readings of the model itself that it rests
on: logs 70 and 71. -/
def Obligations.PowerSupply : Prop :=
  (
  (∀ s, ∃ u, Completes .pfailAssert s u ∧ u.pwr.pfail = true ∧ u.pwr.stopped = true)
  ∧ (∀ s s1, s1 = enterStop { s with pwr := { s.pwr with pfail := true } } → ∀ go,
    go = (!s1.boot.held && s1.pair.holding && standbyReady s1 && s1.pair.handover.isNone) →
    (go = true → Completes .pfailAssert s (startHandover s1 .pfail))
    ∧ (go = false → Completes .pfailAssert s s1))
  ∧ (∀ s, s.pwr.stopped = false ∨ s.pwr.vio18Low = true → exec .nvStopLift s = .next s)
  ∧ (∀ s t, s.pwr.stopped = true → s.pwr.vio18Low = false → s.pwr.goodSince = some t →
    ∃ v, Completes .nvStopLift s (resumeBoard v) ∧ v.pwr.stopped = false ∧ v.pwr.pfail = false
      ∧ t + 10 ^ 8 ≤ lt v)
  )
  ∧
  (
  (∀ s mv rail, 8 ≤ rail → Completes (.railThresholdCross rail mv) s s ∧ Completes (.railRecovery rail mv) s s)
  ∧ (∀ s rail mv s1, rail < 8 → s1 = railTake s rail mv →
    (∀ warn bad s2, warn = (s1.pwr.railWarn.contains rail && !s.pwr.railWarn.contains rail) →
      bad = (s1.pwr.railFault.contains rail && !s.pwr.railFault.contains rail) →
      s2 = (if rail = 6 ∧ warn = true then enterStop { s1 with pwr := { s1.pwr with vio18Low := true } } else s1) →
      (s2.boot.held = true → Completes (.railThresholdCross rail mv) s s2)
      ∧ (s2.boot.held = false →
        (warn = false → bad = false → Completes (.railThresholdCross rail mv) s (throttle s2))
        ∧ (warn = true → bad = false →
          Completes (.railThresholdCross rail mv) s (throttle (recordX s2 xRail [w32 rail, w32 mv, 0])))
        ∧ (bad = true → Completes (.railThresholdCross rail mv) s
          (railFaultAction (throttle (recordX s2 xRail [w32 rail, w32 mv, 1])) rail))))
    ∧ (∀ s2, s2 = (if rail = 6 ∧ s1.pwr.vio18Low = true ∧ 1750 ≤ mv then
        { s1 with pwr := { s1.pwr with vio18Low := false, goodSince := some (lt s1) } } else s1) →
      (s2.boot.held = true → Completes (.railRecovery rail mv) s s2)
      ∧ (s2.boot.held = false →
        ∀ low : State → Bool, low = (fun t =>
          [2, 3].any (fun k => t.pwr.railWarn.contains k || t.pwr.railFault.contains k)) →
        ((low s = false ∨ low (throttle s2) = true) → Completes (.railRecovery rail mv) s (throttle s2))
        ∧ (low s = true → low (throttle s2) = false → Completes (.railRecovery rail mv) s
          ((((throttle s2).link.ports.filter (fun x => x.st == 0)).map (·.p)).foldl
            (fun t p => trainStart t p 0) (throttle s2))))))
  ∧ (∀ s mv, (s.pwr.violNominal.isSome = true → Completes (.violNominalLatch mv) s s)
    ∧ (s.pwr.violNominal = none → Completes (.violNominalLatch mv) s
      (railTake { s with pwr := { s.pwr with violNominal := some (if 2600 ≤ mv then 3300 else 1800) } } 7 mv)))
  ∧ (∀ p s a c, Accepted 0x0920 p s a c → p.payload = [] → 36 ≤ replyRoom a p.via →
    AnswersOk (.railRead p) p s a c
      ((List.range 8).map (fun k => w32 (railMv a k)) ++ [flagAt a.pwr.pfail 0 ||| flagAt a.pwr.stopped 1]))
  )

/-- The clocks: the loss of XIN counts, fails the clock check, sets RCRUN and holds the device in reset for its length
and 1 ms more; a loss of lock of the system or the DRAM PLL and a frequency out of tolerance count and are fatal; a
window of good frequencies changes nothing, since CLK rises again only at reset (17 R366; 12 R271). Die temperature:
a conversion 10 ms, or 1 ms, after the last judges the throttle step, and at 120 °C and above shuts the device down
(17 R381, R383, R384); a step is left one second after it could be (17 R383); while shut down sensor 0 alone
converts, and the restart waits 10 s below its limit (17 R384); THERMAL_READ answers the step and the sensors (13
R310). Where no step can be left and no restart is due these change nothing. Readings of the model itself that it
rests on: logs 53 and 72. -/
def Obligations.ClocksAndHeat : Prop :=
  (
  ∀ s, s.boot.held = false →
  (∀ n, ∀ s1, s1 = ticks ((n + 10 ^ 6) / 4)
      (holdReset (setChk (setF (bumpF s pwrClk 23 16) pwrClk 31 31 1) 3 false) causeXin) →
    Completes (.xinLoss n) s { s1 with boot := { s1.boot with lossNs := n } })
  ∧ (∀ pll, (pll < 2 → Completes (.pllLossOfLock pll) s (fatalFall (bumpF s pwrClk 15 8) 3))
    ∧ (2 ≤ pll → Completes (.pllLossOfLock pll) s s))
  ∧ (∀ a b c, ((countOk 400000 a && countOk 100000 b && countOk 100000 c) = true →
      Completes (.freqCheckWindow a b c) s (toLt ((lt s / 400000 + 1) * 400000) s))
    ∧ ((countOk 400000 a && countOk 100000 b && countOk 100000 c) = false →
      Completes (.freqCheckWindow a b c) s (fatalFall (bumpF (toLt ((lt s / 400000 + 1) * 400000) s) pwrClk 7 0) 3)))
  )
  ∧
  (
  (∀ s raws, s.pwr.shutdown = true →
    Completes (.thermalConversion raws) s (coolConvert s (raws.getD 0 0 + s.cal.sensors.getD 0 0)))
  ∧ (∀ s raws s2, s.boot.held = false → s.pwr.shutdown = false →
    s2 = throttle (dieConvert (toLt (s.pwr.lastConv.getD 0 + (if s.pwr.fastConv then 10 ^ 6 else 10 ^ 7)) s) raws) →
    (tmaxOf s2 < 1920 → Completes (.thermalConversion raws) s s2)
    ∧ (1920 ≤ tmaxOf s2 → Completes (.thermalConversion raws) s (dieShutdown s2)))
  ∧ (∀ s k t s1, s.boot.held = false → s.pwr.tstep = k + 1 → s.pwr.below.getD k none = some t →
    s1 = toLt (t + 10 ^ 9) s →
    Completes .throttleStepLeave s (throttle { s1 with pwr := { s1.pwr with tstep := k } }))
  ∧ (∀ s, s.boot.held = false → (s.pwr.tstep = 0 ∨ ∃ k, s.pwr.tstep = k + 1 ∧ s.pwr.below.getD k none = none) →
    Completes .throttleStepLeave s s)
  ∧ (∀ s t, s.pwr.shutdown = true → s.pwr.coolSince = some t →
    ∃ u, Completes .thermalRestart s u ∧ u.pwr.shutdown = false ∧ u.pwr.tstep = 0 ∧ t + 10 ^ 10 ≤ lt u
      ∧ u.par = s.par)
  ∧ (∀ s, (s.pwr.shutdown = false ∨ s.pwr.coolSince = none) → exec .thermalRestart s = .next s)
  ∧ (∀ p s a c l, Accepted 0x0910 p s a c → p.payload = [] →
    l = (mkFld 31 24 16 ||| mkFld 23 16 (throttleStep a)) ::
      a.pwr.sensors.zipIdx.map (fun e => mkFld 31 24 e.2 ||| flagAt e.1.xfail 16 ||| w32 (unsigned 16 e.1.t)) →
    Room a p l → AnswersOk (.thermalRead p) p s a c l)
  )

/-- Calibration (13 R311): CAL_RUN names one of four items, asks for its credits and begins with them, waits for them,
or is refused without; the supply item needs dark lamps and a tile, and an item already running answers BUSY (18
R396, R397); CAL_READ answers an item's quality; MATRIX_SAVE asks for the flash; TTAB_LOAD loads the tables of the
boards it names, which must be enabled and without a load under way (18 R401). A board's load that completes at the
start is taken and may complete the service, one that a TTAB_LOAD began gives the new table (18 R401), and the bus
is free again. Readings of the model itself that it rests on: logs 74 and 75. -/
def Obligations.CalibrationCommands : Prop :=
  (∀ p s a c m w, Accepted 0x0A01 p s a c → p.payload = [w] →
    ((fld w 3 0 = 0 ∨ 4 < fld w 3 0) → AnswersNo (.calRun p m) p s a c stBadParam [])
    ∧ (fld w 3 0 = 2 → a.id.sender = true ∨ a.lamp.lit = true → AnswersNo (.calRun p m) p s a c stNotInState [])
    ∧ (1 ≤ fld w 3 0 → fld w 3 0 ≤ 4 → (fld w 3 0 = 2 → a.id.sender = false ∧ a.lamp.lit = false) →
      (calBusy a (fld w 3 0) = true → AnswersNo (.calRun p m) p s a c stBusy [])
      ∧ (calBusy a (fld w 3 0) = false →
        ∀ a1, a1 = { a with cal := { a.cal with running := a.cal.running ++ [(fld w 3 0, c, m)] } } →
        (∀ t k, sluiceAsk a1 (.calRun (fld w 3 0) c) 3 5 0 = (t, .granted k) →
          Completes (.calRun p m) s (calGranted (reply t c p.via stPending []) (fld w 3 0)))
        ∧ (∀ t k, sluiceAsk a1 (.calRun (fld w 3 0) c) 3 5 0 = (t, .waiting k) →
          AnswersPending (.calRun p m) p s t c)
        ∧ (∀ t, sluiceAsk a1 (.calRun (fld w 3 0) c) 3 5 0 = (t, .refused) →
          AnswersNo (.calRun p m) p s (bump a pwrRefused) c stNoCredit []))))
  ∧ (∀ p s a c w, Accepted 0x0A02 p s a c → p.payload = [w] → 4 ≤ replyRoom a p.via →
    (1 ≤ fld w 3 0 → fld w 3 0 ≤ 4 → AnswersOk (.calRead p) p s a c [calQWord a (fld w 3 0)])
    ∧ ((fld w 3 0 = 0 ∨ 4 < fld w 3 0) → AnswersNo (.calRead p) p s a c stBadParam []))
  ∧ (∀ p s a c t st, Accepted 0x0A41 p s a c → p.payload = [] → flashAsk a .matrixSave (some c) 2 false = (t, st) →
    (st = stPending → AnswersPending (.matrixSave p) p s t c)
    ∧ (st ≠ stPending → isRefusal st = true → AnswersNo (.matrixSave p) p s t c st []))
  ∧ (∀ p s a c w, Accepted 0x0A50 p s a c → p.payload = [w] →
    ((boardsIn (fld w 15 0) = [] ∨ (boardsIn (fld w 15 0)).any (fun b => !(boardsOn a).contains b) = true) →
      AnswersNo (.ttabLoad p) p s a c stBadParam [])
    ∧ (boardsIn (fld w 15 0) ≠ [] → (boardsIn (fld w 15 0)).any (fun b => !(boardsOn a).contains b) = false →
      ((boardsIn (fld w 15 0)).any (boardBusy a) = true → AnswersNo (.ttabLoad p) p s a c stBusy [])
      ∧ ((boardsIn (fld w 15 0)).any (boardBusy a) = false →
        (∀ t k, sluiceAsk a (.ttab (fld w 15 0) (bit w 16) (some c)) 3 5 0 = (t, .granted k) →
          Completes (.ttabLoad p) s (ttabGranted (reply t c p.via stPending []) (fld w 15 0) (some c)))
        ∧ (∀ t k, sluiceAsk a (.ttab (fld w 15 0) (bit w 16) (some c)) 3 5 0 = (t, .waiting k) →
          AnswersPending (.ttabLoad p) p s t c)
        ∧ (∀ t, sluiceAsk a (.ttab (fld w 15 0) (bit w 16) (some c)) 3 5 0 = (t, .refused) →
          AnswersNo (.ttabLoad p) p s t c stNoCredit []))))
  ∧ (∀ s board ok table tableOk matrix, s.boot.held = false →
    ((s.cal.boards.getD board boardNone).loading = none →
      Completes (.boardLoadDone board ok table tableOk matrix) s s)
    ∧ ((s.cal.boards.getD board boardNone).loading = some none →
      Completes (.boardLoadDone board ok table tableOk matrix) s
        (fullService (busFreed (loadBoard s board ok table tableOk matrix))))
    ∧ (∀ c, (s.cal.boards.getD board boardNone).loading = some (some c) →
      Completes (.boardLoadDone board ok table tableOk matrix) s (busFreed (loadTable s board c ok table tableOk))))

/-- A download: FW_BEGIN opens one for the other slot with its credits, or waits for them, and goes on where RESUME
names the same size and version (19 R408); FW_BLOCK takes a whole block at its place for a slot being written and is
refused elsewhere or while writes are held (19 R409; 17 R372), and ten minutes without a block close the download
(19 R408). FW_VERIFY takes a slot all of whose blocks are there, with its credits (19 R410); FW_STATUS answers the
slots and the time left (13 R312); FW_ACTIVATE needs a verified slot, no trial, no write stop and, without FORCE,
levels at most one apart: a device that does not hold replies and restarts with the boot request, a holder hands
over first (19 R411); FW_CONFIRM is taken in a trial whose migration stands, before its deadline (19 R413, R414,
R419); FW_ABORT ends a trial by falling back after its reply (19 R413), and else closes the download and empties its
slot (19 R409). Readings of the model itself that it rests on: log 80. -/
def Obligations.FirmwareUpdate : Prop :=
  (
  (∀ p s a c w0 w1 w2, Accepted 0x0B01 p s a c → p.payload = [w0, w1, w2] →
    ((w0.toNat = 0 ∨ 16777216 < w0.toNat ∨ a.fl.trial = true) → AnswersNo (.fwBegin p) p s a c stBadParam [])
    ∧ (1 ≤ w0.toNat → w0.toNat ≤ 16777216 → a.fl.trial = false →
      (nvStop a = true → AnswersNo (.fwBegin p) p s (nvRefuse a) c stNvHeld [])
      ∧ (nvStop a = false → ∀ next,
        next = (if bit w2 0 && (fwSoon a).writing && (fwSoon a).len == w0.toNat && (fwSoon a).ver == w1
          then (fwSoon a).next else 0) →
        (dlOpen a = true → (fwSoon a).dl = true → AnswersPending (.fwBegin p) p s (openDownload a c w0.toNat w1 next) c)
        ∧ (dlOpen a = false ∨ (fwSoon a).dl = false →
          (∀ t k, sluiceAsk a (.download c w0.toNat w1 next) 2 5 0 = (t, .granted k) →
            AnswersPending (.fwBegin p) p s (openDownload t c w0.toNat w1 next) c)
          ∧ (∀ t k, sluiceAsk a (.download c w0.toNat w1 next) 2 5 0 = (t, .waiting k) →
            AnswersPending (.fwBegin p) p s (flashPut t (.fwBegin w0.toNat w1 next) (some c) false) c)
          ∧ (∀ t, sluiceAsk a (.download c w0.toNat w1 next) 2 5 0 = (t, .refused) →
            AnswersNo (.fwBegin p) p s t c stNoCredit [])))))
  ∧ (∀ p s a c w l, Accepted 0x0B02 p s a c → p.payload = w :: l →
    ((fwSoon a).dl = false ∨ (fwSoon a).writing = false → AnswersNo (.fwBlock p) p s a c stNotInState [])
    ∧ ((fwSoon a).dl = true → (fwSoon a).writing = true →
      (w.toNat % 4096 ≠ 0 ∨ (fwSoon a).len ≤ w.toNat
          ∨ l.length ≠ cdiv (min 4096 ((fwSoon a).len - w.toNat)) 4 → AnswersNo (.fwBlock p) p s a c stBadParam [])
      ∧ (w.toNat % 4096 = 0 → w.toNat < (fwSoon a).len →
        l.length = cdiv (min 4096 ((fwSoon a).len - w.toNat)) 4 →
        (nvStop a = true → AnswersNo (.fwBlock p) p s (nvRefuse a) c stNvHeld [])
        ∧ (nvStop a = false → ∀ t, t = flashPut a (.fwBlock w.toNat l) (some c) true →
          AnswersPending (.fwBlock p) p s { t with fl := { t.fl with dl := t.fl.dl.map (fun _ => lt t) } } c))))
  ∧ (∀ s t, s.boot.held = false → s.fl.dl = some t →
    Completes .downloadIdleTimeout s (closeDownload (toLt (t + 600 * 10 ^ 9) s)))
  ∧ (∀ s, s.boot.held = false → s.fl.dl = none → Completes .downloadIdleTimeout s s)
  )
  ∧
  (
  (∀ p s a c, Accepted 0x0B03 p s a c → p.payload.length = 1964 →
    ((fwSoon a).writing = false ∨ (fwSoon a).full = false → AnswersNo (.fwVerify p) p s a c stNotInState [])
    ∧ ((fwSoon a).writing = true → (fwSoon a).full = true →
      (nvStop a = true → AnswersNo (.fwVerify p) p s (nvRefuse a) c stNvHeld [])
      ∧ (nvStop a = false →
        (∀ t k, sluiceAsk a (.verify c) 2 8 0 = (t, .granted k) →
          AnswersPending (.fwVerify p) p s (fwTurn (flashPut t (.fwVerified p.payload) (some c) true)) c)
        ∧ (∀ t k, sluiceAsk a (.verify c) 2 8 0 = (t, .waiting k) →
          AnswersPending (.fwVerify p) p s (flashPut t (.fwVerified p.payload) (some c) false) c)
        ∧ (∀ t, sluiceAsk a (.verify c) 2 8 0 = (t, .refused) → AnswersNo (.fwVerify p) p s t c stNoCredit []))))
  ∧ (∀ p s a c, Accepted 0x0B04 p s a c → p.payload = [] → 24 ≤ replyRoom a p.via →
    AnswersOk (.fwStatus p) p s a c
      [fwuStsWord a, fwuSlotWord a 0, fwuSlotWord a 1, fwuVerWord a 0, fwuVerWord a 1, w32 (confLeft a)])
  ∧ (∀ p s a c w h, Accepted 0x0B05 p s a c → p.payload = [w] → h = headerOf (slotOf a (otherSlot a)) →
    ∀ far, far = (farLevel h.smbHigh a.fl.fw.smbHigh || farLevel h.flHigh a.fl.fw.flHigh) →
    ((slotState a (otherSlot a) ≠ 3 ∨ a.fl.trial = true ∨ nvStop a = true ∨ (far = true ∧ bit w 0 = false)) →
      AnswersNo (.fwActivate p) p s a c stNotInState [])
    ∧ (slotState a (otherSlot a) = 3 → a.fl.trial = false → nvStop a = false → (far = false ∨ bit w 0 = true) →
      ((a.pair.holding = false ∨ (bit w 0 = true ∧ (a.pair.handover.isSome = true ∨ standbyReady a = false))) →
        ∀ r, r = reply a c p.via stOk [] →
        Completes (.fwActivate p) s (resetIn { r with fl := { r.fl with
          bootReq := some (w32 (otherSlot a)).toNat } } (10 ^ 7) causeActivate))
      ∧ (a.pair.holding = true → bit w 0 = false → (a.pair.handover.isSome = true ∨ standbyReady a = false) →
        AnswersNo (.fwActivate p) p s a c stNotInState [])
      ∧ (a.pair.holding = true → a.pair.handover = none → standbyReady a = true →
        Completes (.fwActivate p) s
          (enqueue (startHandover a (.follow (some c) 0x0B05 (w32 (otherSlot a) ||| flagAt (bit w 0) 31))) c))))
  ∧ (∀ p s a c, Accepted 0x0B06 p s a c → p.payload = [] →
    ((a.fl.trial = false ∨ a.fl.migFail = true ∨ trialEnd a ≤ opTime a) →
      AnswersNo (.fwConfirm p) p s a c stNotInState [])
    ∧ (a.fl.trial = true → a.fl.migFail = false → opTime a < trialEnd a →
      (nvStop a = true → AnswersNo (.fwConfirm p) p s (nvRefuse a) c stNvHeld [])
      ∧ (nvStop a = false → ∀ t, t = flashPut a .fwConfirm (some c) true →
        AnswersPending (.fwConfirm p) p s { t with fl := { t.fl with confirming := true } } c)))
  ∧ (∀ p s a c, Accepted 0x0B07 p s a c → p.payload = [] →
    (a.fl.trial = true → Completes (.fwAbort p) s (fallBack (reply a c p.via stOk []) 4))
    ∧ (a.fl.trial = false →
      (flashBusy a isFwOp = true → nvStop a = false →
        AnswersOk (.fwAbort p) p s (flashAsk a .fwAbort none 2 true).1 c [])
      ∧ ((flashBusy a isFwOp = false ∨ nvStop a = true) →
        ((fwSoon a).writing = true →
          AnswersOk (.fwAbort p) p s (flashAsk (closeDownload a) .fwAbort none 2 false).1 c [])
        ∧ ((fwSoon a).writing = false → AnswersOk (.fwAbort p) p s (closeDownload a) c []))))
  )

/-- The firmware's timers: a trial that is not confirmed falls back at its end (19 R413), a failed migration after the
time of FWU.CFG (19 R419), and the count of failed starts ends 60 s after a start outside recovery (19 R412). An
operation on the flash that ends leaves the queue with its credits and has its effect, or fails (19 R404); with none
in progress nothing ends. Recovery: RECOVERY_ENTER on a device that does not hold, or forced on one without a ready
standby, replies, yields the rail on a sender and restarts with the recovery request; a holder hands over first, and
is refused without a ready standby (19 R421); in recovery mode RECOVERY_WRITE takes a block of a slot for the flash
and RECOVERY_BOOT starts a slot all of whose blocks are there; outside it both are refused, and so is either while
writes are held (19 R422). Readings of the model itself that it rests on: logs 79 and 80. -/
def Obligations.FirmwareTimersAndRecovery : Prop :=
  (
  (∀ s, s.boot.held = false →
    (s.fl.trial = true → s.fl.confirming = false →
      Completes .trialDeadline s (fallBack (toLt (lt s + (trialEnd s - opTime s) * 10 ^ 6) s) 5))
    ∧ ((s.fl.trial = false ∨ s.fl.confirming = true) → Completes .trialDeadline s s)
    ∧ (s.fl.trial = true → s.fl.migFail = true →
      Completes .migrationFallback s (fallBack (toLt (getF s fwuCfg 15 8 * 10 ^ 9) s) 6))
    ∧ ((s.fl.trial = false ∨ s.fl.migFail = false) → Completes .migrationFallback s s)
    ∧ (inRecovery s = false → ∃ u, Completes .bootLoopClear s u ∧ u.fl.loops = 0 ∧ 60 * 10 ^ 9 ≤ lt u)
    ∧ (inRecovery s = true → Completes .bootLoopClear s s))
  ∧ (∀ s x, s.boot.held = false → flashHead s = some x →
    Completes (.flashOperationDone true) s (fwTurn (flashEffect (flashDrop s x) x))
    ∧ Completes (.flashOperationDone false) s (fwTurn (flashFailed (flashDrop s x) x)))
  ∧ (∀ s ok, s.boot.held = false → flashHead s = none → Completes (.flashOperationDone ok) s s)
  )
  ∧
  (
  (∀ p s a c w, Accepted 0x0F01 p s a c → p.payload = [w] →
    (∀ r r1, r = reply a c p.via stOk [] → r1 = (if r.id.sender then railYield r true else r) →
      (a.pair.holding = false ∨ (bit w 0 = true ∧ (a.pair.handover.isSome = true ∨ standbyReady a = false))) →
      Completes (.recoveryEnter p) s (resetIn { r1 with fl := { r1.fl with recReq := true } } (10 ^ 6) causeRecovery))
    ∧ (a.pair.holding = true → (a.pair.handover.isSome = true ∨ standbyReady a = false) → bit w 0 = false →
      AnswersNo (.recoveryEnter p) p s a c stNotInState [])
    ∧ (a.pair.holding = true → a.pair.handover = none → standbyReady a = true →
      Completes (.recoveryEnter p) s (enqueue (startHandover a (.follow (some c) 0x0F01 (0 ||| flagAt (bit w 0) 31))) c)))
  ∧ (∀ p s a c w l, Accepted 0x0F02 p s a c → p.payload = w :: l → l.length = 1024 →
    (inRecovery a = false → AnswersNo (.recoveryWrite p) p s a c stNotInState [])
    ∧ (inRecovery a = true →
      (4096 ≤ fld w 23 0 → AnswersNo (.recoveryWrite p) p s a c stBadParam [])
      ∧ (fld w 23 0 < 4096 → nvStop a = true → AnswersNo (.recoveryWrite p) p s (nvRefuse a) c stNvHeld [])
      ∧ (fld w 23 0 < 4096 → nvStop a = false → ∀ t, t = flashPut a (.recoveryWrite (fld w 31 31) (fld w 23 0) l) none true →
        AnswersOk (.recoveryWrite p) p s { t with fl := { t.fl with
          staged := put (fld w 31 31 * 4096 + fld w 23 0) l t.fl.staged } } c [])))
  ∧ (∀ p s a c w l x, Accepted 0x0F03 p s a c → p.payload = w :: l → l.length = 1964 →
    x = slotStaged a (fld w 31 31) → ∀ whole, whole = (decide ((headerOf x).len ≠ 0)
      && (List.range (blocksOf (headerOf x).len)).all (fun i => (look i x.data).isSome)) →
    ((inRecovery a = false ∨ whole = false) → AnswersNo (.recoveryBoot p) p s a c stNotInState [])
    ∧ (inRecovery a = true → whole = true →
      (nvStop a = true → AnswersNo (.recoveryBoot p) p s (nvRefuse a) c stNvHeld [])
      ∧ (nvStop a = false →
        AnswersPending (.recoveryBoot p) p s (flashPut a (.recoveryBoot (fld w 31 31) l) (some c) true) c)))
  )

/-- The recorder: REC_READ answers the slots of the ring or the archive from its start index to the end of the area (20
R429; 13 R313), REC_CLEAR takes the power-cycle count and asks for the flash, empties a ring without unarchived
records at once where writes are held, and is BUSY while a clear runs (20 R430), a checkpoint writes its record (20
R427), and the archive takes what is not archived when the flash may be written (20 R428). Readings of the model
itself that it rests on: log 52. -/
def Obligations.RecorderCommands : Prop :=
  (∀ p s a c w i n size, Accepted 0x0C01 p s a c → p.payload = [w, i, n] →
    size = (if bit w 0 then 262144 else 1024) →
    ((size ≤ i.toNat ∨ fld n 5 0 = 0) → AnswersNo (.recRead p) p s a c stBadParam [])
    ∧ (i.toNat < size → 1 ≤ fld n 5 0 →
      (replyRoom a p.via < 4 * (1 + 32 * fld n 5 0) → AnswersNo (.recRead p) p s a c stBadLength [])
      ∧ (4 * (1 + 32 * fld n 5 0) ≤ replyRoom a p.via → ∀ l,
        l = w32 (min (fld n 5 0) (size - i.toNat)) :: (List.range (min (fld n 5 0) (size - i.toNat))).flatMap
          (fun j => if bit w 0 then slotWords a.rcd.archive a.rcd.arcHead 262144 (i.toNat + j) 0xFFFFFFFF
            else slotWords a.rcd.ring a.rcd.head 1024 (i.toNat + j) 0) →
        Room a p l → AnswersOk (.recRead p) p s a c l)))
  ∧ (∀ p s a c w x, Accepted 0x0C02 p s a c → p.payload = [w, x] →
    (x ≠ rd a evrPcc → AnswersNo (.recClear p) p s a c stBadParam [])
    ∧ (x = rd a evrPcc → a.rcd.clearing.isSome = true → AnswersNo (.recClear p) p s a c stBusy [])
    ∧ (x = rd a evrPcc → a.rcd.clearing = none → ∀ now_, now_ = (nvStop a && bit w 0 && !bit w 1 && a.rcd.unarch == 0) →
      (now_ = true → ∀ k : Clearing, k = ⟨c, true, false, rd a evrRseq⟩ →
        Completes (.recClear p) s (notify (clearDone (reply a c p.via stPending []) k) c stOk []))
      ∧ (now_ = false → ∀ t st, flashAsk a .recClear (some c) 2 false = (t, st) →
        (st = stPending → AnswersPending (.recClear p) p s
          { t with rcd := { t.rcd with clearing := some ⟨c, bit w 0, bit w 1, rd t evrRseq⟩ } } c)
        ∧ (st ≠ stPending → isRefusal st = true → AnswersNo (.recClear p) p s t c st []))))
  ∧ (∀ s, s.boot.held = false →
    (∀ t, t = toLt (ckptDue s) s →
      Completes .checkpointTimer s (record { t with rcd := { t.rcd with ckpt := lt t } } 0x0002 []))
    ∧ ((s.rcd.unarch = 0 ∨ nvStop s = true ∨ s.rcd.clearing.isSome = true ∨ flashBusy s (· == .archive) = true) →
      Completes .archiveCopy s s)
    ∧ (nvStop s = false → s.rcd.clearing = none → s.rcd.unarch ≠ 0 → flashBusy s (· == .archive) = false →
      ∀ s1, s1 = (flashAsk s .archive none 2 false).1 →
      (flashHead s1 = none → Completes .archiveCopy s s1)
      ∧ (∀ x, flashHead s1 = some x →
        (x.op = .archive → Completes .archiveCopy s (archiveAll (flashDrop s1 x)))
        ∧ (x.op ≠ .archive → Completes .archiveCopy s s1))))

/-- DEV_INFO answers the serial number, the life-cycle state, the step and the version (13 R315); ATTEST answers the
report and its tag under the key of its session's class, and INTERNAL where the entropy source fails (20 R432,
R435); KEY_PROVISION takes a key whose tag is right and refuses a wrong tag with a record, a nonce used before and a
full class (20 R434); LIFECYCLE_SET moves only along the allowed steps, to service only with all keys, and a holder
hands over first (20 R436). What security does on its own: a job of the one-time storage ends with the key stored,
its sessions closed and a record (20 R434), or with the life-cycle state stored, the keys that it ends revoked, a
record and a wipe (20 R436; 16 R359); a wipe ends counted and recorded, with the keys loaded again unless a tamper
holds them back (16 R359; 20 R437); tampering is taken at its edge and its end is recorded, the keys return one
second later where TAMPER asks so (20 R437), and the entropy check follows its test (20 R432). Readings of the model
itself that it rests on: logs 51, 81, 102 and 132. -/
def Obligations.SecurityCommands : Prop :=
  (
  (∀ p s a c, Accepted 0x0D01 p s a c → p.payload = [] → 28 ≤ replyRoom a p.via →
    AnswersOk (.devInfo p) p s a c
      (wordsOfNat 4 a.otp.serial.toNat ++ [w32 a.otp.lcs, w32 a.id.step, a.fl.fw.version]))
  ∧ (∀ p s a c l, Accepted 0x0D02 p s a c → p.payload.length = 4 →
    (∀ k, a.sec.entropyOk = true → openKey a c.keyc = some k →
      l = attestBody a p.payload ++ wordsOfNat 8
        (hmac (hmac k (label [0x41, 0x54, 0x54, 0x31] ++ bytesOf 16 a.otp.serial))
          (bytesOfWords (attestBody a p.payload))).toNat →
      Room a p l → AnswersOk (.attest p) p s a c l)
    ∧ ((a.sec.entropyOk = false ∨ openKey a c.keyc = none) → AnswersNo (.attest p) p s a c stInternal []))
  ∧ (∀ p s a c, Accepted 0x0D10 p s a c → p.payload.length = 17 → fld (pw p 0) 1 0 = 0 →
    AnswersNo (.keyProvision p) p s a c stBadParam [])
  ∧ (∀ p s a c cls (nonce tag : W128) (wrapped w : W256), Accepted 0x0D10 p s a c → p.payload.length = 17 →
    cls = fld (pw p 0) 1 0 → cls ≠ 0 → nonce = BitVec.ofNat 128 (natOfWords ((p.payload.drop 1).take 4)) →
    wrapped = BitVec.ofNat 256 (natOfWords ((p.payload.drop 5).take 8)) →
    tag = BitVec.ofNat 128 (natOfWords ((p.payload.drop 13).take 4)) → w = (slotKey a cls).getD a.otp.kdev →
    ∀ want, want = trunc16 (hmac w (label [0x54, 0x41, 0x47, 0x31] ++ wrapBytes a cls nonce ++ bytesOf 32 wrapped)) →
    ((want ≠ tag ∨ a.sec.wiping = true) →
      AnswersNo (.keyProvision p) p s (record a 0x0D11 [w32 cls]) c stAuthFail [])
    ∧ (want = tag → a.sec.wiping = false →
      ((a.sec.kpNonces.contains nonce = true ∨ 16 ≤ (slotsOf a cls).length) →
        AnswersNo (.keyProvision p) p s a c stBadParam [])
      ∧ (a.sec.kpNonces.contains nonce = false → (slotsOf a cls).length < 16 →
        (nvStop a = true → AnswersNo (.keyProvision p) p s (nvRefuse a) c stNvHeld [])
        ∧ (nvStop a = false → a.sec.job.isSome = true → AnswersNo (.keyProvision p) p s a c stBusy [])
        ∧ (nvStop a = false → a.sec.job = none →
          AnswersPending (.keyProvision p) p s { a with sec := { a.sec with
            kpNonces := (nonce :: a.sec.kpNonces).take 16
            job := some (.key c cls (wrapped ^^^ hmac w (label [0x57, 0x52, 0x50, 0x31] ++ wrapBytes a cls nonce))) } }
            c))))
  ∧ (∀ p s a c w n, Accepted 0x0D20 p s a c → p.payload = [w, n] →
    ((5 ≤ fld w 2 0 ∨ n ≠ w32 a.otp.serial.toNat) → AnswersNo (.lifecycleSet p) p s a c stBadParam [])
    ∧ (fld w 2 0 < 5 → n = w32 a.otp.serial.toNat → ∀ fit,
      fit = (lifeStep a.otp.lcs (fld w 2 0) && (fld w 2 0 != 1 || [1, 2, 3].all (fun k => (slotKey a k).isSome))) →
      (fit = false → AnswersNo (.lifecycleSet p) p s a c stNotInState [])
      ∧ (fit = true → nvStop a = true → AnswersNo (.lifecycleSet p) p s (nvRefuse a) c stNvHeld [])
      ∧ (fit = true → nvStop a = false → a.sec.job.isSome = true → AnswersNo (.lifecycleSet p) p s a c stBusy [])
      ∧ (fit = true → nvStop a = false → a.sec.job = none →
        (a.pair.holding = false → ∀ r, r = reply a c p.via stPending [] →
          Completes (.lifecycleSet p) s
            { r with sec := { r.sec with job := some (.life c (w32 (fld w 2 0)).toNat) } })
        ∧ (a.pair.holding = true → (a.pair.handover.isSome = true ∨ standbyReady a = false) →
          AnswersNo (.lifecycleSet p) p s a c stNotInState [])
        ∧ (a.pair.holding = true → a.pair.handover = none → standbyReady a = true →
          Completes (.lifecycleSet p) s
            (enqueue (startHandover a (.follow (some c) 0x0D20 (w32 (fld w 2 0) ||| flagAt false 31))) c)))))
  )
  ∧
  (
  ∀ s, s.boot.held = false →
  (s.sec.job = none → Completes .otpProgramDone s s)
  ∧ (∀ c cls k, s.sec.job = some (.key c cls k) →
    Completes .otpProgramDone s
      (closeWhere (notify (record (loadKeys (setSlots { s with sec := { s.sec with job := none } } cls
        (slotsOf s cls ++ [(k, false)]))) 0x0D10 [w32 cls, w32 (slotsOf s cls).length, fingerprint k]) c stOk [])
        (fun x => x.keyc == cls)))
  ∧ (∀ c lc s1 s2 s3 s4, s.sec.job = some (.life c lc) →
    s1 = { s with sec := { s.sec with job := none }, otp := { s.otp with lcs := lc } } →
    s2 = (if 3 ≤ lc then revokeAll s1 else s1) →
    s3 = (if lc = 4 then { s2 with otp := { s2.otp with kdevRevoked := true } } else s2) →
    s4 = wipe (notify (record s3 0x0D20 [w32 s.otp.lcs, w32 lc, w32 c.sess.num]) c stOk []) →
    (lc < 3 → Completes .otpProgramDone s s4)
    ∧ (3 ≤ lc → Completes .otpProgramDone s (closeWhere s4 (fun x => lc == 4 || (slotKey s x.keyc).isSome))))
  ∧ (s.sec.wiping = false → Completes .secureWipeEnd s s)
  ∧ (∀ s1, s.sec.wiping = true →
    ∀ s0, s0 = toLt (s.sec.wipeAt + 4100) s →
    s1 = recordX (bump { s0 with sec := { s0.sec with wiping := false } } srmWipes) xWipe [] →
    (s1.sec.tamperSeen = true → getF s1 secTamper 1 0 = 0 → Completes .secureWipeEnd s s1)
    ∧ ((s1.sec.tamperSeen = false ∨ getF s1 secTamper 1 0 ≠ 0) → Completes .secureWipeEnd s (loadKeys s1)))
  ∧ ((s.sec.tamperLow = true ∨ (s.sec.wiping = true ∧ s.sec.tamperWipe = true)) →
    Completes .tamperAssert s { s with sec := { s.sec with tamperLow := true, highSince := none } })
  ∧ (s.sec.tamperLow = false → (s.sec.wiping = false ∨ s.sec.tamperWipe = false) →
    Completes .tamperAssert s (tamper { s with sec := { s.sec with tamperLow := true, highSince := none } }))
  ∧ (s.sec.tamperLow = true →
    Completes .tamperRelease s
      (record { s with sec := { s.sec with tamperLow := false, highSince := some (lt s) } } 0x0D02 []))
  ∧ (s.sec.tamperLow = false → Completes .tamperRelease s s)
  ∧ (∀ t s1, s.sec.highSince = some t → getF s secTamper 1 0 = 0 → s.sec.tamperSeen = true →
    s1 = toLt (t + 10 ^ 9) s →
    Completes .tamperKeyReload s
      (loadKeys { s1 with sec := { s1.sec with tamperSeen := false, highSince := none } }))
  ∧ ((s.sec.highSince = none ∨ getF s secTamper 1 0 ≠ 0 ∨ s.sec.tamperSeen = false) →
    Completes .tamperKeyReload s s)
  ∧ (∀ b, Completes (.entropyHealthChange b) s { s with sec := { s.sec with entropyOk := b } })
  )

/-- The start: a device held in reset whose rails are good starts the slot its boot order chooses, or recovery where it
chooses none, with the personality and side of its straps; until then, while shut down and in test mode, it stays as
it is (18 R387 to R389; 19 R412, R420; 17 R370, R384). The loss of power leaves only what is kept without it (19
R415; 20 R427). Readings of the model itself that it rests on: logs 79, 81 and 82. -/
def Obligations.StartAndPowerLoss : Prop :=
  (∀ s b, mayStart s b = false → exec (.powerOnResetRelease b) s = .next s)
  ∧ (∀ s b, (s.boot.held = false ∨ b.tmode = true ∨ s.pwr.shutdown = true) → mayStart s b = false)
  ∧ (∀ s b s1 r, mayStart s b = true → romSelect (bootBase s b) b = (s1, r) →
    (∀ k, r.run = some k →
      exec (.powerOnResetRelease b) s = commitReset s (startFirmware s1 b r k s.pwr.hottest))
    ∧ (r.run = none → exec (.powerOnResetRelease b) s = commitReset s (startRecovery s1 b)
      ∧ (startRecovery s1 b).boot.phase = 3))
  ∧ (∀ s b, (bootBase s b).id.sender = b.pers ∧ (bootBase s b).id.side = b.side ∧ (bootBase s b).boot.held = false
    ∧ (bootBase s b).otp = s.otp ∧ (bootBase s b).smb.sess = [])
  ∧ (∀ s, ∃ u, Completes .powerLoss s u ∧ u.boot.held = true ∧ u.otp = s.otp ∧ u.smb.sess = []
    ∧ u.rcd.archive = (recorderKept s).archive ∧ u.rcd.ring = [] ∧ u.id.na = none ∧ u.time.valid = false)

/-- A step runs the command at the front of the queue on the state with the rest of the queue. With an empty queue one
tick passes, by which local time goes on by 4 ns and the device clock never back, while no reset is due, and a
device held in reset stays as it is (the model's choice, log 3). No word of bits spells a command, since no row of
the table has bits. -/
def Obligations.StepRunsTheFrontCommand : Prop :=
  (∀ (c : Instr) (r : List Instr) (s : State), step { s with pending := c :: r } = exec c { s with pending := r })
  ∧ (∀ (c : Instr) (s : State), step { s with pending := c :: s.pending } = exec c s)
  ∧ (∀ s, s.pending = [] →
    (s.boot.held = true → step s = .next s)
    ∧ (s.boot.held = false → s.boot.resetPending = none →
      ∃ t, step s = .next t ∧ now s ≤ now t ∧ lt t = lt s + 4 ∧ t.pending = []))
  ∧ (∀ nbits w, decodeTableWord nbits w = none)
  ∧ (∀ (s : State) nbits w, s.withFetchWord nbits w = s)

/-- What reset leaves: nothing waits and nothing is open, stored time is not valid, no node address is held, and every
parameter of the personality it stands in reads its reset value (14 R324, R328). That the device stands held in
reset, of side A and of the tile personality until its straps are latched, is the model's choice (log 1). -/
def Obligations.StateAfterReset : Prop :=
  State.reset.pending = [] ∧ State.reset.smb.sess = [] ∧ State.reset.time.valid = false ∧ State.reset.id.na = none
  ∧ State.reset.boot.held = true ∧ State.reset.id.sender = false
  ∧ (∀ i, rd State.reset i = resetWord false i) ∧ (∀ a, memByte State.reset.dram.mem a = 0)
  ∧ Safety.Inv State.reset

/-- Every step keeps the machine's invariant: the parameter file and the bytes of DRAM and of the on-chip banks stay in
canonical form, so that reserved bits read 0 and an unlisted byte reads as the zero fill. Readings of the model
itself that it rests on: log 13. -/
def Obligations.EveryStepKeepsTheInvariant : Prop :=
  ∀ s t, Safety.Inv s → step s = .next t → Safety.Inv t

/-- In a state that meets the invariant, reserved bits of every parameter read 0 (00 R4). -/
def Obligations.ReservedBitsReadZero : Prop :=
  ∀ s i r, Safety.Inv s → findRow s.id.sender i = some r → rd s i &&& r.reserved = 0

/-- Held in reset, the device does nothing but what its always-on domain does: every other command leaves it as it is
(17 R366, R370, R384). -/
def Obligations.HeldDeviceStands : Prop :=
  ∀ i s, s.boot.held = true → alwaysOn i = false → exec i s = .next s

/-- No command is refused, the one stop is an access to DRAM outside the space there is, and only the release of reset
changes the personality; no command touches the commands that wait behind it (00 R1). Readings of the model itself
that it rests on: log 15. -/
def Obligations.OnlyDramStops : Prop :=
  ∀ i s,
  (∀ r, exec i s ≠ .refused r)
  ∧ (∀ f, exec i s = .fault f → f = .dramOutside ∧ ∃ p a w n, i = .dramRequest p a w n)
  ∧ (∀ t, exec i s = .next t → t.pending = s.pending
    ∧ ((∃ b, i = .powerOnResetRelease b) ∨ t.id.sender = s.id.sender))

/-- The parameter file: what is written to an index that serves the role reads back with its reserved bits 0, every
other index keeps its word but the count of kept changes, and an index that serves no parameter keeps nothing (00
R4; 14 R319, R326). A kept value that changes raises SYS.PGEN, from its largest value to 1, and a change of none
leaves it (14 R326). -/
def Obligations.ParameterFile : Prop :=
  ∀ s i w, Safety.Inv s → i ≠ sysPgen →
  (∀ r, findRow s.id.sender i = some r → rd (commitState s (wr s i w)) i = w &&& ~~~r.reserved)
  ∧ (findRow s.id.sender i = none → commitState s (wr s i w) = s)
  ∧ (∀ j, j ≠ i → j ≠ sysPgen → rd (commitState s (wr s i w)) j = rd s j)
  ∧ (∀ r, findRow s.id.sender i = some r → (r.kept = .settings ∨ r.kept = .badger) →
    (w &&& ~~~r.reserved ≠ rd s i →
      rd (commitState s (wr s i w)) sysPgen = if rd s sysPgen = 0xFFFFFFFF then 1 else rd s sysPgen + 1)
    ∧ (w &&& ~~~r.reserved = rd s i → rd (commitState s (wr s i w)) sysPgen = rd s sysPgen))
  ∧ (∀ r, findRow s.id.sender i = some r → r.kept ≠ .settings → r.kept ≠ .badger →
    rd (commitState s (wr s i w)) sysPgen = rd s sysPgen)

/-- Counters count upward and saturate at their largest value; a W1C bit clears where 1 is written and a read-only bit
keeps its value under a write (14 R319, R323; 00 R4, R5). -/
def Obligations.CountersAndWrites : Prop :=
  (∀ s i n, (rd (bumpN s i n) i).toNat = min ((rd s i).toNat + n) 0xFFFFFFFF)
  ∧ (∀ s i j n, j ≠ i → rd (bumpN s i n) j = rd s j)
  ∧ (∀ s i hi lo, lo ≤ hi → hi < 32 →
    getF (bumpF s i hi lo) i hi lo = min (getF s i hi lo + 1) (2 ^ (hi + 1 - lo) - 1))
  ∧ (∀ snd i r old v, findRow snd i = some r →
    mergeWord r old v &&& accMask r .ro = old &&& accMask r .ro
    ∧ mergeWord r old v &&& accMask r .w1c = old &&& accMask r .w1c &&& ~~~v
    ∧ mergeWord r old v &&& r.reserved = 0)

/-- A SEQ is accepted once: after its acceptance it is outside the window, the highest accepted SEQ never falls, a SEQ
more than 63 below it is outside, one above it is inside, one still inside after another was accepted was inside
before, and after SEQ 0xFFFF_FFFF the session takes no further commands (02 R38). Readings of the model itself that
it rests on: log 18. -/
def Obligations.SeqAcceptedOnce : Prop :=
  ∀ s p x, inWindow x (hSeq p.hdr) = true →
  inWindow (acceptSeq s p x) (hSeq p.hdr) = false
  ∧ x.hi.toNat ≤ (acceptSeq s p x).hi.toNat
  ∧ (∀ q : Word, q.toNat + 64 ≤ x.hi.toNat → inWindow x q = false)
  ∧ (∀ q : Word, x.hi.toNat < q.toNat → inWindow x q = true)
  ∧ (∀ q : Word, inWindow (acceptSeq s p x) q = true → inWindow x q = true)
  ∧ (x.hi ≠ 0xFFFFFFFF)
  ∧ (hSeq p.hdr = 0xFFFFFFFF → ∀ q : Word, inWindow (acceptSeq s p x) q = false)

/-- The schedule: an instant is placed on a tick, at the first tick at or after its exact time; the next instant lies
after the present and no instant lies between; with the rule's own example (11 R255). The number after a CSEQ is
never 0 (06 R130). -/
def Obligations.ScheduleInstants : Prop :=
  (∀ num den n : Nat, 1 ≤ num →
    instant (num, den) n % 4 = 0
    ∧ n * den * 10 ^ 9 ≤ instant (num, den) n * num
    ∧ (1 ≤ instant (num, den) n → (instant (num, den) n - 4) * num < n * den * 10 ^ 9)
    ∧ instant (num, den) n ≤ instant (num, den) (n + 1))
  ∧ (∀ num den c : Nat, 1 ≤ num → 1 ≤ den →
    c < nextInstant (num, den) c
    ∧ ∀ n, c < instant (num, den) n → nextInstant (num, den) c ≤ instant (num, den) n)
  ∧ instant (60000, 1001) 107892107893 = 1800000000 * 10 ^ 9 + 14883336
  ∧ (∀ c : BitVec 16, c ≠ 0 → nextCseq c ≠ 0)

/-- An answer touches nothing but Smiben, the links, what is sent and the recorder with its words: every other part of
the state stands as it was; in its session the command no longer waits and the device's own SEQ there rises by one,
and nothing at all happens where the session is gone (02 R30, R38, R46). An event record goes to the head of the
ring under the next RSEQ, and changes nothing but the recorder and its words (20 R426, R428). Readings of the model
itself that it rests on: logs 8 and 9. -/
def Obligations.AnswersAndRecords : Prop :=
  (∀ s c v st words, ∃ smb link out par rcd, reply s c v st words
      = { s with smb := smb, link := link, out := out, par := par, rcd := rcd })
  ∧ (∀ s c v st words, liveSess s c = none → reply s c v st words = s)
  ∧ (∀ s c v st words x, liveSess s c = some x → x.key.isSome = true → x.dseq + 1 ≠ 0xFFFFFFFF →
    ∃ y, findSess (reply s c v st words) c.sess = some y ∧ y.dseq = x.dseq + 1 ∧ ¬ c.seq ∈ y.queued)
  ∧ (∀ s trig snap, ∃ r, (record s trig snap).rcd.ring = (r :: s.rcd.ring).take 1024 ∧ r.trig = trig
    ∧ r.rseq = rd s evrRseq ∧ rd (record s trig snap) evrRseq = rd s evrRseq + 1
    ∧ record s trig snap = { s with par := (record s trig snap).par, rcd := (record s trig snap).rcd })

/-- TIME_READ does not mutate and is accepted under every key class; its words are the clock as WT80, epoch, source and
state, LT with its most significant word first, and TIM.HERR, all of one tick (11 R263; 02 R47, R43). -/
def Obligations.TimeReadWords : Prop :=
  (∀ k, 1 ≤ k → k ≤ 3 → ∃ o, opSpec 0x0701 = some o ∧ o.keys.contains k = true ∧ o.snd = true ∧ o.tile = true
    ∧ ∀ s r, ownerOk s (domOf o k) r = true)
  ∧ (∀ p s a c ws, Accepted 0x0701 p s a c → p.payload = [] → 28 ≤ replyRoom a p.via →
    ws = [ ((if a.time.valid then (0x80000000 : Word) else 0) ||| BitVec.ofNat 32 (now a / 10 ^ 9 / 2 ^ 32 % 2 ^ 16)),
      BitVec.ofNat 32 (now a / 10 ^ 9), BitVec.ofNat 32 (now a % 10 ^ 9),
      mkFld 31 24 a.time.epoch.toNat ||| mkFld 23 20 a.time.src ||| mkFld 19 16 a.time.state,
      BitVec.ofNat 32 (lt a / 2 ^ 32), BitVec.ofNat 32 (lt a), timWord a timHerr ] →
    AnswersOk (.timeRead p) p s a c ws)

/-- ISSUE: a command of the host class has no check; one of the safety and update classes passes, while wall time is
valid, when its signed difference from the present lies strictly within FRESH ms, so that a difference equal to the
limit fails; while wall time is not valid it passes and SYS.SMB_NOTIME counts it. A failing command is answered
REPLAY and changes nothing but its SEQ (02 R39, R40). -/
def Obligations.IssueWithinTheLimit : Prop :=
  (∀ s p (d lim : Int), d = 4 * sdiff (hIssue p.hdr) (nowW s) → lim = 1000000 * (getF s sysSmbCfg 15 0 : Nat) →
    (hKeyc p.hdr = keyHost → issueOk s p = true ∧ countNotime s p = s)
    ∧ (hKeyc p.hdr ≠ keyHost → s.time.valid = true →
      (issueOk s p = true ↔ (-lim < d ∧ d < lim)) ∧ countNotime s p = s)
    ∧ (hKeyc p.hdr ≠ keyHost → s.time.valid = false →
      issueOk s p = true ∧ countNotime s p = bump s sysSmbNotime))
  ∧ (∀ op p s, issueOk s p = false → checks69 op p s = .done (reply s (cmdRef s op p) p.via stReplay []))

/-- While a class has no key, a SESSION_OPEN of that class is tagged under K_prov; once it has one, under that key and
K_prov opens none: an open whose tag is not that of this key opens nothing and is dropped under class 3 (20 R433; 02
R35, R40). -/
def Obligations.ClassWithoutAKey : Prop :=
  (∀ s k, (look k s.sec.keys = none → openKey s k = s.sec.kprov)
    ∧ ∀ x, look k s.sec.keys = some x → openKey s k = some x)
  ∧ (∀ p s a k, s.boot.held = false → hSess p.hdr = 15 → (∀ r, p.via ≠ .relay r) →
    reaches 0x0001 s p = true → policed (freeBuf s p) p 2 = some a →
    shapeOk p = true → levelOk a p = true → hDmode p.hdr = 0 → openKey a (hKeyc p.hdr) = some k →
    tagOf k p.hdr p.payload ≠ p.tag →
    ∃ u, Completes (.sessionOpen p) s (smbDrop u 3) ∧ u.smb.sess = s.smb.sess ∧ u.free = s.free ∧ u.out = s.out)

/-- A field that is not live fills its rectangle with the stripes of NLC and BGC and draws no value, a FRAME only in its
outline, and never blinks; a live field whose state has its bit in BLINKS draws its background alone while the half
second of the edge's time is odd, and its value over it at every other time (08 R181, R182, R180). -/
def Obligations.NotLiveAndBlinkingFields : Prop :=
  ∀ s (f : Field) lay t x y acc w bg ring cov, w = f.words →
  fdX w ≤ x → x < fdX w + fdW w → fdY w ≤ y → y < fdY w + fdH w →
  bg = (if fdBga w = 0 then acc else blendOver (fdBga w) (palRgb s (fdBgc w)) acc) →
  ring = decide (x < fdX w + fdThick w ∨ y < fdY w + fdThick w ∨ fdX w + fdW w ≤ x + fdThick w
    ∨ fdY w + fdH w ≤ y + fdThick w) →
  cov = (if fdKind w = kFrame then (if ring then 15 else 0) else lay.foldl (fun m g => max m (placedCov g x y)) 0) →
  (f.live = false → fdKind w ≠ kFrame →
    (((x - fdX w) + (y - fdY w)) % 16 < 8 → drawField s f lay t x y acc = palRgb s (getF s bdgCfg 3 0))
    ∧ (8 ≤ ((x - fdX w) + (y - fdY w)) % 16 → drawField s f lay t x y acc = palRgb s (fdBgc w)))
  ∧ (f.live = false → fdKind w = kFrame →
    (ring = true → ((x - fdX w) + (y - fdY w)) % 16 < 8 → drawField s f lay t x y acc = palRgb s (getF s bdgCfg 3 0))
    ∧ ((ring = false ∨ 8 ≤ ((x - fdX w) + (y - fdY w)) % 16) → drawField s f lay t x y acc = acc))
  ∧ (f.live = true → bit (wAt w 3) (8 + f.vstate) = true → t / 500000000 % 2 = 1 → drawField s f lay t x y acc = bg)
  ∧ (f.live = true → (bit (wAt w 3) (8 + f.vstate) = false ∨ t / 500000000 % 2 = 0) →
    drawField s f lay t x y acc
      = if cov = 0 then bg else blendOver ((cov * 273 + 8) / 16) (palRgb s (fdFgc w f.vstate)) bg)

/-- The opacity of an engine at an edge of time t: blink by its duty share, breathing by a triangle, chase by a band
that moves in its direction; the blend of each channel; and the worked example of 08 R188 (08 R188, R180). -/
def Obligations.EngineOpacity : Prop :=
  (∀ w t x y q ph, 1 ≤ enPeriod w → q = enPeriod w * 1000000 → ph = (t + enOffset w * 1000000) % q →
    (enMode w = 1 → engineA w t x y = if ph * 256 < enDuty w * q then enAmax w else 0)
    ∧ (enMode w = 2 → ∀ u, u = ph * 512 / q →
      engineA w t x y = (enAmax w * (if u ≤ 256 then u else 512 - u) + 128) / 256)
    ∧ (enMode w = 3 → 1 ≤ enBw w → ∀ k d : Int, k = (ph * (2 * enBw w) / q : Nat) →
      (enDir w = 0 → fdX w ≤ x → d = (x : Int) - fdX w) → (enDir w = 1 → x < fdX w + fdW w → d = (fdX w : Int) + fdW w - 1 - x) →
      (enDir w = 2 → fdY w ≤ y → d = (y : Int) - fdY w) → (enDir w = 3 → y < fdY w + fdH w → d = (fdY w : Int) + fdH w - 1 - y) →
      fdX w ≤ x → x < fdX w + fdW w → fdY w ≤ y → y < fdY w + fdH w →
      engineA w t x y = if (d - k) % (2 * (enBw w : Int)) < (enBw w : Int) then enAmax w else 0))
  ∧ (∀ a (v acc : Rgb), blendOver a v acc
      = ⟨(a * v.r + (256 - a) * acc.r + 128) / 256, (a * v.g + (256 - a) * acc.g + 128) / 256,
         (a * v.b + (256 - a) * acc.b + 128) / 256⟩)
  ∧ (∀ w x y, enMode w = 2 → enPeriod w = 2000 → enOffset w = 0 → enAmax w = 256 →
    engineA w (1800000001 * 1000000000 + 500000000) x y = 128)

/-- The checks of a command in a session, in their order: a wrong tag drops it under class 3, a SEQ outside the window
is answered from the last replies or REPLAY, and a command that passes has taken its SEQ whatever follows: a stale
ISSUE is answered REPLAY, an unknown opcode BAD_OPCODE, one of the other role NOT_IN_STATE, one of another key class
AUTH_FAIL (PARAM_WRITE naming the first pair of the wrong class), one in a domain that another session owns
NOT_OWNER, and only then its own rule judges it (02 R40, R43; 13 R296; 01 R11). -/
def Obligations.ChecksOfACommand : Prop :=
  ∀ op h p s s1 x b, reaches op (handTwin op s p) p = true → s1 = freeBuf (handTwin op s p) p → shapeOk p = true →
  levelOk s1 p = true → hSess p.hdr ≠ 15 → matchSess s1 p = some x → (s1.id.sender = false ∨ hDmode p.hdr = 0) →
  policed s1 p 0 = some b →
  (tagOk x.key p = false → hostCommand op h p s = drop3 b p)
  ∧ (tagOk x.key p = true → inWindow x (hSeq p.hdr) = false → hostCommand op h p s = answerOld b op p x)
  ∧ (tagOk x.key p = true → inWindow x (hSeq p.hdr) = true → ∀ a c, a = passFive b p x →
    c = cmdRef a op p →
    (issueOk a p = false → hostCommand op h p s = reply a c p.via stReplay [])
    ∧ (issueOk a p = true → ∀ t, t = countNotime a p →
      (opSpec op = none → hostCommand op h p s = reply t c p.via stBadOpcode [])
      ∧ (∀ o, opSpec op = some o → inRecovery t = true → knownInRecovery op = false →
        hostCommand op h p s = reply t c p.via stBadOpcode [])
      ∧ (∀ o, opSpec op = some o → inRecovery t = false →
        ((if t.id.sender then o.snd else o.tile) = false → hostCommand op h p s = reply t c p.via stNotInState [])
        ∧ ((if t.id.sender then o.snd else o.tile) = true →
          (o.keys.contains (hKeyc p.hdr) = false → hostCommand op h p s = reply t c p.via stAuthFail [])
          ∧ (o.keys.contains (hKeyc p.hdr) = true → keyOk op p = false →
            hostCommand op h p s = reply t c p.via stAuthFail (keyWhy op p))
          ∧ (o.keys.contains (hKeyc p.hdr) = true → keyOk op p = true →
            (∀ d w, domOf o (hKeyc p.hdr) = some d → ownerOf t d = some w → w.sess ≠ c.sess →
              hostCommand op h p s = reply t c p.via stNotOwner [])
            ∧ ((∀ d w, domOf o (hKeyc p.hdr) = some d → ownerOf t d = some w → w.sess = c.sess) →
              (t.id.sender = true ∨ p.via ≠ .mgmt ∨ hDmode p.hdr = 0) →
              hostCommand op h p s = finish c p (h c p t) t))))))
end

