-- ==== Sys2Proof/Laws/State.lean ====
section
/-! SUPPORT. One lemma per field of the state for each named update, all true by definition: a proof never
unfolds a record update. -/

namespace Sys2Proof.Machine

/-! `wr` changes `par` alone. -/

@[simp] theorem wr_id (s : State) (i : Nat) (w : Word) : (wr s i w).id = s.id := rfl
@[simp] theorem wr_par (s : State) (i : Nat) (w : Word) :
    (wr s i w).par = (i, w) :: s.par := rfl
@[simp] theorem wr_smb (s : State) (i : Nat) (w : Word) : (wr s i w).smb = s.smb := rfl
@[simp] theorem wr_rcd (s : State) (i : Nat) (w : Word) : (wr s i w).rcd = s.rcd := rfl
@[simp] theorem wr_otp (s : State) (i : Nat) (w : Word) : (wr s i w).otp = s.otp := rfl
@[simp] theorem wr_sec (s : State) (i : Nat) (w : Word) : (wr s i w).sec = s.sec := rfl
@[simp] theorem wr_slu (s : State) (i : Nat) (w : Word) : (wr s i w).slu = s.slu := rfl
@[simp] theorem wr_pwr (s : State) (i : Nat) (w : Word) : (wr s i w).pwr = s.pwr := rfl
@[simp] theorem wr_fl (s : State) (i : Nat) (w : Word) : (wr s i w).fl = s.fl := rfl
@[simp] theorem wr_dram (s : State) (i : Nat) (w : Word) : (wr s i w).dram = s.dram := rfl
@[simp] theorem wr_sram (s : State) (i : Nat) (w : Word) : (wr s i w).sram = s.sram := rfl
@[simp] theorem wr_cal (s : State) (i : Nat) (w : Word) : (wr s i w).cal = s.cal := rfl
@[simp] theorem wr_boot (s : State) (i : Nat) (w : Word) : (wr s i w).boot = s.boot := rfl
@[simp] theorem wr_gpio (s : State) (i : Nat) (w : Word) : (wr s i w).gpio = s.gpio := rfl
@[simp] theorem wr_net (s : State) (i : Nat) (w : Word) : (wr s i w).net = s.net := rfl
@[simp] theorem wr_canvas (s : State) (i : Nat) (w : Word) : (wr s i w).canvas = s.canvas := rfl
@[simp] theorem wr_flume (s : State) (i : Nat) (w : Word) : (wr s i w).flume = s.flume := rfl
@[simp] theorem wr_link (s : State) (i : Nat) (w : Word) : (wr s i w).link = s.link := rfl
@[simp] theorem wr_img (s : State) (i : Nat) (w : Word) : (wr s i w).img = s.img := rfl
@[simp] theorem wr_bdg (s : State) (i : Nat) (w : Word) : (wr s i w).bdg = s.bdg := rfl
@[simp] theorem wr_lamp (s : State) (i : Nat) (w : Word) : (wr s i w).lamp = s.lamp := rfl
@[simp] theorem wr_weir (s : State) (i : Nat) (w : Word) : (wr s i w).weir = s.weir := rfl
@[simp] theorem wr_time (s : State) (i : Nat) (w : Word) : (wr s i w).time = s.time := rfl
@[simp] theorem wr_pair (s : State) (i : Nat) (w : Word) : (wr s i w).pair = s.pair := rfl
@[simp] theorem wr_changes (s : State) (i : Nat) (w : Word) : (wr s i w).changes = s.changes := rfl
@[simp] theorem wr_heavy (s : State) (i : Nat) (w : Word) : (wr s i w).heavy = s.heavy := rfl
@[simp] theorem wr_free (s : State) (i : Nat) (w : Word) : (wr s i w).free = s.free := rfl
@[simp] theorem wr_out (s : State) (i : Nat) (w : Word) : (wr s i w).out = s.out := rfl
@[simp] theorem wr_pending (s : State) (i : Nat) (w : Word) : (wr s i w).pending = s.pending := rfl

/-! `setF` changes `par` alone. -/

@[simp] theorem setF_id (s : State) (i hi lo v : Nat) : (setF s i hi lo v).id = s.id := rfl
@[simp] theorem setF_smb (s : State) (i hi lo v : Nat) : (setF s i hi lo v).smb = s.smb := rfl
@[simp] theorem setF_rcd (s : State) (i hi lo v : Nat) : (setF s i hi lo v).rcd = s.rcd := rfl
@[simp] theorem setF_otp (s : State) (i hi lo v : Nat) : (setF s i hi lo v).otp = s.otp := rfl
@[simp] theorem setF_sec (s : State) (i hi lo v : Nat) : (setF s i hi lo v).sec = s.sec := rfl
@[simp] theorem setF_slu (s : State) (i hi lo v : Nat) : (setF s i hi lo v).slu = s.slu := rfl
@[simp] theorem setF_pwr (s : State) (i hi lo v : Nat) : (setF s i hi lo v).pwr = s.pwr := rfl
@[simp] theorem setF_fl (s : State) (i hi lo v : Nat) : (setF s i hi lo v).fl = s.fl := rfl
@[simp] theorem setF_dram (s : State) (i hi lo v : Nat) : (setF s i hi lo v).dram = s.dram := rfl
@[simp] theorem setF_sram (s : State) (i hi lo v : Nat) : (setF s i hi lo v).sram = s.sram := rfl
@[simp] theorem setF_cal (s : State) (i hi lo v : Nat) : (setF s i hi lo v).cal = s.cal := rfl
@[simp] theorem setF_boot (s : State) (i hi lo v : Nat) : (setF s i hi lo v).boot = s.boot := rfl
@[simp] theorem setF_gpio (s : State) (i hi lo v : Nat) : (setF s i hi lo v).gpio = s.gpio := rfl
@[simp] theorem setF_net (s : State) (i hi lo v : Nat) : (setF s i hi lo v).net = s.net := rfl
@[simp] theorem setF_canvas (s : State) (i hi lo v : Nat) : (setF s i hi lo v).canvas = s.canvas := rfl
@[simp] theorem setF_flume (s : State) (i hi lo v : Nat) : (setF s i hi lo v).flume = s.flume := rfl
@[simp] theorem setF_link (s : State) (i hi lo v : Nat) : (setF s i hi lo v).link = s.link := rfl
@[simp] theorem setF_img (s : State) (i hi lo v : Nat) : (setF s i hi lo v).img = s.img := rfl
@[simp] theorem setF_bdg (s : State) (i hi lo v : Nat) : (setF s i hi lo v).bdg = s.bdg := rfl
@[simp] theorem setF_lamp (s : State) (i hi lo v : Nat) : (setF s i hi lo v).lamp = s.lamp := rfl
@[simp] theorem setF_weir (s : State) (i hi lo v : Nat) : (setF s i hi lo v).weir = s.weir := rfl
@[simp] theorem setF_time (s : State) (i hi lo v : Nat) : (setF s i hi lo v).time = s.time := rfl
@[simp] theorem setF_pair (s : State) (i hi lo v : Nat) : (setF s i hi lo v).pair = s.pair := rfl
@[simp] theorem setF_changes (s : State) (i hi lo v : Nat) : (setF s i hi lo v).changes = s.changes := rfl
@[simp] theorem setF_heavy (s : State) (i hi lo v : Nat) : (setF s i hi lo v).heavy = s.heavy := rfl
@[simp] theorem setF_free (s : State) (i hi lo v : Nat) : (setF s i hi lo v).free = s.free := rfl
@[simp] theorem setF_out (s : State) (i hi lo v : Nat) : (setF s i hi lo v).out = s.out := rfl
@[simp] theorem setF_pending (s : State) (i hi lo v : Nat) : (setF s i hi lo v).pending = s.pending := rfl

/-! `bumpN` changes `par` alone. -/

@[simp] theorem bumpN_id (s : State) (i n : Nat) : (bumpN s i n).id = s.id := rfl
@[simp] theorem bumpN_smb (s : State) (i n : Nat) : (bumpN s i n).smb = s.smb := rfl
@[simp] theorem bumpN_rcd (s : State) (i n : Nat) : (bumpN s i n).rcd = s.rcd := rfl
@[simp] theorem bumpN_otp (s : State) (i n : Nat) : (bumpN s i n).otp = s.otp := rfl
@[simp] theorem bumpN_sec (s : State) (i n : Nat) : (bumpN s i n).sec = s.sec := rfl
@[simp] theorem bumpN_slu (s : State) (i n : Nat) : (bumpN s i n).slu = s.slu := rfl
@[simp] theorem bumpN_pwr (s : State) (i n : Nat) : (bumpN s i n).pwr = s.pwr := rfl
@[simp] theorem bumpN_fl (s : State) (i n : Nat) : (bumpN s i n).fl = s.fl := rfl
@[simp] theorem bumpN_dram (s : State) (i n : Nat) : (bumpN s i n).dram = s.dram := rfl
@[simp] theorem bumpN_sram (s : State) (i n : Nat) : (bumpN s i n).sram = s.sram := rfl
@[simp] theorem bumpN_cal (s : State) (i n : Nat) : (bumpN s i n).cal = s.cal := rfl
@[simp] theorem bumpN_boot (s : State) (i n : Nat) : (bumpN s i n).boot = s.boot := rfl
@[simp] theorem bumpN_gpio (s : State) (i n : Nat) : (bumpN s i n).gpio = s.gpio := rfl
@[simp] theorem bumpN_net (s : State) (i n : Nat) : (bumpN s i n).net = s.net := rfl
@[simp] theorem bumpN_canvas (s : State) (i n : Nat) : (bumpN s i n).canvas = s.canvas := rfl
@[simp] theorem bumpN_flume (s : State) (i n : Nat) : (bumpN s i n).flume = s.flume := rfl
@[simp] theorem bumpN_link (s : State) (i n : Nat) : (bumpN s i n).link = s.link := rfl
@[simp] theorem bumpN_img (s : State) (i n : Nat) : (bumpN s i n).img = s.img := rfl
@[simp] theorem bumpN_bdg (s : State) (i n : Nat) : (bumpN s i n).bdg = s.bdg := rfl
@[simp] theorem bumpN_lamp (s : State) (i n : Nat) : (bumpN s i n).lamp = s.lamp := rfl
@[simp] theorem bumpN_weir (s : State) (i n : Nat) : (bumpN s i n).weir = s.weir := rfl
@[simp] theorem bumpN_time (s : State) (i n : Nat) : (bumpN s i n).time = s.time := rfl
@[simp] theorem bumpN_pair (s : State) (i n : Nat) : (bumpN s i n).pair = s.pair := rfl
@[simp] theorem bumpN_changes (s : State) (i n : Nat) : (bumpN s i n).changes = s.changes := rfl
@[simp] theorem bumpN_heavy (s : State) (i n : Nat) : (bumpN s i n).heavy = s.heavy := rfl
@[simp] theorem bumpN_free (s : State) (i n : Nat) : (bumpN s i n).free = s.free := rfl
@[simp] theorem bumpN_out (s : State) (i n : Nat) : (bumpN s i n).out = s.out := rfl
@[simp] theorem bumpN_pending (s : State) (i n : Nat) : (bumpN s i n).pending = s.pending := rfl

/-! `bump` changes `par` alone. -/

@[simp] theorem bump_id (s : State) (i : Nat) : (bump s i).id = s.id := rfl
@[simp] theorem bump_smb (s : State) (i : Nat) : (bump s i).smb = s.smb := rfl
@[simp] theorem bump_rcd (s : State) (i : Nat) : (bump s i).rcd = s.rcd := rfl
@[simp] theorem bump_otp (s : State) (i : Nat) : (bump s i).otp = s.otp := rfl
@[simp] theorem bump_sec (s : State) (i : Nat) : (bump s i).sec = s.sec := rfl
@[simp] theorem bump_slu (s : State) (i : Nat) : (bump s i).slu = s.slu := rfl
@[simp] theorem bump_pwr (s : State) (i : Nat) : (bump s i).pwr = s.pwr := rfl
@[simp] theorem bump_fl (s : State) (i : Nat) : (bump s i).fl = s.fl := rfl
@[simp] theorem bump_dram (s : State) (i : Nat) : (bump s i).dram = s.dram := rfl
@[simp] theorem bump_sram (s : State) (i : Nat) : (bump s i).sram = s.sram := rfl
@[simp] theorem bump_cal (s : State) (i : Nat) : (bump s i).cal = s.cal := rfl
@[simp] theorem bump_boot (s : State) (i : Nat) : (bump s i).boot = s.boot := rfl
@[simp] theorem bump_gpio (s : State) (i : Nat) : (bump s i).gpio = s.gpio := rfl
@[simp] theorem bump_net (s : State) (i : Nat) : (bump s i).net = s.net := rfl
@[simp] theorem bump_canvas (s : State) (i : Nat) : (bump s i).canvas = s.canvas := rfl
@[simp] theorem bump_flume (s : State) (i : Nat) : (bump s i).flume = s.flume := rfl
@[simp] theorem bump_link (s : State) (i : Nat) : (bump s i).link = s.link := rfl
@[simp] theorem bump_img (s : State) (i : Nat) : (bump s i).img = s.img := rfl
@[simp] theorem bump_bdg (s : State) (i : Nat) : (bump s i).bdg = s.bdg := rfl
@[simp] theorem bump_lamp (s : State) (i : Nat) : (bump s i).lamp = s.lamp := rfl
@[simp] theorem bump_weir (s : State) (i : Nat) : (bump s i).weir = s.weir := rfl
@[simp] theorem bump_time (s : State) (i : Nat) : (bump s i).time = s.time := rfl
@[simp] theorem bump_pair (s : State) (i : Nat) : (bump s i).pair = s.pair := rfl
@[simp] theorem bump_changes (s : State) (i : Nat) : (bump s i).changes = s.changes := rfl
@[simp] theorem bump_heavy (s : State) (i : Nat) : (bump s i).heavy = s.heavy := rfl
@[simp] theorem bump_free (s : State) (i : Nat) : (bump s i).free = s.free := rfl
@[simp] theorem bump_out (s : State) (i : Nat) : (bump s i).out = s.out := rfl
@[simp] theorem bump_pending (s : State) (i : Nat) : (bump s i).pending = s.pending := rfl

/-! `bumpF` changes `par` alone. -/

@[simp] theorem bumpF_id (s : State) (i hi lo : Nat) : (bumpF s i hi lo).id = s.id := rfl
@[simp] theorem bumpF_smb (s : State) (i hi lo : Nat) : (bumpF s i hi lo).smb = s.smb := rfl
@[simp] theorem bumpF_rcd (s : State) (i hi lo : Nat) : (bumpF s i hi lo).rcd = s.rcd := rfl
@[simp] theorem bumpF_otp (s : State) (i hi lo : Nat) : (bumpF s i hi lo).otp = s.otp := rfl
@[simp] theorem bumpF_sec (s : State) (i hi lo : Nat) : (bumpF s i hi lo).sec = s.sec := rfl
@[simp] theorem bumpF_slu (s : State) (i hi lo : Nat) : (bumpF s i hi lo).slu = s.slu := rfl
@[simp] theorem bumpF_pwr (s : State) (i hi lo : Nat) : (bumpF s i hi lo).pwr = s.pwr := rfl
@[simp] theorem bumpF_fl (s : State) (i hi lo : Nat) : (bumpF s i hi lo).fl = s.fl := rfl
@[simp] theorem bumpF_dram (s : State) (i hi lo : Nat) : (bumpF s i hi lo).dram = s.dram := rfl
@[simp] theorem bumpF_sram (s : State) (i hi lo : Nat) : (bumpF s i hi lo).sram = s.sram := rfl
@[simp] theorem bumpF_cal (s : State) (i hi lo : Nat) : (bumpF s i hi lo).cal = s.cal := rfl
@[simp] theorem bumpF_boot (s : State) (i hi lo : Nat) : (bumpF s i hi lo).boot = s.boot := rfl
@[simp] theorem bumpF_gpio (s : State) (i hi lo : Nat) : (bumpF s i hi lo).gpio = s.gpio := rfl
@[simp] theorem bumpF_net (s : State) (i hi lo : Nat) : (bumpF s i hi lo).net = s.net := rfl
@[simp] theorem bumpF_canvas (s : State) (i hi lo : Nat) : (bumpF s i hi lo).canvas = s.canvas := rfl
@[simp] theorem bumpF_flume (s : State) (i hi lo : Nat) : (bumpF s i hi lo).flume = s.flume := rfl
@[simp] theorem bumpF_link (s : State) (i hi lo : Nat) : (bumpF s i hi lo).link = s.link := rfl
@[simp] theorem bumpF_img (s : State) (i hi lo : Nat) : (bumpF s i hi lo).img = s.img := rfl
@[simp] theorem bumpF_bdg (s : State) (i hi lo : Nat) : (bumpF s i hi lo).bdg = s.bdg := rfl
@[simp] theorem bumpF_lamp (s : State) (i hi lo : Nat) : (bumpF s i hi lo).lamp = s.lamp := rfl
@[simp] theorem bumpF_weir (s : State) (i hi lo : Nat) : (bumpF s i hi lo).weir = s.weir := rfl
@[simp] theorem bumpF_time (s : State) (i hi lo : Nat) : (bumpF s i hi lo).time = s.time := rfl
@[simp] theorem bumpF_pair (s : State) (i hi lo : Nat) : (bumpF s i hi lo).pair = s.pair := rfl
@[simp] theorem bumpF_changes (s : State) (i hi lo : Nat) : (bumpF s i hi lo).changes = s.changes := rfl
@[simp] theorem bumpF_heavy (s : State) (i hi lo : Nat) : (bumpF s i hi lo).heavy = s.heavy := rfl
@[simp] theorem bumpF_free (s : State) (i hi lo : Nat) : (bumpF s i hi lo).free = s.free := rfl
@[simp] theorem bumpF_out (s : State) (i hi lo : Nat) : (bumpF s i hi lo).out = s.out := rfl
@[simp] theorem bumpF_pending (s : State) (i hi lo : Nat) : (bumpF s i hi lo).pending = s.pending := rfl

/-! `emit` changes `out` alone. -/

@[simp] theorem emit_id (s : State) (o : Out) : (emit s o).id = s.id := rfl
@[simp] theorem emit_par (s : State) (o : Out) : (emit s o).par = s.par := rfl
@[simp] theorem emit_smb (s : State) (o : Out) : (emit s o).smb = s.smb := rfl
@[simp] theorem emit_rcd (s : State) (o : Out) : (emit s o).rcd = s.rcd := rfl
@[simp] theorem emit_otp (s : State) (o : Out) : (emit s o).otp = s.otp := rfl
@[simp] theorem emit_sec (s : State) (o : Out) : (emit s o).sec = s.sec := rfl
@[simp] theorem emit_slu (s : State) (o : Out) : (emit s o).slu = s.slu := rfl
@[simp] theorem emit_pwr (s : State) (o : Out) : (emit s o).pwr = s.pwr := rfl
@[simp] theorem emit_fl (s : State) (o : Out) : (emit s o).fl = s.fl := rfl
@[simp] theorem emit_dram (s : State) (o : Out) : (emit s o).dram = s.dram := rfl
@[simp] theorem emit_sram (s : State) (o : Out) : (emit s o).sram = s.sram := rfl
@[simp] theorem emit_cal (s : State) (o : Out) : (emit s o).cal = s.cal := rfl
@[simp] theorem emit_boot (s : State) (o : Out) : (emit s o).boot = s.boot := rfl
@[simp] theorem emit_gpio (s : State) (o : Out) : (emit s o).gpio = s.gpio := rfl
@[simp] theorem emit_net (s : State) (o : Out) : (emit s o).net = s.net := rfl
@[simp] theorem emit_canvas (s : State) (o : Out) : (emit s o).canvas = s.canvas := rfl
@[simp] theorem emit_flume (s : State) (o : Out) : (emit s o).flume = s.flume := rfl
@[simp] theorem emit_link (s : State) (o : Out) : (emit s o).link = s.link := rfl
@[simp] theorem emit_img (s : State) (o : Out) : (emit s o).img = s.img := rfl
@[simp] theorem emit_bdg (s : State) (o : Out) : (emit s o).bdg = s.bdg := rfl
@[simp] theorem emit_lamp (s : State) (o : Out) : (emit s o).lamp = s.lamp := rfl
@[simp] theorem emit_weir (s : State) (o : Out) : (emit s o).weir = s.weir := rfl
@[simp] theorem emit_time (s : State) (o : Out) : (emit s o).time = s.time := rfl
@[simp] theorem emit_pair (s : State) (o : Out) : (emit s o).pair = s.pair := rfl
@[simp] theorem emit_changes (s : State) (o : Out) : (emit s o).changes = s.changes := rfl
@[simp] theorem emit_heavy (s : State) (o : Out) : (emit s o).heavy = s.heavy := rfl
@[simp] theorem emit_free (s : State) (o : Out) : (emit s o).free = s.free := rfl
@[simp] theorem emit_out (s : State) (o : Out) :
    (emit s o).out = s.out ++ [o] := rfl
@[simp] theorem emit_pending (s : State) (o : Out) : (emit s o).pending = s.pending := rfl

/-! `ticks` changes `time` alone. -/

@[simp] theorem ticks_id (n : Nat) (s : State) : (ticks n s).id = s.id := rfl
@[simp] theorem ticks_par (n : Nat) (s : State) : (ticks n s).par = s.par := rfl
@[simp] theorem ticks_smb (n : Nat) (s : State) : (ticks n s).smb = s.smb := rfl
@[simp] theorem ticks_rcd (n : Nat) (s : State) : (ticks n s).rcd = s.rcd := rfl
@[simp] theorem ticks_otp (n : Nat) (s : State) : (ticks n s).otp = s.otp := rfl
@[simp] theorem ticks_sec (n : Nat) (s : State) : (ticks n s).sec = s.sec := rfl
@[simp] theorem ticks_slu (n : Nat) (s : State) : (ticks n s).slu = s.slu := rfl
@[simp] theorem ticks_pwr (n : Nat) (s : State) : (ticks n s).pwr = s.pwr := rfl
@[simp] theorem ticks_fl (n : Nat) (s : State) : (ticks n s).fl = s.fl := rfl
@[simp] theorem ticks_dram (n : Nat) (s : State) : (ticks n s).dram = s.dram := rfl
@[simp] theorem ticks_sram (n : Nat) (s : State) : (ticks n s).sram = s.sram := rfl
@[simp] theorem ticks_cal (n : Nat) (s : State) : (ticks n s).cal = s.cal := rfl
@[simp] theorem ticks_boot (n : Nat) (s : State) : (ticks n s).boot = s.boot := rfl
@[simp] theorem ticks_gpio (n : Nat) (s : State) : (ticks n s).gpio = s.gpio := rfl
@[simp] theorem ticks_net (n : Nat) (s : State) : (ticks n s).net = s.net := rfl
@[simp] theorem ticks_canvas (n : Nat) (s : State) : (ticks n s).canvas = s.canvas := rfl
@[simp] theorem ticks_flume (n : Nat) (s : State) : (ticks n s).flume = s.flume := rfl
@[simp] theorem ticks_link (n : Nat) (s : State) : (ticks n s).link = s.link := rfl
@[simp] theorem ticks_img (n : Nat) (s : State) : (ticks n s).img = s.img := rfl
@[simp] theorem ticks_bdg (n : Nat) (s : State) : (ticks n s).bdg = s.bdg := rfl
@[simp] theorem ticks_lamp (n : Nat) (s : State) : (ticks n s).lamp = s.lamp := rfl
@[simp] theorem ticks_weir (n : Nat) (s : State) : (ticks n s).weir = s.weir := rfl
@[simp] theorem ticks_pair (n : Nat) (s : State) : (ticks n s).pair = s.pair := rfl
@[simp] theorem ticks_changes (n : Nat) (s : State) : (ticks n s).changes = s.changes := rfl
@[simp] theorem ticks_heavy (n : Nat) (s : State) : (ticks n s).heavy = s.heavy := rfl
@[simp] theorem ticks_free (n : Nat) (s : State) : (ticks n s).free = s.free := rfl
@[simp] theorem ticks_out (n : Nat) (s : State) : (ticks n s).out = s.out := rfl
@[simp] theorem ticks_pending (n : Nat) (s : State) : (ticks n s).pending = s.pending := rfl

/-! `toLt` changes `time` alone. -/

@[simp] theorem toLt_id (d : Nat) (s : State) : (toLt d s).id = s.id := rfl
@[simp] theorem toLt_par (d : Nat) (s : State) : (toLt d s).par = s.par := rfl
@[simp] theorem toLt_smb (d : Nat) (s : State) : (toLt d s).smb = s.smb := rfl
@[simp] theorem toLt_rcd (d : Nat) (s : State) : (toLt d s).rcd = s.rcd := rfl
@[simp] theorem toLt_otp (d : Nat) (s : State) : (toLt d s).otp = s.otp := rfl
@[simp] theorem toLt_sec (d : Nat) (s : State) : (toLt d s).sec = s.sec := rfl
@[simp] theorem toLt_slu (d : Nat) (s : State) : (toLt d s).slu = s.slu := rfl
@[simp] theorem toLt_pwr (d : Nat) (s : State) : (toLt d s).pwr = s.pwr := rfl
@[simp] theorem toLt_fl (d : Nat) (s : State) : (toLt d s).fl = s.fl := rfl
@[simp] theorem toLt_dram (d : Nat) (s : State) : (toLt d s).dram = s.dram := rfl
@[simp] theorem toLt_sram (d : Nat) (s : State) : (toLt d s).sram = s.sram := rfl
@[simp] theorem toLt_cal (d : Nat) (s : State) : (toLt d s).cal = s.cal := rfl
@[simp] theorem toLt_boot (d : Nat) (s : State) : (toLt d s).boot = s.boot := rfl
@[simp] theorem toLt_gpio (d : Nat) (s : State) : (toLt d s).gpio = s.gpio := rfl
@[simp] theorem toLt_net (d : Nat) (s : State) : (toLt d s).net = s.net := rfl
@[simp] theorem toLt_canvas (d : Nat) (s : State) : (toLt d s).canvas = s.canvas := rfl
@[simp] theorem toLt_flume (d : Nat) (s : State) : (toLt d s).flume = s.flume := rfl
@[simp] theorem toLt_link (d : Nat) (s : State) : (toLt d s).link = s.link := rfl
@[simp] theorem toLt_img (d : Nat) (s : State) : (toLt d s).img = s.img := rfl
@[simp] theorem toLt_bdg (d : Nat) (s : State) : (toLt d s).bdg = s.bdg := rfl
@[simp] theorem toLt_lamp (d : Nat) (s : State) : (toLt d s).lamp = s.lamp := rfl
@[simp] theorem toLt_weir (d : Nat) (s : State) : (toLt d s).weir = s.weir := rfl
@[simp] theorem toLt_pair (d : Nat) (s : State) : (toLt d s).pair = s.pair := rfl
@[simp] theorem toLt_changes (d : Nat) (s : State) : (toLt d s).changes = s.changes := rfl
@[simp] theorem toLt_heavy (d : Nat) (s : State) : (toLt d s).heavy = s.heavy := rfl
@[simp] theorem toLt_free (d : Nat) (s : State) : (toLt d s).free = s.free := rfl
@[simp] theorem toLt_out (d : Nat) (s : State) : (toLt d s).out = s.out := rfl
@[simp] theorem toLt_pending (d : Nat) (s : State) : (toLt d s).pending = s.pending := rfl

/-! `toClk` changes `time` alone. -/

@[simp] theorem toClk_id (c : Nat) (s : State) : (toClk c s).id = s.id := by unfold toClk; split <;> rfl
@[simp] theorem toClk_par (c : Nat) (s : State) : (toClk c s).par = s.par := by unfold toClk; split <;> rfl
@[simp] theorem toClk_smb (c : Nat) (s : State) : (toClk c s).smb = s.smb := by unfold toClk; split <;> rfl
@[simp] theorem toClk_rcd (c : Nat) (s : State) : (toClk c s).rcd = s.rcd := by unfold toClk; split <;> rfl
@[simp] theorem toClk_otp (c : Nat) (s : State) : (toClk c s).otp = s.otp := by unfold toClk; split <;> rfl
@[simp] theorem toClk_sec (c : Nat) (s : State) : (toClk c s).sec = s.sec := by unfold toClk; split <;> rfl
@[simp] theorem toClk_slu (c : Nat) (s : State) : (toClk c s).slu = s.slu := by unfold toClk; split <;> rfl
@[simp] theorem toClk_pwr (c : Nat) (s : State) : (toClk c s).pwr = s.pwr := by unfold toClk; split <;> rfl
@[simp] theorem toClk_fl (c : Nat) (s : State) : (toClk c s).fl = s.fl := by unfold toClk; split <;> rfl
@[simp] theorem toClk_dram (c : Nat) (s : State) : (toClk c s).dram = s.dram := by unfold toClk; split <;> rfl
@[simp] theorem toClk_sram (c : Nat) (s : State) : (toClk c s).sram = s.sram := by unfold toClk; split <;> rfl
@[simp] theorem toClk_cal (c : Nat) (s : State) : (toClk c s).cal = s.cal := by unfold toClk; split <;> rfl
@[simp] theorem toClk_boot (c : Nat) (s : State) : (toClk c s).boot = s.boot := by unfold toClk; split <;> rfl
@[simp] theorem toClk_gpio (c : Nat) (s : State) : (toClk c s).gpio = s.gpio := by unfold toClk; split <;> rfl
@[simp] theorem toClk_net (c : Nat) (s : State) : (toClk c s).net = s.net := by unfold toClk; split <;> rfl
@[simp] theorem toClk_canvas (c : Nat) (s : State) : (toClk c s).canvas = s.canvas := by unfold toClk; split <;> rfl
@[simp] theorem toClk_flume (c : Nat) (s : State) : (toClk c s).flume = s.flume := by unfold toClk; split <;> rfl
@[simp] theorem toClk_link (c : Nat) (s : State) : (toClk c s).link = s.link := by unfold toClk; split <;> rfl
@[simp] theorem toClk_img (c : Nat) (s : State) : (toClk c s).img = s.img := by unfold toClk; split <;> rfl
@[simp] theorem toClk_bdg (c : Nat) (s : State) : (toClk c s).bdg = s.bdg := by unfold toClk; split <;> rfl
@[simp] theorem toClk_lamp (c : Nat) (s : State) : (toClk c s).lamp = s.lamp := by unfold toClk; split <;> rfl
@[simp] theorem toClk_weir (c : Nat) (s : State) : (toClk c s).weir = s.weir := by unfold toClk; split <;> rfl
@[simp] theorem toClk_pair (c : Nat) (s : State) : (toClk c s).pair = s.pair := by unfold toClk; split <;> rfl
@[simp] theorem toClk_changes (c : Nat) (s : State) : (toClk c s).changes = s.changes := by unfold toClk; split <;> rfl
@[simp] theorem toClk_heavy (c : Nat) (s : State) : (toClk c s).heavy = s.heavy := by unfold toClk; split <;> rfl
@[simp] theorem toClk_free (c : Nat) (s : State) : (toClk c s).free = s.free := by unfold toClk; split <;> rfl
@[simp] theorem toClk_out (c : Nat) (s : State) : (toClk c s).out = s.out := by unfold toClk; split <;> rfl
@[simp] theorem toClk_pending (c : Nat) (s : State) : (toClk c s).pending = s.pending := by unfold toClk; split <;> rfl

/-! `updSess` changes `smb` alone. -/

@[simp] theorem updSess_id (s : State) (r : SRef) (f : Session → Session) : (updSess s r f).id = s.id := rfl
@[simp] theorem updSess_par (s : State) (r : SRef) (f : Session → Session) : (updSess s r f).par = s.par := rfl
@[simp] theorem updSess_rcd (s : State) (r : SRef) (f : Session → Session) : (updSess s r f).rcd = s.rcd := rfl
@[simp] theorem updSess_otp (s : State) (r : SRef) (f : Session → Session) : (updSess s r f).otp = s.otp := rfl
@[simp] theorem updSess_sec (s : State) (r : SRef) (f : Session → Session) : (updSess s r f).sec = s.sec := rfl
@[simp] theorem updSess_slu (s : State) (r : SRef) (f : Session → Session) : (updSess s r f).slu = s.slu := rfl
@[simp] theorem updSess_pwr (s : State) (r : SRef) (f : Session → Session) : (updSess s r f).pwr = s.pwr := rfl
@[simp] theorem updSess_fl (s : State) (r : SRef) (f : Session → Session) : (updSess s r f).fl = s.fl := rfl
@[simp] theorem updSess_dram (s : State) (r : SRef) (f : Session → Session) : (updSess s r f).dram = s.dram := rfl
@[simp] theorem updSess_sram (s : State) (r : SRef) (f : Session → Session) : (updSess s r f).sram = s.sram := rfl
@[simp] theorem updSess_cal (s : State) (r : SRef) (f : Session → Session) : (updSess s r f).cal = s.cal := rfl
@[simp] theorem updSess_boot (s : State) (r : SRef) (f : Session → Session) : (updSess s r f).boot = s.boot := rfl
@[simp] theorem updSess_gpio (s : State) (r : SRef) (f : Session → Session) : (updSess s r f).gpio = s.gpio := rfl
@[simp] theorem updSess_net (s : State) (r : SRef) (f : Session → Session) : (updSess s r f).net = s.net := rfl
@[simp] theorem updSess_canvas (s : State) (r : SRef) (f : Session → Session) : (updSess s r f).canvas = s.canvas := rfl
@[simp] theorem updSess_flume (s : State) (r : SRef) (f : Session → Session) : (updSess s r f).flume = s.flume := rfl
@[simp] theorem updSess_link (s : State) (r : SRef) (f : Session → Session) : (updSess s r f).link = s.link := rfl
@[simp] theorem updSess_img (s : State) (r : SRef) (f : Session → Session) : (updSess s r f).img = s.img := rfl
@[simp] theorem updSess_bdg (s : State) (r : SRef) (f : Session → Session) : (updSess s r f).bdg = s.bdg := rfl
@[simp] theorem updSess_lamp (s : State) (r : SRef) (f : Session → Session) : (updSess s r f).lamp = s.lamp := rfl
@[simp] theorem updSess_weir (s : State) (r : SRef) (f : Session → Session) : (updSess s r f).weir = s.weir := rfl
@[simp] theorem updSess_time (s : State) (r : SRef) (f : Session → Session) : (updSess s r f).time = s.time := rfl
@[simp] theorem updSess_pair (s : State) (r : SRef) (f : Session → Session) : (updSess s r f).pair = s.pair := rfl
@[simp] theorem updSess_changes (s : State) (r : SRef) (f : Session → Session) : (updSess s r f).changes = s.changes := rfl
@[simp] theorem updSess_heavy (s : State) (r : SRef) (f : Session → Session) : (updSess s r f).heavy = s.heavy := rfl
@[simp] theorem updSess_free (s : State) (r : SRef) (f : Session → Session) : (updSess s r f).free = s.free := rfl
@[simp] theorem updSess_out (s : State) (r : SRef) (f : Session → Session) : (updSess s r f).out = s.out := rfl
@[simp] theorem updSess_pending (s : State) (r : SRef) (f : Session → Session) : (updSess s r f).pending = s.pending := rfl

/-! `creditReturn` changes `slu` alone. -/

@[simp] theorem creditReturn_id (s : State) (f : HeavyOp → Bool) : (creditReturn s f).id = s.id := rfl
@[simp] theorem creditReturn_par (s : State) (f : HeavyOp → Bool) : (creditReturn s f).par = s.par := rfl
@[simp] theorem creditReturn_smb (s : State) (f : HeavyOp → Bool) : (creditReturn s f).smb = s.smb := rfl
@[simp] theorem creditReturn_rcd (s : State) (f : HeavyOp → Bool) : (creditReturn s f).rcd = s.rcd := rfl
@[simp] theorem creditReturn_otp (s : State) (f : HeavyOp → Bool) : (creditReturn s f).otp = s.otp := rfl
@[simp] theorem creditReturn_sec (s : State) (f : HeavyOp → Bool) : (creditReturn s f).sec = s.sec := rfl
@[simp] theorem creditReturn_pwr (s : State) (f : HeavyOp → Bool) : (creditReturn s f).pwr = s.pwr := rfl
@[simp] theorem creditReturn_fl (s : State) (f : HeavyOp → Bool) : (creditReturn s f).fl = s.fl := rfl
@[simp] theorem creditReturn_dram (s : State) (f : HeavyOp → Bool) : (creditReturn s f).dram = s.dram := rfl
@[simp] theorem creditReturn_sram (s : State) (f : HeavyOp → Bool) : (creditReturn s f).sram = s.sram := rfl
@[simp] theorem creditReturn_cal (s : State) (f : HeavyOp → Bool) : (creditReturn s f).cal = s.cal := rfl
@[simp] theorem creditReturn_boot (s : State) (f : HeavyOp → Bool) : (creditReturn s f).boot = s.boot := rfl
@[simp] theorem creditReturn_gpio (s : State) (f : HeavyOp → Bool) : (creditReturn s f).gpio = s.gpio := rfl
@[simp] theorem creditReturn_net (s : State) (f : HeavyOp → Bool) : (creditReturn s f).net = s.net := rfl
@[simp] theorem creditReturn_canvas (s : State) (f : HeavyOp → Bool) : (creditReturn s f).canvas = s.canvas := rfl
@[simp] theorem creditReturn_flume (s : State) (f : HeavyOp → Bool) : (creditReturn s f).flume = s.flume := rfl
@[simp] theorem creditReturn_link (s : State) (f : HeavyOp → Bool) : (creditReturn s f).link = s.link := rfl
@[simp] theorem creditReturn_img (s : State) (f : HeavyOp → Bool) : (creditReturn s f).img = s.img := rfl
@[simp] theorem creditReturn_bdg (s : State) (f : HeavyOp → Bool) : (creditReturn s f).bdg = s.bdg := rfl
@[simp] theorem creditReturn_lamp (s : State) (f : HeavyOp → Bool) : (creditReturn s f).lamp = s.lamp := rfl
@[simp] theorem creditReturn_weir (s : State) (f : HeavyOp → Bool) : (creditReturn s f).weir = s.weir := rfl
@[simp] theorem creditReturn_time (s : State) (f : HeavyOp → Bool) : (creditReturn s f).time = s.time := rfl
@[simp] theorem creditReturn_pair (s : State) (f : HeavyOp → Bool) : (creditReturn s f).pair = s.pair := rfl
@[simp] theorem creditReturn_changes (s : State) (f : HeavyOp → Bool) : (creditReturn s f).changes = s.changes := rfl
@[simp] theorem creditReturn_heavy (s : State) (f : HeavyOp → Bool) : (creditReturn s f).heavy = s.heavy := rfl
@[simp] theorem creditReturn_free (s : State) (f : HeavyOp → Bool) : (creditReturn s f).free = s.free := rfl
@[simp] theorem creditReturn_out (s : State) (f : HeavyOp → Bool) : (creditReturn s f).out = s.out := rfl
@[simp] theorem creditReturn_pending (s : State) (f : HeavyOp → Bool) : (creditReturn s f).pending = s.pending := rfl

/-! `withdrawAsk` changes `slu` alone. -/

@[simp] theorem withdrawAsk_id (s : State) (f : HeavyOp → Bool) : (withdrawAsk s f).id = s.id := rfl
@[simp] theorem withdrawAsk_par (s : State) (f : HeavyOp → Bool) : (withdrawAsk s f).par = s.par := rfl
@[simp] theorem withdrawAsk_smb (s : State) (f : HeavyOp → Bool) : (withdrawAsk s f).smb = s.smb := rfl
@[simp] theorem withdrawAsk_rcd (s : State) (f : HeavyOp → Bool) : (withdrawAsk s f).rcd = s.rcd := rfl
@[simp] theorem withdrawAsk_otp (s : State) (f : HeavyOp → Bool) : (withdrawAsk s f).otp = s.otp := rfl
@[simp] theorem withdrawAsk_sec (s : State) (f : HeavyOp → Bool) : (withdrawAsk s f).sec = s.sec := rfl
@[simp] theorem withdrawAsk_pwr (s : State) (f : HeavyOp → Bool) : (withdrawAsk s f).pwr = s.pwr := rfl
@[simp] theorem withdrawAsk_fl (s : State) (f : HeavyOp → Bool) : (withdrawAsk s f).fl = s.fl := rfl
@[simp] theorem withdrawAsk_dram (s : State) (f : HeavyOp → Bool) : (withdrawAsk s f).dram = s.dram := rfl
@[simp] theorem withdrawAsk_sram (s : State) (f : HeavyOp → Bool) : (withdrawAsk s f).sram = s.sram := rfl
@[simp] theorem withdrawAsk_cal (s : State) (f : HeavyOp → Bool) : (withdrawAsk s f).cal = s.cal := rfl
@[simp] theorem withdrawAsk_boot (s : State) (f : HeavyOp → Bool) : (withdrawAsk s f).boot = s.boot := rfl
@[simp] theorem withdrawAsk_gpio (s : State) (f : HeavyOp → Bool) : (withdrawAsk s f).gpio = s.gpio := rfl
@[simp] theorem withdrawAsk_net (s : State) (f : HeavyOp → Bool) : (withdrawAsk s f).net = s.net := rfl
@[simp] theorem withdrawAsk_canvas (s : State) (f : HeavyOp → Bool) : (withdrawAsk s f).canvas = s.canvas := rfl
@[simp] theorem withdrawAsk_flume (s : State) (f : HeavyOp → Bool) : (withdrawAsk s f).flume = s.flume := rfl
@[simp] theorem withdrawAsk_link (s : State) (f : HeavyOp → Bool) : (withdrawAsk s f).link = s.link := rfl
@[simp] theorem withdrawAsk_img (s : State) (f : HeavyOp → Bool) : (withdrawAsk s f).img = s.img := rfl
@[simp] theorem withdrawAsk_bdg (s : State) (f : HeavyOp → Bool) : (withdrawAsk s f).bdg = s.bdg := rfl
@[simp] theorem withdrawAsk_lamp (s : State) (f : HeavyOp → Bool) : (withdrawAsk s f).lamp = s.lamp := rfl
@[simp] theorem withdrawAsk_weir (s : State) (f : HeavyOp → Bool) : (withdrawAsk s f).weir = s.weir := rfl
@[simp] theorem withdrawAsk_time (s : State) (f : HeavyOp → Bool) : (withdrawAsk s f).time = s.time := rfl
@[simp] theorem withdrawAsk_pair (s : State) (f : HeavyOp → Bool) : (withdrawAsk s f).pair = s.pair := rfl
@[simp] theorem withdrawAsk_changes (s : State) (f : HeavyOp → Bool) : (withdrawAsk s f).changes = s.changes := rfl
@[simp] theorem withdrawAsk_heavy (s : State) (f : HeavyOp → Bool) : (withdrawAsk s f).heavy = s.heavy := rfl
@[simp] theorem withdrawAsk_free (s : State) (f : HeavyOp → Bool) : (withdrawAsk s f).free = s.free := rfl
@[simp] theorem withdrawAsk_out (s : State) (f : HeavyOp → Bool) : (withdrawAsk s f).out = s.out := rfl
@[simp] theorem withdrawAsk_pending (s : State) (f : HeavyOp → Bool) : (withdrawAsk s f).pending = s.pending := rfl

/-! `grant` changes `slu` alone. -/

@[simp] theorem grant_id (s : State) (c : Credit) : (grant s c).id = s.id := rfl
@[simp] theorem grant_par (s : State) (c : Credit) : (grant s c).par = s.par := rfl
@[simp] theorem grant_smb (s : State) (c : Credit) : (grant s c).smb = s.smb := rfl
@[simp] theorem grant_rcd (s : State) (c : Credit) : (grant s c).rcd = s.rcd := rfl
@[simp] theorem grant_otp (s : State) (c : Credit) : (grant s c).otp = s.otp := rfl
@[simp] theorem grant_sec (s : State) (c : Credit) : (grant s c).sec = s.sec := rfl
@[simp] theorem grant_pwr (s : State) (c : Credit) : (grant s c).pwr = s.pwr := rfl
@[simp] theorem grant_fl (s : State) (c : Credit) : (grant s c).fl = s.fl := rfl
@[simp] theorem grant_dram (s : State) (c : Credit) : (grant s c).dram = s.dram := rfl
@[simp] theorem grant_sram (s : State) (c : Credit) : (grant s c).sram = s.sram := rfl
@[simp] theorem grant_cal (s : State) (c : Credit) : (grant s c).cal = s.cal := rfl
@[simp] theorem grant_boot (s : State) (c : Credit) : (grant s c).boot = s.boot := rfl
@[simp] theorem grant_gpio (s : State) (c : Credit) : (grant s c).gpio = s.gpio := rfl
@[simp] theorem grant_net (s : State) (c : Credit) : (grant s c).net = s.net := rfl
@[simp] theorem grant_canvas (s : State) (c : Credit) : (grant s c).canvas = s.canvas := rfl
@[simp] theorem grant_flume (s : State) (c : Credit) : (grant s c).flume = s.flume := rfl
@[simp] theorem grant_link (s : State) (c : Credit) : (grant s c).link = s.link := rfl
@[simp] theorem grant_img (s : State) (c : Credit) : (grant s c).img = s.img := rfl
@[simp] theorem grant_bdg (s : State) (c : Credit) : (grant s c).bdg = s.bdg := rfl
@[simp] theorem grant_lamp (s : State) (c : Credit) : (grant s c).lamp = s.lamp := rfl
@[simp] theorem grant_weir (s : State) (c : Credit) : (grant s c).weir = s.weir := rfl
@[simp] theorem grant_time (s : State) (c : Credit) : (grant s c).time = s.time := rfl
@[simp] theorem grant_pair (s : State) (c : Credit) : (grant s c).pair = s.pair := rfl
@[simp] theorem grant_changes (s : State) (c : Credit) : (grant s c).changes = s.changes := rfl
@[simp] theorem grant_heavy (s : State) (c : Credit) : (grant s c).heavy = s.heavy := rfl
@[simp] theorem grant_free (s : State) (c : Credit) : (grant s c).free = s.free := rfl
@[simp] theorem grant_out (s : State) (c : Credit) : (grant s c).out = s.out := rfl
@[simp] theorem grant_pending (s : State) (c : Credit) : (grant s c).pending = s.pending := rfl

/-! `flashDrop` changes `fl` and `slu` alone. -/

@[simp] theorem flashDrop_id (s : State) (x : FlashItem) : (flashDrop s x).id = s.id := rfl
@[simp] theorem flashDrop_par (s : State) (x : FlashItem) : (flashDrop s x).par = s.par := rfl
@[simp] theorem flashDrop_smb (s : State) (x : FlashItem) : (flashDrop s x).smb = s.smb := rfl
@[simp] theorem flashDrop_rcd (s : State) (x : FlashItem) : (flashDrop s x).rcd = s.rcd := rfl
@[simp] theorem flashDrop_otp (s : State) (x : FlashItem) : (flashDrop s x).otp = s.otp := rfl
@[simp] theorem flashDrop_sec (s : State) (x : FlashItem) : (flashDrop s x).sec = s.sec := rfl
@[simp] theorem flashDrop_pwr (s : State) (x : FlashItem) : (flashDrop s x).pwr = s.pwr := rfl
@[simp] theorem flashDrop_dram (s : State) (x : FlashItem) : (flashDrop s x).dram = s.dram := rfl
@[simp] theorem flashDrop_sram (s : State) (x : FlashItem) : (flashDrop s x).sram = s.sram := rfl
@[simp] theorem flashDrop_cal (s : State) (x : FlashItem) : (flashDrop s x).cal = s.cal := rfl
@[simp] theorem flashDrop_boot (s : State) (x : FlashItem) : (flashDrop s x).boot = s.boot := rfl
@[simp] theorem flashDrop_gpio (s : State) (x : FlashItem) : (flashDrop s x).gpio = s.gpio := rfl
@[simp] theorem flashDrop_net (s : State) (x : FlashItem) : (flashDrop s x).net = s.net := rfl
@[simp] theorem flashDrop_canvas (s : State) (x : FlashItem) : (flashDrop s x).canvas = s.canvas := rfl
@[simp] theorem flashDrop_flume (s : State) (x : FlashItem) : (flashDrop s x).flume = s.flume := rfl
@[simp] theorem flashDrop_link (s : State) (x : FlashItem) : (flashDrop s x).link = s.link := rfl
@[simp] theorem flashDrop_img (s : State) (x : FlashItem) : (flashDrop s x).img = s.img := rfl
@[simp] theorem flashDrop_bdg (s : State) (x : FlashItem) : (flashDrop s x).bdg = s.bdg := rfl
@[simp] theorem flashDrop_lamp (s : State) (x : FlashItem) : (flashDrop s x).lamp = s.lamp := rfl
@[simp] theorem flashDrop_weir (s : State) (x : FlashItem) : (flashDrop s x).weir = s.weir := rfl
@[simp] theorem flashDrop_time (s : State) (x : FlashItem) : (flashDrop s x).time = s.time := rfl
@[simp] theorem flashDrop_pair (s : State) (x : FlashItem) : (flashDrop s x).pair = s.pair := rfl
@[simp] theorem flashDrop_changes (s : State) (x : FlashItem) : (flashDrop s x).changes = s.changes := rfl
@[simp] theorem flashDrop_heavy (s : State) (x : FlashItem) : (flashDrop s x).heavy = s.heavy := rfl
@[simp] theorem flashDrop_free (s : State) (x : FlashItem) : (flashDrop s x).free = s.free := rfl
@[simp] theorem flashDrop_out (s : State) (x : FlashItem) : (flashDrop s x).out = s.out := rfl
@[simp] theorem flashDrop_pending (s : State) (x : FlashItem) : (flashDrop s x).pending = s.pending := rfl

/-! `setPtp` changes `time` alone. -/

@[simp] theorem setPtp_id (s : State) (d : Nat) (x : PtpSlot) : (setPtp s d x).id = s.id := rfl
@[simp] theorem setPtp_par (s : State) (d : Nat) (x : PtpSlot) : (setPtp s d x).par = s.par := rfl
@[simp] theorem setPtp_smb (s : State) (d : Nat) (x : PtpSlot) : (setPtp s d x).smb = s.smb := rfl
@[simp] theorem setPtp_rcd (s : State) (d : Nat) (x : PtpSlot) : (setPtp s d x).rcd = s.rcd := rfl
@[simp] theorem setPtp_otp (s : State) (d : Nat) (x : PtpSlot) : (setPtp s d x).otp = s.otp := rfl
@[simp] theorem setPtp_sec (s : State) (d : Nat) (x : PtpSlot) : (setPtp s d x).sec = s.sec := rfl
@[simp] theorem setPtp_slu (s : State) (d : Nat) (x : PtpSlot) : (setPtp s d x).slu = s.slu := rfl
@[simp] theorem setPtp_pwr (s : State) (d : Nat) (x : PtpSlot) : (setPtp s d x).pwr = s.pwr := rfl
@[simp] theorem setPtp_fl (s : State) (d : Nat) (x : PtpSlot) : (setPtp s d x).fl = s.fl := rfl
@[simp] theorem setPtp_dram (s : State) (d : Nat) (x : PtpSlot) : (setPtp s d x).dram = s.dram := rfl
@[simp] theorem setPtp_sram (s : State) (d : Nat) (x : PtpSlot) : (setPtp s d x).sram = s.sram := rfl
@[simp] theorem setPtp_cal (s : State) (d : Nat) (x : PtpSlot) : (setPtp s d x).cal = s.cal := rfl
@[simp] theorem setPtp_boot (s : State) (d : Nat) (x : PtpSlot) : (setPtp s d x).boot = s.boot := rfl
@[simp] theorem setPtp_gpio (s : State) (d : Nat) (x : PtpSlot) : (setPtp s d x).gpio = s.gpio := rfl
@[simp] theorem setPtp_net (s : State) (d : Nat) (x : PtpSlot) : (setPtp s d x).net = s.net := rfl
@[simp] theorem setPtp_canvas (s : State) (d : Nat) (x : PtpSlot) : (setPtp s d x).canvas = s.canvas := rfl
@[simp] theorem setPtp_flume (s : State) (d : Nat) (x : PtpSlot) : (setPtp s d x).flume = s.flume := rfl
@[simp] theorem setPtp_link (s : State) (d : Nat) (x : PtpSlot) : (setPtp s d x).link = s.link := rfl
@[simp] theorem setPtp_img (s : State) (d : Nat) (x : PtpSlot) : (setPtp s d x).img = s.img := rfl
@[simp] theorem setPtp_bdg (s : State) (d : Nat) (x : PtpSlot) : (setPtp s d x).bdg = s.bdg := rfl
@[simp] theorem setPtp_lamp (s : State) (d : Nat) (x : PtpSlot) : (setPtp s d x).lamp = s.lamp := rfl
@[simp] theorem setPtp_weir (s : State) (d : Nat) (x : PtpSlot) : (setPtp s d x).weir = s.weir := rfl
@[simp] theorem setPtp_pair (s : State) (d : Nat) (x : PtpSlot) : (setPtp s d x).pair = s.pair := rfl
@[simp] theorem setPtp_changes (s : State) (d : Nat) (x : PtpSlot) : (setPtp s d x).changes = s.changes := rfl
@[simp] theorem setPtp_heavy (s : State) (d : Nat) (x : PtpSlot) : (setPtp s d x).heavy = s.heavy := rfl
@[simp] theorem setPtp_free (s : State) (d : Nat) (x : PtpSlot) : (setPtp s d x).free = s.free := rfl
@[simp] theorem setPtp_out (s : State) (d : Nat) (x : PtpSlot) : (setPtp s d x).out = s.out := rfl
@[simp] theorem setPtp_pending (s : State) (d : Nat) (x : PtpSlot) : (setPtp s d x).pending = s.pending := rfl

/-! `setTsq` changes `time` alone. -/

@[simp] theorem setTsq_id (s : State) (p : Nat) (l : List TsqEnt) : (setTsq s p l).id = s.id := rfl
@[simp] theorem setTsq_par (s : State) (p : Nat) (l : List TsqEnt) : (setTsq s p l).par = s.par := rfl
@[simp] theorem setTsq_smb (s : State) (p : Nat) (l : List TsqEnt) : (setTsq s p l).smb = s.smb := rfl
@[simp] theorem setTsq_rcd (s : State) (p : Nat) (l : List TsqEnt) : (setTsq s p l).rcd = s.rcd := rfl
@[simp] theorem setTsq_otp (s : State) (p : Nat) (l : List TsqEnt) : (setTsq s p l).otp = s.otp := rfl
@[simp] theorem setTsq_sec (s : State) (p : Nat) (l : List TsqEnt) : (setTsq s p l).sec = s.sec := rfl
@[simp] theorem setTsq_slu (s : State) (p : Nat) (l : List TsqEnt) : (setTsq s p l).slu = s.slu := rfl
@[simp] theorem setTsq_pwr (s : State) (p : Nat) (l : List TsqEnt) : (setTsq s p l).pwr = s.pwr := rfl
@[simp] theorem setTsq_fl (s : State) (p : Nat) (l : List TsqEnt) : (setTsq s p l).fl = s.fl := rfl
@[simp] theorem setTsq_dram (s : State) (p : Nat) (l : List TsqEnt) : (setTsq s p l).dram = s.dram := rfl
@[simp] theorem setTsq_sram (s : State) (p : Nat) (l : List TsqEnt) : (setTsq s p l).sram = s.sram := rfl
@[simp] theorem setTsq_cal (s : State) (p : Nat) (l : List TsqEnt) : (setTsq s p l).cal = s.cal := rfl
@[simp] theorem setTsq_boot (s : State) (p : Nat) (l : List TsqEnt) : (setTsq s p l).boot = s.boot := rfl
@[simp] theorem setTsq_gpio (s : State) (p : Nat) (l : List TsqEnt) : (setTsq s p l).gpio = s.gpio := rfl
@[simp] theorem setTsq_net (s : State) (p : Nat) (l : List TsqEnt) : (setTsq s p l).net = s.net := rfl
@[simp] theorem setTsq_canvas (s : State) (p : Nat) (l : List TsqEnt) : (setTsq s p l).canvas = s.canvas := rfl
@[simp] theorem setTsq_flume (s : State) (p : Nat) (l : List TsqEnt) : (setTsq s p l).flume = s.flume := rfl
@[simp] theorem setTsq_link (s : State) (p : Nat) (l : List TsqEnt) : (setTsq s p l).link = s.link := rfl
@[simp] theorem setTsq_img (s : State) (p : Nat) (l : List TsqEnt) : (setTsq s p l).img = s.img := rfl
@[simp] theorem setTsq_bdg (s : State) (p : Nat) (l : List TsqEnt) : (setTsq s p l).bdg = s.bdg := rfl
@[simp] theorem setTsq_lamp (s : State) (p : Nat) (l : List TsqEnt) : (setTsq s p l).lamp = s.lamp := rfl
@[simp] theorem setTsq_weir (s : State) (p : Nat) (l : List TsqEnt) : (setTsq s p l).weir = s.weir := rfl
@[simp] theorem setTsq_pair (s : State) (p : Nat) (l : List TsqEnt) : (setTsq s p l).pair = s.pair := rfl
@[simp] theorem setTsq_changes (s : State) (p : Nat) (l : List TsqEnt) : (setTsq s p l).changes = s.changes := rfl
@[simp] theorem setTsq_heavy (s : State) (p : Nat) (l : List TsqEnt) : (setTsq s p l).heavy = s.heavy := rfl
@[simp] theorem setTsq_free (s : State) (p : Nat) (l : List TsqEnt) : (setTsq s p l).free = s.free := rfl
@[simp] theorem setTsq_out (s : State) (p : Nat) (l : List TsqEnt) : (setTsq s p l).out = s.out := rfl
@[simp] theorem setTsq_pending (s : State) (p : Nat) (l : List TsqEnt) : (setTsq s p l).pending = s.pending := rfl

/-! `setComp` changes `time` alone. -/

@[simp] theorem setComp_id (s : State) (k : Nat) (c : Comp) : (setComp s k c).id = s.id := rfl
@[simp] theorem setComp_par (s : State) (k : Nat) (c : Comp) : (setComp s k c).par = s.par := rfl
@[simp] theorem setComp_smb (s : State) (k : Nat) (c : Comp) : (setComp s k c).smb = s.smb := rfl
@[simp] theorem setComp_rcd (s : State) (k : Nat) (c : Comp) : (setComp s k c).rcd = s.rcd := rfl
@[simp] theorem setComp_otp (s : State) (k : Nat) (c : Comp) : (setComp s k c).otp = s.otp := rfl
@[simp] theorem setComp_sec (s : State) (k : Nat) (c : Comp) : (setComp s k c).sec = s.sec := rfl
@[simp] theorem setComp_slu (s : State) (k : Nat) (c : Comp) : (setComp s k c).slu = s.slu := rfl
@[simp] theorem setComp_pwr (s : State) (k : Nat) (c : Comp) : (setComp s k c).pwr = s.pwr := rfl
@[simp] theorem setComp_fl (s : State) (k : Nat) (c : Comp) : (setComp s k c).fl = s.fl := rfl
@[simp] theorem setComp_dram (s : State) (k : Nat) (c : Comp) : (setComp s k c).dram = s.dram := rfl
@[simp] theorem setComp_sram (s : State) (k : Nat) (c : Comp) : (setComp s k c).sram = s.sram := rfl
@[simp] theorem setComp_cal (s : State) (k : Nat) (c : Comp) : (setComp s k c).cal = s.cal := rfl
@[simp] theorem setComp_boot (s : State) (k : Nat) (c : Comp) : (setComp s k c).boot = s.boot := rfl
@[simp] theorem setComp_gpio (s : State) (k : Nat) (c : Comp) : (setComp s k c).gpio = s.gpio := rfl
@[simp] theorem setComp_net (s : State) (k : Nat) (c : Comp) : (setComp s k c).net = s.net := rfl
@[simp] theorem setComp_canvas (s : State) (k : Nat) (c : Comp) : (setComp s k c).canvas = s.canvas := rfl
@[simp] theorem setComp_flume (s : State) (k : Nat) (c : Comp) : (setComp s k c).flume = s.flume := rfl
@[simp] theorem setComp_link (s : State) (k : Nat) (c : Comp) : (setComp s k c).link = s.link := rfl
@[simp] theorem setComp_img (s : State) (k : Nat) (c : Comp) : (setComp s k c).img = s.img := rfl
@[simp] theorem setComp_bdg (s : State) (k : Nat) (c : Comp) : (setComp s k c).bdg = s.bdg := rfl
@[simp] theorem setComp_lamp (s : State) (k : Nat) (c : Comp) : (setComp s k c).lamp = s.lamp := rfl
@[simp] theorem setComp_weir (s : State) (k : Nat) (c : Comp) : (setComp s k c).weir = s.weir := rfl
@[simp] theorem setComp_pair (s : State) (k : Nat) (c : Comp) : (setComp s k c).pair = s.pair := rfl
@[simp] theorem setComp_changes (s : State) (k : Nat) (c : Comp) : (setComp s k c).changes = s.changes := rfl
@[simp] theorem setComp_heavy (s : State) (k : Nat) (c : Comp) : (setComp s k c).heavy = s.heavy := rfl
@[simp] theorem setComp_free (s : State) (k : Nat) (c : Comp) : (setComp s k c).free = s.free := rfl
@[simp] theorem setComp_out (s : State) (k : Nat) (c : Comp) : (setComp s k c).out = s.out := rfl
@[simp] theorem setComp_pending (s : State) (k : Nat) (c : Comp) : (setComp s k c).pending = s.pending := rfl

/-! `setTrig` changes `time` alone. -/

@[simp] theorem setTrig_id (s : State) (k : Nat) (l : List (List Word)) : (setTrig s k l).id = s.id := rfl
@[simp] theorem setTrig_par (s : State) (k : Nat) (l : List (List Word)) : (setTrig s k l).par = s.par := rfl
@[simp] theorem setTrig_smb (s : State) (k : Nat) (l : List (List Word)) : (setTrig s k l).smb = s.smb := rfl
@[simp] theorem setTrig_rcd (s : State) (k : Nat) (l : List (List Word)) : (setTrig s k l).rcd = s.rcd := rfl
@[simp] theorem setTrig_otp (s : State) (k : Nat) (l : List (List Word)) : (setTrig s k l).otp = s.otp := rfl
@[simp] theorem setTrig_sec (s : State) (k : Nat) (l : List (List Word)) : (setTrig s k l).sec = s.sec := rfl
@[simp] theorem setTrig_slu (s : State) (k : Nat) (l : List (List Word)) : (setTrig s k l).slu = s.slu := rfl
@[simp] theorem setTrig_pwr (s : State) (k : Nat) (l : List (List Word)) : (setTrig s k l).pwr = s.pwr := rfl
@[simp] theorem setTrig_fl (s : State) (k : Nat) (l : List (List Word)) : (setTrig s k l).fl = s.fl := rfl
@[simp] theorem setTrig_dram (s : State) (k : Nat) (l : List (List Word)) : (setTrig s k l).dram = s.dram := rfl
@[simp] theorem setTrig_sram (s : State) (k : Nat) (l : List (List Word)) : (setTrig s k l).sram = s.sram := rfl
@[simp] theorem setTrig_cal (s : State) (k : Nat) (l : List (List Word)) : (setTrig s k l).cal = s.cal := rfl
@[simp] theorem setTrig_boot (s : State) (k : Nat) (l : List (List Word)) : (setTrig s k l).boot = s.boot := rfl
@[simp] theorem setTrig_gpio (s : State) (k : Nat) (l : List (List Word)) : (setTrig s k l).gpio = s.gpio := rfl
@[simp] theorem setTrig_net (s : State) (k : Nat) (l : List (List Word)) : (setTrig s k l).net = s.net := rfl
@[simp] theorem setTrig_canvas (s : State) (k : Nat) (l : List (List Word)) : (setTrig s k l).canvas = s.canvas := rfl
@[simp] theorem setTrig_flume (s : State) (k : Nat) (l : List (List Word)) : (setTrig s k l).flume = s.flume := rfl
@[simp] theorem setTrig_link (s : State) (k : Nat) (l : List (List Word)) : (setTrig s k l).link = s.link := rfl
@[simp] theorem setTrig_img (s : State) (k : Nat) (l : List (List Word)) : (setTrig s k l).img = s.img := rfl
@[simp] theorem setTrig_bdg (s : State) (k : Nat) (l : List (List Word)) : (setTrig s k l).bdg = s.bdg := rfl
@[simp] theorem setTrig_lamp (s : State) (k : Nat) (l : List (List Word)) : (setTrig s k l).lamp = s.lamp := rfl
@[simp] theorem setTrig_weir (s : State) (k : Nat) (l : List (List Word)) : (setTrig s k l).weir = s.weir := rfl
@[simp] theorem setTrig_pair (s : State) (k : Nat) (l : List (List Word)) : (setTrig s k l).pair = s.pair := rfl
@[simp] theorem setTrig_changes (s : State) (k : Nat) (l : List (List Word)) : (setTrig s k l).changes = s.changes := rfl
@[simp] theorem setTrig_heavy (s : State) (k : Nat) (l : List (List Word)) : (setTrig s k l).heavy = s.heavy := rfl
@[simp] theorem setTrig_free (s : State) (k : Nat) (l : List (List Word)) : (setTrig s k l).free = s.free := rfl
@[simp] theorem setTrig_out (s : State) (k : Nat) (l : List (List Word)) : (setTrig s k l).out = s.out := rfl
@[simp] theorem setTrig_pending (s : State) (k : Nat) (l : List (List Word)) : (setTrig s k l).pending = s.pending := rfl

/-! `setPort` changes `link` alone. -/

@[simp] theorem setPort_id (s : State) (x : Port) : (setPort s x).id = s.id := rfl
@[simp] theorem setPort_par (s : State) (x : Port) : (setPort s x).par = s.par := rfl
@[simp] theorem setPort_smb (s : State) (x : Port) : (setPort s x).smb = s.smb := rfl
@[simp] theorem setPort_rcd (s : State) (x : Port) : (setPort s x).rcd = s.rcd := rfl
@[simp] theorem setPort_otp (s : State) (x : Port) : (setPort s x).otp = s.otp := rfl
@[simp] theorem setPort_sec (s : State) (x : Port) : (setPort s x).sec = s.sec := rfl
@[simp] theorem setPort_slu (s : State) (x : Port) : (setPort s x).slu = s.slu := rfl
@[simp] theorem setPort_pwr (s : State) (x : Port) : (setPort s x).pwr = s.pwr := rfl
@[simp] theorem setPort_fl (s : State) (x : Port) : (setPort s x).fl = s.fl := rfl
@[simp] theorem setPort_dram (s : State) (x : Port) : (setPort s x).dram = s.dram := rfl
@[simp] theorem setPort_sram (s : State) (x : Port) : (setPort s x).sram = s.sram := rfl
@[simp] theorem setPort_cal (s : State) (x : Port) : (setPort s x).cal = s.cal := rfl
@[simp] theorem setPort_boot (s : State) (x : Port) : (setPort s x).boot = s.boot := rfl
@[simp] theorem setPort_gpio (s : State) (x : Port) : (setPort s x).gpio = s.gpio := rfl
@[simp] theorem setPort_net (s : State) (x : Port) : (setPort s x).net = s.net := rfl
@[simp] theorem setPort_canvas (s : State) (x : Port) : (setPort s x).canvas = s.canvas := rfl
@[simp] theorem setPort_flume (s : State) (x : Port) : (setPort s x).flume = s.flume := rfl
@[simp] theorem setPort_img (s : State) (x : Port) : (setPort s x).img = s.img := rfl
@[simp] theorem setPort_bdg (s : State) (x : Port) : (setPort s x).bdg = s.bdg := rfl
@[simp] theorem setPort_lamp (s : State) (x : Port) : (setPort s x).lamp = s.lamp := rfl
@[simp] theorem setPort_weir (s : State) (x : Port) : (setPort s x).weir = s.weir := rfl
@[simp] theorem setPort_time (s : State) (x : Port) : (setPort s x).time = s.time := rfl
@[simp] theorem setPort_pair (s : State) (x : Port) : (setPort s x).pair = s.pair := rfl
@[simp] theorem setPort_changes (s : State) (x : Port) : (setPort s x).changes = s.changes := rfl
@[simp] theorem setPort_heavy (s : State) (x : Port) : (setPort s x).heavy = s.heavy := rfl
@[simp] theorem setPort_free (s : State) (x : Port) : (setPort s x).free = s.free := rfl
@[simp] theorem setPort_out (s : State) (x : Port) : (setPort s x).out = s.out := rfl
@[simp] theorem setPort_pending (s : State) (x : Port) : (setPort s x).pending = s.pending := rfl

/-! `setChan` changes `dram` alone. -/

@[simp] theorem setChan_id (s : State) (x : DramCh) : (setChan s x).id = s.id := rfl
@[simp] theorem setChan_par (s : State) (x : DramCh) : (setChan s x).par = s.par := rfl
@[simp] theorem setChan_smb (s : State) (x : DramCh) : (setChan s x).smb = s.smb := rfl
@[simp] theorem setChan_rcd (s : State) (x : DramCh) : (setChan s x).rcd = s.rcd := rfl
@[simp] theorem setChan_otp (s : State) (x : DramCh) : (setChan s x).otp = s.otp := rfl
@[simp] theorem setChan_sec (s : State) (x : DramCh) : (setChan s x).sec = s.sec := rfl
@[simp] theorem setChan_slu (s : State) (x : DramCh) : (setChan s x).slu = s.slu := rfl
@[simp] theorem setChan_pwr (s : State) (x : DramCh) : (setChan s x).pwr = s.pwr := rfl
@[simp] theorem setChan_fl (s : State) (x : DramCh) : (setChan s x).fl = s.fl := rfl
@[simp] theorem setChan_sram (s : State) (x : DramCh) : (setChan s x).sram = s.sram := rfl
@[simp] theorem setChan_cal (s : State) (x : DramCh) : (setChan s x).cal = s.cal := rfl
@[simp] theorem setChan_boot (s : State) (x : DramCh) : (setChan s x).boot = s.boot := rfl
@[simp] theorem setChan_gpio (s : State) (x : DramCh) : (setChan s x).gpio = s.gpio := rfl
@[simp] theorem setChan_net (s : State) (x : DramCh) : (setChan s x).net = s.net := rfl
@[simp] theorem setChan_canvas (s : State) (x : DramCh) : (setChan s x).canvas = s.canvas := rfl
@[simp] theorem setChan_flume (s : State) (x : DramCh) : (setChan s x).flume = s.flume := rfl
@[simp] theorem setChan_link (s : State) (x : DramCh) : (setChan s x).link = s.link := rfl
@[simp] theorem setChan_img (s : State) (x : DramCh) : (setChan s x).img = s.img := rfl
@[simp] theorem setChan_bdg (s : State) (x : DramCh) : (setChan s x).bdg = s.bdg := rfl
@[simp] theorem setChan_lamp (s : State) (x : DramCh) : (setChan s x).lamp = s.lamp := rfl
@[simp] theorem setChan_weir (s : State) (x : DramCh) : (setChan s x).weir = s.weir := rfl
@[simp] theorem setChan_time (s : State) (x : DramCh) : (setChan s x).time = s.time := rfl
@[simp] theorem setChan_pair (s : State) (x : DramCh) : (setChan s x).pair = s.pair := rfl
@[simp] theorem setChan_changes (s : State) (x : DramCh) : (setChan s x).changes = s.changes := rfl
@[simp] theorem setChan_heavy (s : State) (x : DramCh) : (setChan s x).heavy = s.heavy := rfl
@[simp] theorem setChan_free (s : State) (x : DramCh) : (setChan s x).free = s.free := rfl
@[simp] theorem setChan_out (s : State) (x : DramCh) : (setChan s x).out = s.out := rfl
@[simp] theorem setChan_pending (s : State) (x : DramCh) : (setChan s x).pending = s.pending := rfl

/-! `setBank` changes `sram` alone. -/

@[simp] theorem setBank_id (s : State) (k : Nat) (f : Bank → Bank) : (setBank s k f).id = s.id := rfl
@[simp] theorem setBank_par (s : State) (k : Nat) (f : Bank → Bank) : (setBank s k f).par = s.par := rfl
@[simp] theorem setBank_smb (s : State) (k : Nat) (f : Bank → Bank) : (setBank s k f).smb = s.smb := rfl
@[simp] theorem setBank_rcd (s : State) (k : Nat) (f : Bank → Bank) : (setBank s k f).rcd = s.rcd := rfl
@[simp] theorem setBank_otp (s : State) (k : Nat) (f : Bank → Bank) : (setBank s k f).otp = s.otp := rfl
@[simp] theorem setBank_sec (s : State) (k : Nat) (f : Bank → Bank) : (setBank s k f).sec = s.sec := rfl
@[simp] theorem setBank_slu (s : State) (k : Nat) (f : Bank → Bank) : (setBank s k f).slu = s.slu := rfl
@[simp] theorem setBank_pwr (s : State) (k : Nat) (f : Bank → Bank) : (setBank s k f).pwr = s.pwr := rfl
@[simp] theorem setBank_fl (s : State) (k : Nat) (f : Bank → Bank) : (setBank s k f).fl = s.fl := rfl
@[simp] theorem setBank_dram (s : State) (k : Nat) (f : Bank → Bank) : (setBank s k f).dram = s.dram := rfl
@[simp] theorem setBank_cal (s : State) (k : Nat) (f : Bank → Bank) : (setBank s k f).cal = s.cal := rfl
@[simp] theorem setBank_boot (s : State) (k : Nat) (f : Bank → Bank) : (setBank s k f).boot = s.boot := rfl
@[simp] theorem setBank_gpio (s : State) (k : Nat) (f : Bank → Bank) : (setBank s k f).gpio = s.gpio := rfl
@[simp] theorem setBank_net (s : State) (k : Nat) (f : Bank → Bank) : (setBank s k f).net = s.net := rfl
@[simp] theorem setBank_canvas (s : State) (k : Nat) (f : Bank → Bank) : (setBank s k f).canvas = s.canvas := rfl
@[simp] theorem setBank_flume (s : State) (k : Nat) (f : Bank → Bank) : (setBank s k f).flume = s.flume := rfl
@[simp] theorem setBank_link (s : State) (k : Nat) (f : Bank → Bank) : (setBank s k f).link = s.link := rfl
@[simp] theorem setBank_img (s : State) (k : Nat) (f : Bank → Bank) : (setBank s k f).img = s.img := rfl
@[simp] theorem setBank_bdg (s : State) (k : Nat) (f : Bank → Bank) : (setBank s k f).bdg = s.bdg := rfl
@[simp] theorem setBank_lamp (s : State) (k : Nat) (f : Bank → Bank) : (setBank s k f).lamp = s.lamp := rfl
@[simp] theorem setBank_weir (s : State) (k : Nat) (f : Bank → Bank) : (setBank s k f).weir = s.weir := rfl
@[simp] theorem setBank_time (s : State) (k : Nat) (f : Bank → Bank) : (setBank s k f).time = s.time := rfl
@[simp] theorem setBank_pair (s : State) (k : Nat) (f : Bank → Bank) : (setBank s k f).pair = s.pair := rfl
@[simp] theorem setBank_changes (s : State) (k : Nat) (f : Bank → Bank) : (setBank s k f).changes = s.changes := rfl
@[simp] theorem setBank_heavy (s : State) (k : Nat) (f : Bank → Bank) : (setBank s k f).heavy = s.heavy := rfl
@[simp] theorem setBank_free (s : State) (k : Nat) (f : Bank → Bank) : (setBank s k f).free = s.free := rfl
@[simp] theorem setBank_out (s : State) (k : Nat) (f : Bank → Bank) : (setBank s k f).out = s.out := rfl
@[simp] theorem setBank_pending (s : State) (k : Nat) (f : Bank → Bank) : (setBank s k f).pending = s.pending := rfl

/-! `setBoard` changes `cal` alone. -/

@[simp] theorem setBoard_id (s : State) (b : Nat) (f : Board → Board) : (setBoard s b f).id = s.id := rfl
@[simp] theorem setBoard_par (s : State) (b : Nat) (f : Board → Board) : (setBoard s b f).par = s.par := rfl
@[simp] theorem setBoard_smb (s : State) (b : Nat) (f : Board → Board) : (setBoard s b f).smb = s.smb := rfl
@[simp] theorem setBoard_rcd (s : State) (b : Nat) (f : Board → Board) : (setBoard s b f).rcd = s.rcd := rfl
@[simp] theorem setBoard_otp (s : State) (b : Nat) (f : Board → Board) : (setBoard s b f).otp = s.otp := rfl
@[simp] theorem setBoard_sec (s : State) (b : Nat) (f : Board → Board) : (setBoard s b f).sec = s.sec := rfl
@[simp] theorem setBoard_slu (s : State) (b : Nat) (f : Board → Board) : (setBoard s b f).slu = s.slu := rfl
@[simp] theorem setBoard_pwr (s : State) (b : Nat) (f : Board → Board) : (setBoard s b f).pwr = s.pwr := rfl
@[simp] theorem setBoard_fl (s : State) (b : Nat) (f : Board → Board) : (setBoard s b f).fl = s.fl := rfl
@[simp] theorem setBoard_dram (s : State) (b : Nat) (f : Board → Board) : (setBoard s b f).dram = s.dram := rfl
@[simp] theorem setBoard_sram (s : State) (b : Nat) (f : Board → Board) : (setBoard s b f).sram = s.sram := rfl
@[simp] theorem setBoard_boot (s : State) (b : Nat) (f : Board → Board) : (setBoard s b f).boot = s.boot := rfl
@[simp] theorem setBoard_gpio (s : State) (b : Nat) (f : Board → Board) : (setBoard s b f).gpio = s.gpio := rfl
@[simp] theorem setBoard_net (s : State) (b : Nat) (f : Board → Board) : (setBoard s b f).net = s.net := rfl
@[simp] theorem setBoard_canvas (s : State) (b : Nat) (f : Board → Board) : (setBoard s b f).canvas = s.canvas := rfl
@[simp] theorem setBoard_flume (s : State) (b : Nat) (f : Board → Board) : (setBoard s b f).flume = s.flume := rfl
@[simp] theorem setBoard_link (s : State) (b : Nat) (f : Board → Board) : (setBoard s b f).link = s.link := rfl
@[simp] theorem setBoard_img (s : State) (b : Nat) (f : Board → Board) : (setBoard s b f).img = s.img := rfl
@[simp] theorem setBoard_bdg (s : State) (b : Nat) (f : Board → Board) : (setBoard s b f).bdg = s.bdg := rfl
@[simp] theorem setBoard_lamp (s : State) (b : Nat) (f : Board → Board) : (setBoard s b f).lamp = s.lamp := rfl
@[simp] theorem setBoard_weir (s : State) (b : Nat) (f : Board → Board) : (setBoard s b f).weir = s.weir := rfl
@[simp] theorem setBoard_time (s : State) (b : Nat) (f : Board → Board) : (setBoard s b f).time = s.time := rfl
@[simp] theorem setBoard_pair (s : State) (b : Nat) (f : Board → Board) : (setBoard s b f).pair = s.pair := rfl
@[simp] theorem setBoard_changes (s : State) (b : Nat) (f : Board → Board) : (setBoard s b f).changes = s.changes := rfl
@[simp] theorem setBoard_heavy (s : State) (b : Nat) (f : Board → Board) : (setBoard s b f).heavy = s.heavy := rfl
@[simp] theorem setBoard_free (s : State) (b : Nat) (f : Board → Board) : (setBoard s b f).free = s.free := rfl
@[simp] theorem setBoard_out (s : State) (b : Nat) (f : Board → Board) : (setBoard s b f).out = s.out := rfl
@[simp] theorem setBoard_pending (s : State) (b : Nat) (f : Board → Board) : (setBoard s b f).pending = s.pending := rfl

/-! `setNetPort` changes `net` alone. -/

@[simp] theorem setNetPort_id (s : State) (p : Nat) (x : NetPort) : (setNetPort s p x).id = s.id := rfl
@[simp] theorem setNetPort_par (s : State) (p : Nat) (x : NetPort) : (setNetPort s p x).par = s.par := rfl
@[simp] theorem setNetPort_smb (s : State) (p : Nat) (x : NetPort) : (setNetPort s p x).smb = s.smb := rfl
@[simp] theorem setNetPort_rcd (s : State) (p : Nat) (x : NetPort) : (setNetPort s p x).rcd = s.rcd := rfl
@[simp] theorem setNetPort_otp (s : State) (p : Nat) (x : NetPort) : (setNetPort s p x).otp = s.otp := rfl
@[simp] theorem setNetPort_sec (s : State) (p : Nat) (x : NetPort) : (setNetPort s p x).sec = s.sec := rfl
@[simp] theorem setNetPort_slu (s : State) (p : Nat) (x : NetPort) : (setNetPort s p x).slu = s.slu := rfl
@[simp] theorem setNetPort_pwr (s : State) (p : Nat) (x : NetPort) : (setNetPort s p x).pwr = s.pwr := rfl
@[simp] theorem setNetPort_fl (s : State) (p : Nat) (x : NetPort) : (setNetPort s p x).fl = s.fl := rfl
@[simp] theorem setNetPort_dram (s : State) (p : Nat) (x : NetPort) : (setNetPort s p x).dram = s.dram := rfl
@[simp] theorem setNetPort_sram (s : State) (p : Nat) (x : NetPort) : (setNetPort s p x).sram = s.sram := rfl
@[simp] theorem setNetPort_cal (s : State) (p : Nat) (x : NetPort) : (setNetPort s p x).cal = s.cal := rfl
@[simp] theorem setNetPort_boot (s : State) (p : Nat) (x : NetPort) : (setNetPort s p x).boot = s.boot := rfl
@[simp] theorem setNetPort_gpio (s : State) (p : Nat) (x : NetPort) : (setNetPort s p x).gpio = s.gpio := rfl
@[simp] theorem setNetPort_canvas (s : State) (p : Nat) (x : NetPort) : (setNetPort s p x).canvas = s.canvas := rfl
@[simp] theorem setNetPort_flume (s : State) (p : Nat) (x : NetPort) : (setNetPort s p x).flume = s.flume := rfl
@[simp] theorem setNetPort_link (s : State) (p : Nat) (x : NetPort) : (setNetPort s p x).link = s.link := rfl
@[simp] theorem setNetPort_img (s : State) (p : Nat) (x : NetPort) : (setNetPort s p x).img = s.img := rfl
@[simp] theorem setNetPort_bdg (s : State) (p : Nat) (x : NetPort) : (setNetPort s p x).bdg = s.bdg := rfl
@[simp] theorem setNetPort_lamp (s : State) (p : Nat) (x : NetPort) : (setNetPort s p x).lamp = s.lamp := rfl
@[simp] theorem setNetPort_weir (s : State) (p : Nat) (x : NetPort) : (setNetPort s p x).weir = s.weir := rfl
@[simp] theorem setNetPort_time (s : State) (p : Nat) (x : NetPort) : (setNetPort s p x).time = s.time := rfl
@[simp] theorem setNetPort_pair (s : State) (p : Nat) (x : NetPort) : (setNetPort s p x).pair = s.pair := rfl
@[simp] theorem setNetPort_changes (s : State) (p : Nat) (x : NetPort) : (setNetPort s p x).changes = s.changes := rfl
@[simp] theorem setNetPort_heavy (s : State) (p : Nat) (x : NetPort) : (setNetPort s p x).heavy = s.heavy := rfl
@[simp] theorem setNetPort_free (s : State) (p : Nat) (x : NetPort) : (setNetPort s p x).free = s.free := rfl
@[simp] theorem setNetPort_out (s : State) (p : Nat) (x : NetPort) : (setNetPort s p x).out = s.out := rfl
@[simp] theorem setNetPort_pending (s : State) (p : Nat) (x : NetPort) : (setNetPort s p x).pending = s.pending := rfl

/-! `State.withPending` changes `pending` alone. -/

@[simp] theorem State.withPending_id (s : State) (q : List Instr) : (s.withPending q).id = s.id := rfl
@[simp] theorem State.withPending_par (s : State) (q : List Instr) : (s.withPending q).par = s.par := rfl
@[simp] theorem State.withPending_smb (s : State) (q : List Instr) : (s.withPending q).smb = s.smb := rfl
@[simp] theorem State.withPending_rcd (s : State) (q : List Instr) : (s.withPending q).rcd = s.rcd := rfl
@[simp] theorem State.withPending_otp (s : State) (q : List Instr) : (s.withPending q).otp = s.otp := rfl
@[simp] theorem State.withPending_sec (s : State) (q : List Instr) : (s.withPending q).sec = s.sec := rfl
@[simp] theorem State.withPending_slu (s : State) (q : List Instr) : (s.withPending q).slu = s.slu := rfl
@[simp] theorem State.withPending_pwr (s : State) (q : List Instr) : (s.withPending q).pwr = s.pwr := rfl
@[simp] theorem State.withPending_fl (s : State) (q : List Instr) : (s.withPending q).fl = s.fl := rfl
@[simp] theorem State.withPending_dram (s : State) (q : List Instr) : (s.withPending q).dram = s.dram := rfl
@[simp] theorem State.withPending_sram (s : State) (q : List Instr) : (s.withPending q).sram = s.sram := rfl
@[simp] theorem State.withPending_cal (s : State) (q : List Instr) : (s.withPending q).cal = s.cal := rfl
@[simp] theorem State.withPending_boot (s : State) (q : List Instr) : (s.withPending q).boot = s.boot := rfl
@[simp] theorem State.withPending_gpio (s : State) (q : List Instr) : (s.withPending q).gpio = s.gpio := rfl
@[simp] theorem State.withPending_net (s : State) (q : List Instr) : (s.withPending q).net = s.net := rfl
@[simp] theorem State.withPending_canvas (s : State) (q : List Instr) : (s.withPending q).canvas = s.canvas := rfl
@[simp] theorem State.withPending_flume (s : State) (q : List Instr) : (s.withPending q).flume = s.flume := rfl
@[simp] theorem State.withPending_link (s : State) (q : List Instr) : (s.withPending q).link = s.link := rfl
@[simp] theorem State.withPending_img (s : State) (q : List Instr) : (s.withPending q).img = s.img := rfl
@[simp] theorem State.withPending_bdg (s : State) (q : List Instr) : (s.withPending q).bdg = s.bdg := rfl
@[simp] theorem State.withPending_lamp (s : State) (q : List Instr) : (s.withPending q).lamp = s.lamp := rfl
@[simp] theorem State.withPending_weir (s : State) (q : List Instr) : (s.withPending q).weir = s.weir := rfl
@[simp] theorem State.withPending_time (s : State) (q : List Instr) : (s.withPending q).time = s.time := rfl
@[simp] theorem State.withPending_pair (s : State) (q : List Instr) : (s.withPending q).pair = s.pair := rfl
@[simp] theorem State.withPending_changes (s : State) (q : List Instr) : (s.withPending q).changes = s.changes := rfl
@[simp] theorem State.withPending_heavy (s : State) (q : List Instr) : (s.withPending q).heavy = s.heavy := rfl
@[simp] theorem State.withPending_free (s : State) (q : List Instr) : (s.withPending q).free = s.free := rfl
@[simp] theorem State.withPending_out (s : State) (q : List Instr) : (s.withPending q).out = s.out := rfl
@[simp] theorem State.withPending_pending (s : State) (q : List Instr) :
    (s.withPending q).pending = q := rfl

/-! `commitState` keeps what the meaning computed, but for the personality, the parameter file, the memories
and the queue. -/

@[simp] theorem commitState_smb (s t : State) : (commitState s t).smb = t.smb := rfl
@[simp] theorem commitState_rcd (s t : State) : (commitState s t).rcd = t.rcd := rfl
@[simp] theorem commitState_otp (s t : State) : (commitState s t).otp = t.otp := rfl
@[simp] theorem commitState_sec (s t : State) : (commitState s t).sec = t.sec := rfl
@[simp] theorem commitState_slu (s t : State) : (commitState s t).slu = t.slu := rfl
@[simp] theorem commitState_pwr (s t : State) : (commitState s t).pwr = t.pwr := rfl
@[simp] theorem commitState_fl (s t : State) : (commitState s t).fl = t.fl := rfl
@[simp] theorem commitState_cal (s t : State) : (commitState s t).cal = t.cal := rfl
@[simp] theorem commitState_boot (s t : State) : (commitState s t).boot = t.boot := rfl
@[simp] theorem commitState_gpio (s t : State) : (commitState s t).gpio = t.gpio := rfl
@[simp] theorem commitState_net (s t : State) : (commitState s t).net = t.net := rfl
@[simp] theorem commitState_canvas (s t : State) : (commitState s t).canvas = t.canvas := rfl
@[simp] theorem commitState_flume (s t : State) : (commitState s t).flume = t.flume := rfl
@[simp] theorem commitState_link (s t : State) : (commitState s t).link = t.link := rfl
@[simp] theorem commitState_img (s t : State) : (commitState s t).img = t.img := rfl
@[simp] theorem commitState_bdg (s t : State) : (commitState s t).bdg = t.bdg := rfl
@[simp] theorem commitState_lamp (s t : State) : (commitState s t).lamp = t.lamp := rfl
@[simp] theorem commitState_weir (s t : State) : (commitState s t).weir = t.weir := rfl
@[simp] theorem commitState_time (s t : State) : (commitState s t).time = t.time := rfl
@[simp] theorem commitState_pair (s t : State) : (commitState s t).pair = t.pair := rfl
@[simp] theorem commitState_changes (s t : State) : (commitState s t).changes = t.changes := rfl
@[simp] theorem commitState_heavy (s t : State) : (commitState s t).heavy = t.heavy := rfl
@[simp] theorem commitState_free (s t : State) : (commitState s t).free = t.free := rfl
@[simp] theorem commitState_out (s t : State) :
    (commitState s t).out = t.out ++ alignsSince t s.time.lt := rfl
@[simp] theorem commitState_pending (s t : State) : (commitState s t).pending = s.pending := rfl
@[simp] theorem commitState_sender (s t : State) : (commitState s t).id.sender = s.id.sender := rfl
@[simp] theorem commitState_side (s t : State) : (commitState s t).id.side = t.id.side := rfl
@[simp] theorem commitState_na (s t : State) : (commitState s t).id.na = t.id.na := rfl
@[simp] theorem commitState_mem (s t : State) :
    (commitState s t).dram.mem = canonMem t.dram.mem := rfl
@[simp] theorem commitState_sramMem (s t : State) :
    (commitState s t).sram.mem = canonMem t.sram.mem := rfl

end Sys2Proof.Machine
end

