-- ==== Sys2Proof/Laws/Ops.lean ====
section
/-! SUPPORT. What the shared operations do, said once: canonical forms and `commit`, the parameter file, the
DRAM bytes, sending, records, Sluice. -/

namespace Sys2Proof.Machine

/-! ### Keyed lists -/

theorem look_nil {β : Type} (k : Nat) : look k ([] : List (Nat × β)) = none := rfl

theorem look_cons {β : Type} (k a : Nat) (v : β) (l : List (Nat × β)) :
    look k ((a, v) :: l) = if a = k then some v else look k l := by
  unfold look
  by_cases h : a = k <;> simp [h]

theorem look_insertKey {β : Type} (k j : Nat) (v : β) (l : List (Nat × β)) :
    look j (insertKey k v l) = if k = j then some v else look j l := by
  induction l with
  | nil => simp [insertKey, look_cons, look_nil]
  | cons x r ih =>
    obtain ⟨a, w⟩ := x
    unfold insertKey
    by_cases h1 : k < a
    · simp [h1, look_cons]
    · by_cases h2 : k = a
      · subst h2
        by_cases h3 : k = j <;> simp [look_cons, h3]
      · by_cases h3 : a = j
        · subst h3
          simp [h1, h2, look_cons]
        · simp [h1, h2, h3, look_cons, ih]

theorem look_sorted {β : Type} (j : Nat) (l : List (Nat × β)) :
    look j (l.foldr (fun e acc => insertKey e.1 e.2 acc) []) = look j l := by
  induction l with
  | nil => rfl
  | cons x r ih => obtain ⟨a, w⟩ := x; simp [look_insertKey, look_cons, ih]

/-- Keys strictly rising. -/
def Rising {β : Type} (l : List (Nat × β)) : Prop := l.Pairwise (fun a b => a.1 < b.1)

theorem insertKey_mem {β : Type} (k : Nat) (v : β) (l : List (Nat × β)) (e : Nat × β)
    (h : e ∈ insertKey k v l) : e = (k, v) ∨ e ∈ l := by
  induction l with
  | nil => simpa [insertKey] using h
  | cons x r ih =>
    obtain ⟨a, w⟩ := x
    unfold insertKey at h
    split at h
    · simpa using h
    · split at h
      · rcases List.mem_cons.1 h with h | h
        · exact .inl h
        · exact .inr (List.mem_cons_of_mem _ h)
      · rcases List.mem_cons.1 h with h | h
        · exact .inr (h ▸ List.mem_cons_self)
        · rcases ih h with h | h
          · exact .inl h
          · exact .inr (List.mem_cons_of_mem _ h)

theorem insertKey_rising {β : Type} (k : Nat) (v : β) (l : List (Nat × β)) (h : Rising l) :
    Rising (insertKey k v l) := by
  induction l with
  | nil => simp [insertKey, Rising]
  | cons x r ih =>
    obtain ⟨a, w⟩ := x
    obtain ⟨hx, hr⟩ := List.pairwise_cons.1 h
    unfold insertKey
    split
    · rename_i hk
      refine List.pairwise_cons.2 ⟨fun e he => ?_, h⟩
      rcases List.mem_cons.1 he with rfl | he
      · exact hk
      · exact lt_trans hk (hx e he)
    · split
      · rename_i _ hk
        subst hk
        exact List.pairwise_cons.2 ⟨hx, hr⟩
      · refine List.pairwise_cons.2 ⟨fun e he => ?_, ih hr⟩
        rcases insertKey_mem _ _ _ _ he with rfl | he
        · simp only; omega
        · exact hx e he

theorem sorted_rising {β : Type} (l : List (Nat × β)) :
    Rising (l.foldr (fun e acc => insertKey e.1 e.2 acc) []) := by
  induction l with
  | nil => exact List.Pairwise.nil
  | cons x r ih => exact insertKey_rising _ _ _ ih

theorem rising_zip {β : Type} (l : List (Nat × β)) (h : Rising l) :
    (l.zip (l.drop 1)).all (fun e => decide (e.1.1 < e.2.1)) = true := by
  induction l with
  | nil => rfl
  | cons x r ih =>
    obtain ⟨hx, hr⟩ := List.pairwise_cons.1 h
    cases r with
    | nil => rfl
    | cons y r' =>
      have := ih hr
      simp only [List.drop_succ_cons, List.drop_zero, List.zip_cons_cons, List.all_cons,
        Bool.and_eq_true, decide_eq_true_eq] at this ⊢
      exact ⟨hx y List.mem_cons_self, this⟩

theorem look_rising_filter {β : Type} (j : Nat) (l : List (Nat × β)) (f : Nat × β → Option (Nat × β))
    (g : Nat → β → Option β) (hf : ∀ e, f e = (g e.1 e.2).map (fun w => (e.1, w))) (h : Rising l) :
    look j (l.filterMap f) = (look j l).bind (g j) := by
  induction l with
  | nil => rfl
  | cons x r ih =>
    obtain ⟨a, w⟩ := x
    obtain ⟨hx, hr⟩ := List.pairwise_cons.1 h
    have out (hj : a = j) : look j (r.filterMap f) = none := by
      rw [ih hr]
      have : look j r = none := by
        unfold look
        simp only [Option.map_eq_none_iff, List.find?_eq_none, decide_eq_true_eq]
        intro e he
        have := hx e he
        simp only at this
        omega
      simp [this]
    rw [List.filterMap_cons, hf, look_cons]
    cases hg : g a w with
    | none =>
      by_cases hj : a = j
      · simp only [Option.map_none]
        rw [out hj]
        subst hj
        simp [hg]
      · simp [hj, ih hr]
    | some v =>
      by_cases hj : a = j
      · subst hj
        simp [hg, look_cons]
      · simp [look_cons, hj, ih hr]

theorem filterMap_rising {β : Type} (l : List (Nat × β)) (f : Nat × β → Option (Nat × β))
    (hf : ∀ e e', f e = some e' → e'.1 = e.1) (h : Rising l) : Rising (l.filterMap f) := by
  unfold Rising
  rw [List.pairwise_filterMap]
  refine h.imp ?_
  intro a b hab x hx y hy
  rw [hf a x hx, hf b y hy]
  exact hab

/-! ### The parameter file (14) -/

theorem normWord_idem (snd : Bool) (i : Nat) (w v : Word) (h : normWord snd i w = some v) :
    normWord snd i v = some v := by
  unfold normWord at h ⊢
  cases hr : findRow snd i with
  | none => simp [hr] at h
  | some r =>
    simp only [hr] at h ⊢
    split at h
    · cases h
    · rename_i hne
      have hv : w &&& ~~~r.reserved = v := by simpa using h
      have : v &&& ~~~r.reserved = v := by rw [← hv, BitVec.and_assoc, BitVec.and_self]
      rw [this, if_neg]
      rw [← hv]; exact hne

theorem canonPar_rising (snd : Bool) (l : List (Nat × Word)) : Rising (canonPar snd l) := by
  refine filterMap_rising _ _ ?_ (sorted_rising l)
  intro e e' h
  obtain ⟨w, _, rfl⟩ := Option.map_eq_some_iff.1 h
  rfl

/-- The canonical form is canonical. -/
theorem canonPar_wf (snd : Bool) (l : List (Nat × Word)) : parWf snd (canonPar snd l) = true := by
  unfold parWf
  rw [Bool.and_eq_true]
  refine ⟨rising_zip _ (canonPar_rising snd l), ?_⟩
  rw [List.all_eq_true]
  intro e he
  obtain ⟨x, _, hx⟩ := List.mem_filterMap.1 he
  obtain ⟨w, hw, rfl⟩ := Option.map_eq_some_iff.1 hx
  simp [normWord_idem _ _ _ _ hw]

/-- What the canonical form lists for an index. -/
theorem look_canonPar (snd : Bool) (j : Nat) (l : List (Nat × Word)) :
    look j (canonPar snd l) = (look j l).bind (normWord snd j) := by
  unfold canonPar
  rw [look_rising_filter j _ _ (normWord snd) (fun e => rfl) (sorted_rising l), look_sorted]

/-- In a canonical file the word listed for an index is in normal form. -/
theorem look_wf (snd : Bool) (j : Nat) (l : List (Nat × Word)) (w : Word) (hl : parWf snd l = true)
    (h : look j l = some w) : normWord snd j w = some w := by
  unfold look at h
  obtain ⟨e, he, rfl⟩ := Option.map_eq_some_iff.1 h
  have hk : e.1 = j := by simpa using List.find?_some he
  have := (Bool.and_eq_true _ _ ▸ hl : _ ∧ _).2
  have := List.all_eq_true.1 this e (List.mem_of_find?_eq_some he)
  subst hk
  simpa using this

/-- A read after a write gives the word written. -/
theorem rd_wr (s : State) (i j : Nat) (w : Word) : rd (wr s i w) j = if i = j then w else rd s j := by
  unfold rd
  rw [wr_par, wr_id, look_cons]
  by_cases h : i = j <;> simp [h]

/-- A write through `setF` leaves every other index alone. -/
theorem rd_setF (s : State) (i j hi lo v : Nat) :
    rd (setF s i hi lo v) j = if i = j then setFld (rd s i) hi lo v else rd s j := rd_wr _ _ _ _

theorem rd_bumpN (s : State) (i j n : Nat) :
    rd (bumpN s i n) j = if i = j then satAdd (rd s i) n else rd s j := rd_wr _ _ _ _

theorem rd_bump (s : State) (i j : Nat) :
    rd (bump s i) j = if i = j then satAdd (rd s i) 1 else rd s j := rd_wr _ _ _ _

/-- The file that `pgenOf` leaves is canonical. -/
theorem pgenOf_wf (snd : Bool) (old p : List (Nat × Word)) (na na' : Option (BitVec 16))
    (h : parWf snd p = true) : parWf snd (pgenOf snd old p na na') = true := by
  unfold pgenOf
  split
  · exact h
  · exact canonPar_wf _ _

/-- `pgenOf` touches SYS.PGEN alone. -/
theorem look_pgenOf (snd : Bool) (j : Nat) (old p : List (Nat × Word)) (na na' : Option (BitVec 16))
    (h : parWf snd p = true) (hj : j ≠ sysPgen) : look j (pgenOf snd old p na na') = look j p := by
  unfold pgenOf
  split
  · rfl
  · rw [look_canonPar, look_cons, if_neg (Ne.symm hj)]
    cases hl : look j p with
    | none => rfl
    | some w => exact look_wf _ _ _ _ h hl

/-- What a parameter reads after a meaning: the word the meaning left, its reserved bits 0. -/
theorem rd_commit (s t : State) (j : Nat) (hj : j ≠ sysPgen) :
    rd (commitState s t) j
      = ((look j t.par).bind (normWord s.id.sender j)).getD (resetWord s.id.sender j) := by
  show (look j (pgenOf _ _ (canonPar s.id.sender t.par) _ _)).getD _ = _
  rw [look_pgenOf _ _ _ _ _ _ (canonPar_wf _ _) hj, look_canonPar]
  rfl

/-- A parameter that serves the role, written last by the meaning, reads the word written, its reserved bits
0. -/
theorem rd_commit_wr (s t : State) (i : Nat) (w : Word) (r : PRow) (hi : i ≠ sysPgen)
    (hr : findRow s.id.sender i = some r) : rd (commitState s (wr t i w)) i = w &&& ~~~r.reserved := by
  rw [rd_commit _ _ _ hi, wr_par, look_cons, if_pos rfl]
  simp only [Option.bind_some, normWord, hr]
  split
  · rename_i h
    simp [resetWord, hr, h]
  · rfl

/-- A parameter that the meaning did not write reads as before. -/
theorem rd_commit_same (s t : State) (j : Nat) (hj : j ≠ sysPgen) (hs : parWf s.id.sender s.par = true)
    (h : look j t.par = look j s.par) : rd (commitState s t) j = rd s j := by
  rw [rd_commit _ _ _ hj, h]
  unfold rd
  cases hl : look j s.par with
  | none => rfl
  | some w => simp [look_wf _ _ _ _ hs hl]

/-! ### DRAM bytes (15 R334) -/

theorem canonMem_wf (l : List Host.Cell) : Memory.wf (canonMem l) = true := by
  unfold Memory.wf canonMem
  rw [Bool.and_eq_true]
  refine ⟨rising_zip _ ((sorted_rising l).filter _), ?_⟩
  rw [List.all_eq_true]
  intro e he
  have := (List.mem_filter.1 he).2
  simpa using this

theorem memByte_canon (l : List Host.Cell) (a : Nat) : memByte (canonMem l) a = memByte l a := by
  unfold memByte canonMem
  have hf : List.filter (fun e : Host.Cell => decide (e.2 ≠ 0)) =
      List.filterMap (fun e => (if e.2 ≠ 0 then some e.2 else none).map (fun w => (e.1, w))) := by
    funext l
    rw [← List.filterMap_eq_filter]
    congr 1
    funext e
    by_cases h : e.2 = 0#8 <;> simp [Option.guard, h]
  rw [hf, look_rising_filter a _ _ (fun _ v => if v ≠ 0 then some v else none) (fun e => rfl)
    (sorted_rising l), look_sorted]
  cases look a l with
  | none => rfl
  | some v => by_cases h : v = 0#8 <;> simp [h]

/-- A byte stored reads back, and every other byte is left alone. -/
theorem memByte_store (l : List Host.Cell) (a x : Nat) (bs : List Byte) :
    memByte (memStore l a bs) x
      = if a ≤ x ∧ x < a + bs.length then bs.getD (x - a) 0 else memByte l x := by
  induction bs generalizing l a with
  | nil => rw [if_neg (by simp)]; rfl
  | cons b r ih =>
    rw [memStore, ih]
    have hc : memByte ((a, b) :: l) x = if a = x then b else memByte l x := by
      unfold memByte; rw [look_cons]; split <;> rfl
    by_cases h1 : a + 1 ≤ x ∧ x < a + 1 + r.length
    · rw [if_pos h1, if_pos (by simp; omega)]
      have : x - a = (x - (a + 1)) + 1 := by omega
      rw [this]; rfl
    · rw [if_neg h1, hc]
      by_cases h2 : a = x
      · subst h2
        rw [if_pos rfl, if_pos (by simp)]
        simp
      · rw [if_neg h2, if_neg (by simp; omega)]

/-! ### Commit -/

/-- A meaning outside the always-on domain, on a device that is not in reset. -/
theorem act_next (s : State) (f : State → State) (h : s.boot.held = false) :
    act s f = .next (commitState s (f s)) := by simp [act, commit, h]

/-- A meaning outside the always-on domain does nothing in reset. -/
theorem act_held (s : State) (f : State → State) (h : s.boot.held = true) : act s f = .next s := by
  simp [act, h]

/-- What a commit leaves is canonical. -/
theorem commit_inv (s t : State) : Safety.Inv (commitState s t) :=
  ⟨pgenOf_wf _ _ _ _ _ (canonPar_wf _ _), canonMem_wf _, canonMem_wf _⟩

/-- A meaning outside the always-on domain keeps the invariant. -/
theorem act_inv (s t : State) (f : State → State) (hs : Safety.Inv s) (h : act s f = .next t) :
    Safety.Inv t := by
  unfold act at h
  split at h
  · cases h; exact hs
  · cases h; exact commit_inv _ _

/-- A meaning outside the always-on domain keeps personality and queue. -/
theorem act_keeps (s t : State) (f : State → State) (h : act s f = .next t) :
    t.id.sender = s.id.sender ∧ t.pending = s.pending := by
  unfold act at h
  split at h
  · cases h; exact ⟨rfl, rfl⟩
  · cases h; exact ⟨rfl, rfl⟩

/-! ### Sending (06 R120, R130, R134) -/

/-- `t` is `s` but for CorsinLink, and at most one more thing was sent. -/
def Sent (s t : State) : Prop :=
  t = { s with link := t.link, out := t.out } ∧ ∃ l : List Out, l.length ≤ 1 ∧ t.out = s.out ++ l

theorem Sent.refl (s : State) : Sent s s := ⟨rfl, [], by simp, by simp⟩

theorem sent_emit (s : State) (x : Port) (o : Out) : Sent s (emit (setPort s x) o) :=
  ⟨rfl, [o], by simp, by simp⟩

theorem emitCtl_out (s : State) (x : Port) (c : BitVec 16) (i : CtlItem) : ∃ o : Out, emitCtl s x c i = emit s o := by
  unfold emitCtl
  split
  · exact ⟨_, rfl⟩
  · split <;> exact ⟨_, rfl⟩
  · exact ⟨_, rfl⟩

theorem sent_sendCtl (s : State) (x : Port) : Sent s (sendCtl s x) := by
  unfold sendCtl
  split
  · exact Sent.refl s
  · simp only
    obtain ⟨o, ho⟩ := emitCtl_out (setPort s { ctlSent x (portFree s x) (ctlLen _) with
      waiting := _, nextC := nextCseq x.nextC, unacked := _ }) x x.nextC _
    rw [ho]
    exact sent_emit _ _ _

theorem sent_sendQueued (s : State) (x : Port) : Sent s (sendQueued s x) := by
  unfold sendQueued
  split
  · exact Sent.refl s
  · exact sent_emit _ _ _

/-- At a packet boundary at most one packet leaves, and nothing but CorsinLink changes. -/
theorem sent_boundary (s : State) (p : Nat) : Sent s (boundary s p) := by
  unfold boundary
  split
  · exact Sent.refl s
  · simp only
    repeat' split
    all_goals first | exact sent_sendCtl _ _ | exact sent_sendQueued _ _ | exact Sent.refl s

theorem sent_linkItem (s : State) (p : Nat) (i : CtlItem) : Sent s (linkItem s p i) := by
  unfold linkItem
  split
  · exact Sent.refl s
  · obtain ⟨h, l, hl, ho⟩ := sent_boundary (setPort s _) p
    exact ⟨by rw [h]; rfl, l, hl, by rw [ho]; rfl⟩

/-- A control packet sent on a port waits there or leaves at once; nothing but CorsinLink changes. -/
theorem sent_linkSend (s : State) (p : Nat) (b : CtlBody) : Sent s (linkSend s p b) := by
  unfold linkSend linkSendFor
  split <;> exact sent_linkItem _ _ _

/-- A port that is not up and not bridged sends nothing. -/
theorem linkSend_down (s : State) (p : Nat) (b : CtlBody) (hg : s.link.guests.contains p = false)
    (h : upPort s p = none) : linkSend s p b = s := by
  simp only [linkSend, linkSendFor, hg, linkItem, h, Bool.false_eq_true, if_false]

/-- `t` is `s` but for CorsinLink and what was sent. -/
def LinkOnly (s t : State) : Prop := t = { s with link := t.link, out := t.out }

theorem LinkOnly.trans {s t u : State} (h : LinkOnly s t) (k : LinkOnly t u) : LinkOnly s u := by
  unfold LinkOnly at *
  rw [k, h]

theorem linkOnly_ctlAhead (n : Nat) (s : State) (p : Nat) : LinkOnly s (ctlAhead n s p) := by
  induction n generalizing s with
  | zero => rfl
  | succ n ih =>
    unfold ctlAhead
    split
    · rfl
    · split
      · rfl
      · exact LinkOnly.trans (sent_sendCtl s _).1 (ih _)

/-- A Flume packet handed to a port, and the control packets whose turn comes before it, change nothing but CorsinLink. -/
theorem linkOnly_flumeOut (s : State) (p : Nat) (k : LinkPkt) : LinkOnly s (flumeOut s p k) := by
  unfold flumeOut
  split
  · split
    · rfl
    · exact LinkOnly.trans (t := setPort s _) rfl (sent_boundary _ _).1
  · simp only
    split
    · rfl
    · exact LinkOnly.trans (linkOnly_ctlAhead 16 s p) rfl

/-! ### Time (11 R241) -/

theorem slewLimit_range (s : State) : 0 ≤ slewLimit s ∧ slewLimit s < 10 ^ 9 := by
  have h : getF s timServo 15 8 < 256 := by
    exact Nat.mod_lt _ (by decide)
  unfold slewLimit
  split
  · generalize getF s timServo 15 8 = n at h
    simp only [Int.ofNat_eq_natCast]
    omega
  · exact ⟨by decide, by decide⟩

theorem freqNow_range (s : State) : -slewLimit s ≤ freqNow s ∧ freqNow s ≤ slewLimit s := by
  have := slewLimit_range s
  unfold freqNow clampI
  split
  · omega
  · split <;> omega

/-- The least number of ticks `n` with `d ≤ n * r`. -/
theorem ceil_le (d r : Int) (hr : 0 < r) : d ≤ (((d + r - 1) / r).toNat : Int) * r := by
  have h1 : d ≤ ((d + r - 1) / r) * r := by
    have := Int.emod_lt_of_pos (d + r - 1) hr
    have := Int.mul_ediv_add_emod (d + r - 1) r
    nlinarith
  have h2 : (d + r - 1) / r ≤ (((d + r - 1) / r).toNat : Int) := Int.self_le_toNat _
  nlinarith

/-- As many ticks as `ticksFor` gives bring at least `k` steps of the device clock. -/
theorem ticksFor_acc (k : Nat) (s : State) : (k * 10 ^ 9 : Int) ≤ ticksAcc (ticksFor k s) s := by
  obtain ⟨l0, l1⟩ := slewLimit_range s
  obtain ⟨f0, f1⟩ := freqNow_range s
  have hstep : 0 ≤ slewStep s := by unfold slewStep; split <;> omega
  have hq : slewStep s / 4 = slewLimit s - (if 0 ≤ s.time.phase then freqNow s else -freqNow s) := by
    unfold slewStep; omega
  have h4 : 4 * (slewStep s / 4) = slewStep s := by rw [hq]; rfl
  have base (n : Nat) (h0 : slewed n s = 0)
      (h : (k * 10 ^ 9 : Int) - s.time.acc ≤ n * (10 ^ 9 + freqNow s)) :
      (k * 10 ^ 9 : Int) ≤ ticksAcc n s := by
    unfold ticksAcc
    rw [h0, show fdiv 0 4 = 0 from rfl]
    linarith
  unfold ticksFor
  simp only
  split
  · rename_i h
    refine base _ ?_ (ceil_le _ _ (by omega))
    unfold slewed
    rcases h with h | h <;> rw [h] <;> simp
    · split <;> omega
    · positivity
  · rename_i h
    obtain ⟨hs, hp⟩ := not_or.1 h
    have hs' : 0 < slewStep s := by omega
    generalize hm : ((((s.time.phase.natAbs : Int) + slewStep s - 1) / slewStep s).toNat) = m
    have hmle : (s.time.phase.natAbs : Int) ≤ m * slewStep s := hm ▸ ceil_le _ _ hs'
    -- the phase is used up after `m` ticks
    have done (n : Nat) (hn : m ≤ n) : slewed n s = s.time.phase := by
      have : (m : Int) * slewStep s ≤ n * slewStep s := by
        have : (m : Int) ≤ n := by exact_mod_cast hn
        nlinarith
      unfold slewed
      split <;> omega
    generalize hr : (10 ^ 9 + freqNow s : Int)
      + (if 0 ≤ s.time.phase then slewStep s / 4 else -(slewStep s / 4)) = r
    generalize hn : ((((k : Int) * 10 ^ 9 - s.time.acc + r - 1) / r).toNat) = n
    split
    · rename_i ha
      have hrpos : 0 < r := by rw [← hr, hq]; split <;> omega
      have hle := hn ▸ ceil_le ((k : Int) * 10 ^ 9 - s.time.acc) r hrpos
      -- while it lasts, each tick takes a whole step of it
      have hlt : (n : Int) * slewStep s ≤ s.time.phase.natAbs := by
        have h1 := Int.mul_ediv_add_emod ((s.time.phase.natAbs : Int) + slewStep s - 1) (slewStep s)
        have h2 := Int.emod_nonneg ((s.time.phase.natAbs : Int) + slewStep s - 1) (ne_of_gt hs')
        have h3 : 0 ≤ ((s.time.phase.natAbs : Int) + slewStep s - 1) / slewStep s :=
          Int.ediv_nonneg (by omega) (by omega)
        have h4 : (m : Int) = ((s.time.phase.natAbs : Int) + slewStep s - 1) / slewStep s := by
          rw [← hm]; exact Int.toNat_of_nonneg h3
        rw [← h4] at h1
        have h5 : (n : Int) + 1 ≤ m := by exact_mod_cast ha
        nlinarith
      have hsl : fdiv (slewed n s) 4
          = n * (if 0 ≤ s.time.phase then slewStep s / 4 else -(slewStep s / 4)) := by
        have hd (q : Int) : fdiv (4 * q) 4 = q := by
          show (4 * q).fdiv 4 = q
          rw [Int.fdiv_eq_ediv_of_nonneg _ (by decide)]
          omega
        unfold slewed
        split
        · rw [min_eq_right (by omega), ← hd (n * (slewStep s / 4))]
          congr 1
          rw [mul_left_comm, h4]
        · rw [max_eq_right (by omega), ← hd (n * -(slewStep s / 4))]
          congr 1
          rw [mul_left_comm, mul_neg, mul_neg, h4]
      unfold ticksAcc
      rw [hsl]
      rw [← hr] at hle
      linarith
    · clear hn
      generalize hn : ((((k : Int) * 10 ^ 9 - s.time.acc - fdiv s.time.phase 4 + (10 ^ 9 + freqNow s) - 1)
          / (10 ^ 9 + freqNow s)).toNat) = n
      have hle := hn ▸ ceil_le ((k : Int) * 10 ^ 9 - s.time.acc - fdiv s.time.phase 4) (10 ^ 9 + freqNow s) (by omega)
      unfold ticksAcc
      rw [done _ (le_max_left _ _)]
      have : (n : Int) ≤ (max m n : Nat) := by exact_mod_cast le_max_right m n
      have hpos : (0 : Int) < 10 ^ 9 + freqNow s := by omega
      nlinarith

/-- The device clock has reached `c` after `toClk c`. -/
theorem toClk_reached (c : Nat) (s : State) : c ≤ (toClk c s).time.clk := by
  unfold toClk
  split
  · assumption
  · have h := ticksFor_acc (cdiv (c - s.time.clk) 4) s
    have hk : cdiv (c - s.time.clk) 4 ≤ (ticksAcc (ticksFor (cdiv (c - s.time.clk) 4) s) s / 10 ^ 9).toNat := by
      rw [Int.le_toNat (by omega)]
      omega
    have : c - s.time.clk ≤ 4 * cdiv (c - s.time.clk) 4 := by unfold cdiv; omega
    simp only [ticks]
    omega

/-! ### Records (20 R428) -/

/-- A record goes to the front of the ring, which keeps 1,024, and RSEQ rises by one. -/
theorem putRec_ring (s : State) (r : Rec) :
    (putRec s r).rcd.ring = (r :: s.rcd.ring).take 1024 := by
  unfold putRec
  simp only
  split <;> simp

theorem putRec_rseq (s : State) (r : Rec) : rd (putRec s r) evrRseq = rd s evrRseq + 1 := by
  have h1 : evrLost ≠ evrRseq := by decide
  unfold putRec
  simp only
  split <;> simp [rd_bump, rd_wr, h1]

/-! ### Sluice (17 R376) -/

/-- A request granted next waits, and fits. -/
theorem nextGrant_fits (s : State) (c : Credit) (h : nextGrant s = some c) :
    c ∈ s.slu.waiting ∧ fits s c.chip c.lamp = true := by
  have pick (k : Nat) (x : Credit)
      (hx : ((s.slu.waiting.filter (fun c => !throttled s c.op c.cls)).filter
        (fun c => c.cls == k)).head? = some x) : x ∈ s.slu.waiting :=
    List.mem_of_mem_filter (List.mem_of_mem_filter (List.mem_of_head? hx))
  unfold nextGrant at h
  simp only at h
  split at h <;> first
    | (rename_i h1; split at h
       · cases h; exact ⟨pick 1 _ h1, ‹_›⟩
       · cases h)
    | (rename_i h1 h2; split at h
       · cases h; exact ⟨pick 2 _ h2, ‹_›⟩
       · cases h)
    | (rename_i h1 h2 h3; split at h
       · cases h; exact ⟨pick 3 _ h3, ‹_›⟩
       · cases h)
    | cases h

end Sys2Proof.Machine
end

