-- ==== Sys2Proof/Laws/Smiben.lean ====
section
/-! SUPPORT. What a Smiben command that passes its checks does, said once (02 R40, R46). -/

namespace Sys2Proof.Machine

open Sys2Proof.Safety

/-- A command that passes its checks is carried out by its rule. -/
theorem accepted_runs {op : Nat} {h : Handler} {p : Smb} {s a : State} {c : CmdRef}
    (H : Accepted op p s a c) : smibenRow op h p s = .next (commitState s (finish c p (h c p a) a)) := by
  unfold smibenRow
  rw [act_next _ _ H.awake, hostCommand, H.passes]

/-- A refusal: the reply alone. -/
theorem finish_no {c : CmdRef} {p : Smb} {r : Res} {a : State} (hr : isRefusal r.st = true) :
    finish c p r a = reply r.s c p.via r.st r.words := by simp [finish, hr]

/-- An acceptance whose reply fits: the reply, then what follows it. -/
theorem finish_yes {op : Nat} {c : CmdRef} {p : Smb} {s a : State} {r : Res} (H : Accepted op p s a c)
    (hr : isRefusal r.st = false) (hw : Room a p r.words) (hd : r.defer = false) :
    finish c p r a = r.post (reply r.s c p.via r.st r.words) := by
  have : ¬ replyRoom a p.via < 4 * r.words.length := Nat.not_lt.2 hw
  simp [finish, hr, this, H.queue, hd]

/-- An acceptance whose reply waits: the SEQ stays in the queue of its session. -/
theorem finish_later {op : Nat} {c : CmdRef} {p : Smb} {s a : State} {r : Res} (H : Accepted op p s a c)
    (hr : isRefusal r.st = false) (hw : r.words = []) (hd : r.defer = true) :
    finish c p r a = enqueue r.s c := by
  simp [finish, hr, hw, H.queue, hd]

/-- A reply without words fits every transport. -/
theorem room_nil (a : State) (p : Smb) : Room a p [] := Nat.zero_le _

/-- A command whose rule answers, carried out. -/
theorem answers {op : Nat} {h : Handler} {p : Smb} {s a : State} {c : CmdRef} (H : Accepted op p s a c)
    (hr : isRefusal (h c p a).st = false) (hw : Room a p (h c p a).words) (hd : (h c p a).defer = false) :
    smibenRow op h p s = .next (commitState s
      ((h c p a).post (reply (h c p a).s c p.via (h c p a).st (h c p a).words))) := by
  rw [accepted_runs H, finish_yes H hr hw hd]

/-- A command whose rule refuses. -/
theorem refuses {op : Nat} {h : Handler} {p : Smb} {s a : State} {c : CmdRef} (H : Accepted op p s a c)
    (hr : isRefusal (h c p a).st = true) :
    smibenRow op h p s = .next (commitState s (reply (h c p a).s c p.via (h c p a).st (h c p a).words)) := by
  rw [accepted_runs H, finish_no hr]

end Sys2Proof.Machine
end

