-- ==== Sys2Proof/Laws/Frame.lean ====
section
/-! SUPPORT. What sending and recording leave alone: a packet, a message or an event changes Smiben, CorsinLink
and the record of what was sent; an event record changes the parameter file and the recorder besides. -/

namespace Sys2Proof.Machine

/-- `t` is `s` but for Smiben, CorsinLink, what was sent, the parameter file and the recorder. -/
def Told (s t : State) : Prop :=
  t = { s with smb := t.smb, link := t.link, out := t.out, par := t.par, rcd := t.rcd }

theorem Told.refl (s : State) : Told s s := rfl

theorem Told.trans {a b c : State} (h : Told a b) (k : Told b c) : Told a c := by
  unfold Told at *
  rw [k]
  conv_lhs => rw [h]

theorem Told.time {s t : State} (h : Told s t) : t.time = s.time := by rw [h]
theorem Told.id {s t : State} (h : Told s t) : t.id = s.id := by rw [h]
theorem Told.pair {s t : State} (h : Told s t) : t.pair = s.pair := by rw [h]
theorem Told.boot {s t : State} (h : Told s t) : t.boot = s.boot := by rw [h]
theorem Told.sec {s t : State} (h : Told s t) : t.sec = s.sec := by rw [h]
theorem Told.otp {s t : State} (h : Told s t) : t.otp = s.otp := by rw [h]
theorem Told.dram {s t : State} (h : Told s t) : t.dram = s.dram := by rw [h]
theorem Told.lamp {s t : State} (h : Told s t) : t.lamp = s.lamp := by rw [h]
theorem Told.img {s t : State} (h : Told s t) : t.img = s.img := by rw [h]
theorem Told.slu {s t : State} (h : Told s t) : t.slu = s.slu := by rw [h]
theorem Told.fl {s t : State} (h : Told s t) : t.fl = s.fl := by rw [h]
theorem Told.free {s t : State} (h : Told s t) : t.free = s.free := by rw [h]
theorem Told.changes {s t : State} (h : Told s t) : t.changes = s.changes := by rw [h]

theorem told_foldl {α : Type} (f : State → α → State) (h : ∀ s x, Told s (f s x)) (l : List α) (s : State) :
    Told s (l.foldl f s) := by
  induction l generalizing s with
  | nil => exact Told.refl s
  | cons x r ih => exact (h s x).trans (ih (f s x))

theorem told_wr (s : State) (i : Nat) (w : Word) : Told s (wr s i w) := rfl
theorem told_bump (s : State) (i : Nat) : Told s (bump s i) := rfl
theorem told_smb (s : State) (m : Smiben) : Told s { s with smb := m } := rfl
theorem told_emit (s : State) (o : Out) : Told s (emit s o) := rfl
theorem told_updSess (s : State) (r : SRef) (f : Session → Session) : Told s (updSess s r f) := rfl

theorem told_linkSend (s : State) (p : Nat) (b : CtlBody) : Told s (linkSend s p b) := by
  have h := (sent_linkSend s p b).1
  unfold Told
  generalize linkSend s p b = t at h ⊢
  rw [h]

theorem told_linkCast (s : State) (l : List Nat) (b : CtlBody) : Told s (linkCast s l b) :=
  told_foldl _ (fun s p => told_linkSend s p b) l s

theorem told_ship (s : State) (p : Packet) : Told s (ship s p) := by
  unfold ship
  split
  · simp only
    split <;> rfl
  · exact told_linkSend _ _ _
  · split
    · exact Told.refl s
    · split
      · exact Told.refl s
      · exact told_emit _ _

theorem told_closeSess (s : State) (r : SRef) : Told s (closeSess s r) := by
  unfold closeSess
  split
  · exact Told.refl s
  · simp only
    split
    · exact (told_smb s _).trans (told_linkCast _ _ _)
    · exact told_smb s _

theorem told_sendIn (s : State) (r : SRef) (kind level opcode : Nat) (echo issue : Word) (status : Nat)
    (trunc : Bool) (payload : List Word) (via : Option Via) :
    Told s (sendIn s r kind level opcode echo issue status trunc payload via).1 := by
  unfold sendIn
  split
  · exact Told.refl s
  · split
    · exact Told.refl s
    · simp only
      have h := fun f p => (told_updSess s r f).trans (told_ship (updSess s r f) p)
      split
      · exact (h _ _).trans (told_closeSess _ _)
      · exact h _ _

theorem told_reply (s : State) (c : CmdRef) (via : Via) (st : Nat) (words : List Word) :
    Told s (reply s c via st words) := by
  unfold reply
  split
  · exact Told.refl s
  · exact (told_sendIn _ _ _ _ _ _ _ _ _ _ _).trans (told_updSess _ _ _)

theorem told_record (s : State) (trig : Nat) (snap : List Word) : Told s (record s trig snap) := by
  unfold record putRec
  simp only
  split <;> rfl

theorem told_recordX (s : State) (k : Nat) (snap : List Word) : Told s (recordX s k snap) := told_record _ _ _

theorem told_notifyAt (s : State) (c : CmdRef) (st clk : Nat) (words : List Word) :
    Told s (notifyAt s c st clk words) := by
  unfold notifyAt
  split
  · split
    · exact told_recordX _ _ _
    · exact Told.refl s
  · split
    · exact Told.refl s
    · simp only
      split
      · exact told_sendIn _ _ _ _ _ _ _ _ _ _ _
      · exact (told_sendIn _ _ _ _ _ _ _ _ _ _ _).trans (told_updSess _ _ _)

theorem told_notify (s : State) (c : CmdRef) (st : Nat) (words : List Word) : Told s (notify s c st words) :=
  told_notifyAt _ _ _ _ _

theorem told_notifyO (s : State) (c : Option CmdRef) (st : Nat) (words : List Word) :
    Told s (notifyO s c st words) := by
  unfold notifyO
  split
  · exact Told.refl s
  · exact told_notify _ _ _ _

theorem told_eventTo (s : State) (r : SRef) (op : Nat) (echo : Word) (l : List Word) :
    Told s (eventTo s r op echo l) := by
  unfold eventTo
  split
  · exact Told.refl s
  · exact told_sendIn _ _ _ _ _ _ _ _ _ _ _

theorem told_event (s : State) (a : Aud) (trig : Nat) (words : List Word) : Told s (event s a trig words) :=
  told_foldl _ (fun s r => told_eventTo s r _ _ _) _ s

theorem told_recEvent (s : State) (a : Aud) (trig : Nat) (w : List Word) : Told s (recEvent s a trig w) :=
  (told_record _ _ _).trans (told_event _ _ _ _)

theorem told_recEventX (s : State) (a : Aud) (k : Nat) (w : List Word) : Told s (recEventX s a k w) :=
  told_recEvent _ _ _ _

end Sys2Proof.Machine
end

