-- ==== Sys2Proof/Laws/Exec.lean ====
section
/-! SUPPORT. The shape of every meaning: but for the always-on domain and DRAM transactions, a command acts through
`act`, so it does nothing in reset and leaves the queue and the personality alone. -/

namespace Sys2Proof.Machine

open Sys2Proof.Safety

/-- Every command acts through `act`, is one of the always-on domain, or is a DRAM transaction. -/
theorem exec_shape (i : Instr) (s : State) :
    (∃ f, exec i s = act s f) ∨ alwaysOn i = true ∨ ∃ p a w n, i = .dramRequest p a w n := by
  cases i
  case sessionOpen => exact Or.inl ⟨_, by unfold exec execSessionOpen; rfl⟩
  case sessionClose => exact Or.inl ⟨_, by unfold exec execSessionClose; rfl⟩
  case sessionIdleClose => exact Or.inl ⟨_, by unfold exec execSessionIdleClose; rfl⟩
  case sessionAnnounce => exact Or.inl ⟨_, by unfold exec execSessionAnnounce; rfl⟩
  case ping => exact Or.inl ⟨_, by unfold exec execPing; rfl⟩
  case claim => exact Or.inl ⟨_, by unfold exec execClaim; rfl⟩
  case release => exact Or.inl ⟨_, by unfold exec execRelease; rfl⟩
  case noticeFetch => exact Or.inl ⟨_, by unfold exec execNoticeFetch; rfl⟩
  case reset => exact Or.inl ⟨_, by unfold exec execReset; rfl⟩
  case enrol => exact Or.inl ⟨_, by unfold exec execEnrol; rfl⟩
  case unenrol => exact Or.inl ⟨_, by unfold exec execUnenrol; rfl⟩
  case linkRetrain => exact Or.inl ⟨_, by unfold exec execLinkRetrain; rfl⟩
  case paramRead => exact Or.inl ⟨_, by unfold exec execParamRead; rfl⟩
  case paramWrite => exact Or.inl ⟨_, by unfold exec execParamWrite; rfl⟩
  case paramSave => exact Or.inl ⟨_, by unfold exec execParamSave; rfl⟩
  case tilGeomWrite => exact Or.inl ⟨_, by unfold exec execTilGeomWrite; rfl⟩
  case w1cWrite => exact Or.inl ⟨_, by unfold exec execW1cWrite; rfl⟩
  case streamDefine => exact Or.inl ⟨_, by unfold exec execStreamDefine; rfl⟩
  case streamRemove => exact Or.inl ⟨_, by unfold exec execStreamRemove; rfl⟩
  case streamRead => exact Or.inl ⟨_, by unfold exec execStreamRead; rfl⟩
  case portMode => exact Or.inl ⟨_, by unfold exec execPortMode; rfl⟩
  case portRetrainComplete => exact Or.inl ⟨_, by unfold exec execPortRetrainComplete; rfl⟩
  case layerSet => exact Or.inl ⟨_, by unfold exec execLayerSet; rfl⟩
  case commitAt => exact Or.inl ⟨_, by unfold exec execCommitAt; rfl⟩
  case holdDiscard => exact Or.inl ⟨_, by unfold exec execHoldDiscard; rfl⟩
  case tileRect => exact Or.inl ⟨_, by unfold exec execTileRect; rfl⟩
  case rectRead => exact Or.inl ⟨_, by unfold exec execRectRead; rfl⟩
  case regionDefine => exact Or.inl ⟨_, by unfold exec execRegionDefine; rfl⟩
  case regionRead => exact Or.inl ⟨_, by unfold exec execRegionRead; rfl⟩
  case owlWatch => exact Or.inl ⟨_, by unfold exec execOwlWatch; rfl⟩
  case owlRead => exact Or.inl ⟨_, by unfold exec execOwlRead; rfl⟩
  case proofRead => exact Or.inl ⟨_, by unfold exec execProofRead; rfl⟩
  case fieldDefine => exact Or.inl ⟨_, by unfold exec execFieldDefine; rfl⟩
  case fieldRemove => exact Or.inl ⟨_, by unfold exec execFieldRemove; rfl⟩
  case fieldRead => exact Or.inl ⟨_, by unfold exec execFieldRead; rfl⟩
  case badgerValues => exact Or.inl ⟨_, by unfold exec execBadgerValues; rfl⟩
  case glyphWrite => exact Or.inl ⟨_, by unfold exec execGlyphWrite; rfl⟩
  case glyphErase => exact Or.inl ⟨_, by unfold exec execGlyphErase; rfl⟩
  case lampDrive => exact Or.inl ⟨_, by unfold exec execLampDrive; rfl⟩
  case engineSet => exact Or.inl ⟨_, by unfold exec execEngineSet; rfl⟩
  case testPattern => exact Or.inl ⟨_, by unfold exec execTestPattern; rfl⟩
  case lampPolicy => exact Or.inl ⟨_, by unfold exec execLampPolicy; rfl⟩
  case lampClear => exact Or.inl ⟨_, by unfold exec execLampClear; rfl⟩
  case lampFails => exact Or.inl ⟨_, by unfold exec execLampFails; rfl⟩
  case lsbI2c => exact Or.inl ⟨_, by unfold exec execLsbI2c; rfl⟩
  case lsbFlash => exact Or.inl ⟨_, by unfold exec execLsbFlash; rfl⟩
  case glyphRomRead => exact Or.inl ⟨_, by unfold exec execGlyphRomRead; rfl⟩
  case timeRead => exact Or.inl ⟨_, by unfold exec execTimeRead; rfl⟩
  case trigOutSet => exact Or.inl ⟨_, by unfold exec execTrigOutSet; rfl⟩
  case trigInRead => exact Or.inl ⟨_, by unfold exec execTrigInRead; rfl⟩
  case cycleSet => exact Or.inl ⟨_, by unfold exec execCycleSet; rfl⟩
  case cmpFree => exact Or.inl ⟨_, by unfold exec execCmpFree; rfl⟩
  case pairHandover => exact Or.inl ⟨_, by unfold exec execPairHandover; rfl⟩
  case pairStatus => exact Or.inl ⟨_, by unfold exec execPairStatus; rfl⟩
  case pairClear => exact Or.inl ⟨_, by unfold exec execPairClear; rfl⟩
  case sluiceRead => exact Or.inl ⟨_, by unfold exec execSluiceRead; rfl⟩
  case thermalRead => exact Or.inl ⟨_, by unfold exec execThermalRead; rfl⟩
  case railRead => exact Or.inl ⟨_, by unfold exec execRailRead; rfl⟩
  case calRun => exact Or.inl ⟨_, by unfold exec execCalRun; rfl⟩
  case calRead => exact Or.inl ⟨_, by unfold exec execCalRead; rfl⟩
  case matrixWrite => exact Or.inl ⟨_, by unfold exec execMatrixWrite; rfl⟩
  case matrixSave => exact Or.inl ⟨_, by unfold exec execMatrixSave; rfl⟩
  case ttabLoad => exact Or.inl ⟨_, by unfold exec execTtabLoad; rfl⟩
  case fwBegin => exact Or.inl ⟨_, by unfold exec execFwBegin; rfl⟩
  case fwBlock => exact Or.inl ⟨_, by unfold exec execFwBlock; rfl⟩
  case fwVerify => exact Or.inl ⟨_, by unfold exec execFwVerify; rfl⟩
  case fwStatus => exact Or.inl ⟨_, by unfold exec execFwStatus; rfl⟩
  case fwActivate => exact Or.inl ⟨_, by unfold exec execFwActivate; rfl⟩
  case fwConfirm => exact Or.inl ⟨_, by unfold exec execFwConfirm; rfl⟩
  case fwAbort => exact Or.inl ⟨_, by unfold exec execFwAbort; rfl⟩
  case recRead => exact Or.inl ⟨_, by unfold exec execRecRead; rfl⟩
  case recClear => exact Or.inl ⟨_, by unfold exec execRecClear; rfl⟩
  case recSnapAt => exact Or.inl ⟨_, by unfold exec execRecSnapAt; rfl⟩
  case devInfo => exact Or.inl ⟨_, by unfold exec execDevInfo; rfl⟩
  case attest => exact Or.inl ⟨_, by unfold exec execAttest; rfl⟩
  case keyProvision => exact Or.inl ⟨_, by unfold exec execKeyProvision; rfl⟩
  case lifecycleSet => exact Or.inl ⟨_, by unfold exec execLifecycleSet; rfl⟩
  case recoveryEnter => exact Or.inl ⟨_, by unfold exec execRecoveryEnter; rfl⟩
  case recoveryWrite => exact Or.inl ⟨_, by unfold exec execRecoveryWrite; rfl⟩
  case recoveryBoot => exact Or.inl ⟨_, by unfold exec execRecoveryBoot; rfl⟩
  case unknownOpcode => exact Or.inl ⟨_, by unfold exec execUnknownOpcode; rfl⟩
  case summaryGatherTimeout => exact Or.inl ⟨_, by unfold exec execSummaryGatherTimeout; rfl⟩
  case mgmtWritePacket => exact Or.inl ⟨_, by unfold exec execMgmtWritePacket; rfl⟩
  case mgmtReadPacket => exact Or.inl ⟨_, by unfold exec execMgmtReadPacket; rfl⟩
  case mgmtReadStatus => exact Or.inl ⟨_, by unfold exec execMgmtReadStatus; rfl⟩
  case gpioModeSet => exact Or.inl ⟨_, by unfold exec execGpioModeSet; rfl⟩
  case gpioRead => exact Or.inl ⟨_, by unfold exec execGpioRead; rfl⟩
  case netFrameDrop => exact Or.inl ⟨_, by unfold exec execNetFrameDrop; rfl⟩
  case arpNdReceived => exact Or.inl ⟨_, by unfold exec execArpNdReceived; rfl⟩
  case dadTimer => exact Or.inl ⟨_, by unfold exec execDadTimer; rfl⟩
  case igmpMldQuery => exact Or.inl ⟨_, by unfold exec execIgmpMldQuery; rfl⟩
  case membershipReportTimer => exact Or.inl ⟨_, by unfold exec execMembershipReportTimer; rfl⟩
  case icmpEchoRequest => exact Or.inl ⟨_, by unfold exec execIcmpEchoRequest; rfl⟩
  case pauseFrame => exact Or.inl ⟨_, by unfold exec execPauseFrame; rfl⟩
  case rtpPacketReceived => exact Or.inl ⟨_, by unfold exec execRtpPacketReceived; rfl⟩
  case ssrcLockRelease => exact Or.inl ⟨_, by unfold exec execSsrcLockRelease; rfl⟩
  case pathDown => exact Or.inl ⟨_, by unfold exec execPathDown; rfl⟩
  case mergeWindowClose => exact Or.inl ⟨_, by unfold exec execMergeWindowClose; rfl⟩
  case ptpSync => exact Or.inl ⟨_, by unfold exec execPtpSync; rfl⟩
  case ptpFollowUp => exact Or.inl ⟨_, by unfold exec execPtpFollowUp; rfl⟩
  case ptpDelayResp => exact Or.inl ⟨_, by unfold exec execPtpDelayResp; rfl⟩
  case ptpAnnounce => exact Or.inl ⟨_, by unfold exec execPtpAnnounce; rfl⟩
  case delayReqTimer => exact Or.inl ⟨_, by unfold exec execDelayReqTimer; rfl⟩
  case tsqEntryExpire => exact Or.inl ⟨_, by unfold exec execTsqEntryExpire; rfl⟩
  case announceTimeout => exact Or.inl ⟨_, by unfold exec execAnnounceTimeout; rfl⟩
  case quarantineEnd => exact Or.inl ⟨_, by unfold exec execQuarantineEnd; rfl⟩
  case herrLimit => exact Or.inl ⟨_, by unfold exec execHerrLimit; rfl⟩
  case markSendTimer => exact Or.inl ⟨_, by unfold exec execMarkSendTimer; rfl⟩
  case secondsReceived => exact Or.inl ⟨_, by unfold exec execSecondsReceived; rfl⟩
  case markReceived => exact Or.inl ⟨_, by unfold exec execMarkReceived; rfl⟩
  case markSourceLoss => exact Or.inl ⟨_, by unfold exec execMarkSourceLoss; rfl⟩
  case validHoldExpire => exact Or.inl ⟨_, by unfold exec execValidHoldExpire; rfl⟩
  case trigInEdge => exact Or.inl ⟨_, by unfold exec execTrigInEdge; rfl⟩
  case comparatorFire => exact Or.inl ⟨_, by unfold exec execComparatorFire; rfl⟩
  case canvasLatch => exact Or.inl ⟨_, by unfold exec execCanvasLatch; rfl⟩
  case canvasFrameStart => exact Or.inl ⟨_, by unfold exec execCanvasFrameStart; rfl⟩
  case canvasFrameComplete => exact Or.inl ⟨_, by unfold exec execCanvasFrameComplete; rfl⟩
  case deliveryStart => exact Or.inl ⟨_, by unfold exec execDeliveryStart; rfl⟩
  case flumeEmit => exact Or.inl ⟨_, by unfold exec execFlumeEmit; rfl⟩
  case nackReceived => exact Or.inl ⟨_, by unfold exec execNackReceived; rfl⟩
  case reportReceived => exact Or.inl ⟨_, by unfold exec execReportReceived; rfl⟩
  case repairTimeout => exact Or.inl ⟨_, by unfold exec execRepairTimeout; rfl⟩
  case deliveryEdgeReached => exact Or.inl ⟨_, by unfold exec execDeliveryEdgeReached; rfl⟩
  case certInstant => exact Or.inl ⟨_, by unfold exec execCertInstant; rfl⟩
  case resyncReqReceived => exact Or.inl ⟨_, by unfold exec execResyncReqReceived; rfl⟩
  case proofReceived => exact Or.inl ⟨_, by unfold exec execProofReceived; rfl⟩
  case proofSilenceTimeout => exact Or.inl ⟨_, by unfold exec execProofSilenceTimeout; rfl⟩
  case latencyReportReceived => exact Or.inl ⟨_, by unfold exec execLatencyReportReceived; rfl⟩
  case flumePacketForward => exact Or.inl ⟨_, by unfold exec execFlumePacketForward; rfl⟩
  case upstreamFlumeForward => exact Or.inl ⟨_, by unfold exec execUpstreamFlumeForward; rfl⟩
  case regionPacketReceived => exact Or.inl ⟨_, by unfold exec execRegionPacketReceived; rfl⟩
  case commitReceived => exact Or.inl ⟨_, by unfold exec execCommitReceived; rfl⟩
  case certificateReceived => exact Or.inl ⟨_, by unfold exec execCertificateReceived; rfl⟩
  case deliveryIdleFail => exact Or.inl ⟨_, by unfold exec execDeliveryIdleFail; rfl⟩
  case frameEdge => exact Or.inl ⟨_, by unfold exec execFrameEdge; rfl⟩
  case correctionPassEnd => exact Or.inl ⟨_, by unfold exec execCorrectionPassEnd; rfl⟩
  case matrixRowReload => exact Or.inl ⟨_, by unfold exec execMatrixRowReload; rfl⟩
  case refreshStart => exact Or.inl ⟨_, by unfold exec execRefreshStart; rfl⟩
  case keepalivePulse => exact Or.inl ⟨_, by unfold exec execKeepalivePulse; rfl⟩
  case groupRowWrite => exact Or.inl ⟨_, by unfold exec execGroupRowWrite; rfl⟩
  case showCutoff => exact Or.inl ⟨_, by unfold exec execShowCutoff; rfl⟩
  case showInstant => exact Or.inl ⟨_, by unfold exec execShowInstant; rfl⟩
  case statusReadoutDone => exact Or.inl ⟨_, by unfold exec execStatusReadoutDone; rfl⟩
  case proofAgeExpire => exact Or.inl ⟨_, by unfold exec execProofAgeExpire; rfl⟩
  case sensorPoll => exact Or.inl ⟨_, by unfold exec execSensorPoll; rfl⟩
  case sensorValidityExpire => exact Or.inl ⟨_, by unfold exec execSensorValidityExpire; rfl⟩
  case qspiFlashDone => exact Or.inl ⟨_, by unfold exec execQspiFlashDone; rfl⟩
  case qspiBusyTimeout => exact Or.inl ⟨_, by unfold exec execQspiBusyTimeout; rfl⟩
  case signalDetect => exact Or.inl ⟨_, by unfold exec execSignalDetect; rfl⟩
  case trainingWordExchange => exact Or.inl ⟨_, by unfold exec execTrainingWordExchange; rfl⟩
  case trainingStepTimeout => exact Or.inl ⟨_, by unfold exec execTrainingStepTimeout; rfl⟩
  case rateSwitch => exact Or.inl ⟨_, by unfold exec execRateSwitch; rfl⟩
  case trainingRetryTimer => exact Or.inl ⟨_, by unfold exec execTrainingRetryTimer; rfl⟩
  case eyeScanTimer => exact Or.inl ⟨_, by unfold exec execEyeScanTimer; rfl⟩
  case linkDown => exact Or.inl ⟨_, by unfold exec execLinkDown; rfl⟩
  case controlPacketReceived => exact Or.inl ⟨_, by unfold exec execControlPacketReceived; rfl⟩
  case ackReceived => exact Or.inl ⟨_, by unfold exec execAckReceived; rfl⟩
  case arqRetransmitTimeout => exact Or.inl ⟨_, by unfold exec execArqRetransmitTimeout; rfl⟩
  case loopReqReceived => exact Or.inl ⟨_, by unfold exec execLoopReqReceived; rfl⟩
  case loopRspReceived => exact Or.inl ⟨_, by unfold exec execLoopRspReceived; rfl⟩
  case brSignalSample => exact Or.inl ⟨_, by unfold exec execBrSignalSample; rfl⟩
  case crossDownReceived => exact Or.inl ⟨_, by unfold exec execCrossDownReceived; rfl⟩
  case crossUpReceived => exact Or.inl ⟨_, by unfold exec execCrossUpReceived; rfl⟩
  case crossAnswerReceived => exact Or.inl ⟨_, by unfold exec execCrossAnswerReceived; rfl⟩
  case guestPacketReceived => exact Or.inl ⟨_, by unfold exec execGuestPacketReceived; rfl⟩
  case revertStableElapsed => exact Or.inl ⟨_, by unfold exec execRevertStableElapsed; rfl⟩
  case uncrossReceived => exact Or.inl ⟨_, by unfold exec execUncrossReceived; rfl⟩
  case railYieldReceived => exact Or.inl ⟨_, by unfold exec execRailYieldReceived; rfl⟩
  case regionSetReceived => exact Or.inl ⟨_, by unfold exec execRegionSetReceived; rfl⟩
  case regionDeadline => exact Or.inl ⟨_, by unfold exec execRegionDeadline; rfl⟩
  case fieldDeadline => exact Or.inl ⟨_, by unfold exec execFieldDeadline; rfl⟩
  case owlCheck => exact Or.inl ⟨_, by unfold exec execOwlCheck; rfl⟩
  case owlFreeze => exact Or.inl ⟨_, by unfold exec execOwlFreeze; rfl⟩
  case helloSend => exact Or.inl ⟨_, by unfold exec execHelloSend; rfl⟩
  case helloReceived => exact Or.inl ⟨_, by unfold exec execHelloReceived; rfl⟩
  case leaseRenewal => exact Or.inl ⟨_, by unfold exec execLeaseRenewal; rfl⟩
  case heartbeatSend => exact Or.inl ⟨_, by unfold exec execHeartbeatSend; rfl⟩
  case heartbeatReceived => exact Or.inl ⟨_, by unfold exec execHeartbeatReceived; rfl⟩
  case heartbeatLoss => exact Or.inl ⟨_, by unfold exec execHeartbeatLoss; rfl⟩
  case stepHoldEnd => exact Or.inl ⟨_, by unfold exec execStepHoldEnd; rfl⟩
  case leaseExpiry => exact Or.inl ⟨_, by unfold exec execLeaseExpiry; rfl⟩
  case fatalCheckFail => exact Or.inl ⟨_, by unfold exec execFatalCheckFail; rfl⟩
  case ownNChange => exact Or.inl ⟨_, by unfold exec execOwnNChange; rfl⟩
  case padActivity => exact Or.inl ⟨_, by unfold exec execPadActivity; rfl⟩
  case guardEnd => exact Or.inl ⟨_, by unfold exec execGuardEnd; rfl⟩
  case claimArbitration => exact Or.inl ⟨_, by unfold exec execClaimArbitration; rfl⟩
  case acceptReceived => exact Or.inl ⟨_, by unfold exec execAcceptReceived; rfl⟩
  case agreeTimeout => exact Or.inl ⟨_, by unfold exec execAgreeTimeout; rfl⟩
  case edgeSetReceived => exact Or.inl ⟨_, by unfold exec execEdgeSetReceived; rfl⟩
  case coefReceived => exact Or.inl ⟨_, by unfold exec execCoefReceived; rfl⟩
  case cmpReceived => exact Or.inl ⟨_, by unfold exec execCmpReceived; rfl⟩
  case cmpPartnerTimeout => exact Or.inl ⟨_, by unfold exec execCmpPartnerTimeout; rfl⟩
  case verdictReceived => exact Or.inl ⟨_, by unfold exec execVerdictReceived; rfl⟩
  case verdictTimeout => exact Or.inl ⟨_, by unfold exec execVerdictTimeout; rfl⟩
  case handoverReqReceived => exact Or.inl ⟨_, by unfold exec execHandoverReqReceived; rfl⟩
  case handoverAckReceived => exact Or.inl ⟨_, by unfold exec execHandoverAckReceived; rfl⟩
  case handoverAckTimeout => exact Or.inl ⟨_, by unfold exec execHandoverAckTimeout; rfl⟩
  case handoverBoundary => exact Or.inl ⟨_, by unfold exec execHandoverBoundary; rfl⟩
  case handoverClaimBack => exact Or.inl ⟨_, by unfold exec execHandoverClaimBack; rfl⟩
  case stateReceived => exact Or.inl ⟨_, by unfold exec execStateReceived; rfl⟩
  case delivReceived => exact Or.inl ⟨_, by unfold exec execDelivReceived; rfl⟩
  case delivTimeout => exact Or.inl ⟨_, by unfold exec execDelivTimeout; rfl⟩
  case canvasMsgReceived => exact Or.inl ⟨_, by unfold exec execCanvasMsgReceived; rfl⟩
  case canvsigReceived => exact Or.inl ⟨_, by unfold exec execCanvsigReceived; rfl⟩
  case lampstateReceived => exact Or.inl ⟨_, by unfold exec execLampstateReceived; rfl⟩
  case sluiceGrant => exact Or.inl ⟨_, by unfold exec execSluiceGrant; rfl⟩
  case sluiceWaitTimeout => exact Or.inl ⟨_, by unfold exec execSluiceWaitTimeout; rfl⟩
  case slgRaise => exact Or.inl ⟨_, by unfold exec execSlgRaise; rfl⟩
  case thermalConversion => exact Or.inr (Or.inl rfl)
  case throttleStepLeave => exact Or.inl ⟨_, by unfold exec execThrottleStepLeave; rfl⟩
  case thermalRestart => exact Or.inr (Or.inl rfl)
  case powerOnResetRelease => exact Or.inr (Or.inl rfl)
  case boardLoadDone => exact Or.inl ⟨_, by unfold exec execBoardLoadDone; rfl⟩
  case railThresholdCross => exact Or.inr (Or.inl rfl)
  case pfailAssert => exact Or.inr (Or.inl rfl)
  case nvStopLift => exact Or.inr (Or.inl rfl)
  case violNominalLatch => exact Or.inr (Or.inl rfl)
  case xinLoss => exact Or.inl ⟨_, by unfold exec execXinLoss; rfl⟩
  case pllLossOfLock => exact Or.inl ⟨_, by unfold exec execPllLossOfLock; rfl⟩
  case freqCheckWindow => exact Or.inl ⟨_, by unfold exec execFreqCheckWindow; rfl⟩
  case dramTrainingStepTimeout => exact Or.inl ⟨_, by unfold exec execDramTrainingStepTimeout; rfl⟩
  case dramTrainingDone => exact Or.inl ⟨_, by unfold exec execDramTrainingDone; rfl⟩
  case dramChannelRetry => exact Or.inl ⟨_, by unfold exec execDramChannelRetry; rfl⟩
  case dqsOscRead => exact Or.inl ⟨_, by unfold exec execDqsOscRead; rfl⟩
  case mr4Read => exact Or.inl ⟨_, by unfold exec execMr4Read; rfl⟩
  case dramRefresh => exact Or.inl ⟨_, by unfold exec execDramRefresh; rfl⟩
  case dramRequest => exact Or.inr (Or.inr ⟨_, _, _, _, rfl⟩)
  case dramReadReturn => exact Or.inl ⟨_, by unfold exec execDramReadReturn; rfl⟩
  case selfRefreshEntry => exact Or.inl ⟨_, by unfold exec execSelfRefreshEntry; rfl⟩
  case scrubStep => exact Or.inl ⟨_, by unfold exec execScrubStep; rfl⟩
  case commandPathError => exact Or.inl ⟨_, by unfold exec execCommandPathError; rfl⟩
  case freezeRecovery => exact Or.inl ⟨_, by unfold exec execFreezeRecovery; rfl⟩
  case marchGranuleLock => exact Or.inl ⟨_, by unfold exec execMarchGranuleLock; rfl⟩
  case marchPeriod => exact Or.inl ⟨_, by unfold exec execMarchPeriod; rfl⟩
  case flashOperationDone => exact Or.inl ⟨_, by unfold exec execFlashOperationDone; rfl⟩
  case downloadIdleTimeout => exact Or.inl ⟨_, by unfold exec execDownloadIdleTimeout; rfl⟩
  case trialDeadline => exact Or.inl ⟨_, by unfold exec execTrialDeadline; rfl⟩
  case migrationFallback => exact Or.inl ⟨_, by unfold exec execMigrationFallback; rfl⟩
  case bootLoopClear => exact Or.inl ⟨_, by unfold exec execBootLoopClear; rfl⟩
  case archiveCopy => exact Or.inl ⟨_, by unfold exec execArchiveCopy; rfl⟩
  case checkpointTimer => exact Or.inl ⟨_, by unfold exec execCheckpointTimer; rfl⟩
  case tamperAssert => exact Or.inl ⟨_, by unfold exec execTamperAssert; rfl⟩
  case tamperRelease => exact Or.inl ⟨_, by unfold exec execTamperRelease; rfl⟩
  case tamperKeyReload => exact Or.inl ⟨_, by unfold exec execTamperKeyReload; rfl⟩
  case netLinkChange => exact Or.inl ⟨_, by unfold exec execNetLinkChange; rfl⟩
  case powerLoss => exact Or.inr (Or.inl rfl)
  case railRecovery => exact Or.inr (Or.inl rfl)
  case syncHeaderError => exact Or.inl ⟨_, by unfold exec execSyncHeaderError; rfl⟩
  case resolutionChecksDone => exact Or.inl ⟨_, by unfold exec execResolutionChecksDone; rfl⟩
  case lampEraseSuspendTimeout => exact Or.inl ⟨_, by unfold exec execLampEraseSuspendTimeout; rfl⟩
  case marchBankDone => exact Or.inl ⟨_, by unfold exec execMarchBankDone; rfl⟩
  case healthCheckTimeout => exact Or.inl ⟨_, by unfold exec execHealthCheckTimeout; rfl⟩
  case pipelineKatTimer => exact Or.inl ⟨_, by unfold exec execPipelineKatTimer; rfl⟩
  case otpProgramDone => exact Or.inl ⟨_, by unfold exec execOtpProgramDone; rfl⟩
  case entropyHealthChange => exact Or.inl ⟨_, by unfold exec execEntropyHealthChange; rfl⟩
  case secureWipeEnd => exact Or.inl ⟨_, by unfold exec execSecureWipeEnd; rfl⟩

end Sys2Proof.Machine
end

