-- ==== Sys2Proof/Tests/Slice0.lean ====
section
/-! SUPPORT. Tests of the model: the checks of WellFormed, worked examples of the manual, and for every statement
with hypotheses a witness that meets them. -/

namespace Sys2Proof.Tests

open Sys2Proof Sys2Proof.Machine Sys2Proof.Safety

set_option maxRecDepth 100000
set_option Elab.async false

/-! ### A command in a session -/

/-- A packet over MGMT in session 8, first of its session, under class `k`. -/
def cmd (k op : Nat) (l : List Word) : Smb :=
  { via := .mgmt, hdr := mkHeader 3 1 k op 1 8 false (4 * l.length) 0 1 0 0 0 0 0, payload := l
    tag := tagOf 0 (mkHeader 3 1 k op 1 8 false (4 * l.length) 0 1 0 0 0 0 0) l, size := 48 + 4 * l.length }

/-- A packet the device has sent. -/
def note : Packet := { via := .mgmt, hdr := 0, payload := [], tag := 0 }

/-- Session 8 under class `k`, with the key 0, before its first command; the notification of
SEQ 5 is kept. -/
def sess8 (k : Nat) : Session :=
  { ref := ⟨8, none⟩, keyc := k, key := some 0, level := 3, lastAt := 0, hi := 0, win := 1, dseq := 1
    recent := [], queued := [], notes := [(5, note)], passed := [], src := .mgmt, serial := 0 }

/-- A state out of reset with session 8 open under class `k`. -/
def on (k : Nat) (s : State) : State :=
  { s with boot := { s.boot with held := false }, smb := { s.smb with sess := [sess8 k] } }

/-- The same with the packet `p` in the MGMT command buffer. -/
def with_ (k : Nat) (p : Smb) (s : State) : State :=
  { on k s with smb := { (on k s).smb with cmdBuf := some p } }

/-- A tile and a sender as reset leaves them, out of reset. -/
def tile : State := { State.reset with boot := { State.reset.boot with held := false } }
def snd : State :=
  { tile with id := { tile.id with sender := true }, link := { tile.link with ports := portsAtReset true }
              sram := sramAtReset true, time := timeAtReset true }

/-- What is left once the buffer is free, and once the steps have passed. -/
def freed (k : Nat) (p : Smb) (s : State) : State := freeBuf (with_ k p s) p
def aft (k op : Nat) (l : List Word) (s : State) : State :=
  countNotime (passFive (freed k (cmd k op l) s) (cmd k op l) (sess8 k)) (cmd k op l)

theorem checks_pass {op : Nat} {p : Smb} {s : State} {o : OpSpec} (ho : opSpec op = some o) (h1 : issueOk s p = true)
    (h2 : inRecovery (countNotime s p) = false) (h3 : (if (countNotime s p).id.sender then o.snd else o.tile) = true)
    (h4 : o.keys.contains (hKeyc p.hdr) = true) (h5 : keyOk op p = true)
    (h6 : ownerOk (countNotime s p) (domOf o (hKeyc p.hdr)) (cmdRef s op p).sess = true) (h7 : hDmode p.hdr = 0) :
    checks69 op p s = .accept (cmdRef s op p) (countNotime s p) := by
  simp only [checks69, h1, ho, h2, h3, h4, h5, h6, h7]; simp

theorem tagOk_cmd (k op : Nat) (l : List Word) : tagOk (sess8 k).key (cmd k op l) = true := by
  simp [tagOk, sess8, cmd]

theorem reaches_cmd (k op : Nat) (l : List Word) (s : State) :
    reaches op (with_ k (cmd k op l) s) (cmd k op l) = true := by simp [reaches, with_, cmd]

theorem match_pass {b : State} {p : Smb} {x : Session} (hf : findSess b (sessRef p) = some x)
    (hk : x.keyc = hKeyc p.hdr) : matchSess b p = some x := by
  unfold matchSess; rw [hf]; simp [hk]

theorem steps_pass {op : Nat} {p : Smb} {s b : State} {x : Session} (hv : p.via = .mgmt)
    (hb : freeBuf s p = b) (h1 : reaches op s p = true) (h2 : shapeOk p = true) (h3 : levelOk b p = true)
    (h4 : hSess p.hdr = 8) (h5 : hDmode p.hdr = 0) (h6 : matchSess b p = some x) (h7 : tagOk x.key p = true)
    (h8 : inWindow x (hSeq p.hdr) = true) :
    checkSteps op p s = checks69 op p (passFive b p x) := by
  have hh : handTwin op s p = s := by simp [handTwin, hv]
  have hp : policed b p 0 = some b := by simp [policed, hv]
  simp only [checkSteps, hh, hb, h1, h2, h3, h4, h5, h6, h7, h8, hp]; simp

theorem match_cmd {k op : Nat} {l : List Word} {s : State} (h8 : sessRef (cmd k op l) = ⟨8, none⟩)
    (h6 : hKeyc (cmd k op l).hdr = k) : matchSess (freed k (cmd k op l) s) (cmd k op l) = some (sess8 k) := by
  have hf : findSess (freed k (cmd k op l) s) (sessRef (cmd k op l)) = some (sess8 k) := by
    rw [h8]; simp [findSess, freed, freeBuf, with_, on, cmd, sess8]
  exact match_pass hf (by rw [h6]; rfl)

/-- The steps of 02 R40 other than the tag. -/
def pre (op k : Nat) (p : Smb) (s : State) : Bool :=
  let b := passFive (freed k p s) p (sess8 k)
  let a := countNotime b p
  shapeOk p && levelOk (freed k p s) p && hSess p.hdr == 8 && hDmode p.hdr == 0
    && hKeyc p.hdr == k && inWindow (sess8 k) (hSeq p.hdr) && sessRef p == ⟨8, none⟩
    && issueOk b p && !inRecovery a && !queueFull a (cmdRef b op p)
    && match opSpec op with
      | none => false
      | some o => (if a.id.sender then o.snd else o.tile) && (o.keys.contains k && keyOk op p)
          && ownerOk a (domOf o k) (cmdRef b op p).sess

/-- The reference of the command in its session. -/
def refOf (k op : Nat) (l : List Word) (s : State) : CmdRef :=
  cmdRef (passFive (freed k (cmd k op l) s) (cmd k op l) (sess8 k)) op (cmd k op l)

theorem acc {k op : Nat} {l : List Word} {s : State} (h : pre op k (cmd k op l) s = true) :
    Accepted op (cmd k op l) (with_ k (cmd k op l) s) (aft k op l s) (refOf k op l s) := by
  simp only [pre, Bool.and_eq_true, Bool.not_eq_true', beq_iff_eq] at h
  obtain ⟨⟨⟨⟨⟨⟨⟨⟨⟨⟨h2, h3⟩, h4⟩, h5⟩, h6⟩, h7⟩, h8⟩, h9⟩, h10⟩, h11⟩, h12⟩ := h
  refine ⟨rfl, ?_, h11⟩
  rw [steps_pass (b := freed k (cmd k op l) s) (x := sess8 k) rfl rfl (reaches_cmd k op l s) h2 h3 h4 h5
    (match_cmd h8 h6) (tagOk_cmd k op l) h7]
  cases ho : opSpec op with
  | none => rw [ho] at h12; exact absurd h12 (by simp)
  | some o =>
    simp only [ho, Bool.and_eq_true] at h12
    obtain ⟨⟨ha, hb, hc⟩, hd⟩ := h12
    exact checks_pass ho h9 h10 ha (by rw [h6]; exact hb) hc (by rw [h6]; exact hd) h5


/-! ### Witnesses: what meets the hypotheses of the statements -/

/-- A command that is accepted in session 8, and what else its statement asks of the state it acts on. -/
def ok (k op : Nat) (l : List Word) (s : State) (q : State → Bool) : Bool := pre op k (cmd k op l) s && q (aft k op l s)

theorem ok_accepted {k op : Nat} {l : List Word} {s : State} {q : State → Bool} (h : ok k op l s q = true) :
    Accepted op (cmd k op l) (with_ k (cmd k op l) s) (aft k op l s) (refOf k op l s) ∧ q (aft k op l s) = true := by
  rw [ok, Bool.and_eq_true] at h
  exact ⟨acc h.1, h.2⟩

/-- The room for reply words over MGMT. -/
def fits (a : State) (ws : List Word) : Bool := decide (4 * ws.length ≤ replyRoom a .mgmt)

/-- Another session. -/
def other : SRef := ⟨3, none⟩

theorem wit_OwnershipCommands :
    (ok 1 0x0003 [1, 2] tile (fun a => fits a (wt80 a.time.valid (now a) ++ [1, 2]))
    && ok 1 0x0003 (List.replicate 16 0) tile (fun a => fits a (wt80 a.time.valid (now a) ++ List.replicate 16 0))
    && ok 1 0x0003 (List.replicate 17 0) tile (fun _ => true)
    && ok 3 0x0004 [3, 1] tile (fun _ => fld 3 1 0 == 3) && ok 1 0x0004 [0, 0] tile (fun _ => true)
    && ok 1 0x0004 [0, 1] tile (fun a => (ownerOf a 0).isNone)
    && ok 2 0x0004 [1, 1] tile (fun a => (ownerOf a 1).isNone)
    && ok 3 0x0004 [2, 0xFFFFFFFF] snd (fun a => (ownerOf a 2).isNone)
    && ok 1 0x0004 [0, 1] (setOwner tile 0 (some ⟨⟨8, none⟩, 5⟩)) (fun a => ownerOf a 0 == some ⟨⟨8, none⟩, 5⟩)
    && ok 1 0x0004 [0, 6] (setOwner tile 0 (some ⟨other, 5⟩)) (fun a => ownerOf a 0 == some ⟨other, 5⟩)
    && ok 1 0x0004 [0, 5] (setOwner tile 0 (some ⟨other, 5⟩)) (fun a => ownerOf a 0 == some ⟨other, 5⟩)
    && ok 1 0x0005 [3] tile (fun _ => fld 3 1 0 == 3)
    && ok 1 0x0005 [0] tile (fun a => (ownerOf a 0).isNone)
    && ok 1 0x0005 [0] (setOwner tile 0 (some ⟨⟨8, none⟩, 5⟩)) (fun a => ownerOf a 0 == some ⟨⟨8, none⟩, 5⟩)
    && ok 1 0x0005 [0] (setOwner tile 0 (some ⟨other, 5⟩)) (fun a => ownerOf a 0 == some ⟨other, 5⟩)) = true := by
  decide +kernel

/-- A SESSION_OPEN over `v` under the key 0 of class `k`, with the payload `l`. -/
def openOf (v : Via) (k : Nat) (l : List Word) : Smb :=
  { via := v, hdr := mkHeader 3 1 k 1 1 15 false (4 * l.length) 0 1 0 0 0 0 0, payload := l
    tag := tagOf 0 (mkHeader 3 1 k 1 1 15 false (4 * l.length) 0 1 0 0 0 0 0) l, size := 48 + 4 * l.length }

/-- `s` with the key 0 in class `k` and the packet in the command buffer. -/
def opening (k : Nat) (l : List Word) (s : State) : State :=
  { s with sec := { s.sec with keys := [(k, 0)] }, smb := { s.smb with cmdBuf := some (openOf .mgmt k l) } }

theorem wit_open_tag (v : Via) (k : Nat) (l : List Word) : tagOk (some 0) (openOf v k l) = true := by
  simp [tagOk, openOf]

theorem wit_open_reaches (k : Nat) (l : List Word) (s : State) :
    reaches 0x0001 (opening k l s) (openOf .mgmt k l) = true := by simp [reaches, opening, openOf]

/-- What every clause of SESSION_OPEN over MGMT asks. -/
def opens (k : Nat) (l : List Word) (s : State) (q : State → State → Bool) : Bool :=
  let p := openOf .mgmt k l
  let a := freeBuf (opening k l s) p
  !s.boot.held && hSess p.hdr == 15 && policed a p 2 == some a && shapeOk p && levelOk a p && hDmode p.hdr == 0
    && hKeyc p.hdr == k && openKey a k == some 0 && q a (countNotime a p)

/-- Wall time 100 s, valid. -/
def at100 (s : State) : State := { s with time := { s.time with valid := true, clk := 100 * 10 ^ 9 } }

theorem wit_sessionOpen :
    (opens 2 [1, 2, 3, 4] (at100 tile) (fun a _ => !issueOk a (openOf .mgmt 2 [1, 2, 3, 4]))
    && opens 1 [1, 2, 3] tile (fun a _ => issueOk a (openOf .mgmt 1 [1, 2, 3]) && !inRecovery a)
    && opens 1 [0, 0, 0, 1] { tile with smb := { tile.smb with nhHist := [1] } } (fun a t =>
        issueOk a (openOf .mgmt 1 [0, 0, 0, 1]) && !inRecovery a
        && t.smb.nhHist.contains (BitVec.ofNat 128 (natOfWords [0, 0, 0, 1])))
    && opens 3 [1, 2, 3, 4] { tile with boot := { tile.boot with phase := 3 } } (fun a t =>
        issueOk a (openOf .mgmt 3 [1, 2, 3, 4]) && inRecovery a && hKeyc (openOf .mgmt 3 [1, 2, 3, 4]).hdr == keyUpdate
        && !t.smb.nhHist.contains (BitVec.ofNat 128 (natOfWords [1, 2, 3, 4])) && a.sec.entropyOk
        && (roomFor t .mgmt).isSome)
    && opens 2 [1, 2, 3, 4] snd (fun a t => a.id.sender && issueOk a (openOf .mgmt 2 [1, 2, 3, 4]) && !inRecovery a
        && !t.smb.nhHist.contains (BitVec.ofNat 128 (natOfWords [1, 2, 3, 4])) && (roomFor t .mgmt).isSome)) = true := by
  decide +kernel

/-- A sender with interface 0 enabled under address 9, its eight network sessions taken, and a SESSION_OPEN from there. -/
def udp0 : Via := .udp { iface := 0, vlan := none, addr := 5, port := 7, dst := 9, dport := getF snd sysSmbPort 15 0, frag := false }
def allTaken : State :=
  let s := wr (wr { snd with sec := { snd.sec with keys := [(1, 0)] } } netIfCtrl 0x80000000) netV4Addr 9
  { s with
    net := { s.net with addrs := [{ iface := 0, fam := 0, st := 2, probes := 0, announced := 0, defended := none, next := none }] }
    smb := { s.smb with sess := (List.range 8).map (fun n => { sess8 1 with ref := ⟨n, none⟩, src := udp0 }) } }

theorem wit_sessionOpen_busy :
    (let p := openOf udp0 1 [1, 2, 3, 4]
     !allTaken.boot.held && hSess p.hdr == 15 && reaches 0x0001 allTaken p
     && (match policed (freeBuf allTaken p) p 2 with
        | some a => shapeOk p && levelOk a p && hDmode p.hdr == 0 && openKey a (hKeyc p.hdr) == some 0 && issueOk a p
            && !inRecovery a && !(countNotime a p).smb.nhHist.contains (BitVec.ofNat 128 (natOfWords p.payload))
            && a.sec.entropyOk && (roomFor (countNotime a p) p.via).isNone
        | none => false)) = true := by decide +kernel

/-- The reference of a command of session 8. -/
def ref8 : CmdRef :=
  { sess := ⟨8, none⟩, serial := 0, level := 3, keyc := 1, opcode := 0x0301, seq := 1, nonote := false }

/-- A tile under slot 2 of rail B of its sender. -/
def relayed : State := { tile with smb := { tile.smb with sess := [{ sess8 1 with ref := ⟨2, some .B⟩ }] } }

theorem wit_sessionsOpenAndClose :
    (ok 1 0x0002 [] tile (fun _ => (refOf 1 0x0002 [] tile).sess.rail.isNone)
    && !(on 1 tile).boot.held && (findSess (on 1 tile) ⟨8, none⟩).isSome && (findSess tile ⟨8, none⟩).isNone
    && !tile.id.sender && snd.id.sender && snd.id.side == .A && !snd.boot.held
    && (findSess relayed ⟨2, some .B⟩).isSome) = true := by decide +kernel

/-- A gather that ends at 20 ns. -/
def gathering : State :=
  { tile with smb := { tile.smb with gathers := [
    { id := 4, ref := ref8, via := .mgmt, notes := false, targets := [], answers := [], latest := 0, latestOk := false
      deadline := 20, single := false, early := [], earlyAt := none }] } }

theorem wit_noticesAndGathers :
    (ok 1 0x0006 [5] tile (fun a => ((findSess a ⟨8, none⟩).bind (fun x => look 5 x.notes)) == some note)
    && ok 1 0x0006 [6] tile (fun a => ((findSess a ⟨8, none⟩).bind (fun x => look 6 x.notes)).isNone)
    && !gathering.boot.held && (gathering.smb.gathers.find? (fun g => g.id == 4 && !g.single && g.deadline != 0)).isSome
    && (gathering.smb.gathers.find? (fun g => g.id == 5 && !g.single && g.deadline != 0)).isNone) = true := by
  decide +kernel

theorem wit_unknownOpcode :
    (let p := cmd 1 0x0E00 []
     let s := freed 1 p tile
     (opSpec (hOpcode p.hdr)).isNone && shapeOk p && levelOk s p && hSess p.hdr != 15 && !s.id.sender
     && matchSess s p == some (sess8 1) && policed s p 0 == some s && inWindow (sess8 1) (hSeq p.hdr)
     && issueOk (passFive s p (sess8 1)) p && hOpcode p.hdr == 0x0E00) = true := by decide +kernel

theorem wit_unknownOpcode_reaches :
    handTwin 0x0E00 (with_ 1 (cmd 1 0x0E00 []) tile) (cmd 1 0x0E00 []) = with_ 1 (cmd 1 0x0E00 []) tile
    ∧ reaches 0x0E00 (with_ 1 (cmd 1 0x0E00 []) tile) (cmd 1 0x0E00 []) = true :=
  ⟨by simp [handTwin, cmd], reaches_cmd 1 0x0E00 [] tile⟩

theorem wit_unknownOpcode_tag : tagOk (sess8 1).key (cmd 1 0x0E00 []) = true := tagOk_cmd 1 0x0E00 []

/-- A tile whose GPIO pin n (8 to 15) has mode m. -/
def gpioAt (n m : Nat) : State := { tile with gpio := { tile.gpio with modes := tile.gpio.modes.set (n - 8) m } }

theorem wit_MgmtPort :
    (tile.smb.cmdBuf.isNone && (with_ 1 (cmd 1 3 []) tile).smb.cmdBuf.isSome && tile.smb.mgmtOut == []
    && { tile with smb := { tile.smb with mgmtOut := [note] } }.smb.mgmtOut == [note]
    && { tile with smb := { tile.smb with mgmtOut := [note, note] } }.smb.mgmtOut == note :: [note]
    && !inRecovery tile && gpioMode tile 0 == 0 && gpioMode (gpioAt 15 3) 7 == 3 && gpioMode (gpioAt 8 1) 0 == 1
    && inRecovery { tile with boot := { tile.boot with phase := 3 } }) = true := by decide +kernel

/-- A device that holds, with or without a standby ready. -/
def holder : State := { tile with pair := { tile.pair with holding := true } }
def withStandby : State :=
  { holder with
    pair := { holder.pair with
      beat := some (⟨false, true, 0x3F, 1, 0⟩, 0), chk := 0x3F, mode := 1
      hello := some ⟨.B, 0, 0, 2, 1, 3, 2, 0, 0, true⟩ }
    link := { holder.link with ports := holder.link.ports.map (fun x => { x with st := 5 }) } }

/-- A handover under way. -/
def hand : Handover :=
  { cause := none, b0 := 100000, b0w := 0, acked := true, released := false, holder := true }

theorem wit_reset :
    (ok 1 0x0008 [0] tile (fun a => !a.pair.holding)
    && ok 1 0x0008 [1] holder (fun a => a.pair.holding && !standbyReady a)
    && ok 1 0x0008 [0] holder (fun a => a.pair.holding && !standbyReady a)
    && ok 1 0x0008 [1] { withStandby with pair := { withStandby.pair with handover := some hand } }
        (fun a => a.pair.holding && a.pair.handover.isSome)
    && ok 1 0x0008 [0] withStandby (fun a => a.pair.holding && a.pair.handover.isNone && standbyReady a)) = true := by
  decide +kernel

/-- The place word of the first tile below chain port 0: hop 1, no turns. -/
def place1 : Word := 0x00010000

def enrolled (n : BitVec 16) : State :=
  { tile with id := { tile.id with place := 0x0001000000000000, placeOk := true, na := some n } }
def unenrolled : State :=
  { tile with id := { tile.id with place := 0x0001000000000000, placeOk := true } }
def sndWith (n : BitVec 16) : State :=
  { snd with flume := { snd.flume with enrolled := [(n, 0x0002000000000000)] } }

/-- A sender with 512 node addresses enrolled below it. -/
def fullTable : State :=
  { snd with flume := { snd.flume with
    enrolled := (List.range 512).map (fun k => (BitVec.ofNat 16 (100 + k), 0x0002000000000000)) } }

theorem wit_enrol :
    (ok 1 0x0010 [place1, 0, 0x00070001] (enrolled 7) (fun a => placeOk 0x0001000000000000
        && fld 0x00070001 1 0 != 0 && willNa a == some 7 && a.id.placeOk && !a.id.sender
        && (sidesOf 1).contains a.id.side && routeOf 0x0001000000000000 == routeOf a.id.place)
    && ok 1 0x0010 [place1, 0, 0xFFFF0003] (enrolled 7) (fun a => willNa a == some 7)
    && ok 1 0x0010 [place1, 0, 0x00070001] unenrolled (fun a => willNa a == none
        && (flashAsk a (.enrol 7) (some (refOf 1 0x0010 [place1, 0, 0x00070001] unenrolled)) 2 false).2 == stPending)
    && ok 1 0x0010 [0, 0, 0x00070001] snd (fun a => a.id.sender && placeOk 0 && plHop 0 == 0 && willNa a == none
        && (flashAsk a (.enrol 7) (some (refOf 1 0x0010 [0, 0, 0x00070001] snd)) 2 false).2 == stPending)
    && ok 1 0x0010 [place1, 0, 0x00070001] (sndWith 7) (fun a => a.id.sender && plHop 0x0001000000000000 != 0
        && ((enrolAll a).find? (fun e => e.1 == 7)).any (fun e => e.2 != 0x0001000000000000))
    && ok 1 0x0010 [0x00020000, 0, 0x00070001] (sndWith 7) (fun a =>
        ((enrolAll a).find? (fun e => e.1 == 7)).any (fun e => e.2 == 0x0002000000000000)
        && (enrolAll a).contains (7, 0x0002000000000000))
    && ok 1 0x0010 [place1, 0, 0x00080001] (sndWith 7) (fun a => ((enrolAll a).find? (fun e => e.1 == 8)).isNone
        && decide ((enrolAll a).length < 512) && !(enrolAll a).contains (8, 0x0001000000000000))
    && ok 1 0x0010 [place1, 0, 0x00080001] fullTable (fun a => ((enrolAll a).find? (fun e => e.1 == 8)).isNone
        && decide (512 ≤ (enrolAll a).length))
    && ok 1 0x0011 [0x00070001] (enrolled 7) (fun a => willNa a == some 7 && (sidesOf 1).contains a.id.side)
    && ok 1 0x0011 [0x00080003] (enrolled 7) (fun a => willNa a != some 8 && !a.id.sender)
    && ok 1 0x0011 [0x00070003] (sndWith 7) (fun a => willNa a != some 7 && a.id.sender
        && ((enrolAll a).find? (fun e => e.1 == 7)).isSome)) = true := by decide +kernel

/-- The words of PARAM_WRITE for one pair. -/
def onePair (i : Nat) (v : Word) : List Word := [1, w32 (i * 2 ^ 16), v]

theorem wit_ParameterCommands :
    (ok 1 0x0100 [0x00400001] tile (fun a => (findRow false 0x0040).isSome && fits a [paramWord a 0x0040])
    && ok 3 0x0100 [0x00010003] snd (fun a =>
        (List.range 3).all (fun k => (findRow true (1 + k)).isSome) && fits a [0, 0, 0])
    && ok 1 0x0101 (onePair sysSmbCfg 0x0E102710) tile (fun a =>
        setRefusal a (pairsOf ((onePair sysSmbCfg 0x0E102710).drop 1)) == none
        && stagedOf a (pairsOf ((onePair sysSmbCfg 0x0E102710).drop 1)) == [])
    && ok 1 0x0101 (onePair sysSmbCfg 0x0E112710) tile (fun a =>
        (setRefusal a (pairsOf ((onePair sysSmbCfg 0x0E112710).drop 1))).any (fun e => isRefusal e.1))
    && ok 1 0x0101 (onePair flmPtCfg (resetWord true flmPtCfg)) snd (fun a =>
        setRefusal a (pairsOf ((onePair flmPtCfg (resetWord true flmPtCfg)).drop 1)) == none)) = true := by decide +kernel

/-- A tile whose rate parameter is written anew: a staged write. -/
def rateWords (v : Word) : List Word := onePair tilRate v

theorem wit_stagedWrite :
    ok 1 0x0101 (rateWords (resetWord false tilRate)) tile (fun a =>
      setRefusal a (pairsOf ((rateWords (resetWord false tilRate)).drop 1)) == none
      && stagedOf a (pairsOf ((rateWords (resetWord false tilRate)).drop 1)) != []
      && !(pairsOf ((rateWords (resetWord false tilRate)).drop 1)).any (fun e => pairAcc a e.1 == .saf)
      && (stagePairs a (refOf 1 0x0101 (rateWords (resetWord false tilRate)) tile)
          (stagedOf a (pairsOf ((rateWords (resetWord false tilRate)).drop 1)))).2 == stPending
      && fits a (echoPairs (stagedOf a (pairsOf ((rateWords (resetWord false tilRate)).drop 1))))) = true := by
  decide +kernel

/-- A tile whose flash takes no writes, and a sender and a tile whose chips have no power left. -/
def noFlash : State := { tile with pwr := { tile.pwr with stopped := true } }
def noPower : State := wr snd pwrChip 0
def dimTile : State := wr (wr tile pwrChip 0) tilBright 0x4000
def blinkWords : List Word := onePair 0x2000 (resetWord false 0x2000)
def brightWords : List Word := onePair tilBright 0x8000

theorem wit_ParameterRefusals :
    (ok 1 0x0100 [0x00400000] tile (fun _ => true) && ok 1 0x0100 [0x00000101] tile (fun _ => true)
    && ok 1 0x0100 [0xFFFF0002] tile (fun _ => true)
    && ok keySafety 0x0101 blinkWords tile (fun a => setRefusal a (pairsOf (blinkWords.drop 1)) == none
        && (pairsOf (blinkWords.drop 1)).any (fun e => pairAcc a e.1 == .saf)
        && (flashAsk (supersede a [0x2000]) (.badger (.params (stagedOf a (pairsOf (blinkWords.drop 1)))))
            (some (refOf keySafety 0x0101 blinkWords tile)) 1 false).2 == stPending)
    && ok keySafety 0x0101 blinkWords noFlash (fun a => setRefusal a (pairsOf (blinkWords.drop 1)) == none
        && (flashAsk (supersede a [0x2000]) (.badger (.params (stagedOf a (pairsOf (blinkWords.drop 1)))))
            (some (refOf keySafety 0x0101 blinkWords noFlash)) 1 false).2 == stNvHeld)
    && ok 1 0x0101 brightWords dimTile (fun a => setRefusal a (pairsOf (brightWords.drop 1)) == none
        && stagedOf a (pairsOf (brightWords.drop 1)) != []
        && !(pairsOf (brightWords.drop 1)).any (fun e => pairAcc a e.1 == .saf)
        && (stagePairs a (refOf 1 0x0101 brightWords dimTile) (stagedOf a (pairsOf (brightWords.drop 1)))).2 == stNoCredit))
      = true := by decide +kernel

/-- A save in progress. -/
def savingNow : State :=
  { tile with fl := { tile.fl with queue := [⟨0, .paramSave [], some ref8, true⟩] } }

theorem wit_saveAndRetrain :
    (ok 1 0x0102 [] savingNow (fun a => saving a)
    && ok 1 0x0102 [] tile (fun a => !saving a
        && (settingsAsk a (.paramSave (settingsNow a)) (some (refOf 1 0x0102 [] tile))).2 == stPending)
    && ok 1 0x0102 [] noFlash (fun a => !saving a
        && (settingsAsk a (.paramSave (settingsNow a)) (some (refOf 1 0x0102 [] noFlash))).2 == stNvHeld)
    && ok 1 0x0030 [0x107] tile (fun a => (maskPorts 0x107).all (fun q => portExists a q
        && (portAt a q).all (fun x => !x.cross)))
    && ok 1 0x0030 [0x1FF] snd (fun a => (maskPorts 0x1FF).all (fun q => portExists a q
        && (portAt a q).all (fun x => !x.cross)))) = true := by decide +kernel

/-- Network port 1 in mode 2 whose four links are up while a PORT_MODE is under way. -/
def retraining : State :=
  { snd with net := { snd.net with ports := [⟨0, 0, none, 0, 0⟩, ⟨2, 0, some (ref8, 10), 15, 15⟩] } }

theorem wit_portRetrain :
    (!retraining.boot.held && (netPort retraining 1).training.isSome
      && (subPorts (netPort retraining 1).mode).all (fun k => ((netPort retraining 1).link >>> k) % 2 == 1)) = true := by
  decide +kernel

/-- A definition of stream 63 on path A of interface 0: 16 by 16 pixels, 50 frames a second. -/
def streamWords : List Word :=
  [0x3F400000, 0x50000000, 0x00000060, 0x12345678, 0x20000000, 0x00100010, 0x00320001, 0x00000103
  , 0, 0, 0, 0xEF000001, 0, 0, 0, 0, 0, 0, 0, 0, 0, 0, 0, 0]

/-- A sender with interface 0 enabled in mode 1 and a source pool. -/
def ingest : State :=
  wr (wr { snd with net := { snd.net with ports := [⟨1, 0, none, 1, 1⟩, ⟨0, 0, none, 0, 0⟩] } }
    netIfCtrl 0x80000000) memPoolIng 64

/-- Stream 63 defined, with what `f` makes of it. -/
def withStream (f : Stream → Stream) : State :=
  { ingest with net := { ingest.net with streams := [f
    { id := 63, words := streamWords, st := 3, lock := none, lastA := none, lastB := none, upA := true, upB := false
      firstA := [], firstB := [], clash := false, tsusp := false, joinA := false, joinB := false, ref := none
      announced := true, closed := [], refused := [], suspects := 0, wrong := 0, unread := [], since := 0, upTo := none
      slots := [slotFree 0 1, slotFree 1 1, slotFree 2 1] }] } }

theorem wit_StreamCommands :
    (ok 1 0x0201 streamWords ingest (fun a => streamRefusal a streamWords == none)
    && ok 1 0x0201 (streamWords.set 4 0x30000000) ingest (fun a => (streamRefusal a (streamWords.set 4 0x30000000)).isSome)
    && ok 1 0x0202 [0x3F000000] ingest (fun a => (streamOf a 63).isNone)
    && ok 1 0x0202 [0x3F000000] (withStream id) (fun a => (streamOf a 63).any (fun x => x.slots.all (fun y => y.st != .reading)))
    && ok 1 0x0203 [0x3F000000] (withStream id) (fun a => (streamOf a 63).isSome && fits a streamWords)
    && ok 1 0x0210 [0x01010000] snd (fun a => !portChanging a 1
        && decide (standingWith a (pipesOn (rd a cmpCanvas)) ((a.net.ports.map (·.mode)).set 1 1) (getF a lmpCfg 31 30)
            ≤ getF a pwrChip 31 16)
        && (match sluiceAsk a (.portMode 1 1 0 (refOf 1 0x0210 [0x01010000] snd)) 1 3 0 with
            | (_, .granted _) => true
            | _ => false))
    && ok 1 0x0202 [0x40000000] ingest (fun a => (streamOf a 63).isNone)
    && ok 1 0x0202 [0x3F000000] (withStream (fun x => { x with slots := [{ slotFree 0 1 with st := .reading }] })) (fun a =>
        (streamOf a 63).any (fun x => x.slots.any (fun y => y.st == .reading)))
    && ok 1 0x0203 [0x3F000000] ingest (fun a => (streamOf a 63).isNone)
    && ok 1 0x0210 [0x01010000] retraining (fun a => portChanging a 1)
    && ok 1 0x0210 [0x01010000] noPower (fun a => !portChanging a 1
        && decide (getF a pwrChip 31 16 < standingWith a (pipesOn (rd a cmpCanvas)) ((a.net.ports.map (·.mode)).set 1 1)
            (getF a lmpCfg 31 30)))) = true := by decide +kernel

/-- A packet of stream 63: its first two pixels, and what an untagged frame on interface 0 says of it. -/
def rtp : RtpPkt :=
  { iface := 0, vlan := none, src := 5, group := sdGroup streamWords false, udp := sdUdp streamWords false, version := 2
    marker := false, ptype := 96, seq := 1, ts := 1000, ssrc := 0x12345678, ext := 0
    srd := [⟨pgOctets streamWords, false, 0, false, 0⟩], data := List.replicate (pgOctets streamWords) 0 }

/-- Slot 0 of stream 63 changed. -/
def withSlot (f : SrcSlot → SrcSlot) : State :=
  withStream (fun x => { x with slots := [f (slotFree 0 1), slotFree 1 1, slotFree 2 1] })

/-- What StreamReception asks of a stream packet: its path, its room, its checks; and of the frames of the stream. -/
def received (s : State) (r : RtpPkt) (q : Stream → Bool) : Bool :=
  bit (rd s (netIfCtrl + 16 * r.iface)) 31 && vlanOk s r.iface r.vlan
    && (match matchPath s r with
      | some (x, b) => (match rxTake s r with
        | some a => r.version == 2 && r.ptype == sdPt x.words && srdOk x.words r && sdSsrc x.words == r.ssrc
            && (let y := { x with lastA := some (lt a), upA := true }
                let d := pathDiff a y b r.ts
                q (passFrames d.1 d.2 b r.ts).2)
        | none => false)
      | none => false)

/-- The own frame of timestamp 1000, if there is one. -/
def frame1000 (x : Stream) : Option SrcSlot := (ownFrames x).find? (fun y => y.ts == 1000)

theorem wit_StreamReception :
    (!ingest.boot.held && ingest.id.sender
    && received (withSlot (fun y => { y with st := .filling, ts := 1000 })) rtp (fun x => (frame1000 x).isSome)
    && received (withStream (fun x => { x with refused := [1000] })) rtp (fun x => (frame1000 x).isNone
        && x.refused.contains 1000)
    && received (withStream (fun x => { x with closed := [1000] })) rtp (fun x => (frame1000 x).isNone
        && !x.refused.contains 1000 && x.closed.contains 1000)
    && received (withSlot (fun y => { y with st := .filling, ts := 999 })) rtp (fun x => (frame1000 x).isNone
        && (ownFrames x).all (fun y => !decide (0 < sdiff y.ts 1000)) && (x.closed ++ x.refused).isEmpty)
    && (matchPath (withStream id) { rtp with ptype := 95 }).any (fun e => (95 : Nat) != sdPt e.1.words && sdSsrc e.1.words != 0
        && sdSsrc e.1.words != 0x99999999)
    && (rxTake { withStream id with dram := { (withStream id).dram with frozenAt := some 4 }
                                    net := { (withStream id).net with rxHeld := [(0, 2 ^ 21)] } } rtp).isNone
    && (let s := withSlot (fun y => { y with st := .filling, ts := 1000, window := some 8 })
        (streamOf s 63).any (fun x => (x.slots.find? (fun y => !y.old && y.st == .filling && y.ts == 1000)).any
          (fun f => f.window.isSome)))) = true := by decide +kernel

/-- Interface 0 of a sender with a confirmed IPv4 address. -/
def netUp (x : NetAddr) : State := { ingest with net := { ingest.net with addrs := [x] } }

theorem wit_NetworkFrames :
    (let up := netUp ⟨0, 0, 2, 3, 1, none, none⟩
     ingest.id.sender && !ingest.boot.held && holdsAddr up 0 (hostAddr 0xFFFF00000000)
     && (netToken up 0 5).isSome && (netToken up 0 4).isSome && vlanOk up 0 none && vlanOk up 0 (some 0)
     && !vlanOk up 0 (some 5) && ifMac up 0 != BitVec.allOnes 48 && !(ifMac up 0).getLsbD 40
     && (netToken up 0 3).isSome
     && (netToken { up with net := { up.net with buckets := [⟨0, 3, 0, 0⟩] } } 0 3).isNone
     && bit (rd up (netIfCtrl + 16 * 0)) 31
     && (netToken up 0 3).any (fun b =>
         (b.net.addrs.find? (fun x => x.iface == 0 && (x.fam == 0) == ((0 : Nat) == 0) && addrOf b 0 x.fam == 0)).any
           (fun x => x.st == 2 && x.fam == 0 && x.defended.isNone && ifMac b 0 != 1))) = true := by decide +kernel

theorem wit_NetworkTimers :
    ((netUp ⟨0, 0, 1, 3, 0, none, some 8⟩).net.addrs.find? (fun a => a.iface == 0 && a.fam == 0)
      == some ⟨0, 0, 1, 3, 0, none, some 8⟩
    && (netUp ⟨0, 0, 1, 2, 0, none, some 8⟩).net.addrs.find? (fun a => a.iface == 0 && a.fam == 0)
      == some ⟨0, 0, 1, 2, 0, none, some 8⟩
    && (let m : Member := ⟨0, 5, 0, 1, some 8, none, true⟩
        [m].find? (fun m => m.iface == 0 && m.group == 5 && m.source == 0) == some m && m.due.isSome)
    && (let m : Member := ⟨0, 5, 0, 1, none, some 8, false⟩
        [m].find? (fun m => m.iface == 0 && m.group == 5 && m.source == 0) == some m && m.due.isSome
          && (defined (withStream id)).all (fun x => x.ref.isNone))
    && (subPorts (netPort retraining (7 / 4)).mode).contains (7 % 4)
    && (streamOf (withStream (fun x => { x with lock := some 5 })) 63).any (fun x => x.lock.isSome)
    && (streamOf (withStream (fun x => { x with lastA := some 4, upB := true })) 63).any
        (fun x => x.upA && x.lastA.isSome && x.upB)
    && (streamOf (withStream (fun x => { x with lastA := some 4 })) 63).any
        (fun x => x.upA && x.lastA.isSome && !x.upB && x.st == 3)) = true := by decide +kernel

theorem wit_NetworkClauses :
    (let up := netUp ⟨0, 0, 2, 3, 1, some 0, none⟩
     let far := wr (wr up netV4Addr 9) netV4Net 32
     (netToken up 0 5).any (fun b => nextHop b 0 (hostAddr 0xFFFF00000005) == some 5)
     && (netToken far 0 5).any (fun b => holdsAddr b 0 (hostAddr 0xFFFF00000009)
       && (nextHop b 0 (hostAddr 0xFFFF00000005)).isNone)
     && !holdsAddr far 0 (hostAddr 0xFFFF00000005)
     && (netToken { up with net := { up.net with buckets := [⟨0, 5, 0, 0⟩] } } 0 5).isNone
     && (netToken { up with net := { up.net with buckets := [⟨0, 4, 0, 0⟩] } } 0 4).isNone
     && (netToken up 0 3).any (fun b => (b.net.addrs.find? (fun x => x.iface == 0 && (x.fam == 0) == ((0 : Nat) == 0)
         && addrOf b 0 x.fam == 0)).any (fun x => x.st == 2 && x.defended.isSome))
     && (netToken (netUp ⟨0, 0, 1, 1, 0, none, some 8⟩) 0 3).any (fun b => (b.net.addrs.find? (fun x => x.iface == 0
         && (x.fam == 0) == ((0 : Nat) == 0) && addrOf b 0 x.fam == 0)).any (fun x => x.st == 1))
     && (netToken up 0 3).any (fun b => (b.net.addrs.find? (fun x => x.iface == 0 && (x.fam == 0) == ((0 : Nat) == 0)
         && addrOf b 0 x.fam == 77)).isNone)
     && !knownGroup 0x01005E000005 && (0x01005E000005 : BitVec 48).getLsbD 40 && knownGroup 0x01005E000001
     && !(ifMac up 0).getLsbD 40 && !(0x000000000005 : BitVec 48).getLsbD 40 && ifMac up 0 != 5) = true := by decide +kernel

theorem wit_NetworkTimerClauses :
    ((netUp ⟨0, 0, 3, 3, 0, none, some 8⟩).net.addrs.find? (fun a => a.iface == 0 && a.fam == 0)).any (fun x => x.st == 3)
    ∧ ((netUp ⟨0, 0, 2, 3, 1, none, some 8⟩).net.addrs.find? (fun a => a.iface == 0 && a.fam == 0)).any (fun x => x.st == 2)
    ∧ ((netUp ⟨0, 1, 1, 1, 0, none, some 8⟩).net.addrs.find? (fun a => a.iface == 0 && a.fam == 1)).any (fun x => x.st == 1)
    ∧ ((netUp ⟨0, 2, 1, 0, 0, none, some 8⟩).net.addrs.find? (fun a => a.iface == 0 && a.fam == 2)).any (fun x => x.st == 1)
    ∧ (let m : Member := ⟨0, 5, 0, 1, some 8, none, true⟩
       m.leave && m.answer.isNone && m.due == some 8)
    ∧ (subPorts (netPort snd 1).mode).contains 3 = false
    ∧ (streamOf (withStream id) 63).any (fun x => x.lock.isNone)
    ∧ (streamOf (withStream (fun x => { x with upA := false, lastA := some 4 })) 63).any (fun x => !x.upA && x.lastA.isSome)
    ∧ (streamOf (withStream (fun x => { x with lastA := some 4, st := 2 })) 63).any
        (fun x => x.upA && x.lastA.isSome && !x.upB && x.st == 2) := by decide +kernel

theorem wit_StreamPackets :
    (let s := withStream id
     !vlanOk s 0 (some 5) && vlanOk s 0 none
     && (matchPath s { rtp with group := 0xEF000002 }).isNone
     && (matchPath s rtp).any (fun e => !e.2 && e.1.lock.isNone && sdSsrc e.1.words != 0)
     && received s rtp (fun x => (ownFrames x).isEmpty && (x.closed ++ x.refused).isEmpty)
     && received (withStream (fun x => { x with closed := [1001] })) rtp (fun x => (ownFrames x).isEmpty
       && (x.closed ++ x.refused).any (fun t => decide (0 < sdiff t 1000)))
     && received (withSlot (fun y => { y with st := .filling, ts := 1001 })) rtp (fun x => (frame1000 x).isNone
       && (ownFrames x).any (fun y => decide (0 < sdiff y.ts 1000)))) = true := by decide +kernel

/-- A sender whose PTP slot 1 runs on interface 4 with a confirmed address. -/
def ptpS (f : PtpSlot → PtpSlot) : State :=
  let s := wr (wr { snd with net := { snd.net with addrs := [⟨4, 0, 2, 3, 1, none, none⟩] } } (timDomCfg + 8) 0x80100000)
    (netIfCtrl + 16 * 4) 0x80000000
  setPtp s 1 (f (ptp s 1))

/-- A PTP message of slot 1 at interface 4, untagged. -/
def rx4 : PtpIn := ⟨1, ⟨4, none⟩⟩

/-- A master on interface 4. -/
def master4 : Master := { set := ⟨1, 6, 0x21, 0, 1⟩, steps := 1, gm := 2, src := 3, iface := 4 }

/-- A state that takes a PTP message and, its token taken, meets `q`. -/
def takes (s : State) (q : State → Bool) : Bool :=
  !s.boot.held && s.id.sender && bit (rd s (netIfCtrl + 16 * rx4.at_.iface)) 31 && vlanOk s rx4.at_.iface rx4.at_.vlan
    && (netToken s rx4.at_.iface 9).any q

theorem wit_PtpMessages :
    (takes (ptpS id) (fun b => ptpOn b 1 && bit (ptpCfg b 1) (16 + 4 % 8) && (ptp b 1).master.isNone && !fromMaster b rx4)
    && (let s := ptpS id
        (netToken { s with net := { s.net with buckets := [⟨4, 9, 0, 0⟩] } } 4 9).isNone)
    && takes (ptpS (fun x => { x with master := some master4 })) (fun b => fromMaster b rx4
        && (ptp b 1).master == some master4
        && betterMaster { master4 with set := ⟨0, 6, 0x21, 0, 1⟩, gm := 9, src := 4 } master4
        && !betterMaster { master4 with src := 4 } master4)
    && takes (wr (ptpS id) (timDomCfg + 8) 0) (fun b => !ptpOn b 1)
    && takes (wr (ptpS id) (timDomCfg + 8) 0x80010000) (fun b => ptpOn b 1 && !bit (ptpCfg b 1) (16 + 4 % 8))
    && takes (ptpS (fun x => { x with master := some master4, sync := some (7, 1, 2) })) (fun b => fromMaster b rx4
        && (ptp b 1).sync == some (7, 1, 2))
    && takes (setTsq (ptpS (fun x => { x with master := some master4, req := some (9, 4), pair := some (1, 2) })) 1
        [⟨9, 1, 5, 0⟩]) (fun b => fromMaster b rx4 && (ptp b 1).req == some (9, 4) && (ptp b 1).pair == some (1, 2)
          && ((tsq b (4 / 4)).find? (fun e => e.id == 9 && e.slot == 1)).isSome)) = true := by decide +kernel

theorem wit_PtpTimers :
    (let s := ptpS (fun x => { x with master := some master4, quar := some 12 })
     ptpOn s 1 && (ptp s 1).master == some master4 && hasAddr s 4 (bit (ptpCfg s 1) 28) && !s.boot.held
     && decide ((tsq s (4 / 4)).length < 16) && (ptp s 1).quar == some 12 && (ptp s 0).quar.isNone && !ptpOn s 0
     && ((tsq (setTsq s 1 [⟨9, 1, 5, 0⟩]) 1).find? (fun e => e.id == 9)).isSome
     && ((tsq s 1).find? (fun e => e.id == 9)).isNone
     && decide (16 ≤ (tsq (setTsq s 1 ((List.range 16).map (fun k => ⟨BitVec.ofNat 8 k, 1, 5, 0⟩))) (4 / 4)).length)
     && !hasAddr { s with net := { s.net with addrs := [] } } 4 (bit (ptpCfg s 1) 28)) = true := by decide +kernel

/-- Time of a tile or sender changed. -/
def timed (s : State) (f : Time → Time) : State := { s with time := f s.time }

theorem wit_TimeAndMarks :
    (let s := timed snd (fun t => { t with holdSince := some 0, herrTold := true })
     s.id.sender && s.time.holdSince.isSome && decide (1 ≤ getF s timHold 15 0) && s.time.herrTold
     && (let s := timed snd (fun t => { t with holdSince := some 0 })
         !s.time.herrTold && decide (1 ≤ getF s timHold 15 0) && decide (1 ≤ getF s timValid 15 0))
     && (timed tile (fun t => { t with validUntil := some 100 })).time.validUntil.isSome
     && ok 2 0x0701 [] tile (fun a => fits a (timeWords a))
     && !snd.boot.held && snd.id.sender && !tile.time.has && !tile.id.sender
     && (let s := timed tile (fun t => { t with up := { t.up with secs := some 1800000000 } })
         (markSrc s false).secs == some 1800000000 && (s.link.ports.find? (fun x => x.p == 0)).isSome
         && decide ((4 * (BitVec.ofNat 32 (1800000000 * 10 ^ 9 / 4)).toNat + 3 + 2 ^ 34 - 1800000000 * 10 ^ 9 % 2 ^ 34) % 2 ^ 34
             < 10 ^ 9))
     && (let s := timed tile (fun t => { t with src := 3, valid := true, up := { t.up with last := some 5 } })
         s.time.src == 3 && (markSrc s false).last == some 5 && (markSrc s true).last.isNone && s.time.valid)) = true := by
  decide +kernel

/-- A comparator of a device that has time. -/
def withComp (v : Bool) (u : CmpUse) : State :=
  timed tile (fun t => { t with valid := v, comps := t.comps.set 15 { compFree with use := some u, instant := 8 } })

/-- Every comparator taken. -/
def noComp : State := timed tile (fun t => { t with comps := t.comps.map (fun x => { x with use := some .snap }) })

theorem wit_TriggerInputs :
    (let s := wr tile timTinCfg 0xC0
     (tinEdges s 3 &&& 1) != 0 && (tinEdges s 3 &&& 2) != 0 && !bit (rd s evrCfg) 3
     && decide ((s.time.trig.getD 3 []).length < 32)
     && decide (32 ≤ ((timed s (fun t => { t with trig := [[], [], [], List.replicate 32 [0, 0, 0, 0]] })).time.trig.getD 3 []).length)
     && (tinEdges tile 3 &&& 1) == 0
     && ok 1 0x0704 [3] s (fun a => fits a (w32 (a.time.trig.getD 3 []).length :: (a.time.trig.getD 3 []).flatMap id))) = true := by
  decide +kernel

/-- A PING in a CYCLE_SET: count 1, the header of a command of session 8 under the host key, its words. -/
def cycleWords : List Word :=
  [0, 1, 0, 0, 0x00010000] ++ wordsOfNat 8 (mkHeader 3 1 1 0x0003 1 8 false 0 0 1 0 0 0 0 0).toNat

theorem wit_ComparatorCommands :
    (ok 1 0x0702 [0, 0, 0, 0, 0, 8] tile (fun _ => fld 0 29 28 == 0)
    && ok 1 0x0702 [0xD0000000, 0, 1, 999999999, 0, 1000000000] tile (fun a =>
        fld 0xD0000000 29 28 == 1 && decide (now a ≤ clkOfWords 0 1 999999999) && (freeComp (freeOut a 3)).isSome)
    && ok 1 0x0702 [0x10000000, 0, 0, 0, 0, 8] noComp (fun a =>
        decide (now a ≤ clkOfWords 0 0 0) && (freeComp (freeOut a 0)).isNone)
    && ok 1 0x0702 [0x10000000, 0, 0, 0, 0, 8] (timed tile (fun t => { t with clk := 4 })) (fun a =>
        decide (clkOfWords 0 0 0 < now a))
    && ok 1 0x0C03 [0, 0, 999999999] tile (fun a => freeComp a == some 0)
    && ok 1 0x0710 (cycleWords.take 3 ++ [0, 0x00010000] ++ cycleWords.drop 5) tile (fun a =>
        let p := cmd 1 0x0710 (cycleWords.take 3 ++ [0, 0x00010000] ++ cycleWords.drop 5)
        hKind (embeddedHdr p) == 1 && hDmode (embeddedHdr p) == 0 && hKeyc (embeddedHdr p) == 1
        && mayEmbed (hOpcode (embeddedHdr p)) && hLength (embeddedHdr p) == 4 * ((cycleWords.drop 5).length - 8)
        && (freeComp a).isSome)
    && ok 1 0x0712 [15] tile (fun a => (comp a 15).use.isNone)
    && ok 1 0x0712 [15] (withComp false .snap) (fun a => (comp a 15).use == some .snap)
    && ok 1 0x0712 [15] (withComp false (.trig 3 2 8 8)) (fun a => (comp a 15).use == some (.trig 3 2 8 8))) = true := by
  decide +kernel

theorem wit_ComparatorsFire :
    (let u1 : CmpUse := .trig 3 1 0 8
     let u2 : CmpUse := .trig 3 2 1000 8
     let u3 : CmpUse := .cycle none 0 1 0 { via := .mgmt, hdr := 0, payload := [], tag := 0, size := 0 } 3 1
     (comp (withComp true u1) 15).use == some u1 && (withComp true u1).time.valid && !(withComp false u1).time.valid
     && (comp (withComp true u2) 15).use == some u2 && (comp (withComp true .snap) 15).use == some .snap
     && (comp (withComp true u3) 15).use == some u3 && decide (15 < (withComp true u3).time.comps.length)) = true := by
  decide +kernel

theorem wit_ComparatorClauses :
    (ok 1 0x0702 [0xE0000000, 0, 0, 0, 1000, 500] tile (fun a => (freeComp (freeOut a 3)).isSome)
    && ok 1 0x0702 [0xF0000000, 0, 0, 0, 0, 8] tile (fun a => decide (8 ≤ period (rate a) / 2))
    && ok 1 0x0702 [0x10000000, 0, 0, 0, 0, 7] tile (fun _ => true)
    && ok 1 0x0702 [0x10000000, 0, 0, 0, 0, 8] noComp (fun a => (comp (freeOut a 0) 0).use.isSome)
    && ok 1 0x0C03 [0, 0, 0] noComp (fun a => (freeComp a).isNone && (comp a 0).use.isSome)
    && ok 1 0x0710 (cycleWords.take 3 ++ [1000, 0x00010000] ++ cycleWords.drop 5) noComp (fun a =>
        (freeComp a).isNone && (comp a 0).use.isSome)) = true := by decide +kernel

theorem wit_ComparatorOrder :
    (let at8 (v : Bool) (u : CmpUse) : State := timed (withComp v u) (fun t => { t with clk := 8 })
     let cyc (per cnt n : Nat) : CmpUse := .cycle none per cnt n { via := .mgmt, hdr := 0, payload := [], tag := 0, size := 0 } 3 1
     let first (s : State) : Bool := (fireOrder (toClk (comp s 15).instant s)).head? == some 15 && (fireRank (comp s 15)).isSome
     !(at8 true .snap).boot.held
     && [CmpUse.snap, .trig 3 1 0 8, .trig 3 2 1000 8, cyc 0 1 0, cyc 1000 2 0, cyc 1000 2 1].all (fun u =>
          first (at8 true u) && first (at8 false u) && (at8 true u).time.valid && !(at8 false u).time.valid)) = true := by
  decide +kernel

/-- A layer that is off, and layer 31 held. -/
def layerWords : List Word := 0x200000 :: List.replicate 7 0
def heldLayer : State := timed { snd with canvas := { snd.canvas with held := [(31, layerWords)] } } (fun t => { t with valid := true })

theorem wit_LayersAndCommit :
    (ok 1 0x0301 (0x11F :: layerWords) snd (fun a => layerRefusal a { tablesSoon a with
        layers := a.canvas.held.foldr (fun e m => m.set e.1 e.2) (tablesSoon a).layers } 31 layerWords == none)
    && ok 1 0x0301 (0x1F :: layerWords) snd (fun a => layerRefusal a (tablesSoon a) 31 layerWords == none
        && !a.canvas.held.any (fun e => e.1 == 31))
    && ok 1 0x0301 (0x1F :: layerWords) heldLayer (fun a => layerRefusal a (tablesSoon a) 31 layerWords == none
        && a.canvas.held.any (fun e => e.1 == 31))
    && ok 1 0x0301 (0 :: List.replicate 8 0xFFFFFFFF) snd (fun a =>
        (layerRefusal a (tablesSoon a) 0 (List.replicate 8 0xFFFFFFFF)).isSome)
    && ok 1 0x0311 [] heldLayer (fun _ => true)
    && ok 1 0x0310 [0] snd (fun a => !a.time.valid)
    && ok 1 0x0310 [2000000001] heldLayer (fun a => a.time.valid && decide (8 * 10 ^ 9 < 4 * sdiff 2000000001 (nowW a)))
    && ok 1 0x0310 [2000000000] heldLayer (fun a => a.time.valid && decide (4 * sdiff 2000000000 (nowW a) ≤ 8 * 10 ^ 9)
        && a.canvas.held != [] && decide ((takenSets a).length < 4))
    && ok 1 0x0310 [0] (timed snd (fun t => { t with valid := true })) (fun a => a.canvas.held == [])
    && ok 1 0x0310 [0] { heldLayer with changes := List.replicate 4 ⟨0, .commit false 0 [], none, 0, none, none, none⟩ }
        (fun a => a.canvas.held != [] && decide (4 ≤ (takenSets a).length))) = true := by decide +kernel

/-- A sender with a canvas of 64 by 48 blocks and tile 9 enrolled on chain 0, its rectangle in effect. -/
def canvas64 : State :=
  let s := wr { snd with flume := { snd.flume with enrolled := [(9, 0x0001000000000000)] } } cmpCanvas (0x20000000 + 64 * 65536 + 48)
  { s with canvas := { s.canvas with rects := [⟨9, 0, 0, 32, 48, false⟩] } }

def region0 : List Word := [0x00080000, 0, 0x00400030, 0x00140014]

theorem wit_RectanglesAndRegions :
    (ok 1 0x0320 [0x00090000, 0, 0x00400030] canvas64 (fun a => a.flume.enrolled.any (fun e => e.1 == 9)
        && decide (0 + 64 ≤ (tablesSoon a).wb) && decide (0 + 48 ≤ (tablesSoon a).hb)
        && !(rectsSoon a).any (fun x => x.na != 9 && rectsOverlap x ⟨9, 0, 0, 64, 48, true⟩))
    && ok 1 0x0320 [0x00090000, 0, 0x00010001]
        { canvas64 with canvas := { canvas64.canvas with rects := [⟨8, 0, 0, 1, 1, false⟩] } }
        (fun a => (rectsSoon a).any (fun x => x.na != 9 && rectsOverlap x ⟨9, 0, 0, 1, 1, true⟩))
    && ok 1 0x0321 [0x00090000] canvas64 (fun a => (rectOf a 9).isSome && decide (12 ≤ replyRoom a .mgmt))
    && ok 1 0x0321 [0x00080000] canvas64 (fun a => (rectOf a 8).isNone)
    && ok 1 0x0401 [0, 0, 0, 0] canvas64 (fun a => !rgEn [0, 0, 0, 0] && (regionOf a 0).isNone)
    && ok 1 0x0401 region0 canvas64 (fun a => rgEn region0 && rgRangeOk region0
        && decide (rgXb region0 + rgWb region0 ≤ getF a cmpCanvas 27 16)
        && decide (rgYb region0 + rgHb region0 ≤ getF a cmpCanvas 10 0) && !tooManyRegions a region0)
    && ok 1 0x0401 (region0.set 1 0x00010000) canvas64 (fun a => rgRangeOk (region0.set 1 0x00010000)
        && decide (getF a cmpCanvas 27 16 < rgXb (region0.set 1 0x00010000) + rgWb (region0.set 1 0x00010000)))
    && ok 1 0x0402 [0] canvas64 (fun a => (regionOf a 0).isNone)
    && ok 1 0x0402 [0xFFF] { canvas64 with flume := { canvas64.flume with regions := [⟨0xFFF, region0, [], []⟩] } }
        (fun a => (regionOf a 0xFFF).any (fun g => fits a (g.words ++ (List.range 8).map (fun c => w32 ((look c g.fails).getD 0)))))
    && ok 1 0x0402 [0] tile (fun a => fits a (regionWords a 0))) = true := by decide +kernel

/-- A region that a tile holds with its deadline running. -/
def held5 : State :=
  { tile with weir := { tile.weir with regions := [⟨⟨5, true, false, 0, 0, 1, 1, 20⟩, false, some 100, none, none, none, none, false⟩] } }

theorem wit_tileRegions :
    (!tile.id.sender && decide (ownLow tile ≤ 1) && decide (2 ≤ ownHigh tile) && decide (0 < ownLow tile)
    && (heldRegion held5 5).any (fun r => r.deadline == some 100 && !r.stale)
    && (let h : FlumeHdr := { typ := 3, level := 2, side := .A, bcast := true, frame := 0, dna := 0, route := 0, length := 56 }
        let c : CertPkt := { issue := 8, epoch := 0, ents := [⟨5, 20⟩, ⟨6, 20⟩] }
        let k (l : Nat) := flumePkt .A { h with level := l, length := (certBody c).length } (certBody c)
        ownRail tile (k 2) && (flumeBody (k 2) 3).any (fun e => e.1.bcast && readCert e.2 == some c
          && e.1.route.toNat / 2 ^ 37 == plChain tile.id.place && decide (ownLow tile ≤ e.1.level)
          && decide (e.1.level ≤ ownHigh tile))
        && (flumeBody (k 0) 3).any (fun e => (readCert e.2).isSome && decide (e.1.level < ownLow tile)))) = true := by
  decide +kernel

/-- What a latch froze, and a frame in composition. -/
def latched : Latched :=
  { start := 8, pipes := 1, wb := 1, hb := 1, bg := (0, 0, 0), white := 0, hlg := 0, layers := [], picks := [], skip := false
    notes := [] }

theorem wit_CanvasFrames :
    (snd.id.sender && snd.canvas.latched.isNone && !latched.skip && snd.pair.stateEdge.isNone
    && (let s := timed snd (fun t => { t with clk := 4 }); decide (now s < decision s (nextEdge s)))
    && (let s := timed snd (fun t => { t with clk := 16666664 })
        decide (decision s (nextEdge s) ≤ now s))) = true := by decide +kernel

/-- A watch of the whole picture of stream 63. -/
def watchWords : List Word := [0x007E0000 + 0x00800000, 0, 0x00100010, 0x00064FFF]

/-- Stream 63 with a READY frame in slot 0 and watch 0 in state `st`. -/
def watched (st : Nat) (sig : Option Word) : State :=
  let s := withStream (fun x => { x with slots := [{ slotFree 0 1 with st := .ready, ts := 1000, words := streamWords }, slotFree 1 1, slotFree 2 1] })
  { s with flume := { s.flume with watches := [⟨0, watchWords, 0, sig, st⟩], owlQueue := [(0, 63, 1000)] } }

theorem wit_OwlWatches :
    (ok 1 0x0420 [0, 0, 0, 0] ingest (fun _ => !owEn [0, 0, 0, 0])
    && ok 1 0x0420 watchWords (withStream id) (fun a => owEn watchWords && owlOk a watchWords)
    && ok 1 0x0420 watchWords ingest (fun a => !owlOk a watchWords)
    && ok 1 0x0421 [0] (watched 1 none) (fun a => (watchOf a 0).any (fun v => fits a v.words))
    && ok 1 0x0421 [0] snd (fun a => (watchOf a 0).isNone)
    && ok 1 0x0440 [] tile (fun a => fits a (proofWords a.weir.proof))
    && ok 1 0x0440 [9] canvas64 (fun a => (proofOf a 9).last.isNone && fits a (w32 2 :: 0 :: proofWords none))) = true := by
  decide +kernel

theorem wit_roomForARectangle :
    ok 1 0x0320 [0x00090000, 0, 0x00010001] canvas64 (fun a =>
       decide (((rectsSoon a).filter (fun x => x.na != 9)).length < 512)) = true := by decide +kernel

theorem wit_OwlChecks :
    (let s := watched 2 none
     (watchOf s 0).any (fun w => w.st == 2)
     && s.flume.owlQueue.find? (fun e => e.1 == 0) == some (0, 63, 1000)
     && (streamOf s 63).any (fun x => (x.slots.find? (fun y => y.ts == 1000 && (y.st == .ready || y.st == .reading))).any
         (fun f => (wsig watchWords f.words f).isSome))
     && (watchOf (watched 1 none) 0).any (fun w => w.st == 1)) = true := by decide +kernel

/-- A PROOF of tile 9 and a sender that expects MAPSIG 5 of its FRAME 1. -/
def proof9 : ProofMsg :=
  { faults := false, pixm := false, lit := true, holder := true, na := 9, frame := 1, stale := 0, show_ := 0, mapsig := 5, lsum := 0
    fsig := 0, wdrawn := 0, epoch := 0, service := 0 }
def expecting : State := setProof canvas64 { proofOf canvas64 9 with frames := [(1, 5)], last := some proof9 }

theorem wit_Proofs :
    (expecting.canvas.rects.any (fun r => r.na == proof9.na)
    && proofVerdict (proofOf expecting 9) proof9 == 1
    && proofVerdict (proofOf expecting 9) { proof9 with mapsig := 6 } == 3
    && proofVerdict (proofOf expecting 9) { proof9 with faults := true } == 4
    && (expecting.flume.proofs.find? (fun x => x.na == 9)).any (fun x => x.last.isSome)) = true := by decide +kernel

/-- A canvas frame, and a sender that has it to deliver to tile 9 on chain 0. -/
def frame1 : CanvasFrame :=
  { start := 8, done := 8, layers := [], picks := [], wb := 64, hb := 48, blocks := [], bsigs := [], incs := [] }
def toDeliver : State :=
  let s := setDmg canvas64 { dmgOf canvas64 9 with pending := [0, 1], reachable := true }
  { s with canvas := { s.canvas with newest := some frame1, undelivered := true }, flume := { s.flume with levels := [(0x0001000000000000, 2, 1)], hops := [(0x0001000000000000, (100, 512))] }
           , link := { s.link with ports := s.link.ports.map (fun x => { x with st := 5 }) } }

/-- A delivery of FRAME 1 whose one tile is `t`, on chain 0, with the commit sent at `tc`. -/
def delivering (t : TilePlan) (tc : Option Nat) : State :=
  let d : Delivery :=
    { frame := 1, start := 8, canvas := frame1, pt := some 0, epoch := 0, ready := 8, lats := []
      chains := [{ chain := 0, tiles := [t], committed := tc, repeats := 0, again := none }] }
  { toDeliver with flume := { toDeliver.flume with delivery := some d } }
def plan9 : TilePlan :=
  { na := 9, full := false, pkts := [⟨0, [0], 0⟩, ⟨1, [1], 0⟩], sent := 2, repairs := [], received := false, failed := false, edge := none }

theorem wit_Deliveries :
    (toDeliver.canvas.newest == some frame1 && toDeliver.flume.delivery.isNone && toDeliver.canvas.undelivered
    && anyPending toDeliver && toDeliver.pair.mode != 1 && chainPlans toDeliver != []
    && (let s := delivering plan9 (some 4)
        s.flume.delivery.any (fun d => (deliveryEdge s d).isSome) && !s.flume.yieldOn)
    && (rectOf canvas64 9).isSome && (rectOf canvas64 8).isNone && snd.canvas.rects.isEmpty) = true := by decide +kernel

/-- A packet of type `t` that tile 9 sends up chain 0, at level `lv`. -/
def fromTile9 (t lv : Nat) (b : List Byte) : LinkPkt :=
  flumePkt .A { typ := t, level := lv, side := .A, bcast := false, frame := 1, dna := 9, route := 0, length := b.length } b

/-- The reports of a received and a failed delivery. -/
def report1 : Report := ⟨1, false, 2, 0, 0, 0, 1⟩
def report3 : Report := ⟨3, false, 2, 0, 0, 0, 1⟩

theorem wit_FromTile : FromTile toDeliver 0 4 (fromTile9 4 2 (nackBody [(0, 1)]))
    { typ := 4, level := 2, side := .A, bcast := false, frame := 1, dna := 9, route := 0, length := (nackBody [(0, 1)]).length } (nackBody [(0, 1)]) := by
  constructor <;> decide +kernel

theorem wit_FromTile_report : FromTile toDeliver 0 5 (fromTile9 5 2 (reportBody report1))
    { typ := 5, level := 2, side := .A, bcast := false, frame := 1, dna := 9, route := 0, length := (reportBody report1).length }
    (reportBody report1) := by
  constructor <;> decide +kernel

theorem wit_EmitterAndReports :
    (chainOpen toDeliver 0 && !flumeWaits toDeliver 0 && !chainOpen snd 0
    && (let certs := { toDeliver with flume := { toDeliver.flume with certs := [(0, [⟨3, 1⟩])] } }
        chainOpen certs 0 && flumeWaits certs 0 && look 0 (ctlFirst 16 certs 0).flume.certs == some [⟨3, 1⟩])
    && (let chain (s : State) := s.flume.delivery.bind (fun d => d.chains.find? (fun x => x.chain == 0))
        (let s := delivering { plan9 with repairs := [1] } none
         flumeWaits s 0 && look 0 s.flume.certs == none && (chain s).any (fun x => x.tiles.any (fun t => t.repairs != [])))
        && (let s := delivering { plan9 with sent := 1 } none
            flumeWaits s 0 && (chain s).any (fun x => (x.tiles.find? (fun t => decide (t.sent < t.pkts.length))).isSome))
        && (chain (delivering plan9 none)).any (fun x => x.committed.isNone)
        && (chain (delivering plan9 (some 4))).any (fun x => !(x.committed.isNone || x.again.isSome)))
    && readNack (nackBody [(0, 1)]) == some [(0, 1)]
    && readReport 1 (reportBody report1) == some report1 && readReport 1 (reportBody report3) == some report3
    && (reportHere toDeliver report1).frame == 1 && (reportHere toDeliver report3).kind == 3
    && !linkGood { fromTile9 4 2 [] with crc := 0 }
    && placeOfNa toDeliver 9 == some 0x0001000000000000
    && decide (0 < getF toDeliver flmRepair 23 20)
    && (let s := delivering plan9 (some 4)
        let s1 := toClk (4 + 2 * latTo s 0x0001000000000000 + 1000 + 1000 * getF s flmRepair 15 0) s
        (s.flume.delivery.any (fun d => inTime s1 { d with pt := none } 0 (commitBytes 1) 0x0001000000000000)))
    && decide (getF (wr toDeliver flmRepair 0) flmRepair 23 20 ≤ 0)) = true := by decide +kernel

/-- The tick in which the report timeout of chain 0 runs out. -/
def timeoutTick : State :=
  timed (delivering { plan9 with edge := none } (some 4)) (fun t =>
    { t with clk := 4 * cdiv (reportDue toDeliver 0x0001000000000000 4) 4 })

theorem wit_lateReport :
    (4 * cdiv (reportDue timeoutTick 0x0001000000000000 4) 4 == now timeoutTick
    && decide (4 * cdiv (reportDue toDeliver 0x0001000000000000 4) 4 ≠ now toDeliver)
    && timeoutTick.flume.delivery.any (fun d => inTime timeoutTick { d with pt := none } 0 (commitBytes 1) 0x0001000000000000)) = true := by
  decide +kernel

/-- Three words of TILE_RECT of tile 9. -/
def rect9 (at_ size : Word) : List Word := [0x00090000, at_, size]

/-- 512 other rectangles. -/
def manyRects : State :=
  { canvas64 with canvas := { canvas64.canvas with
    rects := (List.range 512).map (fun k => ⟨BitVec.ofNat 16 (100 + k), 0, 0, 0, 0, false⟩) } }

theorem wit_LayerAndRectangleRefusals :
    (ok 1 0x0301 (0x20 :: layerWords) snd (fun _ => (0x20 : Word) &&& ~~~0x11F != 0)
    && ok 1 0x0301 (0x100 :: List.replicate 8 0xFFFFFFFF) snd (fun a => (layerRefusal a { tablesSoon a with
        layers := a.canvas.held.foldr (fun e m => m.set e.1 e.2) (tablesSoon a).layers } 0 (List.replicate 8 0xFFFFFFFF)).isSome)
    && ok 1 0x0320 [0x00080000, 0, 0x00010001] canvas64 (fun a => !a.flume.enrolled.any (fun e => e.1 == 8))
    && ok 1 0x0320 (rect9 0 0) canvas64 (fun a => a.flume.enrolled.any (fun e => e.1 == 9))
    && ok 1 0x0320 (rect9 0x00010000 0x00400001) canvas64 (fun a => a.flume.enrolled.any (fun e => e.1 == 9)
        && decide ((tablesSoon a).wb < 1 + 64))
    && ok 1 0x0320 (rect9 0 1) canvas64 (fun _ => true) && ok 1 0x0320 (rect9 0 0x00010000) canvas64 (fun _ => true)
    && ok 1 0x0320 (rect9 0 0x00410001) canvas64 (fun _ => true)
    && ok 1 0x0320 (rect9 0 0x00010031) canvas64 (fun _ => true)
    && ok 1 0x0320 (rect9 0 0x00010001) manyRects (fun a =>
        decide (512 ≤ ((rectsSoon a).filter (fun x => x.na != 9)).length))) = true := by decide +kernel

theorem wit_RegionClauses :
    (let with0 : State := { canvas64 with flume := { canvas64.flume with regions := [⟨0, region0, [], []⟩] } }
     ok 1 0x0401 [0, 0, 0, 0] with0 (fun a => !rgEn [0, 0, 0, 0] && (regionOf a 0).isSome)
    && ok 1 0x0401 region0 with0 (fun a => rgEn region0 && (regionOf a (rgNum region0)).isSome && !tooManyRegions a region0)
    && ok 1 0x0401 [0x00080000, 0, 0, 0] canvas64 (fun _ => rgEn [0x00080000, 0, 0, 0] && !rgRangeOk [0x00080000, 0, 0, 0])
    && (heldRegion tile 5).isNone
    && (heldRegion { held5 with weir := { held5.weir with regions :=
          [⟨⟨5, true, false, 0, 0, 1, 1, 20⟩, true, some 100, none, none, none, none, false⟩] } } 5).any (fun r => r.stale)) = true := by
  decide +kernel

theorem wit_OwlClauses :
    (ok 1 0x0420 watchWords (watched 2 none) (fun a => owEn watchWords && owlOk a watchWords
        && a.flume.watches.any (fun v => v.num == owNum watchWords && v.st == 2))
    && ok 1 0x0420 [0, 0, 0, 0] (watched 2 none) (fun a => !owEn [0, 0, 0, 0]
        && a.flume.watches.any (fun v => v.num == 0 && v.st == 2))
    && (let s := watched 2 none
        (streamOf s 63).any (fun x => (x.slots.find? (fun y => y.ts == 1000 && (y.st == .ready || y.st == .reading))).any
          (fun f => (wsig watchWords f.words f).isSome
            && (watchOf (watched 2 (wsig watchWords f.words f)) 0).any (fun w => w.wsig == wsig watchWords f.words f))))
    && (watchOf snd 0).isNone && (watchOf (watched 1 none) 0).any (fun w => w.st == 1)
    && ok 1 0x0440 [9] expecting (fun a => (proofOf a 9).last == some proof9
        && fits a (w32 (proofOf a 9).verdict :: expectedSig (proofOf a 9) 1536 :: proofWords (some proof9)))) = true := by
  decide +kernel

theorem wit_DeliveryClauses :
    (let one : State := { toDeliver with pair := { toDeliver.pair with mode := 1 } }
     one.pair.mode == 1 && !one.pair.holding && one.pair.deliv.isNone
     && ({ one with pair := { one.pair with deliv := some (wt32 8, 1) } }).pair.deliv == some (wt32 frame1.start, 1)
     && (let s := delivering { plan9 with sent := 2 } (some 4)
         let certs : State := { s with flume := { s.flume with certs := [(1, [⟨3, 1⟩])] } }
         flumeWaits certs 1 && (certs.flume.delivery.bind (fun d => d.chains.find? (fun x => x.chain == 1))).isNone)
     && bridged { toDeliver with flume := { toDeliver.flume with changes :=
          [{ chain := 0, rail := .A, below := 0x0001000000000000, change := 0, dn := 0, br := 0 }] } } 0x0001000000000000
     && !bridged toDeliver 0x0001000000000000) = true := by decide +kernel

theorem wit_ProofClauses :
    ((placeOfNa expecting 8).isNone && (placeOfNa expecting 9).isSome && !levelOne expecting 9
    && levelOne { expecting with flume := { expecting.flume with levels := [(0x0001000000000000, 1, 1)] } } 9) = true := by
  decide +kernel

/-- A tile of node address 9 with a picture of 1 by 2 blocks that one board and one lane cover. -/
def lampT : State :=
  wr (wr (wr { tile with id := { tile.id with na := some 9 } } tilGeom 0x0102) lmpCfg 0x41080000) lmpBoard 0x80001080

/-- The header of a packet of FRAME 5 to that tile. -/
def hdr5 : FlumeHdr := { typ := 1, level := 2, side := .A, bcast := false, frame := 5, dna := 9, route := 0, length := 0 }
def imaged (f : Image → Image) : State := { lampT with img := f lampT.img }
def open5 : OpenDeliv :=
  { frame := 5, full := false, level := 2, landed := [(0, [7])], quarter := false, commit := none, named := [], more := false, pt := none
    recv := none, exhausted := false, failNext := false, lastAt := 0 }
/-- Block bx of the bottom row, black, under a signature. -/
def block0 (sig : Word) (bx : Nat) : BlockIn := { bx := bx, by_ := 1, bsig := sig, inc := false, data := List.replicate 1152 0 }
def black : Word := crc32c (List.replicate 1152 0)
def regionOf0 (pidx : Nat) (b : BlockIn) : RegionPkt := { pidx := pidx, repair := false, full := false, blocks := [b] }

/-- The packet of type `t` with body `b` under `hdr5`. -/
def toTile (t : Nat) (bcast : Bool) (b : List Byte) : LinkPkt :=
  flumePkt .A { hdr5 with typ := t, bcast := bcast, length := b.length } b
def commit9 (na : BitVec 16) : CommitPkt := { pt := 0, epoch := 0, ents := [⟨na, false, 1, 0⟩] }

theorem wit_regionPacket :
    (tileIn lampT 1 (toTile 1 false (regionBody (regionOf0 1 (block0 black 0))))).any (fun e =>
      e.1.frame == 5 && readRegion e.2 == some (regionOf0 1 (block0 black 0))) = true := by decide +kernel

theorem wit_badRegionPacket :
    (tileIn lampT 1 (toTile 1 false (regionBody (regionOf0 1 (block0 1 1))))).any (fun e =>
      (readRegion e.2).any (fun r => r.blocks.filter (fun b => crc32c b.data != b.bsig
        || decide (tileWt lampT ≤ b.bx) || decide (tileHt lampT ≤ b.by_)) != [])) = true := by decide +kernel

theorem wit_TilePacketsAndCommits :
    ((tileIn lampT 1 (toTile 1 true [])).isNone && (tileIn lampT 1 (toTile 1 false [])).any (fun e => (readRegion e.2).isNone)
    && frameOld (imaged (fun i => { i with applied := some 5 })) 5 && !frameOld lampT 5
    && (let s := imaged (fun i => { i with open_ := some open5 })
        let o := (delivFor s 5 false 2).2
        o.landed.any (fun e => e.1 == 0) && !o.landed.any (fun e => e.1 == 1) && s.img.open_ == some open5
        && open5.commit.isNone && open5.landed != [])
    && (tileIn lampT 2 (toTile 2 true (commitBody (commit9 9)))).any (fun e => e.1.frame == 5
        && (readCommit e.2).any (fun x => (x.ents.find? (fun e => some e.na == lampT.id.na)).any (fun e => decide (1 ≤ e.npkt))))
    && lampT.img.open_.isNone && (reportFor lampT 5).isNone
    && (tileIn lampT 2 (toTile 2 true (commitBody (commit9 8)))).any (fun e =>
        (readCommit e.2).any (fun x => (x.ents.find? (fun e => some e.na == lampT.id.na)).isNone))
    && (let s := imaged (fun i => { i with applied := some 5, lastReport := [(5, 2, ⟨2, false, 1, 0, 0, 0, 5⟩)] })
        (reportFor s 5).isSome)
    && (let s := imaged (fun i => { i with ended := [5] })
        (reportFor s 5).isNone && frameOld s 5)) = true := by decide +kernel

/-- Pixels of one row: the coefficients of one and of 16 pixels. -/
def matrixWords (n : Nat) : List Word := [0, w32 (n * 2 ^ 16)] ++ List.replicate (cdiv (18 * n) 4) 0

theorem wit_EdgesAndMatrix :
    (!lampT.boot.held && !lampT.id.sender
    && (imaged (fun i => { i with pass := some ⟨8, [], false, 12, [], []⟩ })).img.pass.isSome
    && !lampT.img.lostPx.contains 1 && decide (0 < picH lampT ∧ 1 < picW lampT)
    && ok 1 0x0A40 (matrixWords 1) lampT (fun a => decide (fld 0 25 16 < picH a) && decide (fld 0 9 0 + 1 ≤ picW a)
        && decide (stagedBytes a + 18 ≤ 65536))
    && ok 1 0x0A40 (matrixWords 16) lampT (fun a => decide (fld 0 9 0 + 16 ≤ picW a))
    && ok 1 0x0A40 (matrixWords 16)
        (imaged (fun i => { i with staging := List.replicate 228 ⟨0, 0, List.replicate 16 [], ref8⟩ }))
        (fun a => decide (65536 < stagedBytes a + 18 * 16))
    && decide (31 < picH lampT)) = true := by decide +kernel

/-- A number field of four digits, and the same with a colour of no width. -/
def fieldWords : List Word := [0x2B200000, 0, 0x00100010, 0x00010000, 0, 0]

/-- A tile of 4 by 4 blocks that shows field 43, a symbol. -/
def bigT : State := wr lampT tilGeom 0x0404
def symWords : List Word := [0x2B300000, 0, 0x00200020, 0x80000000, 0, 0]
def withField (f : Field → Field) : State :=
  setField { bigT with fl := { bigT.fl with bdgNow := ⟨1, 1, [], [(43, symWords)], []⟩ } }
    (f { num := 43, words := symWords, vstate := 0, data := [0x3F], live := true, expired := false, deadline := none,
         due := false, lastAcc := none, exp := false, buf := 0, prior := [] })

/-- Whether the flash takes a change of the Badger record. -/
def flashTakes (a : State) (x : BdgChange) : Bool := (flashAsk a (.badger x) (some ref8) 1 false).2 == stPending

theorem wit_FieldsAndGlyphs :
    (ok 2 0x0501 fieldWords bigT (fun a => fieldOk a (maskWords fieldMask fieldWords)
        && flashTakes a (.define (fdNum fieldWords) (maskWords fieldMask fieldWords)))
    && ok 2 0x0501 (fieldWords.set 0 0x2C200000) bigT (fun a => !fieldOk a (maskWords fieldMask (fieldWords.set 0 0x2C200000)))
    && ok 2 0x0502 [0x2B000000] (withField id) (fun a => (fieldAt a 43).isSome && flashTakes a (.remove 43))
    && ok 2 0x0502 [0x2C000000] bigT (fun _ => decide (43 < fld 0x2C000000 31 24))
    && ok 2 0x0502 [0x2B000000] bigT (fun a => (fieldAt a 43).isNone && a.fl.queue.isEmpty && a.changes.isEmpty)
    && ok 2 0x0503 [0x2B000000] (withField id) (fun a => (fieldAt a 43).any (fun f => fits a f.words))
    && ok 2 0x0503 [0] bigT (fun a => (fieldAt a 0).isNone)
    && ok 2 0x0520 (0x03FF0101 :: List.replicate (glyphLen 1 1) 0) bigT (fun a =>
        decide (unitsUsed ((glyphsSoon a).filter (fun g => g.index ≠ 1023)) + glyphUnits 1 1 ≤ 4096)
        && (glyphConflict a 1023).isNone && flashTakes a (.glyph ⟨1023, 257, List.replicate (glyphLen 1 1) 0⟩))
    && ok 2 0x0520 (0x00004040 :: List.replicate (glyphLen 64 64) 0)
        { bigT with fl := { bigT.fl with bdgNow := ⟨1, 1, [], [], (List.range 128).map (fun i => ⟨i + 1, 0x4040, []⟩)⟩ } }
        (fun a => decide (4096 < unitsUsed ((glyphsSoon a).filter (fun g => g.index ≠ 0)) + glyphUnits 64 64))
    && ok 2 0x0521 [0x3FF] (withField (fun f => { f with data := [0x83FF] })) (fun a => (glyphConflict a 1023).isSome)
    && ok 2 0x0521 [0] bigT (fun a => (glyphConflict a 0).isNone && flashTakes a (.erase 0))
    && ok 1 0x0660 [0x003F] tile (fun _ => romCodeOk 0x003F)
    && ok 1 0x0660 [0x4000] tile (fun _ => !romCodeOk 0x4000)) = true := by decide +kernel

/-- A value packet with one entry for field 43. -/
def valueWords (at_ : Word) : List Word := [at_, 0x00010000, 0x2B010000, 0x3F]
/-- The overlay buffers 0 to 43 held. -/
def noBuf : State :=
  { bigT with
    fl := { bigT.fl with bdgNow := ⟨1, 1, [], (List.range 44).map (fun n => (n, symWords)), []⟩ }
    bdg := { bigT.bdg with fields := (List.range 44).map (fun n => ⟨n, symWords, 0, [], true, false, none, false, none, false, n, []⟩) } }

/-- Engine 15 breathing over a pixel, and a solid test pattern. -/
def engineWords : List Word := [0xF8F01010, 0, 0x00010001, 0x00140013, 0, 0x00100000]

theorem wit_OverlayContents :
    (ok 2 0x0510 (valueWords 0) (withField id) (fun a =>
        (parseValues 1 [0x2B010000, 0x3F]).any (fun ents => firstBad (badgerSoon a) 0 [] ents == none))
    && ok 2 0x0510 (valueWords 0) bigT (fun a =>
        (parseValues 1 [0x2B010000, 0x3F]).any (fun ents => firstBad (badgerSoon a) 0 [] ents == some 0))
    && ok 2 0x0510 (valueWords 1) (withField id) (fun a => !a.time.valid &&
        (parseValues 1 [0x2B010000, 0x3F]).any (fun ents => firstBad (badgerSoon a) 0 [] ents == none))
    && (fieldAt (withField (fun f => { f with deadline := some 8 })) 43).any (fun f => f.deadline == some 8 && !f.due)
    && (fieldAt (withField (fun f => { f with deadline := some 8, due := true })) 43).any (fun f => f.due)
    && ok 1 0x0630 engineWords bigT (fun a => engineOk a (maskWords engineMask engineWords)
        && !noBuffer a 15)
    && ok 1 0x0630 (engineWords.set 3 0x00130000) bigT (fun a => !engineOk a (maskWords engineMask (engineWords.set 3 0x00130000)))
    && ok 1 0x0630 (engineWords.set 0 0xF0001010) bigT (fun _ => enMode (maskWords engineMask (engineWords.set 0 0xF0001010)) == 0)
    && ok 1 0x0630 engineWords noBuf
        (fun a => enMode (maskWords engineMask engineWords) != 0 && noBuffer a 15)
    && ok 1 0x0638 [0x40020000, 0, 0] bigT (fun a => !noBuffer a 16 && decide (2 ≤ tpPitch (maskWords testMask [0x40020000, 0, 0]))
        && tpKind (maskWords testMask [0x40020000, 0, 0]) != 0
        && (askRecompute a 0 (.test [0x40020000, 0, 0]) (some ref8) 0).2 == stPending)
    && ok 1 0x0638 [0x40000000, 0, 0] bigT (fun _ => decide (tpPitch (maskWords testMask [0x40000000, 0, 0]) < 2))
    && ok 1 0x0638 [0x40020000, 0, 0] noBuf
        (fun a => noBuffer a 16)) = true := by decide +kernel

def lamps (s : State) (f : Lamp → Lamp) : State := { s with lamp := f s.lamp }

theorem wit_LampCommands :
    (ok 1 0x0601 [0] lampT (fun a => !a.lamp.drive) && ok 1 0x0601 [1] lampT (fun a => !a.lamp.drive && driveCheck a == none)
    && ok 1 0x0601 [1] (wr lampT lmpBoard 0) (fun a => (driveCheck a).any (fun e => isRefusal e.1))
    && ok 1 0x0601 [1] tile (fun a => getF a lmpCfg 31 30 == 0)
    && ok 1 0x0601 [0] (lamps lampT (fun l => { l with drive := true })) (fun a => a.lamp.drive)
    && ok 1 0x0640 [3] (wr lampT lmpCfg 0x83080000) (fun a => getF a lmpCfg 31 30 == 2)
    && ok 1 0x0640 [0x10000003] lampT (fun a => getF a lmpCfg 31 30 != 2 && decide (4095 < fld 0x10000003 31 16))
    && ok 1 0x0640 [0x0FFF0003] lampT (fun a => decide ((policyRegions a).length < 64))
    && ok 1 0x0642 [0] lampT (fun a => fits a [0, 0] && failedLamps a == [])
    && ok 1 0x0641 [0x80000000, 0, 0] lampT (fun _ => true)
    && ok 1 0x0641 [0, 0, 0x00100020] lampT (fun a => decide (16 ≤ picW a) && decide (32 ≤ picH a))
    && ok 1 0x0641 [0, 0, 0x00110020] lampT (fun a => decide (picW a < 17))) = true := by decide +kernel

/-- Operations on the lamp-board flash. -/
def boardOp (op : Nat) (ready : Bool) (susp : Option Nat) : BoardOp :=
  { op := op, board := 0, addr := 0, data := [], ref := ref8, start := 0, ready := ready, suspended := susp, issued := ready }

theorem wit_LampBoardBuses :
    (ok 1 0x0650 [0x80010000, 0] lampT (fun a => decide (4 ≤ replyRoom a .mgmt))
    && ok 1 0x0650 [0x00002000] lampT (fun a => fits a (0 :: padWords (busBytes a 32 (List.replicate 32 0)).1))
    && ok 1 0x0651 ([0x20000000, 0x100] ++ List.replicate 64 0) ({ lampT with pwr := { lampT.pwr with stopped := true } }) (fun a => nvStop a)
    && ok 1 0x0651 [0x30001000, 1] (lamps lampT (fun l => { l with boardOps := [boardOp 3 true none] }))
        (fun a => !nvStop a && a.lamp.boardOps != [])
    && ok 1 0x0651 [0x30001000, 1] lampT (fun a => !nvStop a && a.lamp.boardOps == []
        && (match sluiceAsk a .boardFlash 3 1 0 with | (_, .granted _) => true | _ => false))
    && ok 1 0x0651 [0x10000000, 0x100] lampT (fun a => !a.lamp.boardOps.any (·.ready)
        && fits a (padWords (busBytes a 256 (List.replicate 256 0)).1))
    && (suspendBoard lampT).lamp.boardOps == []
    && boardRunning (lamps lampT (fun l => { l with boardOps := [boardOp 2 true none] }))
    && (boardOp 3 true (some 8)).suspended == some 8) = true := by decide +kernel

/-- A frame edge has been. -/
def edged : State := timed lampT (fun t => { t with lastEdge := some (0, 0) })
def show1 (met : Bool) : Show := { edge := 0, show_ := 4000, cutoff := 2000, moved := false, met := met, lights := false }

theorem wit_RefreshAndShows :
    (lpMode (rd edged) == 1 && decide (edged.lamp.refEdge < lpMult (rd edged)) && edged.time.lastEdge.isSome && !edged.lamp.on
    && (let s := lamps edged (fun l => { l with dirty := [(0, 3)] })
        s.lamp.dirty.contains (0, 3) && !s.lamp.dirty.any (fun e => e.1 == 0 && decide (e.2 < 3)))
    && (let s := lamps { edged with pair := { edged.pair with outputs := true } } (fun l => { l with dark := some (0, 0) })
        s.lamp.dark == some (0, 0) && s.pair.outputs && !s.lamp.lit)
    && (let s := lamps edged (fun l => { l with shows := some (show1 false) })
        s.lamp.shows == some (show1 false) && s.img.pass.isNone && decide (s.lamp.lastWrite < 2000) && s.lamp.dirty == [])
    && (let s := lamps edged (fun l => { l with shows := some (show1 false), dirty := [(0, 0)] }); s.lamp.dirty != [])
    && (lamps edged (fun l => { l with shows := some (show1 true) })).lamp.shows == some (show1 true)) = true := by
  decide +kernel

theorem wit_LampProofs :
    ((lamps lampT (fun l => { l with readouts := [⟨0, 3, false, 8, 0⟩] })).lamp.readouts.find?
        (fun x => x.g == 0) == some ⟨0, 3, false, 8, 0⟩
    && !lampT.pair.holding && !lampT.pair.outputs && ({ lampT with pair := { lampT.pair with outputs := true } }).pair.outputs
    && (lampX lampT 0).pass.isNone && decide (0 < lampCount lampT)
    && (let s := setLamps lampT [{ lamp := 0, openFail := true, shortFail := false, openCnt := 3, shortCnt := 0, pass := some 4 }]
        (lampX s 0).pass == some 4)
    && ((lamps lampT (fun l => { l with sensors := l.sensors.set 31 ⟨some (400, 8), none⟩ })).lamp.sensors.getD 31 ⟨none, none⟩).last
        == some (400, 8)) = true := by decide +kernel

theorem wit_FieldRefusals :
    (ok 2 0x0510 (valueWords 1) bigT (fun a => (atFault a 1).isSome
        && (parseValues 1 [0x2B010000, 0x3F]).any (fun ents => firstBad (badgerSoon a) 0 [] ents == some 0))
    && (let v := timed (withField id) (fun t => { t with valid := true, clk := 8 * 10 ^ 8 })
        ok 2 0x0510 (valueWords 2200000000) v (fun a => a.time.valid && decide (4 * sdiff 2200000000 (nowW a) ≤ 8 * 10 ^ 9)
          && decide (-(10 ^ 9) ≤ 4 * sdiff 2200000000 (nowW a)))
        && ok 2 0x0510 (valueWords 2200000001) v (fun a => atFault a 2200000001 == some stBadParam)
        && ok 2 0x0510 (valueWords 4244967295) v (fun a => atFault a 4244967295 == some stBadParam))
    && ok 2 0x0520 (0x03FF0202 :: List.replicate (glyphLen 2 2) 0) (withField (fun f => { f with data := [0x83FF] })) (fun a =>
        (glyphConflict a 1023).isSome)
    && ok 1 0x0638 [0, 0, 0] bigT (fun a => decide (tpPitch (maskWords testMask [0, 0, 0]) < 2) || !noBuffer a 16)
    && ok 1 0x0638 [0x00020000, 0, 0] bigT (fun a => tpKind (maskWords testMask [0x00020000, 0, 0]) == 0
        && (askRecompute a 0 (.test [0x00020000, 0, 0]) (some ref8) 0).2 == stPending)) = true := by decide +kernel

/-- The board flash in a page program. -/
def paging : State := lamps lampT (fun l => { l with boardOps := [boardOp 2 true none] })

theorem wit_LampRefusals :
    (ok 1 0x0640 [0x0FFF0003] { lampT with changes := (List.range 64).map (fun k =>
        ⟨0, .policy k 1, none, 0, none, none, none⟩) } (fun a => getF a lmpCfg 31 30 != 2
        && !(policyRegions a).contains 4095 && decide (64 ≤ (policyRegions a).length))
    && ok 1 0x0650 [0x80000000] lampT (fun _ => true) && ok 1 0x0650 [0x00102100] lampT (fun _ => true)
    && ok 1 0x0651 [0x40000000, 1] lampT (fun _ => true) && ok 1 0x0651 [0x10000000, 0] lampT (fun _ => true)
    && ok 1 0x0651 [0x10000000, 0x101] lampT (fun _ => true)
    && ok 1 0x0651 ([0x20000001, 0x100] ++ List.replicate 64 0) lampT (fun _ => decide (256 < 1 % 256 + 256))
    && ok 1 0x0651 [0x30000FFF, 1] lampT (fun _ => true)
    && ok 1 0x0651 [0x10000000, 0x100] paging (fun a => !busLoading a && pageRunning a)
    && ok 1 0x0651 [0x10000000, 0x100] (lamps lampT (fun l => { l with boardOps := [boardOp 3 true none] })) (fun a =>
        !busLoading a && !pageRunning a && a.lamp.boardOps.any (fun o => o.ready && o.suspended.isNone))
    && ok 1 0x0651 [0x30001000, 1] (wr lampT pwrChip 0) (fun a => !nvStop a && a.lamp.boardOps == []
        && (match sluiceAsk a .boardFlash 3 1 0 with | (_, .refused) => true | _ => false))) = true := by decide +kernel

theorem wit_ShowClauses :
    (let s := lamps edged (fun l => { l with shows := some (show1 false) })
     (lamps s (fun l => { l with lastWrite := 2000 })).lamp.lastWrite == 2000
     && lpMode (rd (wr s lmpCfg 0x81080000)) == 2 && ({ s with img := { s.img with pass := some ⟨8, [], false, 12, [], []⟩ } }).img.pass.isSome
     && (lamps lampT (fun l => { l with readouts := [⟨0, 3, false, 8, 0⟩], dirty := [(0, 3)] })).lamp.dirty.any (fun e => e.1 == 0)
     && (readoutOf (lamps lampT (fun l => { l with readouts := [⟨0, 3, false, 8, 0⟩] })) 0).any (fun x => x.r == 3 && !x.short)
     && (lampX (setLamps lampT []) 0).pass.isNone
     && (let d := lamps { edged with pair := { edged.pair with outputs := true } } (fun l => { l with dark := some (0, 0), lit := true })
         d.lamp.dark == some (0, 0) && (decide (tailEnd d ≤ 8192) || decide (8192 < tailEnd d)))) = true := by decide +kernel

def pairT (s : State) (f : Pair → Pair) : State := { s with pair := f s.pair }

/-- A heartbeat and a HELLO of a healthy twin. -/
def beat1 : BeatMsg := ⟨false, true, 0x3F, 1, 0⟩
def helloB : HelloMsg := ⟨.B, 0, 0, 2, 1, 3, 2, 0, 0, true⟩

theorem wit_HelloAndHeartbeats :
    (!placeDiffers (pairT tile (fun p => { p with hello := some helloB }))
    && (pairT tile (fun p => { p with high := true })).pair.high && tile.pair.mode != 1 && !beat1.held
    && (pairT tile (fun p => { p with beat := some (beat1, 5), hbLost := true })).pair.hbLost
    && (let s := pairT tile (fun p => { p with beat := some (beat1, 5), mode := 1 })
        let s1 := toLt (5 + leaseNs s) s
        let s2 := heldGone (bump { s1 with pair := { s1.pair with hbLost := true } } pairHblost)
        !s.pair.hbLost && s2.pair.mode == 1 && !s2.pair.holding)
    && (let s := pairT tile (fun p => { p with beat := some (beat1, 5), mode := 1, holding := true })
        let s1 := toLt (5 + leaseNs s) s
        let s2 := heldGone (bump { s1 with pair := { s1.pair with hbLost := true } } pairHblost)
        s2.pair.mode == 1 && s2.pair.holding)
    && (let s := pairT tile (fun p => { p with beat := some (beat1, 5), mode := 2 })
        let s1 := toLt (5 + leaseNs s) s
        (heldGone (bump { s1 with pair := { s1.pair with hbLost := true } } pairHblost)).pair.mode != 1)
    && (pairT tile (fun p => { p with holdUntil := some 8, mode := 3 })).pair.mode == 3) = true := by decide +kernel

/-- A tile whose lamps are driven, so that its drive check passes too. -/
def passing : State := { tile with lamp := { tile.lamp with drive := true } }

theorem wit_Holding :
    ((let s := pairT passing (fun p => { p with lease := some (leaseNs tile), chk := 0x3F, pull := true, high := false })
      let s1 := toLt (leaseNs s - leaseNs s * 3 / 4) s
      decide (lt s1 < leaseNs s) && chkAll s1 && s1.pair.pull && !s1.pair.high)
    && (let s := pairT tile (fun p => { p with lease := some (leaseNs tile), chk := 0 })
        let s1 := toLt (leaseNs s - leaseNs s * 3 / 4) s
        decide (lt s1 < leaseNs s) && !chkAll s1)
    && (let s := pairT tile (fun p => { p with lease := some 0 })
        decide (0 ≤ lt (toLt (0 - leaseNs s * 3 / 4) s)))
    && tile.pair.token.isNone && !tile.pair.pull
    && (let s := pairT tile (fun p => { p with guard := some 0 })
        !s.id.sender && !s.pair.holding && s.pair.claim.isNone)
    && (let s := pairT passing (fun p => { p with guard := some 0, high := true, chk := 0x3F })
        let s1 := ownFaultTick (toLt (0 + guardNs) s)
        s1.pair.high && mayClaim s1)
    && (let s := pairT tile (fun p => { p with guard := some 0, chk := 0 })
        let s1 := ownFaultTick (toLt (0 + guardNs) s)
        !(s1.pair.high && mayClaim s1))
    && (let s := { pairT tile (fun p => { p with claim := some ⟨0, false⟩ }) with id := { tile.id with side := .B } }
        s.id.side == .B && s.pair.claim.isSome)) = true := by decide +kernel


/-- A field's expiry that waits for its edge, and a device in lockstep that has it. -/
def waiting (edge : Option Nat) : EdgeChange :=
  { id := 77, what := .expire 3, ref := none, acc := 0, partner := none, edge := edge, credit := none }
def inLockstep (h : Bool) (l : List EdgeChange) : State :=
  { pairT tile (fun p => { p with mode := 1, holding := h }) with changes := l }
def coef0 : CoefMsg := { edge := 0, slg := 0, boards := [] }
def state0 : StateMsg :=
  { lamps := [], fields := [], regions := [], policies := [], coef := coef0, staged := [], edge := 0, held := [], waiting := [], owl := [] }

theorem wit_Lockstep :
    ((inLockstep true []).pair.mode == 1 && ((inLockstep true []).changes.find? (waitsFor 77)).isNone
    && (inLockstep true [waiting none]).changes.find? (waitsFor 77) == some (waiting none)
    && (let s := inLockstep false [waiting none]
        let s1 (e : Word) := setChange s (fun x => x.id == 77 && x.edge.isNone) (fun x => { x with edge := some (nearClk (now s) e) })
        decide (now (s1 9) < nearClk (now s) 9) && decide (nearClk (now s) 0 ≤ now (s1 0)))
    && (let s := inLockstep true [waiting none]
        s.pair.holding && s.changes.find? (fun c => waitsFor 77 c && shared s.id.sender c.what) == some (waiting none))
    && (pairT tile (fun p => { p with resyncing := true })).pair.resyncing && !tile.pair.resyncing && !tile.pair.holding
    && !ownCoefs (inLockstep false []) && ownCoefs tile && named (inLockstep false [])
    && (let s := pairT { toDeliver with flume := { toDeliver.flume with canvasReady := some 5 } } (fun p => { p with mode := 1 })
        s.id.sender && !s.pair.holding && s.pair.deliv.isNone && s.canvas.newest.isSome && s.flume.delivery.isNone
        && s.canvas.undelivered && anyPending s)) = true := by decide +kernel

/-- A comparison message of a show at tick 9. -/
def cmp9 : CmpMsg := { incv := false, show_ := 9, bsigs := [], fsig := 0, cfgsig := 0, corsig := 0, incmap := [], lsig := [], xmapsig := 0 }
def resolving (own twin : Option (Nat × Byte)) : State :=
  pairT tile (fun p => { p with mode := 1, resolution := some { start := 0, groups := [], own := own, twin := twin } })

theorem wit_ComparisonAndResolution :
    ((inLockstep false []).pair.mode == 1 && tile.pair.mode != 1 && tile.pair.mode != 2
    && (let s := pairT tile (fun p => { p with cmpOwn := [cmp9] })
        s.pair.cmpOwn.any (fun m => m.show_ == 9) && !s.pair.cmpTwin.any (fun m => m.show_ == 9) && s.pair.resolution.isNone)
    && (let s := pairT snd (fun p => { p with mode := 1 }); s.id.sender && s.pair.mode == 1)
    && (resolving (some (1, 0)) none).pair.resolution.any (fun r => r.own.isSome && r.twin.isNone)
    && (resolving none none).pair.resolution.any (fun r => r.own.isNone)
    && (inLockstep false []).pair.resolution.isNone) = true := by decide +kernel

/-- A handover at tick `b0` of the device that holds. -/
def handing (acked released : Bool) (b0 : Nat) : State :=
  pairT holder (fun p => { p with handover := some { cause := some .verdict, b0 := b0, b0w := wt32 b0, acked := acked
                                                     released := released, holder := true } })

theorem wit_HandoversAndStatus :
    (ok 1 0x0801 [] tile (fun a => !a.pair.holding)
    && ok 1 0x0801 [] withStandby (fun a => a.pair.holding && portUp a 8 && twinChk a && a.pair.handover.isNone
        && a.pair.resolution.isNone)
    && ok 1 0x0801 [] (pairT withStandby (fun p => { p with handover := (handing false false 0).pair.handover }))
        (fun a => a.pair.holding && portUp a 8 && twinChk a && a.pair.handover.isSome)
    && !chkAll tile && !tile.pair.holding
    && (let s := pairT passing (fun p => { p with chk := 0x3F })
        !s.pair.holding && chkAll s && lifeOk s && !s.pair.stuck && !s.pair.yield && s.pair.claim.isNone)
    && (handing false false 10000).pair.handover.any (fun h => h.holder && !h.acked
        && decide (now (handing false false 10000) + 10000 ≤ h.b0))
    && (handing true false 0).pair.handover.any (fun h => h.acked && !h.released) && (handing true false 0).pair.holding
    && (handing true true 0).pair.handover.any (fun h => h.released)
    && !(toClk (0 + 6144) (pairT (handing true true 0) (fun p => { p with high := false }))).pair.high
    && ok 1 0x0802 [] tile (fun a => decide (20 ≤ replyRoom a .mgmt)) && ok 1 0x0803 [] tile (fun _ => true)) = true := by
  decide +kernel

theorem wit_PairClauses :
    ((pairT tile (fun p => { p with mode := 2, resyncDone := true })).pair.resyncDone
    && (pairT tile (fun p => { p with mode := 3 })).pair.mode == 3
    && (let s := pairT tile (fun p => { p with cmpTwin := [cmp9], resolution := some { start := 0, groups := [], own := none, twin := none } })
        s.pair.cmpOwn.any (fun m => m.show_ == 9) != s.pair.cmpTwin.any (fun m => m.show_ == 9) && s.pair.resolution.isSome)
    && (resolving none (some (1, 0))).pair.resolution.any (fun r => r.own.isNone && r.twin.isSome)
    && ok 1 0x0801 [] (pairT withStandby (fun p => { p with resolution := some { start := 0, groups := [], own := none, twin := none } }))
        (fun a => a.pair.holding && portUp a 8 && twinChk a && a.pair.resolution.isSome)
    && (handing false false 9999).pair.handover.any (fun h => h.holder && !h.acked
        && decide (h.b0 < now (handing false false 9999) + 10000))
    && !(pairT (handing true true 0) (fun p => { p with high := false })).pair.high
    && (pairT (handing true true 0) (fun p => { p with high := true })).pair.high
    && (let w := pairT { withStandby with id := { withStandby.id with sender := false } } (fun p => { p with mode := 1 })
        w.pair.holding && w.pair.mode == 1 && twinChk w && w.pair.handover.isNone && w.pair.resolution.isNone)
    && ok 1 0x0802 [0] tile (fun _ => true) && ok 1 0x0803 [0] tile (fun _ => true)) = true := by decide +kernel

/-- A device one of whose ports is changed. -/
def portIs (s : State) (p : Nat) (f : Port → Port) : State :=
  { s with link := { s.link with ports := s.link.ports.map (fun x => if x.p = p then f x else x) } }
def portOk (s : State) (p : Nat) (q : Port → Bool) : Bool := match portAt s p with | some x => q x | none => false

/-- What the far end says in training: a tile, and eyes of a good and of a closed line. -/
def words1 (role : Nat) : TrainWords :=
  { role := role, side := .A, lanes2 := false, feccap := true, full := true, flHigh := 2, flLow := 1, smHigh := 3, smLow := 2
    place := 0x0001000000, na := 0, nav := false }
def goodEye : Eye := ⟨24, 80, 24, 80⟩
def badEye : Eye := ⟨1, 1, 1, 1⟩

theorem wit_PortsTrain :
    (portOk tile 0 (fun x => decide (x.st ≤ 1)) && portOk tile 1 (fun x => decide (x.st ≤ 1))
    && portOk (portIs tile 0 (fun x => { x with st := 2 })) 0 (fun x => decide (1 < x.st))
    && portOk (portIs tile 0 (fun x => { x with st := 7 })) 0 (fun x => x.st == 7)
    && portOk (portIs tile 0 (fun x => { x with st := 4 })) 0 (fun x => x.st == 4)
    && ok 1 0x0030 [1] tile (fun a => fld 1 31 9 == 0 && (maskPorts (fld 1 8 0)).all (fun q => portExists a q)
        && !(maskPorts (fld 1 8 0)).any (fun q => portOk a q (·.cross)))
    && ok 1 0x0030 [1] (portIs tile 0 (fun x => { x with cross := true })) (fun a =>
        (maskPorts (fld 1 8 0)).any (fun q => portOk a q (·.cross)))
    && ok 1 0x0030 [0x80] tile (fun a => (maskPorts (fld 0x80 8 0)).any (fun q => !portExists a q))
    && portOk tile 0 (fun x => x.st != 2)
    && (let s := portIs snd 0 (fun x => { x with st := 2, step := 4 })
        s.id.sender && rolesMatch (portRole s 0) (words1 0).role && (words1 0).lanes2 == lanes2Of s 0 && !lanes2Of s 0
        && scanResult (lanes2Of s 0) [goodEye] == some (goodEye, false)
        && !eyeFails false false (lanes2Of s 0) goodEye && (offerOf s 0).isSome)
    && (let s := portIs snd 0 (fun x => { x with st := 2, step := 4, cfg := 0x10 })
        s.id.sender && lanes2Of s 0 && portOk s 0 (fun x => x.st == 2 && decide (x.step < 5)))
    && (let s := portIs tile 0 (fun x => { x with st := 2, step := 1 })
        !lanes2Of s 0 && !rolesMatch (portRole s 0) 3)
    && decide (throttleStep tile < 2)
    && (let s := portIs tile 0 (fun x => { x with st := 5 })
        portOk s 0 (fun x => !eyeImplausible x.lanes2 goodEye && !eyeFails (x.st == 5) x.fecOn x.lanes2 goodEye
          && !eyeImplausible x.lanes2 badEye && eyeFails (x.st == 5) x.fecOn x.lanes2 badEye && x.failRun != 2))
    && (let s := portIs tile 0 (fun x => { x with st := 3, failRun := 2 })
        portOk s 0 (fun x => !eyeImplausible x.lanes2 badEye && eyeFails (x.st == 5) x.fecOn x.lanes2 badEye && x.failRun == 2))
    && eyeImplausible false ⟨64, 255, 0, 0⟩ && decide (portSt tile 0 < 2)
    && decide (2 ≤ portSt (portIs tile 0 (fun x => { x with st := 5 })) 0)
    && portOk (portIs tile 0 (fun x => { x with st := 2, step := 5 })) 0 (fun x => decide ((x.sumX ++ [80]).length < 64))
    && portOk (portIs tile 0 (fun x => { x with st := 4, step := 7 })) 0 (fun x => x.st == 4 && x.step == 7)
    && portOk (portIs tile 0 (fun x => { x with st := 4, step := 8 })) 0 (fun x => x.st == 4 && x.step == 8)
    && portOk (portIs tile 0 (fun x => { x with st := 2, step := 6 })) 0 (fun x => x.st == 2 && x.step == 6)
    && portOk (portIs tile 0 (fun x => { x with lockLost := some 8 })) 0 (fun x => x.lockLost == some 8)
    && portOk tile 0 (fun x => x.lockLost.isNone)
    && (let s := portIs tile 0 (fun x => { x with st := 3, cfg := 0x200, partner := some (words1 1) })
        portOk s 0 (mayStep s) && portOk tile 0 (fun x => !mayStep tile x && x.st != 4))
    && portOk (portIs tile 0 (fun x => { x with st := 4 })) 0 (fun x => eyeFails true (linkFec x badEye false) x.lanes2 badEye
        && scanResult x.lanes2 [badEye] == some (badEye, false) && (scanResult x.lanes2 []).isNone
        && !eyeFails true (linkFec x goodEye true) x.lanes2 goodEye)
    && portOk (portIs tile 0 (fun x => { x with st := 2, step := 5, sumX := List.replicate 63 80 })) 0 (fun x =>
        decide (64 ≤ (x.sumX ++ [80]).length) && (calibrated (x.sumX ++ [80]) (64 * 80) 0).isSome
        && (calibrated (x.sumX ++ [80]) (64 * 80) 5).isNone)) = true := by decide +kernel

def linked (s : State) (f : Corsin → Corsin) : State := { s with link := f s.link }

/-- A control packet. -/
def ctl1 (c : BitVec 16) : LinkPkt := mkLink 2 .A false (ctlBytes 1 false true c 0 [])
def port5 (l : List ArqPkt) : State := portIs tile 0 (fun x => { x with st := 5, unacked := l })
def arq7 : ArqPkt := { cseq := 7, item := ⟨false, .crossReq true 0, none⟩, sent := 0, tries := 1 }

theorem wit_RoutingAndArq :
    (!tile.id.sender && { tile with id := { tile.id with placeOk := true } }.id.placeOk
    && (let k := { toTile 2 true [] with guest := true, rail := .B }
        linkGood k && (flumeHdr k).any (fun h => (guestWay tile 8 (decide (4 ≤ h.typ)) h.bcast h.route).isSome)
        && k.rail != tile.id.side && !ownRail tile k)
    && (flumeHdr { toTile 2 true [] with data := [] }).isNone && linkGood (mkLink 1 .B true [])
    && (flumeHdr (mkLink 1 .B true [])).isNone
    && (let k := toTile 4 false []
        ownRail tile k && linkGood k && !linkGood { k with endc := 0xE1 }
        && (flumeHdr k).any (fun h => decide (ownLow tile ≤ h.level) && decide (h.level ≤ ownHigh tile)))
    && (let k := flumePkt .A { hdr5 with typ := 4, level := 0 } []
        (flumeHdr k).any (fun h => decide (h.level < ownLow tile)))
    && portOk (port5 [arq7]) 0 (fun x => x.unacked.all (fun a => 4 * cdiv (arqDeadline x a) 4 != lt (port5 [arq7]))
        && x.unacked.find? (fun a => a.cseq == 7) == some arq7 && (x.unacked.find? (fun a => a.cseq == 8)).isNone
        && 4 * cdiv (arqDeadline x arq7) 4 == lt (toLt (arqDeadline x arq7) (port5 [arq7])) && decide (cdiff arq7.cseq 7 ≤ 0))
    && portOk (port5 []) 0 (fun x => decide (cdiff 0 x.lastIn ≤ 0) && decide (0 < cdiff 1 x.lastIn)
        && decide (cdiff 1 x.lastIn ≤ 32) && !x.gotAhead.any (fun e => e.1 == 1) && x.p == 0 && upPort (port5 []) 0 == some x)
    && linkGood (ctl1 1) && (readCtl (ctl1 1)).any (fun q => q.cseq == 1) && (readCtl (ctl1 0)).any (fun q => q.cseq == 0)
    && !linkGood { ctl1 1 with crc := 0 }) = true := by
  decide +kernel

/-- A device that may cross: its port is up and its twin sits in its place. -/
def crosser (s : State) : State :=
  pairT (portIs s 0 (fun x => { x with st := 5, cfg := 0x100 })) (fun p => { p with
    hello := some { helloB with role := if s.id.sender then 1 else 0, place := placeRoute s } })

theorem wit_Crossings :
    (!(portUp tile 0 && bit (portCfg tile 0) 8 && !placeDiffers tile)
    && (let s := crosser tile; !s.id.sender && portUp s 0 && bit (portCfg s 0) 8 && !placeDiffers s)
    && (let s := crosser snd; portUp s 0 && bit (portCfg s 0) 8 && !placeDiffers s)
    && (let s := portIs tile 0 (fun x => { x with crossAsked := true }); portOk s 0 (·.crossAsked) && !portUp s 0)
    && (let s := linked (crosser snd) (fun l => { l with crossChains := [(0, .A)] })
        s.id.sender && portUp s 0 && s.link.crossChains.contains (0, s.id.side) && !openOn s 0
        && decide (plHop 0x0001000000000000 ≤ 1) && decide (1 < plHop 0x0002000000000000))) = true := by decide +kernel

/-- Channel 0 trained, at density 1. -/
def ch0 : DramCh :=
  { ch := 0, step := 8, tries := 0, total := 0, trained := true, failed := false, dens := 1, rdEye := 20, wrEye := 20
    hot := false, refreshNs := 3906, retryAt := none, drift := 0, since := 0, busy := 0, dqsAt := 0, mr4At := 0, refFrom := 0
    refreshed := [] }
def dramT (s : State) (f : Dram → Dram) : State := { s with dram := f s.dram }
def ready0 (s : State) (f : DramCh → DramCh) : State := dramT s (fun d => { d with state := 2, chans := [f ch0] })
/-- A read of a request port that waits for its return. -/
def req3 : DramReq := { tag := 3, port := 1, ch := 0, addr := 64, len := 4, write := none, at_ := 0, data := [0, 0, 0, 0], poison := false }

theorem wit_DramTransactions :
    ((let s := ready0 tile id
      !s.boot.held && portServes s.id.sender 0 && s.dram.state == 2 && !s.dram.ended && tagFree s 0
      && decide (4096 ≤ dramSpace s))
    && (let s := ready0 snd id
        portServes s.id.sender 12 && tagFree s 12 && decide (0 < dramSpace s))
    && (let s := dramT (ready0 snd id) (fun d => { d with reqs := List.replicate 4 { req3 with port := 12 } })
        portServes s.id.sender 12 && !tagFree s 12 && decide (0 + 1 ≤ dramSpace s))
    && (let s := dramT (ready0 tile id) (fun d => { d with state := 3 }); s.dram.state == 3)
    && (let s := dramT (ready0 tile id) (fun d => { d with ended := true }); s.dram.ended)
    && !portServes tile.id.sender 2 && tile.dram.state != 2 && tile.dram.state != 3 && tile.dram.state != 4
    && !tile.dram.ended) = true := by decide +kernel

/-- A lane scan that passes, one whose least eye is too small, and one that is implausible each time. -/
theorem wit_DramTraining :
    (laneScan [[20, 20, 20, 20]] == some (some 20) && laneScan [[4, 20, 20, 20]] == some none
    && (laneScan []).isNone && laneScanOdd [60, 1, 1, 1]
    && (let s := dramT tile (fun d => { d with chans := [ch0, { ch0 with ch := 1, step := 3, trained := false }] })
        (chanOf s 0).any (fun y => y.trained && y.dens != 2) && (chanOf s 1).any (fun x => decide (1 ≤ x.step) && decide (x.step < 8)))
    && (let s := dramT tile (fun d => { d with chans := [{ ch0 with step := 3, trained := false }] })
        (chanOf s 0).any (fun x => decide (1 ≤ x.step) && decide (x.step < 8)))) = true := by decide +kernel

theorem wit_AddressMapping : (decide (1 ≤ (chansInUse (ready0 tile id)).length)) = true := by decide +kernel

theorem wit_DramUpkeep :
    ((chanOf (ready0 tile (fun c => { c with step := 1, trained := false })) 0).any (fun x => x.step == 1)
    && (chanOf (ready0 tile (fun c => { c with step := 7, trained := false })) 0).any (fun x => decide (x.step < 8))
    && (chanOf (ready0 tile (fun c => { c with step := 0 })) 0).any (fun x => x.step == 0)
    && (chanOf (ready0 snd (fun c => { c with failed := true, retryAt := some 8 })) 0).any (fun x => x.failed && x.retryAt == some 8)
    && (let s := ready0 tile id
        (chanOf s 0).any (fun x => x.trained && !x.hot) && !s.dram.srCh.contains 0 && s.dram.state == 2
        && decide (postponedOf s 0 1 < 8) && !s.dram.reqs.any (fun r => r.ch == 0) && getF (wr s memSr 1) memSr 15 0 != 0
        && (s.dram.reqs.find? (fun r => r.tag == 3)).isNone)
    && decide (8 ≤ postponedOf (dramT (ready0 tile id) (fun d => { d with postponed := [((0, 1), 8)] })) 0 1)
    && (let s := dramT (ready0 tile id) (fun d => { d with reqs := [req3] })
        s.dram.reqs.any (fun r => r.ch == 0) && s.dram.reqs.find? (fun r => r.tag == 3) == some req3
        && !s.dram.reqs.any (fun x => x.port == req3.port && x.ch == req3.ch && decide (x.tag < 3))
        && decide (lt s - req3.at_ < ageBound s 1))
    && (let s := wr (dramT (ready0 tile id) (fun d => { d with reqs := [{ req3 with at_ := 10000 }] })) memSr 10
        (chanOf s 0).any (fun x => s.dram.reqs.all (fun r => decide (idleEnd s x ≤ r.at_) && decide (r.at_ < idleEnd s x + 22))))
    && (let s := wr (dramT (ready0 tile id) (fun d => { d with reqs := [req3] })) memSr 10
        (chanOf s 0).any (fun x => s.dram.reqs.any (fun r => decide (r.at_ < idleEnd s x))))
    && (let s := dramT (ready0 tile id) (fun d => { d with reqs := [{ req3 with tag := 2 }, req3] })
        s.dram.reqs.any (fun x => x.port == req3.port && x.ch == req3.ch && decide (x.tag < 3)))
    && (let s := dramT (ready0 tile id) (fun d => { d with reqs := [{ req3 with len := 32, write := some (List.replicate 32 0) }] })
        (s.dram.reqs.find? (fun r => r.tag == 3)).any (fun r => r.write.isSome && decide (lt s - r.at_ < ageBound s r.port)
          && (touchedUnits r.addr r.len).filter (fun u => !(wholeUnits r.addr r.len).contains u) == []))
    && (let s := wr (ready0 tile id) memScrub 1
        getF s memScrub 7 0 != 0 && decide (32 ≤ dramSpace s) && throttleStep s == 0 && !s.dram.poisoned.contains 0)
    && (dramT (ready0 tile id) (fun d => { d with state := 3, frozenAt := some 4 })).dram.frozenAt == some 4
    && tile.dram.state != 1 && tile.dram.state != 2) = true := by decide +kernel

def sramT (f : Sram → Sram) : State := { tile with sram := f tile.sram }

/-- A request of port 1 to word 8 of bank 5, with or without a write of it. -/
def sramReq (port bank : Nat) (w : Option (Nat × List Byte)) : SramReq :=
  { port := port, secure := false, cycle := 0, bank := bank, word := 8, write := w, err := 0 }

theorem wit_MarchTests :
    (displaced [sramReq 1 5 (some (0, [1]))] (sramReq 0 5 (some (0, [1]))) && !displaced [] (sramReq 0 5 (some (0, [1])))
    && !tile.sram.poisoned.contains (sramAddr 5 8)
    && (let s := sramT (fun m => { m with active := [(5, 1023)], mmode := 1 })
      s.sram.active.find? (fun e => e.1 == 5) == some (5, 1023) && throttleStep s == 0)
    && (sramT (fun m => { m with active := [(5, 1024)], mmode := 1 })).sram.active.find? (fun e => e.1 == 5) == some (5, 1024)
    && (let s := wr (sramT (fun m => { m with doneAt := some 4, mmode := 1 })) srmMarch 0x40000001
        s.sram.doneAt == some 4 && getF s srmMarch 15 0 != 0 && getF s srmMarch 31 30 == 1)) = true := by decide +kernel

/-- A request for credits of class 3 made at local time 0. -/
def asked (cls : Nat) (chip : Nat) : Credit := { id := 1, op := .boardFlash, cls := cls, chip := chip, lamp := 0, at_ := 0 }
def slu (s : State) (f : Sluice → Sluice) : State := { s with slu := f s.slu }

theorem wit_SluiceAndGain :
    ((let s := slu lampT (fun u => { u with waiting := [asked 3 1] })
      nextGrant s == some (asked 3 1) && !waitOver s (asked 3 1) && (waitLimit s 3).isSome && decide (1 ≤ lt s + 1))
    && (let s := slu (timed lampT (fun t => { t with lt := 10 ^ 12 })) (fun u => { u with waiting := [asked 3 1] })
        nextGrant s == some (asked 3 1) && waitOver s (asked 3 1))
    && (nextGrant lampT).isNone
    && ok 1 0x0901 [] lampT (fun a => decide (12 ≤ replyRoom a .mgmt))
    && (slu lampT (fun u => { u with lowSince := some 0 })).slu.lowSince == some 0 && decide (32768 ≤ getF (wr lampT tilSlg 0x8000) tilSlg 15 0)
    && (let s := slu (wr lampT tilSlg 0x4000) (fun u => { u with lowSince := some 0 })
        let s1 := toLt (10 ^ 6 * getF s pwrRaise 15 0) s
        let v := min 32768 (getF s tilSlg 15 0 + getF s1 pwrRaise 31 16)
        let need := stepLamp s1 (limitG (getF s1 tilBright 15 0) v) (limitG (getF s1 tilBright 15 0) (getF s tilSlg 15 0))
        let s2 := { s1 with slu := { s1.slu with raised := true, lowSince := none } }
        !s.id.sender && ownCoefs s && decide (getF s tilSlg 15 0 < 32768)
        && (askRecompute s2 (idOfItem 0 0 0) (.slg v) none need).2 == stPending)
    && (let s := slu (wr (wr lampT tilSlg 0x4000) pwrChip 0) (fun u => { u with lowSince := some 0 })
        let s1 := toLt (10 ^ 6 * getF s pwrRaise 15 0) s
        let v := min 32768 (getF s tilSlg 15 0 + getF s1 pwrRaise 31 16)
        let need := stepLamp s1 (limitG (getF s1 tilBright 15 0) v) (limitG (getF s1 tilBright 15 0) (getF s tilSlg 15 0))
        let s2 := { s1 with slu := { s1.slu with raised := true, lowSince := none } }
        (askRecompute s2 (idOfItem 0 0 0) (.slg v) none need).2 == stNoCredit)) = true := by decide +kernel

def pwr (s : State) (f : Power → Power) : State := { s with pwr := f s.pwr }

theorem wit_PowerSupply :
    (!tile.pwr.stopped && (pwr tile (fun p => { p with stopped := true, goodSince := some 4 })).pwr.goodSince == some 4
    && !tile.pwr.vio18Low && (pwr tile (fun p => { p with vio18Low := true })).pwr.vio18Low
    && (let s1 := railTake tile 0 1000
        !(s1.pwr.railFault.contains 0 && !tile.pwr.railFault.contains 0) || s1.pwr.railFault.contains 0)
    && State.reset.boot.held
    && (railTake (pwr State.reset (fun p => { p with vio18Low := true })) 6 1750).pwr.vio18Low
    && tile.pwr.violNominal.isNone && (pwr tile (fun p => { p with violNominal := some 1800 })).pwr.violNominal.isSome
    && !([2, 3] : List Nat).any (fun k => tile.pwr.railWarn.contains k || tile.pwr.railFault.contains k)
    && ok 1 0x0920 [] tile (fun a => decide (36 ≤ replyRoom a .mgmt))) = true := by decide +kernel

/-- Whether a rail at a level newly warns, and newly faults. -/
def railNew (s : State) (k mv : Nat) : Bool × Bool :=
  let s1 := railTake s k mv
  (s1.pwr.railWarn.contains k && !s.pwr.railWarn.contains k, s1.pwr.railFault.contains k && !s.pwr.railFault.contains k)

theorem wit_Rails : railNew tile 0 723 = (false, false) ∧ railNew tile 0 722 = (true, false) ∧ (railNew tile 0 690).2 = true := by
  decide +kernel

/-- The dies at `t` sixteenths of a degree. -/
def dies (s : State) (t : Int) : State :=
  throttle (dieConvert (toLt (s.pwr.lastConv.getD 0 + (if s.pwr.fastConv then 10 ^ 6 else 10 ^ 7)) s) (List.replicate 16 t))

theorem wit_ClocksAndHeat :
    (countOk 400000 400000 && !countOk 400000 0
    && decide (tmaxOf (dies tile 1919) < 1920) && decide (1920 ≤ tmaxOf (dies tile 1920))
    && (pwr tile (fun p => { p with shutdown := true })).pwr.shutdown && !tile.pwr.shutdown && tile.pwr.tstep == 0
    && (let s := pwr tile (fun p => { p with tstep := 3, below := p.below.map (fun _ => some 8) })
        s.pwr.tstep == 2 + 1 && s.pwr.below.getD 2 none == some 8)
    && (pwr tile (fun p => { p with shutdown := true, coolSince := some 8 })).pwr.coolSince == some 8
    && ok 1 0x0910 [] tile (fun a => fits a (0 :: a.pwr.sensors.map (fun _ => 0)))) = true := by decide +kernel

theorem wit_RailsBack :
    (let low (s : State) : Bool := [2, 3].any (fun k => s.pwr.railWarn.contains k || s.pwr.railFault.contains k)
     let s := railTake tile 2 500
     low s && !low (throttle (railTake s 2 900)) && !s.boot.held) = true := by decide +kernel

/-- A packet of 4,096 bytes. -/
def okLong : LinkPkt := { mkLink 1 .A false [] with len := 4096 }

theorem wit_LinkClauses :
    (portOk (portIs tile 0 (fun x => { x with lockLost := some 0 })) 0 (fun x => x.lockLost == some 0)
    && decide (0 + 2000 ≤ lt (toLt 2000 tile)) && decide (lt tile < 0 + 2000)
    && !(tile.id.placeOk)
    && (let s := linked tile (fun l => { l with upQueue := List.replicate 8 (1, { okLong with guest := false }) })
        decide (32768 < (s.link.upQueue.map (fun e => e.2.len)).sum + okLong.len))
    && portOk (port5 []) 0 (fun x => decide (32 < cdiff 33 x.lastIn) && decide (cdiff 32 x.lastIn ≤ 32))
    && (readCtl (mkLink 2 .A false (List.replicate 16 7))).isNone && linkGood (mkLink 2 .A false (List.replicate 16 7))
    && portOk (portIs tile 0 (fun x => { x with st := 5, gotAhead := [(2, ⟨1, false, true, 2, 0, .A, false, []⟩)] })) 0 (fun x =>
        x.gotAhead.any (fun e => e.1 == 2))) = true := by decide +kernel

theorem wit_DramClauses :
    (getF (wr tile memSr 0) memSr 15 0 == 0 && getF (wr tile memScrub 0) memScrub 7 0 == 0
    && (let s := dramT (ready0 tile id) (fun d => { d with reqs := [{ req3 with write := some [1, 2], len := 2 }] })
        (s.dram.reqs.find? (fun r => r.tag == 3)).any (fun r => r.write.isSome && readUnits r != []))
    && (let s := dramT (ready0 tile id) (fun d => { d with reqs := [{ req3 with poison := true }] })
        (s.dram.reqs.find? (fun r => r.tag == 3)).any (fun r => r.poison && r.write.isNone))
    && (let s := dramT (ready0 (timed tile (fun t => { t with lt := 10 ^ 9 })) id) (fun d => { d with reqs := [req3] })
        decide (ageBound s 1 ≤ lt s - req3.at_))
    && (dramT (ready0 tile id) (fun d => { d with poisoned := [0] })).dram.poisoned.contains 0
    && (chanOf (ready0 tile (fun c => { c with trained := false })) 0).any (fun x => !x.trained)
    && tile.dram.frozenAt.isNone
    && (sramReq 0 64 none).bank == 64 && ({ sramReq 0 64 none with secure := true }).secure
    && (sramT (fun m => { m with active := [(5, 1023)], mmode := 2 })).sram.mmode != 1
    && tile.sram.doneAt.isNone && (tile.sram.active.find? (fun e => e.1 == 5)).isNone
    && ({ tile with sec := { tile.sec with wiping := true } }).sec.wiping) = true := by decide +kernel

/-- How Sluice takes a request: 0 granted, 1 waiting, 2 refused. -/
def askOf (a : State) (op : HeavyOp) (cls chip lamp : Nat) : Nat :=
  match (sluiceAsk a op cls chip lamp).2 with
  | .granted _ => 0
  | .waiting _ => 1
  | .refused => 2

/-- A state whose chip budget is what it uses already and n more, and one in which another waits ahead. -/
def chips (s : State) (n : Nat) : State := wr s pwrChip (w32 ((standing s + n) * 2 ^ 16))
def behindOne (s : State) : State := slu s (fun u => { u with waiting := [asked 1 1000] })
def calIn0 : CalIn := { lanes := [], gainErr := none, zero := 0, rcCount := none, rcTrimmed := 0, sensors := [] }
def calT (s : State) (f : Calib → Calib) : State := { s with cal := f s.cal }
def loading (x : Option (Option CmdRef)) : State :=
  calT lampT (fun m => { m with boards := m.boards.set 0 { boardNone with loading := x } })

theorem wit_CalibrationCommands :
    (ok 1 0x0A01 [0] tile (fun _ => fld 0 3 0 == 0) && ok 1 0x0A01 [5] tile (fun _ => decide (4 < fld 5 3 0))
    && ok 1 0x0A01 [2] snd (fun a => a.id.sender)
    && ok 1 0x0A01 [1] tile (fun a => !calBusy a 1 && askOf a (.calRun 1 ref8) 3 5 0 == 0)
    && ok 1 0x0A01 [3] (behindOne tile) (fun a => !calBusy a 3 && askOf a (.calRun 3 ref8) 3 5 0 == 1)
    && ok 1 0x0A01 [4] (chips tile 4) (fun a => !calBusy a 4 && askOf a (.calRun 4 ref8) 3 5 0 == 2)
    && ok 1 0x0A02 [4] tile (fun a => decide (4 ≤ replyRoom a .mgmt)) && ok 1 0x0A02 [5] tile (fun _ => true)
    && ok 1 0x0A41 [] tile (fun a => (flashAsk a .matrixSave (some ref8) 2 false).2 == stPending)
    && ok 1 0x0A50 [0x10001] lampT (fun a => boardsIn 1 != [] && (boardsIn 1).all (fun b => (boardsOn a).contains b)
        && !(boardsIn 1).any (boardBusy a) && askOf a (.ttab 1 true (some ref8)) 3 5 0 == 0)
    && ok 1 0x0A50 [1] (behindOne lampT) (fun a => askOf a (.ttab 1 false (some ref8)) 3 5 0 == 1
        || (boardsIn 1).any (boardBusy a))
    && ok 1 0x0A50 [1] (loading (some none)) (fun a => (boardsIn 1).any (boardBusy a))
    && ((loading (some (some ref8))).cal.boards.getD 0 boardNone).loading == some (some ref8)
    && (lampT.cal.boards.getD 0 boardNone).loading.isNone) = true := by decide +kernel

/-- A device whose other slot has a state, and whose download is open or not. -/
def slotT (st : Nat) (dl : Option Nat) : State :=
  { tile with fl := { tile.fl with dl := dl, boot1 := none
                                   boot0 := some { bootCur tile with stB := st, lenB := 4096, verB := 7 } } }
def flT (s : State) (f : Flash → Flash) : State := { s with fl := f s.fl }
def stopped (s : State) : State := pwr s (fun p => { p with stopped := true })

theorem wit_Download :
    (ok 3 0x0B01 [0, 0, 0] tile (fun _ => true) && ok 3 0x0B01 [16777217, 0, 0] tile (fun _ => decide (16777216 < (16777217 : Word).toNat))
    && ok 3 0x0B01 [1, 0, 0] (flT tile (fun f => { f with trial := true })) (fun a => a.fl.trial)
    && ok 3 0x0B01 [16777216, 0, 0] (stopped tile) (fun a => nvStop a && !a.fl.trial)
    && ok 3 0x0B01 [4096, 7, 1] (slotT 1 (some 0)) (fun a => !nvStop a && dlOpen a && (bootCur a).st (otherSlot a) == 1
        && (bootCur a).len (otherSlot a) == 4096 && (bootCur a).ver (otherSlot a) == 7)
    && ok 3 0x0B01 [4096, 7, 0] tile (fun a => !dlOpen a && askOf a (.download ref8 4096 7 0) 2 5 0 == 0)
    && ok 3 0x0B01 [4096, 7, 0] (behindOne tile) (fun a => !dlOpen a && askOf a (.download ref8 4096 7 0) 2 5 0 == 1)
    && ok 3 0x0B01 [4096, 7, 0] (chips tile 4) (fun a => !dlOpen a && askOf a (.download ref8 4096 7 0) 2 5 0 == 2)
    && ok 3 0x0B02 [0] tile (fun a => !dlOpen a)
    && ok 3 0x0B02 [1] (slotT 1 (some 0)) (fun a => dlOpen a && slotState a (otherSlot a) == 1)
    && ok 3 0x0B02 (0 :: List.replicate 1024 0) (slotT 1 (some 0)) (fun a => dlOpen a && slotState a (otherSlot a) == 1
        && decide (0 < (bootCur a).len (otherSlot a)) && cdiv (min 4096 ((bootCur a).len (otherSlot a) - 0)) 4 == 1024
        && (flashAsk a (.fwBlock 0 []) (some ref8) 2 true).2 == stPending)
    && (slotT 1 (some 0)).fl.dl == some 0 && tile.fl.dl.isNone) = true := by decide +kernel

/-- The other slot complete: its one block is marked. -/
def complete : State :=
  flT (slotT 1 none) (fun f => { f with slotA := { f.slotA with marked := [0] }, slotB := { f.slotB with marked := [0] } })

theorem wit_FirmwareCommands :
    (ok 3 0x0B03 (List.replicate 1964 0) tile (fun a => slotState a (otherSlot a) != 2)
    && ok 3 0x0B03 (List.replicate 1964 0) complete (fun a => slotState a (otherSlot a) == 2 && askOf a (.verify ref8) 2 8 0 == 0)
    && ok 3 0x0B03 (List.replicate 1964 0) (behindOne complete) (fun a => slotState a (otherSlot a) == 2 && askOf a (.verify ref8) 2 8 0 == 1)
    && ok 3 0x0B04 [] tile (fun a => decide (24 ≤ replyRoom a .mgmt))
    && ok 3 0x0B05 [1] tile (fun a => slotState a (otherSlot a) != 3)
    && ok 3 0x0B05 [1] (slotT 3 none) (fun a => slotState a (otherSlot a) == 3 && !a.fl.trial && !nvStop a && !a.pair.holding)
    && (let s := flT withStandby (fun f => { f with boot0 := (slotT 3 none).fl.boot0, boot1 := none })
        ok 3 0x0B05 [1] s (fun a => slotState a (otherSlot a) == 3 && a.pair.holding && a.pair.handover.isNone && standbyReady a))
    && ok 3 0x0B06 [] tile (fun a => !a.fl.trial)
    && ok 3 0x0B06 [] (flT tile (fun f => { f with trial := true, migFail := true })) (fun a => a.fl.trial && a.fl.migFail)
    && ok 3 0x0B06 [] (flT tile (fun f => { f with trial := true
                                                   boot0 := some { bootCur tile with arm := true, armTime := opTime tile } }))
        (fun a => a.fl.trial && !a.fl.migFail && decide (opTime a < trialEnd a)
          && (flashAsk a .fwConfirm (some ref8) 2 true).2 == stPending)
    && ok 3 0x0B07 [] (flT tile (fun f => { f with trial := true })) (fun a => a.fl.trial)
    && ok 3 0x0B07 [] tile (fun a => !a.fl.trial && slotState a (otherSlot a) != 1 && slotState a (otherSlot a) != 2)
    && ok 3 0x0B07 [] complete (fun a => !a.fl.trial && slotState a (otherSlot a) == 2)) = true := by decide +kernel

/-- A device in recovery mode with a slot of one block. -/
def recovering : State := { tile with boot := { tile.boot with phase := 3 } }

/-- The steps of 02 R40 of a command in recovery mode, other than the tag. -/
def preRec (s : State) (op : Nat) (p : Smb) : Bool :=
  let u := passFive (freed 3 p s) p (sess8 3)
  let a := countNotime u p
  shapeOk p && levelOk (freed 3 p s) p && hSess p.hdr == 8 && hDmode p.hdr == 0 && hKeyc p.hdr == 3
    && inWindow (sess8 3) (hSeq p.hdr) && sessRef p == ⟨8, none⟩ && issueOk u p && knownInRecovery op
    && !queueFull a (cmdRef u op p)
    && match opSpec op with
      | none => false
      | some o => (if a.id.sender then o.snd else o.tile) && (o.keys.contains 3 && keyOk op p)
          && ownerOk a (domOf o 3) (cmdRef u op p).sess

theorem checks_pass_rec {op : Nat} {p : Smb} {s : State} {o : OpSpec} (ho : opSpec op = some o) (h1 : issueOk s p = true)
    (h2 : knownInRecovery op = true) (h3 : (if (countNotime s p).id.sender then o.snd else o.tile) = true)
    (h4 : o.keys.contains (hKeyc p.hdr) = true) (h5 : keyOk op p = true) (h5k : hKeyc p.hdr = 3)
    (h6 : ownerOk (countNotime s p) (domOf o (hKeyc p.hdr)) (cmdRef s op p).sess = true) (h7 : hDmode p.hdr = 0) :
    checks69 op p s = .accept (cmdRef s op p) (countNotime s p) := by
  rw [h5k] at h4 h6
  simp only [checks69, h1, ho, h2, h3, h4, h5, h5k, h6, h7, keyUpdate]; simp

theorem acc_rec {s : State} {op : Nat} {l : List Word} (h : preRec s op (cmd 3 op l) = true) :
    Accepted op (cmd 3 op l) (with_ 3 (cmd 3 op l) s) (aft 3 op l s) (refOf 3 op l s) := by
  simp only [preRec, Bool.and_eq_true, Bool.not_eq_true', beq_iff_eq] at h
  obtain ⟨⟨⟨⟨⟨⟨⟨⟨⟨⟨h2, h3⟩, h4⟩, h5⟩, h6⟩, h7⟩, h8⟩, h9⟩, h10⟩, h11⟩, h12⟩ := h
  refine ⟨rfl, ?_, h11⟩
  rw [steps_pass (b := freed 3 (cmd 3 op l) s) (x := sess8 3) rfl rfl (reaches_cmd 3 op l s) h2 h3 h4 h5
    (match_cmd h8 h6) (tagOk_cmd 3 op l) h7]
  cases ho : opSpec op with
  | none => rw [ho] at h12; exact absurd h12 (by simp)
  | some o =>
    simp only [ho, Bool.and_eq_true] at h12
    obtain ⟨⟨ha, hb, hc⟩, hd⟩ := h12
    exact checks_pass_rec ho h9 h10 ha (by rw [h6]; exact hb) hc h6 (by rw [h6]; exact hd) h5

/-- The header block of an image of one block put into slot A. -/
def imageBlock : List Word := List.replicate 1024 1

theorem wit_Recovery :
    (preRec recovering 0x0F02 (cmd 3 0x0F02 (0 :: imageBlock)) && preRec recovering 0x0F02 (cmd 3 0x0F02 (4096 :: imageBlock))
    && preRec recovering 0x0F03 (cmd 3 0x0F03 (0 :: List.replicate 1964 0))
    && inRecovery (aft 3 0x0F02 (0 :: imageBlock) recovering)
    && (flashAsk (aft 3 0x0F02 (0 :: imageBlock) recovering) (.recoveryWrite 0 0 []) none 2 true).2 == stPending
    && (let a := flT recovering (fun f => { f with staged := [(0, imageBlock)] })
        (List.range (blocksOf (headerOf (slotStaged a 0)).len)).all (fun i => (look i (slotStaged a 0).data).isSome) &&
        (headerOf (slotStaged a 0)).len != 0
        && (flashAsk a (.recoveryBoot 0 []) (some ref8) 2 true).2 == stPending)) = true := by decide +kernel

theorem wit_FirmwareTimersAndRecovery :
    ((flT tile (fun f => { f with trial := true })).fl.trial && !tile.fl.confirming && !tile.fl.trial && !inRecovery tile
    && inRecovery recovering && (flashHead (flT tile (fun f => { f with queue := [⟨1, .matrixSave, none, true⟩] }))).isSome
    && ok 3 0x0F01 [0] tile (fun a => !a.pair.holding)
    && ok 3 0x0F01 [1] holder (fun a => !standbyReady a && bit 1 0) && ok 3 0x0F01 [0] holder (fun a => a.pair.holding && !standbyReady a)
    && ok 3 0x0F01 [0] withStandby (fun a => a.pair.holding && a.pair.handover.isNone && standbyReady a)
    && ok 3 0x0F02 (0 :: List.replicate 1024 0) tile (fun a => !inRecovery a)
    && ok 3 0x0F03 (0 :: List.replicate 1964 0) tile (fun a => !inRecovery a)) = true := by decide +kernel

def recT (s : State) (f : Recorder → Recorder) : State := { s with rcd := f s.rcd }

theorem wit_RecorderCommands :
    (ok 1 0x0C01 [0, 1023, 1] tile (fun a => decide (4 * 33 ≤ replyRoom a .mgmt) && decide ((1023 : Word).toNat < 1024)
        && decide (1 ≤ fld 1 5 0))
    && ok 1 0x0C01 [0, 1024, 1] tile (fun _ => !bit 0 0) && ok 1 0x0C01 [1, 262144, 1] tile (fun _ => bit 1 0)
    && ok 1 0x0C02 [0, 9] tile (fun a => rd a evrPcc != 9)
    && ok 1 0x0C02 [0, 0] tile (fun a => rd a evrPcc == 0 && a.rcd.clearing.isNone && !nvStop a
        && (flashAsk a .recClear (some ref8) 2 false).2 == stPending)
    && ok 1 0x0C02 [0, 0] (recT tile (fun r => { r with clearing := some ⟨ref8, false, false, 0⟩ })) (fun a =>
        rd a evrPcc == 0 && a.rcd.clearing.isSome)
    && tile.rcd.unarch == 0 && nvStop (stopped tile)
    && (let s := recT tile (fun r => { r with unarch := 1 })
        !nvStop s && s.rcd.clearing.isNone && s.rcd.unarch != 0 && !flashBusy s (· == .archive)
        && (flashHead (flashAsk s .archive none 2 false).1).any (fun x => x.op == .archive))
    && (let s := recT (behindOne tile) (fun r => { r with unarch := 1 })
        (flashHead (flashAsk s .archive none 2 false).1).isNone
          || (flashHead (flashAsk s .archive none 2 false).1).any (fun x => x.op == .archive))) = true := by decide +kernel

def secT (s : State) (f : Secure → Secure) : State := { s with sec := f s.sec }

/-- A KEY_PROVISION of the update class, and the words its key was wrapped into. -/
def keyWords : List Word := 3 :: List.replicate 16 0

theorem wit_SecurityCommands :
    (ok 1 0x0D01 [] tile (fun a => decide (28 ≤ replyRoom a .mgmt))
    && ok 1 0x0D02 [1, 2, 3, 4] (secT tile (fun x => { x with keys := [(1, 0)] })) (fun a =>
        a.sec.entropyOk && openKey a 1 == some 0 && decide (4 * ((attestBody a [1, 2, 3, 4]).length + 8) ≤ replyRoom a .mgmt))
    && ok 1 0x0D02 [1, 2, 3, 4] (secT tile (fun x => { x with entropyOk := false })) (fun a => !a.sec.entropyOk)
    && ok 1 0x0D10 keyWords tile (fun a => fld (pw (cmd 1 0x0D10 keyWords) 0) 1 0 == 3 && !a.sec.wiping
        && !a.sec.kpNonces.contains 0 && decide ((slotsOf a 3).length < 16) && !nvStop a && a.sec.job.isNone)
    && ok 1 0x0D20 [5, 0] tile (fun _ => decide (5 ≤ fld 5 2 0)) && ok 1 0x0D20 [1, 1] tile (fun a => w32 a.otp.serial.toNat != 1)
    && ok 1 0x0D20 [4, 0] { tile with otp := { tile.otp with lcs := 4 } } (fun a => w32 a.otp.serial.toNat == 0 && !lifeStep a.otp.lcs 4)
    && ok 1 0x0D20 [4, 0] { tile with otp := { tile.otp with lcs := 1 } } (fun a => w32 a.otp.serial.toNat == 0
        && lifeStep a.otp.lcs (fld 4 2 0) && !nvStop a && a.sec.job.isNone && !a.pair.holding)
    && tile.sec.job.isNone && (secT tile (fun x => { x with job := some (.key ref8 3 0) })).sec.job == some (.key ref8 3 0)
    && !tile.sec.wiping && (secT tile (fun x => { x with wiping := true, tamperWipe := true })).sec.wiping && !tile.sec.tamperSeen
    && !tile.sec.tamperLow && (secT tile (fun x => { x with tamperLow := true })).sec.tamperLow
    && (let s := secT (wr tile secTamper 0) (fun x => { x with highSince := some 0, tamperSeen := true })
        s.sec.highSince == some 0 && getF s secTamper 1 0 == 0 && s.sec.tamperSeen)) = true := by decide +kernel


theorem wit_RecoveryStopped :
    (preRec (stopped recovering) 0x0F02 (cmd 3 0x0F02 (0 :: imageBlock))
    && nvStop (aft 3 0x0F02 (0 :: imageBlock) (stopped recovering))
    && inRecovery (aft 3 0x0F02 (0 :: imageBlock) (stopped recovering))) = true := by decide +kernel

/-- FW_BEGIN waits in the flash queue for its credits; a whole slot of one block. -/
def queued (o : FlashOp) (ready : Bool) (s : State) : State := flT s (fun f => { f with queue := [⟨1, o, some ref8, ready⟩] })

theorem wit_FirmwareClauses :
    (ok 3 0x0B01 [4096, 7, 0] (slotT 1 (some 0)) (fun a => !nvStop a && dlOpen a && (fwSoon a).dl)
    && ok 3 0x0B01 [4096, 7, 1] tile (fun a => !dlOpen a && !(fwSoon a).dl)
    && ok 3 0x0B02 [0] tile (fun a => !(fwSoon a).dl)
    && ok 3 0x0B02 [0] (queued (.fwBegin 4096 7 0) false tile) (fun a => (fwSoon a).dl && (fwSoon a).writing
        && cdiv (min 4096 ((fwSoon a).len - 0)) 4 != 0)
    && ok 3 0x0B02 [4096] (slotT 1 (some 0)) (fun a => (fwSoon a).dl && (fwSoon a).writing && decide ((fwSoon a).len ≤ 4096))
    && ok 3 0x0B02 (0 :: List.replicate 1024 0) (stopped (slotT 1 (some 0))) (fun a => (fwSoon a).dl && (fwSoon a).writing && nvStop a
        && cdiv (min 4096 ((fwSoon a).len - 0)) 4 == 1024)
    && ok 3 0x0B03 (List.replicate 1964 0) complete (fun a => (fwSoon a).writing && (fwSoon a).full && !nvStop a)
    && ok 3 0x0B03 (List.replicate 1964 0) (slotT 1 (some 0)) (fun a => (fwSoon a).writing && !(fwSoon a).full)
    && ok 3 0x0B03 (List.replicate 1964 0) (stopped complete) (fun a => (fwSoon a).full && nvStop a)
    && ok 3 0x0B05 [1] (stopped (slotT 3 none)) (fun a => slotState a (otherSlot a) == 3 && nvStop a)
    && ok 3 0x0B06 [] (stopped (flT tile (fun f => { f with trial := true
                                                            boot0 := some { bootCur tile with arm := true, armTime := opTime tile } })))
        (fun a => a.fl.trial && !a.fl.migFail && decide (opTime a < trialEnd a) && nvStop a)
    && ok 3 0x0B07 [] (queued (.fwBlock 0 []) true (slotT 1 (some 0))) (fun a => !a.fl.trial && flashBusy a isFwOp && !nvStop a)
    && ok 3 0x0B07 [] (slotT 1 (some 0)) (fun a => !flashBusy a isFwOp && (fwSoon a).writing)
    && ok 3 0x0B07 [] tile (fun a => !flashBusy a isFwOp && !(fwSoon a).writing)) = true := by decide +kernel

theorem wit_RecorderAndSecurityClauses :
    (ok 1 0x0C01 [0, 0, 63] tile (fun a => decide (replyRoom a udp0 < 4 * (1 + 32 * 63)))
    && ok 1 0x0C02 [1, 0] (stopped tile) (fun a => nvStop a && a.rcd.clearing.isNone && a.rcd.unarch == 0 && rd a evrPcc == 0)
    && ok 1 0x0C02 [0, 0] (stopped tile) (fun a => a.rcd.clearing.isNone
        && (flashAsk a .recClear (some ref8) 2 false).2 == stNvHeld)
    && ok 1 0x0D02 [1, 2, 3, 4] (secT tile (fun x => { x with keys := [], kprov := none })) (fun a => (openKey a 1).isNone)
    && ok 1 0x0D10 (0 :: List.replicate 16 0) tile (fun _ => fld (pw (cmd 1 0x0D10 (0 :: List.replicate 16 0)) 0) 1 0 == 0)
    && ok 1 0x0D10 keyWords (secT tile (fun x => { x with wiping := true })) (fun a => a.sec.wiping)
    && ok 1 0x0D10 keyWords (secT tile (fun x => { x with kpNonces := [0] })) (fun a => a.sec.kpNonces.contains 0)
    && ok 1 0x0D20 [4, 0] (stopped { tile with otp := { tile.otp with lcs := 1 } }) (fun a => lifeStep a.otp.lcs 4 && nvStop a)
    && ok 1 0x0D20 [4, 0] (secT { tile with otp := { tile.otp with lcs := 1 } } (fun x => { x with job := some (.life ref8 2) }))
        (fun a => lifeStep a.otp.lcs 4 && !nvStop a && a.sec.job.isSome)
    && ok 1 0x0D20 [4, 0] { holder with otp := { holder.otp with lcs := 1 } } (fun a => a.pair.holding && !standbyReady a)
    && ok 1 0x0D20 [4, 0] { withStandby with otp := { withStandby.otp with lcs := 1 } } (fun a =>
        a.pair.holding && a.pair.handover.isNone && standbyReady a)
    && (secT tile (fun x => { x with job := some (.life ref8 3) })).sec.job == some (.life ref8 3)
    && (secT tile (fun x => { x with job := some (.life ref8 2) })).sec.job == some (.life ref8 2)) = true := by decide +kernel

theorem wit_CalibrationClauses :
    (ok 1 0x0A01 [1] (calT tile (fun m => { m with running := [(1, ref8, calIn0)] })) (fun a => calBusy a 1)
    && ok 1 0x0A01 [2] tile (fun a => !a.id.sender && !a.lamp.lit && !calBusy a 2)
    && ok 1 0x0A41 [] (stopped tile) (fun a => (flashAsk a .matrixSave (some ref8) 2 false).2 == stNvHeld)
    && ok 1 0x0A50 [0] lampT (fun _ => boardsIn 0 == [])
    && ok 1 0x0A50 [0x8000] lampT (fun a => (boardsIn 0x8000).any (fun b => !(boardsOn a).contains b))
    && ok 1 0x0A50 [1] (chips lampT 4) (fun a => !(boardsIn 1).any (boardBusy a) && askOf a (.ttab 1 false (some ref8)) 3 5 0 == 2)
    && ok 1 0x0A50 [1] (behindOne lampT) (fun a => !(boardsIn 1).any (boardBusy a))
    && ((loading (some none)).cal.boards.getD 0 boardNone).loading == some none) = true := by decide +kernel

/-- The straps and measurements of a start. -/
def straps (rcvy tmode : Bool) : BootIn :=
  { pers := true, side := .B, xsel := false, rcvy := rcvy, tmode := tmode, tamperLow := false, slotAOk := true, slotBOk := false
    rcCount := 0, rcCountTrimmed := 0, sensors := List.replicate 16 400, marchFaults := [], headers := [], laneZeros := []
    gainErr := none, limonZero := 0, katOk := true }

theorem wit_StartAndPowerLoss :
    (!mayStart State.reset (straps false true) && !mayStart tile (straps false false)
    && mayStart State.reset (straps false false)
    && (romSelect (bootBase State.reset (straps false false)) (straps false false)).2.run.isSome
    && (romSelect (bootBase State.reset (straps true false)) (straps true false)).2.run.isNone) = true := by decide +kernel

theorem reset_inv : Inv State.reset := ⟨rfl, rfl, rfl⟩
theorem tile_inv : Inv tile := ⟨rfl, rfl, rfl⟩

theorem wit_StepRunsTheFrontCommand : State.reset.pending = [] ∧ State.reset.boot.held = true ∧ tile.pending = []
    ∧ tile.boot.held = false ∧ tile.boot.resetPending = none := ⟨rfl, rfl, rfl, rfl, rfl⟩

theorem wit_EveryStepKeepsTheInvariant : step State.reset = .next State.reset := rfl

theorem wit_HeldDeviceStands : State.reset.boot.held = true ∧ alwaysOn .helloSend = false := ⟨rfl, rfl⟩

theorem wit_ReservedBitsReadZero : Inv State.reset ∧ Inv tile ∧ (findRow false bdgCfg).any (fun r => r.reserved != 0) = true :=
  ⟨reset_inv, tile_inv, by decide +kernel⟩

theorem wit_OnlyDramStops :
    (match exec (.dramRequest 1 (2 ^ 40) none 1) (ready0 tile id) with | .fault .dramOutside => true | _ => false) = true
    ∧ exec .helloSend State.reset = .next State.reset := ⟨by decide +kernel, rfl⟩

theorem wit_CountersAndWrites : ((findRow false bdgCfg).isSome && (findRow true sysSmbNotime).isSome && decide (0 ≤ 31 ∧ 31 < 32)
    && decide (tilBright ≠ bdgCfg)) = true := by decide +kernel

theorem wit_ScheduleInstants :
    1 ≤ instant (60000, 1001) 1 ∧ 8 < instant (60000, 1001) 1 ∧ nextCseq 0xFFFF ≠ 0 := by decide +kernel

theorem wit_ParameterFile :
    (tilBright != sysPgen && (findRow false tilBright).any (fun r => r.kept == .settings)
    && (findRow false tilGeom).isSome && (findRow false cmpCanvas).isNone
    && (findRow false bdgCfg).any (fun r => r.kept == .badger || r.kept == .settings)
    && (findRow false sysSmbNotime).any (fun r => r.kept != .settings && r.kept != .badger)
    && (1 &&& ~~~((findRow false tilBright).map (·.reserved)).getD 0) != rd tile tilBright) = true := by decide +kernel

theorem wit_SeqAcceptedOnce :
    (inWindow (sess8 1) (hSeq (cmd 1 0x0003 []).hdr)
    && inWindow (sess8 1) (hSeq { cmd 1 0x0003 [] with hdr := mkHeader 3 1 1 3 0xFFFFFFFF 8 false 0 0 1 0 0 0 0 0 }.hdr)
    && !inWindow { sess8 1 with hi := 100 } 36 && inWindow { sess8 1 with hi := 100 } 37
    && inWindow { sess8 1 with hi := 100 } 101) = true := by decide +kernel

theorem wit_AnswersAndRecords :
    ((liveSess (on 1 tile) ref8).any (fun x => x.key.isSome && x.dseq + 1 != 0xFFFFFFFF) && (liveSess tile ref8).isNone) = true := by
  decide +kernel

/-- A packet of the safety class that bears ISSUE `w`. -/
def issued (w : Word) : Smb := { cmd 2 0x0701 [] with hdr := mkHeader 3 1 2 0x0701 1 8 false 0 0 1 0 0 w 0 0 }
def timeOk : State := timed tile (fun t => { t with valid := true })

/-- ISSUE against FRESH, a difference equal to the limit failing on both sides (02 R39). -/
theorem wit_IssueWithinTheLimit :
    (let f := w32 (1000000 * getF tile sysSmbCfg 15 0 / 4)
     hKeyc (cmd 1 0x0701 []).hdr == keyHost && hKeyc (issued 0).hdr != keyHost && timeOk.time.valid && !tile.time.valid
     && issueOk timeOk (issued 0) && !issueOk timeOk (issued f) && !issueOk timeOk (issued (0 - f))
     && issueOk timeOk (issued (f - 1)) && issueOk timeOk (issued (1 - f)) && issueOk tile (issued f)) = true := by decide +kernel

theorem wit_TimeReadWords : ok 1 0x0701 [] tile (fun a => decide (28 ≤ replyRoom a .mgmt)) = true := by decide +kernel

theorem wit_ClassWithoutAKey_state :
    (let p := openOf .mgmt 1 [1, 2, 3, 4]
     let s := opening 1 [1, 2, 3, 4] tile
     let b := freeBuf s p
     (look 2 s.sec.keys).isNone && (look 1 s.sec.keys).isSome && !s.boot.held && hSess p.hdr == 15
     && reaches 0x0001 s p && policed b p 2 == some b && shapeOk p && levelOk b p
     && hDmode p.hdr == 0 && openKey b (hKeyc p.hdr) == some 0) = true := by decide +kernel

/-- A tag that is not the packet's, for any key. -/
theorem wit_ClassWithoutAKey (k : W256) (p : Smb) : ∃ t : W128, tagOf k p.hdr p.payload ≠ t :=
  ⟨~~~tagOf k p.hdr p.payload, fun h => by
    have := congrArg (fun v => v.getLsbD 0) h
    simp at this⟩

/-- The field of the Badger tests, its outline, and the pixels where its statement holds. -/
def field43 (live : Bool) (w : List Word) : Field :=
  { num := 43, words := w, vstate := 1, data := [0x3F], live := live, expired := false, deadline := none, due := false, lastAcc := none, exp := false, buf := 0, prior := [] }
def frameWords : List Word := [0x2B400000, 0, 0x00200020, 0x80000002, 0, 0]

theorem wit_NotLiveAndBlinkingFields :
    (decide (fdX symWords ≤ 31) && decide (31 < fdX symWords + fdW symWords) && decide (fdY symWords ≤ 31)
    && decide (31 < fdY symWords + fdH symWords) && fdKind symWords != kFrame && !(field43 false symWords).live
    && (field43 true symWords).live && bit (wAt (symWords.set 3 0x80000200) 3) (8 + 1) && !bit (wAt symWords 3) (8 + 1)
    && fdKind frameWords == kFrame) = true := by decide +kernel

/-- Words of an engine of a mode and direction over the pixels 16 to 31: period 2,000 ms, no offset, duty 128,
band 4, opacity 256. -/
def engineOf (mode dir : Nat) : List Word :=
  [w32 (15 * 2 ^ 28 + mode * 2 ^ 26 + dir * 2 ^ 24 + 128 * 2 ^ 12 + 4 * 2 ^ 4), 0x00100010, 0x00100010, w32 (2000 * 2 ^ 16), 0, 0x00100000]

theorem wit_EngineOpacity :
    ((List.range 4).all (fun d => (List.range 4).all (fun m =>
      let w := engineOf m d
      enMode w == m && enDir w == d && enPeriod w == 2000 && enOffset w == 0 && enAmax w == 256 && enDuty w == 128 && enBw w == 4
      && decide (fdX w ≤ 16) && decide (31 < fdX w + fdW w) && decide (fdY w ≤ 16) && decide (31 < fdY w + fdH w)))) = true := by
  decide +kernel

/-- The checks of a command, each hypothesis met by a packet over MGMT. -/
theorem wit_ChecksOfACommand :
    (let p := cmd 1 0x0003 []
     let s1 := freeBuf (with_ 1 p tile) p
     handTwin 0x0003 (with_ 1 p tile) p == with_ 1 p tile && reaches 0x0003 (with_ 1 p tile) p && shapeOk p && levelOk s1 p && hSess p.hdr != 15
     && matchSess s1 p == some (sess8 1) && policed s1 p 0 == some s1 && inWindow (sess8 1) (hSeq p.hdr)
     && !inWindow { sess8 1 with hi := 100 } (hSeq p.hdr)
     && !issueOk timeOk (issued 0x80000000) && issueOk (passFive s1 p (sess8 1)) p && (opSpec 0x0E00).isNone
     && (opSpec 0x0003).isSome && !knownInRecovery 0x0510 && inRecovery recovering && !inRecovery s1
     && (opSpec 0x0510).any (fun o => !o.keys.contains 1) && (opSpec 0x0201).any (fun o => o.snd != o.tile)
     && (ownerOf (setOwner tile 0 (some ⟨other, 5⟩)) 0).any (fun w => w.sess != ⟨8, none⟩)) = true := by decide +kernel

/-! ### WellFormed: a command that names nothing that exists, for each check -/

/-- A packet that comes from `v`. -/
def from_ (v : Via) : Smb := { cmd 1 0x0003 [] with via := v }

def udpOn (iface : Nat) (vlan : Option Nat) (addr port : Nat) : Via :=
  .udp { iface := iface, vlan := vlan, addr := addr, port := port, dst := 0, dport := 0, frag := false }
/-- A packet of 8 bytes, one of 16, and an RTP packet of version `v`. -/
def shortPkt : LinkPkt := mkLink 1 .A false (List.replicate 8 0)
def okPkt : LinkPkt := mkLink 1 .A false (List.replicate 16 0)
def rtp0 (v : Nat) : RtpPkt :=
  { iface := 0, vlan := none, src := 0, group := 0, udp := 0, version := v, marker := false, ptype := 96, seq := 0, ts := 0, ssrc := 0
    ext := 0, srd := [], data := [] }
def lat0 : LatReport := .lost
def eth : EthFrame := { fcsOk := true, dst := 0, kind := .other }
def at_ (iface : Nat) : NetIn := ⟨iface, none⟩
def rx (slot iface : Nat) : PtpIn := ⟨slot, at_ iface⟩
def set0 : ClockSet := ⟨0, 0, 0, 0, 0⟩

theorem smoke_packets :
    (smbWf (from_ (udpOn 7 (some 4095) 0 65535)) && !smbWf (from_ (udpOn 8 none 0 0)) && !smbWf (from_ (udpOn 0 none (2 ^ 128) 0))
    && !smbWf (from_ (udpOn 0 none 0 65536)) && !smbWf (from_ (udpOn 0 (some 4096) 0 0))
    && !smbWf { from_ .mgmt with payload := List.replicate 16384 0 }
    && !smbWf { from_ .mgmt with size := 65536 } && !Instr.wf (.ping (from_ (udpOn 8 none 0 0)))
    && !Instr.wf (.lsbI2c (cmd 1 0x0650 []) 4 [])
    && !Instr.wf (.lsbI2c (from_ (udpOn 8 none 0 0)) 0 [])) = true := by decide +kernel

theorem smoke_sessions_and_ports :
    (!Instr.wf (.sessionIdleClose 16) && !Instr.wf (.sessionAnnounce .A 16 1 0 .A 0 0 false)
    && !Instr.wf (.sessionAnnounce .A 0 4 0 .A 0 0 false) && !Instr.wf (.portRetrainComplete 9)
    && !Instr.wf (.signalDetect ⟨9, false⟩)
    && !Instr.wf (.trainingWordExchange 9 (words1 0) ⟨[goodEye], 0⟩) && !Instr.wf (.trainingStepTimeout ⟨9, 2⟩)
    && !Instr.wf (.rateSwitch 9 none [] false) && !Instr.wf (.trainingRetryTimer 9)
    && !Instr.wf (.eyeScanTimer 9 goodEye)
    && !Instr.wf (.linkDown 9) && !Instr.wf (.controlPacketReceived 9 (ctl1 1))
    && Instr.wf (.controlPacketReceived 8 (ctl1 1))
    && !Instr.wf (.guestPacketReceived 8 shortPkt) && !Instr.wf (.guestPacketReceived 9 okPkt)
    && !Instr.wf (.ackReceived 9 0 0)
    && !Instr.wf (.arqRetransmitTimeout 9 0) && !Instr.wf (.loopReqReceived 9 0 0)
    && !Instr.wf (.loopRspReceived 9 0 0 0 0 ⟨0, 0⟩)
    && !Instr.wf (.brSignalSample 9 true) && !Instr.wf (.crossDownReceived 9)
    && !Instr.wf (.crossAnswerReceived true 9 true)
    && !Instr.wf (.uncrossReceived ⟨9, 0⟩) && !Instr.wf (.syncHeaderError ⟨9, 0, 0, false⟩)
    && !Instr.wf (.syncHeaderError ⟨8, 2, 0, false⟩) && !Instr.wf (.netFrameDrop (at_ 8) eth)
    && Instr.wf (.netFrameDrop (at_ 7) eth)
    && !Instr.wf (.rtpPacketReceived (rtp0 4)) && Instr.wf (.rtpPacketReceived (rtp0 2))
    && !Instr.wf (.arpNdReceived (at_ 8) 0 0 0 0) && !Instr.wf (.arpNdReceived (at_ 0) 3 0 0 0)
    && !Instr.wf (.dadTimer 8 0 0) && !Instr.wf (.dadTimer 0 3 0)
    && !Instr.wf (.igmpMldQuery (at_ 8) ⟨false, 0, 0, []⟩ 0 0)
    && !Instr.wf (.membershipReportTimer 8 ⟨0, 0⟩) && !Instr.wf (.icmpEchoRequest (at_ 8) ⟨0, 0⟩ [])
    && !Instr.wf (.pauseFrame 8)
    && !Instr.wf (.netLinkChange 8 true true) && !Instr.wf (.ssrcLockRelease 64 true) && !Instr.wf (.pathDown 64 true)
    && !Instr.wf (.mergeWindowClose 64 0)) = true := by decide +kernel

theorem smoke_time_and_delivery :
    (!Instr.wf (.ptpSync (rx 2 0) 0 true 0 0 0 0) && !Instr.wf (.ptpFollowUp (rx 2 0) 0 0 0) && !Instr.wf (.ptpDelayResp (rx 2 0) 0 0 0 0)
    && !Instr.wf (.delayReqTimer 2) && !Instr.wf (.announceTimeout 2) && !Instr.wf (.quarantineEnd 2)
    && !Instr.wf (.ptpAnnounce (rx 2 0) set0 0 0 0 0) && !Instr.wf (.ptpAnnounce (rx 0 8) set0 0 0 0 0) && !Instr.wf (.tsqEntryExpire 2 0)
    && Instr.wf (.ptpAnnounce (rx 1 7) set0 0 0 0 0)
    && !Instr.wf (.markReceived false 0 true 4 0 0) && !Instr.wf (.markReceived false 0 true 0 0 4)
    && !Instr.wf (.trigInEdge 4 true 0) && !Instr.wf (.trigInEdge 0 true 4)
    && !Instr.wf (.comparatorFire 16 ⟨calIn0, 0, [], []⟩)
    && !Instr.wf (.flumeEmit 8) && !Instr.wf (.nackReceived 8 okPkt.toLinkStart okPkt.data okPkt.toLinkTerm)
    && !Instr.wf (.nackReceived 0 shortPkt.toLinkStart shortPkt.data shortPkt.toLinkTerm)
    && !Instr.wf (.repairTimeout 8 0)
    && !Instr.wf (.latencyReportReceived 8 0 lat0) && !Instr.wf (.revertStableElapsed ⟨8, 0⟩)
    && !Instr.wf (.reportReceived 8 okPkt.toLinkStart okPkt.toLinkRest)
    && !Instr.wf (.reportReceived 0 shortPkt.toLinkStart shortPkt.toLinkRest)
    && !Instr.wf (.regionPacketReceived shortPkt.toLinkStart shortPkt.toLinkRest)
    && !Instr.wf (.commitReceived shortPkt.toLinkStart shortPkt.toLinkRest)
    && !Instr.wf (.certificateReceived shortPkt.toLinkStart shortPkt.toLinkRest)
    && !Instr.wf (.flumePacketForward shortPkt.toLinkStart shortPkt.data shortPkt.toLinkTerm)
    && !Instr.wf (.upstreamFlumeForward true true shortPkt.toLinkStart shortPkt.data false shortPkt.toLinkEnd)
    && Instr.wf (.upstreamFlumeForward true false okPkt.toLinkStart [] false okPkt.toLinkEnd)
    && !Instr.wf (.sensorValidityExpire 32) && !Instr.wf (.regionDeadline 4096) && !Instr.wf (.fieldDeadline 44)
    && !Instr.wf (.owlCheck 256) && !Instr.wf (.owlFreeze 256)) = true := by decide +kernel

theorem smoke_rest :
    (!Instr.wf (.fatalCheckFail 6) && !Instr.wf (.verdictReceived 256 0) && !Instr.wf (.boardLoadDone 16 true [] true [])
    && !Instr.wf (.railThresholdCross 8 0) && !Instr.wf (.railRecovery 8 0)
    && !Instr.wf (.dramTrainingStepTimeout 4 0)
    && !Instr.wf (.dramTrainingStepTimeout 0 8) && !Instr.wf (.dramTrainingDone 4 1 [] [])
    && !Instr.wf (.dramTrainingDone 0 1 [[20, 20, 20]] []) && !Instr.wf (.dramChannelRetry 4)
    && !Instr.wf (.dqsOscRead 4 0) && !Instr.wf (.mr4Read 4 0 false) && !Instr.wf (.selfRefreshEntry 4)
    && !Instr.wf (.commandPathError 0 4) && !Instr.wf (.dramRefresh 4 0 true) && !Instr.wf (.dramRefresh 0 16 true)
    && !Instr.wf (.dramRequest 13 0 none 1) && !Instr.wf (.dramReadReturn 0 3) && !Instr.wf (.scrubStep 3)
    && !Instr.wf (.marchGranuleLock 64 false false 0 0 [])
    && !Instr.wf (.marchGranuleLock 5 false false 0 0 [sramReq 2 5 none])
    && Instr.wf .secureWipeEnd && !Instr.wf (.marchBankDone 64 none)) = true := by decide +kernel

/-! ### Worked examples of the manual -/

/-- 00 R8: the signed difference of two readings across the wrap. -/
theorem test_sdiff_wraps : Machine.sdiff 0x100 0xFFFFFF00 = 512 := by decide

/-- 11 R255: instants of 59.94 Hz. -/
theorem test_instants :
    instant (60000, 1001) 107892107893 = 1800000000 * 10 ^ 9 + 14883336
    ∧ instant (60000, 1001) 107892107894 - 1800000000 * 10 ^ 9 = 31566668 := by decide +kernel

/-- 07, worked example of R156 and R157: the warm pixel of a tile at 1,200 cd/m². -/
def warmTable : List TPoint :=
  let p (t g r x0 x1 : Int) : TPoint := ⟨t, [g, r, 32768], [x0, x1, 0, 0, 16384, 0, 0, 0, 16384]⟩
  [p 400 32768 32768 16384 0, p 480 32768 32768 16384 0, p 560 32768 32768 16384 0, p 640 33587 32932 16384 0
  , p 720 34406 33096 16302 82, p 800 34406 33096 16302 82, p 880 34406 33096 16302 82, p 960 34406 33096 16302 82]

theorem test_warm_pixel :
    interpolate warmTable 660 = { g := [33792, 32973, 32768], x := [16364, 21, 0, 0, 16384, 0, 0, 0, 16384] }
    ∧ pixelQ [15565, 410, -82, 246, 15892, 164, -41, 328, 16220] (interpolate warmTable 660) 29491 546125
        ⟨838861, 419430, 83886⟩ = [24368, 12389, 2617] := by decide +kernel

/-- 08, worked example: the value colour over the background of an alarm number. -/
theorem test_blend :
    blendOver 154 ⟨16777215, 0, 0⟩ (blendOver 192 ⟨0, 0, 0⟩ ⟨838861, 419430, 83886⟩) = ⟨10176102, 41779, 8356⟩ := by decide

/-- 08 R179: the texts of −1,234 and −12,345 in a NUMBER of six characters and one decimal. -/
theorem test_numberText :
    (let w : List Word := [0x20200000, 0, 0, 0x00061000, 0, 0]
     numberText w (-1234) = ['-', '1', '2', '3', '.', '4'].map Char.toNat
     ∧ numberText w (-12345) = List.replicate 6 0x23) := by decide +kernel

/-- 04, worked allocation: the loads and line buffers of bands 0 and 2, and the word of the refused variant. -/
def alloc (dw dh : Nat) : Tables :=
  let ly (st sw sh dx dy dw dh : Nat) : List Word :=
    [w32 (2 ^ 31 + st * 2 ^ 22 + 256 * 2 ^ 13), 0, w32 (sw * 65536 + sh), w32 (dx * 65536 + dy), w32 (dw * 65536 + dh), 0, 0, 0]
  { pipes := 4, wb := 640, hb := 180, num := 60, den := 1
    layers := [ly 0 3840 2160 0 0 5120 2880, ly 1 3840 2160 5120 0 2560 1440, ly 2 1920 1080 7680 0 2560 1440
              , ly 3 3840 2160 5760 1200 dw dh] }

theorem test_band_loads :
    loadBudget (alloc 960 540) = 31250000 ∧ lbufMax (alloc 960 540) 2 = 22 ∧ bandLoad (alloc 960 540) 2 = 28444320
    ∧ bandLoad (alloc 960 540) 0 = 19062720 ∧ loadRefusal (alloc 960 540) = none
    ∧ loadRefusal (alloc 480 270) = some 0x010204B0 := by decide +kernel

/-- 15, worked example: one address on a sender of four channels. -/
theorem test_address :
    (let m := mapAddr 4 4 0x123456780
     m.c = 2 ∧ m.p = 0x4DAC1880 ∧ m.k = 0x4DAC1F88 ∧ colOf m.p = 0x880 ∧ bankOf m.p = 13 ∧ rowOf m.p = 19884) := by decide +kernel

/-- 17, worked example: the factor after a show is withheld. -/
theorem test_lowerSlg : lowerSlg (wr (wr lampT pwrLamp 0x01F407D0) tilSlg 0x8000) 56080824 = 27190 := by decide +kernel

/-- 08 R188: an engine that breathes half a second into its two seconds. -/
theorem test_breathing : engineA (engineOf 2 0) (1800000001 * 1000000000 + 500000000) 16 16 = 128 := by decide +kernel

/-- A start takes the straps and leaves reset (18 R389). -/
theorem test_start :
    (match exec (.powerOnResetRelease (straps false false)) State.reset with
     | .next t => t.id.sender && t.id.side == .B && !t.boot.held
     | _ => false) = true := by decide +kernel

/-- DRAM bytes written are read back, and an address that does not exist stops (15 R331, R335). -/
theorem test_dram :
    (match exec (.dramRequest 0 64 (some [1, 2]) 2) (ready0 tile id) with
     | .next t => memByte t.dram.mem 65 == 2 && memByte t.dram.mem 66 == 0 && Memory.wf t.dram.mem
     | _ => false) = true
    ∧ (match exec (.dramRequest 1 (2 ^ 40) none 1) (ready0 tile id) with | .fault .dramOutside => true | _ => false) = true := by
  decide +kernel

/-- A held device stands still; out of reset a tick passes. -/
theorem test_idle :
    (match step tile with | .next t => lt t == 4 && now t == 4 | _ => false) = true := by decide +kernel

/-- The check words of 05 (CRC-32C and the CRC-16 of the common header) over the nine bytes "123456789". -/
theorem test_check_words :
    crc32c [0x31, 0x32, 0x33, 0x34, 0x35, 0x36, 0x37, 0x38, 0x39] = 0xE3069283
    ∧ crc16 [0x31, 0x32, 0x33, 0x34, 0x35, 0x36, 0x37, 0x38, 0x39] = 0x29B1 := by decide +kernel

/-- A commit packet laid out and read back; one bit changed on the way is noticed (05 R104; 06 R118). -/
theorem test_commit_packet :
    (let k := toTile 2 true (commitBody (commit9 9))
     (flumeBody k 2).bind (fun e => readCommit e.2) = some (commit9 9) ∧ linkGood k = true
     ∧ linkGood { k with data := k.data.set 2 (k.data.getD 2 0 ^^^ 1) } = false) := by decide +kernel

end Sys2Proof.Tests
end

section
/-! The ISSUE check and the count of acceptances without it, a lemma per case (02 R39). -/

namespace Sys2Proof.Machine

variable {s : State} {p : Smb}

theorem issueOk_of_host (hk : hKeyc p.hdr = keyHost) : issueOk s p = true := by
  simp [issueOk, hk]

theorem issueOk_of_untimed (ht : s.time.valid = false) : issueOk s p = true := by
  simp [issueOk, ht]

/-- The strict window on both sides, for a class that is checked and while there is a time to check against. -/
theorem issueOk_iff_within_fresh (hk : hKeyc p.hdr ≠ keyHost) (ht : s.time.valid = true) :
    issueOk s p = true ↔
      -(1000000 * (getF s sysSmbCfg 15 0 : Nat) : Int) < 4 * sdiff (hIssue p.hdr) (nowW s)
        ∧ 4 * sdiff (hIssue p.hdr) (nowW s) < 1000000 * (getF s sysSmbCfg 15 0 : Nat) := by
  have hms : Int.ofNat (getF s sysSmbCfg 15 0) * 10 ^ 6 = 1000000 * (getF s sysSmbCfg 15 0 : Nat) :=
    Int.mul_comm _ _
  simp only [issueOk, hk, ht, hms]
  simp

theorem countNotime_of_host (hk : hKeyc p.hdr = keyHost) : countNotime s p = s := by
  simp [countNotime, hk]

theorem countNotime_of_timed (ht : s.time.valid = true) : countNotime s p = s := by
  simp [countNotime, ht]

theorem countNotime_of_untimed (hk : hKeyc p.hdr ≠ keyHost) (ht : s.time.valid = false) :
    countNotime s p = bump s sysSmbNotime := by
  simp [countNotime, hk, ht]

/-- Step 6 comes before steps 7 to 9: a stale ISSUE is answered whatever the opcode (02 R40). -/
theorem checks69_of_stale_issue (op : Nat) (h : issueOk s p = false) :
    checks69 op p s = .done (reply s (cmdRef s op p) p.via stReplay []) := by
  simp [checks69, h]

end Sys2Proof.Machine

namespace Sys2Proof.Proofs

open Sys2Proof.Machine

/-- Settles O56: the three cases are the host class, a checked class with wall time and one without it. -/
theorem issueWithinTheLimit : Obligations.IssueWithinTheLimit := by
  refine ⟨fun s p d lim hd hlim => ?_, fun op p s h => checks69_of_stale_issue op h⟩
  subst hd hlim
  refine ⟨fun hhost => ?_, fun hchecked htimed => ?_, fun hchecked huntimed => ?_⟩
  · exact ⟨issueOk_of_host hhost, countNotime_of_host hhost⟩
  · exact ⟨issueOk_iff_within_fresh hchecked htimed, countNotime_of_timed htimed⟩
  · exact ⟨issueOk_of_untimed huntimed, countNotime_of_untimed hchecked huntimed⟩

end Sys2Proof.Proofs
end

section
/-! A pixel of a field's rectangle, an equation per way the field is drawn: not live, live with its value withheld,
live with its value shown (08 R180 to R182). -/

namespace Sys2Proof.Machine

/-- Whether a pixel lies in the rectangle of the field with words `w`. -/
def InRect (w : List Word) (x y : Nat) : Prop :=
  fdX w ≤ x ∧ x < fdX w + fdW w ∧ fdY w ≤ y ∧ y < fdY w + fdH w

/-- Whether a pixel lies in the outline that a FRAME with words `w` draws. -/
def outline (w : List Word) (x y : Nat) : Bool :=
  inRings (fdThick w) (fdX w) (fdY w) (fdW w) (fdH w) x y

/-- What the first pass leaves: the background colour over what lies beneath (R180). -/
def ground (s : State) (w : List Word) (acc : Rgb) : Rgb :=
  if fdBga w = 0 then acc else blendOver (fdBga w) (palRgb s (fdBgc w)) acc

/-- The coverage of the value at a pixel, of 15: the outline of a FRAME, else the glyphs. -/
def valueCov (w : List Word) (lay : List Placed) (x y : Nat) : Nat :=
  if fdKind w = kFrame then (if outline w x y then 15 else 0)
  else lay.foldl (fun m g => max m (placedCov g x y)) 0

theorem outline_eq_decide (w : List Word) (x y : Nat) :
    outline w x y = decide (x < fdX w + fdThick w ∨ y < fdY w + fdThick w ∨ fdX w + fdW w ≤ x + fdThick w
      ∨ fdY w + fdH w ≤ y + fdThick w) := by
  simp only [outline, inRings, Bool.decide_or, Bool.or_assoc]

theorem stripe_eq_true {dx dy : Nat} (h : (dx + dy) % 16 < 8) : stripe dx dy = true :=
  decide_eq_true h

theorem stripe_eq_false {dx dy : Nat} (h : 8 ≤ (dx + dy) % 16) : stripe dx dy = false :=
  decide_eq_false (Nat.not_lt.mpr h)

theorem not_shown_of_blink {f : Field} {t : Nat} (hb : fdBlinks f.words f.vstate = true)
    (ht : t / 500000000 % 2 = 1) : shown f t = false := by
  simp [shown, hb, ht]

theorem shown_of_steady_or_even {f : Field} {t : Nat}
    (h : fdBlinks f.words f.vstate = false ∨ t / 500000000 % 2 = 0) : shown f t = true := by
  obtain hb | ht := h
  · simp [shown, hb]
  · simp [shown, ht]

variable {s : State} {f : Field} {lay : List Placed} {t x y : Nat} {acc : Rgb}

/-- R181: neither the time nor the laid-out value has a part in it. -/
theorem drawField_of_not_live (hin : InRect f.words x y) (hl : f.live = false) :
    drawField s f lay t x y acc =
      if fdKind f.words = kFrame ∧ (outline f.words x y = false ∨ stripe (x - fdX f.words) (y - fdY f.words) = false)
      then acc
      else palRgb s (if stripe (x - fdX f.words) (y - fdY f.words) then getF s bdgCfg 3 0 else fdBgc f.words) := by
  obtain ⟨hx, hx', hy, hy'⟩ := hin
  cases hst : stripe (x - fdX f.words) (y - fdY f.words) <;>
    simp [drawField, hx, hx', hy, hy', hl, hst, outline]

theorem drawField_of_not_shown (hin : InRect f.words x y) (hl : f.live = true) (hs : shown f t = false) :
    drawField s f lay t x y acc = ground s f.words acc := by
  obtain ⟨hx, hx', hy, hy'⟩ := hin
  simp [drawField, hx, hx', hy, hy', hl, hs, ground]

/-- R180: a pixel that the value does not cover is left as the first pass drew it. -/
theorem drawField_of_shown (hin : InRect f.words x y) (hl : f.live = true) (hs : shown f t = true) :
    drawField s f lay t x y acc =
      if valueCov f.words lay x y = 0 then ground s f.words acc
      else blendOver ((valueCov f.words lay x y * 273 + 8) / 16) (palRgb s (fdFgc f.words f.vstate))
        (ground s f.words acc) := by
  obtain ⟨hx, hx', hy, hy'⟩ := hin
  simp only [drawField, hx, hx', hy, hy', hl, hs, decide_true, Bool.and_self, Bool.not_true, Bool.false_eq_true,
    if_false]
  rfl

end Sys2Proof.Machine

namespace Sys2Proof.Proofs

open Sys2Proof.Machine

/-- Settles O58: not live, the kind, the outline and the stripe decide the colour; live, the blink decides whether the
second pass is drawn. -/
theorem notLiveAndBlinkingFields : Obligations.NotLiveAndBlinkingFields := by
  rintro s f lay t x y acc _ _ _ _ rfl hx hx' hy hy' rfl rfl rfl
  have hin : InRect f.words x y := ⟨hx, hx', hy, hy'⟩
  rw [← outline_eq_decide]
  refine ⟨fun hl hk => ⟨fun hst => ?_, fun hst => ?_⟩, fun hl hk => ⟨fun hr hst => ?_, fun h => ?_⟩,
    fun hl hb ht => ?_, fun hl h => ?_⟩
  · simp [drawField_of_not_live hin hl, hk, stripe_eq_true hst]
  · simp [drawField_of_not_live hin hl, hk, stripe_eq_false hst]
  · simp [drawField_of_not_live hin hl, hr, stripe_eq_true hst]
  · rw [drawField_of_not_live hin hl, if_pos ⟨hk, h.imp_right stripe_eq_false⟩]
  · exact drawField_of_not_shown hin hl (not_shown_of_blink hb ht)
  · exact drawField_of_shown hin hl (shown_of_steady_or_even h)

end Sys2Proof.Proofs
end

section
/-! TIME_READ: the row of its opcode, its rule and the words it answers (11 R263; 02 R43, R47). -/

namespace Sys2Proof.Machine

open Sys2Proof.Safety

/-- A command whose rule answers OK, carried out: nothing but the reply follows (02 R46). -/
theorem answers_ok {op : Nat} {h : Handler} {p : Smb} {s a u : State} {c : CmdRef} {words : List Word}
    (H : Accepted op p s a c) (hrule : h c p a = .ok u words) (hroom : Room a p words) :
    smibenRow op h p s = .next (commitState s (reply u c p.via stOk words)) := by
  have hst : isRefusal (h c p a).st = false := by rw [hrule]; rfl
  have hwords : Room a p (h c p a).words := by rw [hrule]; exact hroom
  have hdefer : (h c p a).defer = false := by rw [hrule]; rfl
  rw [answers H hst hwords hdefer, hrule]
  rfl

/-- A command outside every ownership domain is open to every session (02 R43). -/
theorem ownerOk_no_domain (s : State) (r : SRef) : ownerOk s none r = true := rfl

theorem withLen_of_length_eq {n : Nat} {h : Handler} {c : CmdRef} {p : Smb} {s : State} (hn : p.payload.length = n) :
    withLen n h c p s = h c p s := if_pos hn

theorem wordsOfNat_two (n : Nat) : wordsOfNat 2 n = [w32 (n / 2 ^ 32), w32 n] := by
  simp [wordsOfNat, List.range_succ, Nat.shiftRight_eq_div_pow]

theorem timWord_herr (s : State) : timWord s timHerr = w32 (sat32 (herr s)) := by
  have hne : timHerr ≠ timSts := by decide
  rw [timWord, if_neg hne, if_pos rfl]

theorem opSpec_timeRead : opSpec 0x0701 = some (opBoth 0x0701 [1, 2, 3] none) := by decide

/-- The key class moves PARAM_WRITE alone into another domain (13 R304). -/
theorem domOf_timeRead (k : Nat) : domOf (opBoth 0x0701 [1, 2, 3] none) k = none :=
  if_neg fun h => absurd h.1 (by decide)

theorem timeReadRule_of_empty {c : CmdRef} {p : Smb} {s : State} (hp : p.payload = []) :
    timeReadRule c p s = .ok s (timeWords s) :=
  withLen_of_length_eq (by rw [hp]; rfl)

theorem timeWords_eq (s : State) :
    timeWords s =
      [ (if s.time.valid then (0x80000000 : Word) else 0) ||| BitVec.ofNat 32 (now s / 10 ^ 9 / 2 ^ 32 % 2 ^ 16),
        BitVec.ofNat 32 (now s / 10 ^ 9), BitVec.ofNat 32 (now s % 10 ^ 9),
        mkFld 31 24 s.time.epoch.toNat ||| mkFld 23 20 s.time.src ||| mkFld 19 16 s.time.state,
        BitVec.ofNat 32 (lt s / 2 ^ 32), BitVec.ofNat 32 (lt s), timWord s timHerr ] := by
  rw [timeWords, wordsOfNat_two, timWord_herr]
  rfl

theorem timeWords_length (s : State) : (timeWords s).length = 7 := by
  rw [timeWords_eq]
  rfl

/-- TIME_READ changes nothing before its reply: what is replied to is the state that took its SEQ. -/
theorem timeRead_answersOk {p : Smb} {s a : State} {c : CmdRef} (H : Accepted 0x0701 p s a c)
    (hp : p.payload = []) (hroom : Room a p (timeWords a)) :
    AnswersOk (.timeRead p) p s a c (timeWords a) :=
  answers_ok H (timeReadRule_of_empty hp) hroom

end Sys2Proof.Machine

namespace Sys2Proof.Proofs

open Sys2Proof.Machine

/-- Settles O55: the row of the opcode lists the three classes and no domain, and the words of the rule are the seven
of the statement, 28 bytes. -/
theorem timeReadWords : Obligations.TimeReadWords := by
  refine ⟨fun k hlo hhi => ⟨_, opSpec_timeRead, ?_, rfl, rfl, fun s r => ?_⟩, fun p s a c ws H hp hroom hws => ?_⟩
  · have hk : k ∈ [1, 2, 3] := by simp; omega
    exact List.contains_iff_mem.mpr hk
  · rw [domOf_timeRead]
    exact ownerOk_no_domain s r
  · have hfits : Safety.Room a p (timeWords a) := by
      rw [Safety.Room, timeWords_length]
      exact hroom
    rw [hws, ← timeWords_eq]
    exact timeRead_answersOk H hp hfits

end Sys2Proof.Proofs
end

section
/-! The DRAM address mapping: its place in the inline-ECC layout, its inverse, and the grain a start takes
(15 R331, R332). -/

namespace Sys2Proof.Machine

/-! ### The grain of a start -/

@[simp] theorem sluiceAsk_dram (s : State) (op : HeavyOp) (cls chip lamp : Nat) :
    (sluiceAsk s op cls chip lamp).1.dram = s.dram := by
  unfold sluiceAsk
  split
  case isTrue => exact bump_dram s _
  case isFalse => split <;> rfl

@[simp] theorem dramGranted_grain (s : State) (c : Nat) : (dramGranted s c).dram.grain = s.dram.grain := by
  unfold dramGranted
  split <;> rfl

@[simp] theorem dramAsk_grain (s : State) (c : Nat) : (dramAsk s c).dram.grain = s.dram.grain := by
  have hask := sluiceAsk_dram s (.dramTrain c) 1 15 0
  unfold dramAsk
  split
  case h_1 t _ heq =>
    rw [heq] at hask
    rw [dramGranted_grain, hask]
  case h_2 t _ _ heq =>
    rw [heq] at hask
    rw [hask]

/-- Asking for the channels' credits moves no grain. -/
theorem foldl_dramAsk_grain (cs : List Nat) (s : State) : (cs.foldl dramAsk s).dram.grain = s.dram.grain := by
  induction cs generalizing s with
  | nil => rfl
  | cons c cs ih => rw [List.foldl_cons, ih, dramAsk_grain]

theorem dramStart_grain (s : State) : (dramStart s).dram.grain = getF s memBootcfg 11 8 :=
  foldl_dramAsk_grain _ _

/-! ### Channel and address in the channel -/

variable {grain nch : Nat}

theorem mapAddr_c (hn : 1 ≤ nch) (a : Nat) : (mapAddr grain nch a).c = a / (256 * 2 ^ grain) % nch := by
  simp only [mapAddr, Nat.max_eq_right hn]

theorem mapAddr_l (hn : 1 ≤ nch) (a : Nat) :
    (mapAddr grain nch a).l = a / (256 * 2 ^ grain * nch) * (256 * 2 ^ grain) + a % (256 * 2 ^ grain) := by
  simp only [mapAddr, Nat.max_eq_right hn]

theorem mapAddr_one_c (a : Nat) : (mapAddr grain 1 a).c = 0 := by
  rw [mapAddr_c (Nat.le_refl 1), Nat.mod_one]

theorem mapAddr_one_l (a : Nat) : (mapAddr grain 1 a).l = a := by
  rw [mapAddr_l (Nat.le_refl 1), Nat.mul_one, Nat.div_add_mod']

/-- The system address from its channel and its address in the channel: the grain number in the channel and the
channel give the grain number in the system space. -/
theorem eq_of_mapAddr_c_l (hn : 1 ≤ nch) (a : Nat) :
    a = ((mapAddr grain nch a).l / (256 * 2 ^ grain) * nch + (mapAddr grain nch a).c) * (256 * 2 ^ grain)
      + (mapAddr grain nch a).l % (256 * 2 ^ grain) := by
  rw [mapAddr_c hn, mapAddr_l hn]
  have hg : 0 < 256 * 2 ^ grain := by positivity
  generalize 256 * 2 ^ grain = g at hg
  have hdiv : (a / (g * nch) * g + a % g) / g = a / g / nch := by
    rw [Nat.mul_comm, Nat.mul_add_div hg, Nat.div_eq_of_lt (Nat.mod_lt a hg), Nat.add_zero, Nat.div_div_eq_div_mul]
  have hmod : (a / (g * nch) * g + a % g) % g = a % g := by
    rw [Nat.mul_comm, Nat.mul_add_mod, Nat.mod_mod]
  rw [hdiv, hmod, Nat.div_add_mod', Nat.div_add_mod']

/-! ### Places in a check frame -/

theorem mapAddr_p (a : Nat) : (mapAddr grain nch a).p
    = (mapAddr grain nch a).l / 3840 * 4096 + (mapAddr grain nch a).l % 3840 := rfl

theorem mapAddr_k (a : Nat) : (mapAddr grain nch a).k
    = (mapAddr grain nch a).l / 3840 * 4096 + 3840 + 2 * ((mapAddr grain nch a).l % 3840 / 32) := rfl

/-- A data byte lies in the first 3,840 bytes of its check frame. -/
theorem mapAddr_p_mod_lt (a : Nat) : (mapAddr grain nch a).p % 4096 < 3840 := by
  rw [mapAddr_p]
  omega

/-- A check word lies behind the data of its check frame and before the reserved tail. -/
theorem mapAddr_k_mod_bounds (a : Nat) :
    3840 ≤ (mapAddr grain nch a).k % 4096 ∧ (mapAddr grain nch a).k % 4096 < 4079 := by
  rw [mapAddr_k]
  omega

theorem mapAddr_l_eq_of_p_eq {a b : Nat} (h : (mapAddr grain nch a).p = (mapAddr grain nch b).p) :
    (mapAddr grain nch a).l = (mapAddr grain nch b).l := by
  rw [mapAddr_p, mapAddr_p] at h
  omega

/-- No two bytes share a place. -/
theorem mapAddr_injective (hn : 1 ≤ nch) {a b : Nat} (hc : (mapAddr grain nch a).c = (mapAddr grain nch b).c)
    (hp : (mapAddr grain nch a).p = (mapAddr grain nch b).p) : a = b := by
  rw [eq_of_mapAddr_c_l hn a, hc, mapAddr_l_eq_of_p_eq hp, ← eq_of_mapAddr_c_l hn b]

/-- A byte and a check word, of the same frame or not, lie apart within their frames. -/
theorem mapAddr_p_ne_k (a b : Nat) : (mapAddr grain nch a).p ≠ (mapAddr grain nch b).k
    ∧ (mapAddr grain nch a).p ≠ (mapAddr grain nch b).k + 1 := by
  have hp := mapAddr_p_mod_lt (grain := grain) (nch := nch) a
  obtain ⟨hlo, hhi⟩ := mapAddr_k_mod_bounds (grain := grain) (nch := nch) b
  omega

end Sys2Proof.Machine

namespace Sys2Proof.Proofs

open Sys2Proof.Machine

/-- Settles O32: the arithmetic is that of the mapping, the frame's parts keep bytes, check words and the reserved
tail apart, and channel and L give the system address back. -/
theorem addressMapping : Obligations.AddressMapping := by
  rintro s a g n l f o rfl rfl hn rfl rfl rfl
  rw [← mapAddr_l hn a]
  obtain ⟨_, hk⟩ := mapAddr_k_mod_bounds (grain := s.dram.grain) (nch := (chansInUse s).length) a
  refine ⟨dramStart_grain s, mapAddr_c hn a, rfl, mapAddr_p a, mapAddr_k a, rfl, rfl, rfl, fun h1 => ?_, ?_, ?_,
    fun b hab => ?_, fun b => mapAddr_p_ne_k a b⟩
  · rw [mapNow, h1]
    exact ⟨mapAddr_one_c a, mapAddr_one_l a⟩
  · exact (mapAddr_p_mod_lt a).trans (by decide)
  · rw [mapNow]
    omega
  · by_contra! ⟨hc, hp⟩
    exact hab (mapAddr_injective hn hc hp)

end Sys2Proof.Proofs
end

section
/-! SESSION_OPEN up to its tag: the key it is tagged under, what the policers and the checks before the tag change, and
the drop of an open with another key's tag (20 R433; 02 R35, R40, R42). -/

namespace Sys2Proof.Machine

/-! ### The key of an open (20 R433) -/

theorem openKey_of_no_key {s : State} {k : Nat} (h : look k s.sec.keys = none) : openKey s k = s.sec.kprov := by
  simp only [openKey, loadedKey, h]

theorem openKey_of_key {s : State} {k : Nat} {x : W256} (h : look k s.sec.keys = some x) : openKey s k = some x := by
  simp only [openKey, loadedKey, h]

theorem tagOk_some_of_ne {k : W256} {p : Smb} (h : tagOf k p.hdr p.payload ≠ p.tag) : tagOk (some k) p = false :=
  beq_false_of_ne h

/-! ### What policing changes (02 R34, R42) -/

/-- `t` is `s` but for the MGMT command buffer and the buckets of the Smiben policers. -/
def PolicersOnly (s t : State) : Prop :=
  t = { s with smb := { s.smb with cmdBuf := t.smb.cmdBuf, buckets := t.smb.buckets } }

theorem PolicersOnly.refl (s : State) : PolicersOnly s s := rfl

theorem PolicersOnly.trans {s t u : State} (h : PolicersOnly s t) (k : PolicersOnly t u) : PolicersOnly s u := by
  unfold PolicersOnly at *
  rw [k, h]

theorem PolicersOnly.sess {s t : State} (h : PolicersOnly s t) : t.smb.sess = s.smb.sess := by rw [h]
theorem PolicersOnly.free {s t : State} (h : PolicersOnly s t) : t.free = s.free := by rw [h]
theorem PolicersOnly.out {s t : State} (h : PolicersOnly s t) : t.out = s.out := by rw [h]

theorem policersOnly_freeBuf (s : State) (p : Smb) : PolicersOnly s (freeBuf s p) := by
  unfold freeBuf
  split
  · rfl
  · exact PolicersOnly.refl s

theorem policersOnly_smbToken {s t : State} {port cls : Nat} (h : smbToken s port cls = some t) : PolicersOnly s t := by
  obtain ⟨_, _, rfl⟩ := Option.map_eq_some_iff.mp h
  rfl

theorem policersOnly_policed {s t : State} {p : Smb} {cls : Nat} (h : policed s p cls = some t) : PolicersOnly s t := by
  unfold policed at h
  split at h
  · split at h
    · exact policersOnly_smbToken h
    · cases h; exact PolicersOnly.refl s
  · cases h; exact PolicersOnly.refl s

/-- The token of class 3 that a packet draws where the port has one left. -/
theorem policersOnly_smbToken_getD (s : State) (port cls : Nat) : PolicersOnly s ((smbToken s port cls).getD s) := by
  cases h : smbToken s port cls with
  | none => exact PolicersOnly.refl s
  | some t => exact policersOnly_smbToken h

/-- A drop at steps 1 to 4 is a drop under class 3, after at most a token. -/
theorem drop3_eq_smbDrop (s : State) (p : Smb) : ∃ u, PolicersOnly s u ∧ drop3 s p = smbDrop u 3 := by
  unfold drop3
  split
  · refine ⟨_, ?_, rfl⟩
    split
    · exact policersOnly_smbToken_getD s _ 3
    · exact PolicersOnly.refl s
  · exact ⟨s, PolicersOnly.refl s, rfl⟩

/-! ### An open with another tag (02 R40) -/

/-- An open that passes the checks before its tag, and whose tag is not that of the key of its class, is dropped. -/
theorem openPath_of_wrong_tag {p : Smb} {s a : State} {k : W256} (hvia : ∀ r, p.via ≠ .relay r)
    (hreach : reaches 0x0001 s p = true) (hpol : policed (freeBuf s p) p 2 = some a) (hshape : shapeOk p = true)
    (hlevel : levelOk a p = true) (hmode : hDmode p.hdr = 0) (hkey : openKey a (hKeyc p.hdr) = some k)
    (htag : tagOk (some k) p = false) : openPath p s = drop3 a p := by
  unfold openPath
  cases hv : p.via with
  | relay r => exact absurd hv (hvia r)
  | udp u => simp [hreach, hpol, hshape, hlevel, hmode, hkey, htag]
  | mgmt => simp [hreach, hpol, hshape, hlevel, hmode, hkey, htag]

theorem exec_sessionOpen_of_sess15 {p : Smb} {s : State} (hawake : s.boot.held = false) (hsess : hSess p.hdr = 15) :
    Safety.Completes (.sessionOpen p) s (openPath p s) := by
  have hact : exec (.sessionOpen p) s = act s fun t =>
      if hSess p.hdr = 15 then openPath p t
      else hostCommand 0x0001 (fun _ _ s => .no s stBadParam) p t := rfl
  rw [Safety.Completes, hact, act_next s _ hawake, if_pos hsess]

end Sys2Proof.Machine

namespace Sys2Proof.Proofs

open Sys2Proof.Machine

/-- Settles O57: the key of an open is a case split on the key of its class, and an open with another tag is dropped at
step 4, before anything but the policers has changed. -/
theorem classWithoutAKey : Obligations.ClassWithoutAKey := by
  refine ⟨fun s k => ⟨openKey_of_no_key, fun x => openKey_of_key⟩,
    fun p s a k hawake hsess hvia hreach hpol hshape hlevel hmode hkey htag => ?_⟩
  have hpath : openPath p s = drop3 a p :=
    openPath_of_wrong_tag hvia hreach hpol hshape hlevel hmode hkey (tagOk_some_of_ne htag)
  obtain ⟨u, hu, hdrop⟩ := drop3_eq_smbDrop a p
  have hsu : PolicersOnly s u := ((policersOnly_freeBuf s p).trans (policersOnly_policed hpol)).trans hu
  refine ⟨u, ?_, hsu.sess, hsu.free, hsu.out⟩
  rw [← hdrop, ← hpath]
  exact exec_sessionOpen_of_sess15 hawake hsess

end Sys2Proof.Proofs
end

section
/-! What a start leaves of the on-chip memory (18 R389): every operation of a start drops bytes or leaves them, and none
stores one, so the memory that begins empty stays in canonical form. -/

namespace Sys2Proof.Machine

/-- `t` holds no on-chip byte that `s` does not hold. -/
def SramWithin (s t : State) : Prop := t.sram.mem.Sublist s.sram.mem

theorem SramWithin.refl (s : State) : SramWithin s s := List.Sublist.refl _

theorem SramWithin.trans {a b c : State} (h : SramWithin a b) (k : SramWithin b c) : SramWithin a c :=
  List.Sublist.trans k h

theorem SramWithin.of_eq {s t : State} (h : t.sram.mem = s.sram.mem) : SramWithin s t := by
  rw [SramWithin, h]

theorem SramWithin.of_told {s t : State} (h : Told s t) : SramWithin s t := .of_eq (by rw [h])

theorem SramWithin.ite {s a b : State} {p : Prop} [Decidable p] (ha : SramWithin s a) (hb : SramWithin s b) :
    SramWithin s (if p then a else b) := by
  split
  · exact ha
  · exact hb

theorem sramWithin_foldl {α : Type} {f : State → α → State} (h : ∀ s x, SramWithin s (f s x)) (l : List α)
    (s : State) : SramWithin s (l.foldl f s) := by
  induction l generalizing s with
  | nil => exact .refl s
  | cons x r ih => exact (h s x).trans (ih (f s x))

theorem sramWithin_recordX (s : State) (k : Nat) (l : List Word) : SramWithin s (recordX s k l) :=
  .of_told (told_recordX s k l)

theorem sramWithin_recEventX (s : State) (a : Aud) (k : Nat) (l : List Word) : SramWithin s (recEventX s a k l) :=
  .of_told (told_recEventX s a k l)

theorem sramWithin_sluiceAsk (s : State) (op : HeavyOp) (cls chip lamp : Nat) :
    SramWithin s (sluiceAsk s op cls chip lamp).1 := by
  unfold sluiceAsk
  split
  · exact .refl s
  · split <;> exact .refl s

theorem sramWithin_flashAsk (s : State) (op : FlashOp) (ref : Option CmdRef) (cls : Nat) (free : Bool) :
    SramWithin s (flashAsk s op ref cls free).1 := by
  have hask := sramWithin_sluiceAsk s (.flash s.fl.next) cls 5 0
  unfold flashAsk
  split
  · exact .refl s
  · split
    · exact .refl s
    · split
      all_goals
        rename_i heq
        rw [heq] at hask
        exact hask


/-! ### The steps of a start -/

theorem sramWithin_runSlot (s : State) (r : RomStart) (k : Nat) : SramWithin s (runSlot s r k) := by
  unfold runSlot
  simp only
  split
  · exact sramWithin_sluiceAsk _ _ _ _ _
  · exact .refl s

theorem sramWithin_loadSettings (s : State) : SramWithin s (loadSettings s) := by
  unfold loadSettings
  split <;> exact .refl s

theorem sramWithin_causeRecords (s : State) (t : Int) : SramWithin s (causeRecords s t) := by
  unfold causeRecords
  split
  · exact sramWithin_recordX _ _ _
  · split
    · exact sramWithin_recordX _ _ _
    · exact .refl s

theorem sramWithin_marchFail (s : State) (bank word element : Nat) : SramWithin s (marchFail s bank word element) :=
  SramWithin.trans (b := bump (setBank s bank fun b => { b with fault := true }) srmMfail) (.refl s)
    (sramWithin_recordX _ _ _)

theorem sramWithin_bootMarch (s : State) (b : BootIn) : SramWithin s (bootMarch s b) := by
  unfold bootMarch
  split
  · exact .refl s
  · exact sramWithin_foldl (fun s f => sramWithin_marchFail s _ _ _) _ _

theorem sramWithin_calResult (s : State) (item result fig : Nat) : SramWithin s (calResult s item result fig) := by
  unfold calResult
  simp only
  split
  · exact sramWithin_recordX _ _ _
  · exact .refl s

theorem sramWithin_calOsc (s : State) (n : Option Nat) (trimmed : Nat) : SramWithin s (calOsc s n trimmed) := by
  unfold calOsc
  split
  · exact sramWithin_calResult _ _ _ _
  · refine .trans ?_ (sramWithin_calResult _ _ _ _)
    split <;> exact .refl s

theorem sramWithin_calSensors (s : State) (l : List (Option Int)) : SramWithin s (calSensors s l) := by
  unfold calSensors
  simp only
  split
  · exact sramWithin_calResult _ _ _ _
  · split
    · exact sramWithin_calResult _ _ _ _
    · exact sramWithin_calResult _ _ _ _

theorem sramWithin_calLanes (s : State) (ls : List Nat) (m : List (Nat × Option Int)) :
    SramWithin s (calLanes s ls m) := sramWithin_calResult _ _ _ _

theorem sramWithin_calSupply (s : State) (g : Option Int) (z : Nat) : SramWithin s (calSupply s g z) := by
  unfold calSupply
  split
  · exact sramWithin_calResult _ _ _ _
  · split
    · exact sramWithin_calResult _ _ _ _
    · exact sramWithin_calResult _ _ _ _

theorem sramWithin_loadCalibration (s : State) : SramWithin s (loadCalibration s) := by
  unfold loadCalibration
  split
  · exact .refl s
  · exact sramWithin_recordX _ _ _

theorem sramWithin_bufferLost (s : State) (b item n : Nat) : SramWithin s (bufferLost s b item n) :=
  sramWithin_recordX _ _ _

theorem sramWithin_fieldBuf (s : State) (n : Nat) : SramWithin s (fieldBuf s n).1 := by
  unfold fieldBuf
  split
  · exact .refl s
  · unfold seizeBuf
    split
    · exact sramWithin_bufferLost _ _ _ _
    · cases (List.range 16).reverse.find? _ with
      | none => exact .refl s
      | some k => exact sramWithin_bufferLost _ _ _ _

theorem sramWithin_applyDefine (s : State) (n : Nat) (w : List Word) : SramWithin s (applyDefine s n w) := by
  unfold applyDefine
  simp only
  split
  · split <;> exact .refl s
  · exact sramWithin_fieldBuf { s with bdg := { s.bdg with early := del n s.bdg.early } } n

theorem sramWithin_loadBadger (s : State) : SramWithin s (loadBadger s) := by
  unfold loadBadger
  split
  · exact .refl s
  · split
    · exact sramWithin_recordX _ _ _
    · exact sramWithin_foldl (fun t _ => sramWithin_applyDefine t _ _) _ _

theorem sramWithin_checkBlocks (s : State) : SramWithin s (checkBlocks s).1 :=
  sramWithin_foldl (fun t _ => sramWithin_recordX t _ _) _ _

theorem sramWithin_startPicture (s : State) : SramWithin s (startPicture s) := by
  unfold startPicture
  split <;> exact .refl s

theorem sramWithin_migrated (s : State) (lost : Bool) : SramWithin s (migrated s lost) := by
  unfold migrated
  split
  · exact sramWithin_recEventX _ _ _ _
  · exact .refl s

theorem sramWithin_wipe (s : State) : SramWithin s (wipe s) := List.filter_sublist

theorem sramWithin_closeWhere (s : State) (f : Session → Bool) : SramWithin s (closeWhere s f) :=
  sramWithin_foldl (fun s r => .of_told (told_closeSess s r)) _ _

theorem sramWithin_tamper (s : State) : SramWithin s (tamper s) := by
  have hrec := ((sramWithin_wipe s).trans (sramWithin_closeWhere (wipe s) fun _ => true)).trans
    (.of_told (told_record (bump (closeWhere (wipe s) fun _ => true) secTampers) 0x0D01 []))
  unfold tamper
  simp only
  split <;> exact hrec

theorem sramWithin_startKeys (s : State) : SramWithin s (startKeys s) := by
  unfold startKeys
  split
  · split
    · exact .refl s
    · exact sramWithin_tamper s
  · unfold loadKeys
    split <;> exact .refl s


theorem sramWithin_linkSend (s : State) (p : Nat) (b : CtlBody) : SramWithin s (linkSend s p b) :=
  .of_told (told_linkSend s p b)

theorem sramWithin_nameEdge (s : State) (c : EdgeChange) (tick : Word) : SramWithin s (nameEdge s c tick) :=
  SramWithin.trans (b := setChange s (waitsFor c.id) fun x =>
    { x with partner := some tick, edge := some (edgeFor s c.what (nearClk (now s) (laterW (wt32 c.acc) tick))) })
    (.refl s) (sramWithin_linkSend _ _ _)

theorem sramWithin_proposeWith (s : State) (id : ChangeId) (what : EdgeWhat) (ref : Option CmdRef)
    (credit : Option Nat) : SramWithin s (proposeWith s id what ref credit) := by
  unfold proposeWith
  extract_lets c s1 s2 s3
  have hsent : SramWithin s s2 := SramWithin.trans (b := s1) (.refl s) (sramWithin_linkSend _ _ _)
  clear_value s2
  split
  · exact .refl s
  · split
    · exact hsent
    · split
      · exact SramWithin.trans hsent (sramWithin_nameEdge { s2 with pair := _ } _ _)
      · exact hsent

theorem sramWithin_askRecompute (s : State) (id : ChangeId) (what : EdgeWhat) (ref : Option CmdRef) (lamp : Nat) :
    SramWithin s (askRecompute s id what ref lamp).1 := by
  have hask := sramWithin_sluiceAsk s (.recompute s.slu.next) 2 20 lamp
  unfold askRecompute
  simp only
  split
  all_goals
    rename_i heq
    rw [heq] at hask
  · exact hask.trans (sramWithin_proposeWith _ _ _ _ _)
  · exact hask
  · exact hask

theorem sramWithin_boardsSettled (s : State) : SramWithin s (boardsSettled s) := by
  unfold boardsSettled
  simp only
  split
  · exact .refl s
  · split
    · exact .refl s
    · exact sramWithin_askRecompute _ _ _ _ _

theorem sramWithin_judgeBoards (s : State) (heads : List (Nat × Option (BitVec 64 × Nat × Nat))) :
    SramWithin s (judgeBoards s heads) := by
  unfold judgeBoards
  refine SramWithin.trans ?_ (sramWithin_boardsSettled _)
  refine SramWithin.trans ?_ (sramWithin_foldl (fun t b => ?_) _ _)
  · exact .refl s
  · simp only
    split
    · exact sramWithin_recEventX _ _ _ _
    · split
      · exact sramWithin_recordX _ _ _
      · exact .refl t

theorem sramWithin_startBoards (s : State) (b : BootIn) : SramWithin s (startBoards s b) := by
  unfold startBoards
  split
  · exact .refl s
  · exact sramWithin_judgeBoards _ _

theorem sramWithin_startSupply (s : State) (b : BootIn) : SramWithin s (startSupply s b) := by
  unfold startSupply
  split
  · exact .refl s
  · exact sramWithin_calSupply _ _ _

theorem sramWithin_startDad (s : State) (i f : Nat) : SramWithin s (startDad s i f) := by
  unfold startDad
  split <;> exact .refl s

theorem sramWithin_selectSlot (s : State) : SramWithin s (selectSlot s) := by
  unfold selectSlot
  extract_lets c told
  have htold (t : State) (h : SramWithin s t) : SramWithin s (told t) :=
    h.trans (sramWithin_recEventX _ _ _ _)
  clear_value told c
  split
  · exact .refl s
  · split
    · exact htold _ (.of_eq rfl)
    · split
      · exact htold _ (by unfold enterHoldover; exact .of_eq rfl)
      · exact htold _ (.of_eq rfl)

theorem sramWithin_ptpGroups (s : State) : SramWithin s (ptpGroups s) := by
  unfold ptpGroups
  extract_lets want mine change kept new rest
  exact .of_eq rfl

theorem sramWithin_domWritten (s : State) (d : Nat) : SramWithin s (domWritten s d) := by
  unfold domWritten
  extract_lets on
  have hset : SramWithin s (setPtp s d { ptpSlotOff with st := if on then 1 else 0 }) := .of_eq rfl
  exact (hset.trans (sramWithin_selectSlot _)).trans (sramWithin_ptpGroups _)

theorem sramWithin_marchFill (n : Nat) (s : State) : SramWithin s (marchFill n s) := by
  induction n generalizing s with
  | zero => exact .refl s
  | succ n ih =>
    unfold marchFill
    split
    · exact .refl s
    · next b _ _ =>
      have hask := sramWithin_sluiceAsk s (.march b) 3 1 0
      split
      · exact .refl s
      · split
        all_goals
          rename_i heq
          rw [heq] at hask
        · exact hask.trans (ih _)
        · split <;> exact hask

theorem sramWithin_marchStart (s : State) (mode : Nat) : SramWithin s (marchStart s mode) := by
  unfold marchStart
  simp only
  split
  · exact .refl s
  · split
    · exact .refl s
    · exact sramWithin_marchFill 4 _

theorem sramWithin_startConfigured (s : State) : SramWithin s (startConfigured s) := by
  unfold startConfigured
  extract_lets nets ptp mode m
  have hnets : SramWithin s nets :=
    sramWithin_foldl (fun t i => sramWithin_foldl (fun u f => sramWithin_startDad u i f) _ t) _ s
  have hptp : SramWithin nets ptp := by
    refine .ite (sramWithin_foldl (fun u d => ?_) _ nets) (.refl nets)
    exact .ite (sramWithin_domWritten u d) (.refl u)
  have hm : SramWithin ptp m := .ite (.refl ptp) (sramWithin_marchStart ptp mode)
  exact (hnets.trans hptp).trans hm

theorem sramWithin_startHandover (s : State) (c : HoCause) : SramWithin s (startHandover s c) :=
  sramWithin_linkSend { s with pair := _ } _ _

theorem sramWithin_throttle (s : State) : SramWithin s (throttle s) := by
  unfold throttle
  extract_lets old a b new s0 s1 s2
  have h0 : SramWithin s s0 := sramWithin_recEventX (setF s thmSts 31 24 new) _ _ _
  have h1 : SramWithin s0 s1 := .ite (.refl s0) (.refl s0)
  have h2 : SramWithin s1 s2 := .ite (.refl s1) (.refl s1)
  have hs2 := (h0.trans h1).trans h2
  exact .ite (.refl s) (.ite (hs2.trans (sramWithin_startHandover s2 _)) hs2)

theorem sramWithin_dieConvert (s : State) (raws : List Int) : SramWithin s (dieConvert s raws) := by
  unfold dieConvert
  simp only
  refine SramWithin.trans ?_ (sramWithin_foldl (fun t _ => sramWithin_recordX t _ _) _ _)
  exact sramWithin_foldl (f := fun t k => wr t (thmSens + k) _) (fun t _ => .refl t) _ s

theorem sramWithin_calWriteBack (s : State) : SramWithin s (calWriteBack s) := by
  unfold calWriteBack
  simp only
  split
  · exact sramWithin_flashAsk _ _ _ _ _
  · exact .refl s

theorem sramWithin_makeMarks (s : State) (l : List (Nat × Nat)) : SramWithin s (makeMarks s l) :=
  sramWithin_foldl (fun t _ => sramWithin_flashAsk t _ _ _ _) _ _

theorem sramWithin_dramAsk (s : State) (c : Nat) : SramWithin s (dramAsk s c) := by
  have hask := sramWithin_sluiceAsk s (.dramTrain c) 1 15 0
  unfold dramAsk
  split
  all_goals
    rename_i heq
    rw [heq] at hask
  · refine hask.trans ?_
    unfold dramGranted
    split <;> exact .refl _
  · exact hask

theorem sramWithin_dramStart (s : State) : SramWithin s (dramStart s) :=
  sramWithin_foldl sramWithin_dramAsk _ _

theorem sramWithin_romSelect (s : State) (b : BootIn) : SramWithin s (romSelect s b).1 := by
  have hput (t : State) (f : BootRec → BootRec) : SramWithin t (bootProgram t f) := by
    unfold bootProgram bootPut
    split <;> exact .refl t
  unfold romSelect
  simp only
  split
  · exact .refl s
  · split
    · exact .refl s
    · split
      · split
        · exact .refl s
        · exact hput { s with fl := _ } _
      · split
        · split
          · exact .refl s
          · split
            · exact .refl s
            · exact hput { s with fl := _ } _
        · exact .refl s

theorem sramWithin_startRecovery (s : State) (b : BootIn) : SramWithin s (startRecovery s b) :=
  (sramWithin_calOsc s (some b.rcCount) b.rcCountTrimmed).trans (sramWithin_startKeys _)

theorem sramWithin_startFirmware (s : State) (b : BootIn) (r : RomStart) (k : Nat) (t : Int) :
    SramWithin s (startFirmware s b r k t) := by
  unfold startFirmware
  simp only
  have hdram (u : State) : SramWithin u (if u.id.sender then dramStart u else u) := by
    split
    · exact sramWithin_dramStart u
    · exact .refl u
  refine .trans ?_ (hdram _)
  refine .trans ?_ (sramWithin_makeMarks _ _)
  refine .trans ?_ (sramWithin_calWriteBack _)
  refine .trans ?_ (sramWithin_throttle _)
  refine .trans ?_ (sramWithin_dieConvert _ _)
  refine .trans (b := startConfigured _) ?_ (.refl _)
  refine .trans ?_ (sramWithin_startConfigured _)
  refine .trans ?_ (sramWithin_startBoards _ _)
  refine .trans ?_ (sramWithin_startSupply _ _)
  refine .trans ?_ (sramWithin_calLanes _ _ _)
  refine .trans ?_ (sramWithin_startKeys _)
  refine .trans ?_ (sramWithin_migrated _ _)
  refine .trans ?_ (sramWithin_startPicture _)
  refine .trans ?_ (sramWithin_checkBlocks _)
  refine .trans ?_ (sramWithin_loadBadger _)
  refine .trans ?_ (sramWithin_loadCalibration _)
  refine .trans ?_ (sramWithin_calSensors _ _)
  refine .trans ?_ (sramWithin_calOsc _ _ _)
  refine .trans ?_ (sramWithin_bootMarch _ _)
  refine .trans ?_ (sramWithin_causeRecords _ _)
  refine .trans ?_ (.of_told (told_record _ _ _))
  refine .trans (b := loadSettings (runSlot s r k)) ?_ (.refl _)
  exact (sramWithin_runSlot s r k).trans (sramWithin_loadSettings _)


/-! ### What a command can do -/

/-- The state in which a start ends (18 R389). -/
def startOf (s : State) (b : BootIn) : State :=
  match (romSelect (bootBase s b) b).2.run with
  | some k => startFirmware (romSelect (bootBase s b) b).1 b (romSelect (bootBase s b) b).2 k s.pwr.hottest
  | none => startRecovery (romSelect (bootBase s b) b).1 b

theorem exec_start (s : State) (b : BootIn) :
    exec (.powerOnResetRelease b) s =
      if mayStart s b then commitReset s (startOf s b) else .next s := by
  show execPowerOnResetRelease b s = _
  unfold execPowerOnResetRelease startOf
  cases mayStart s b <;> rfl

theorem startOf_sram (s : State) (b : BootIn) : (startOf s b).sram.mem = [] := by
  have hrom : SramWithin (bootBase s b) (romSelect (bootBase s b) b).1 := sramWithin_romSelect _ _
  have hwithin : SramWithin (bootBase s b) (startOf s b) := by
    unfold startOf
    split
    · exact hrom.trans (sramWithin_startFirmware _ _ _ _ _)
    · exact hrom.trans (sramWithin_startRecovery _ _)
  exact List.sublist_nil.mp hwithin

/-- What a command that is neither the release of reset nor a DRAM access does: it leaves the state, or commits one. -/
def Quiet (s : State) (o : Out1) : Prop := o = .next s ∨ ∃ u, o = .next (commitState s u)

theorem quiet_commit (s u : State) : Quiet s (commit s u) := .inr ⟨u, rfl⟩

theorem quiet_stay (s : State) : Quiet s (.next s) := .inl rfl

theorem Quiet.ite {s : State} {a b : Out1} {p : Prop} [Decidable p] (ha : Quiet s a) (hb : Quiet s b) :
    Quiet s (if p then a else b) := by
  split
  · exact ha
  · exact hb

theorem quiet_act (s : State) (f : State → State) : Quiet s (act s f) := .ite (quiet_stay s) (quiet_commit s _)

theorem quiet_thermalConversion (raws : List Int) (s : State) : Quiet s (execThermalConversion raws s) :=
  .ite (quiet_commit s _) (quiet_act s _)

theorem quiet_thermalRestart (s : State) : Quiet s (execThermalRestart s) := by
  unfold execThermalRestart
  refine .ite (quiet_stay s) ?_
  cases s.pwr.coolSince with
  | none => exact quiet_stay s
  | some t => exact quiet_commit s _

theorem quiet_nvStopLift (s : State) : Quiet s (execNvStopLift s) := by
  unfold execNvStopLift
  exact .ite (quiet_stay s) (quiet_commit s _)

theorem quiet_idle (s : State) : Quiet s (idle s) := by
  unfold idle
  refine .ite (quiet_stay s) ?_
  extract_lets t
  cases t.boot.resetPending with
  | none => exact quiet_commit s _
  | some d => exact .ite (quiet_commit s _) (quiet_commit s _)

/-- A DRAM access stops when it reaches beyond the space there is (log 15). -/
theorem dramRequest_outcome (p a : Nat) (w : Option (List Byte)) (n : Nat) (s : State) :
    Quiet s (execDramRequest p a w n s) ∨ execDramRequest p a w n s = .fault .dramOutside := by
  unfold execDramRequest
  extract_lets len
  split
  · exact .inl (quiet_stay s)
  split
  · exact .inl (quiet_stay s)
  split
  · exact .inl (quiet_commit s _)
  split
  · exact .inl (quiet_stay s)
  split
  · exact .inr rfl
  · exact .inl (quiet_commit s _)

/-- Every command leaves the state or commits one, but for the release of reset and a DRAM access beyond the space. -/
theorem exec_outcome (i : Instr) (s : State) :
    Quiet s (exec i s) ∨ (∃ b, i = .powerOnResetRelease b ∧ exec i s = commitReset s (startOf s b))
      ∨ ((∃ p a w n, i = .dramRequest p a w n) ∧ exec i s = .fault .dramOutside) := by
  obtain ⟨f, hf⟩ | hon | ⟨p, a, w, n, rfl⟩ := exec_shape i s
  · exact .inl (hf ▸ quiet_act s f)
  · cases i
    case powerOnResetRelease b =>
      rw [exec_start]
      split
      · exact .inr (.inl ⟨b, rfl, rfl⟩)
      · exact .inl (quiet_stay s)
    case railThresholdCross => exact .inl (quiet_commit s _)
    case railRecovery => exact .inl (quiet_commit s _)
    case pfailAssert => exact .inl (quiet_commit s _)
    case nvStopLift => exact .inl (quiet_nvStopLift s)
    case violNominalLatch => exact .inl (quiet_commit s _)
    case thermalConversion => exact .inl (quiet_thermalConversion _ s)
    case thermalRestart => exact .inl (quiet_thermalRestart s)
    case powerLoss => exact .inl (quiet_commit s _)
    all_goals exact absurd hon Bool.false_ne_true
  · obtain h | h := dramRequest_outcome p a w n s
    · exact .inl h
    · exact .inr (.inr ⟨⟨p, a, w, n, rfl⟩, h⟩)

theorem Quiet.keeps {s t : State} {o : Out1} (h : Quiet s o) (ht : o = .next t) :
    t.id.sender = s.id.sender ∧ t.pending = s.pending := by
  obtain rfl | ⟨u, rfl⟩ := h <;> cases ht <;> exact ⟨rfl, rfl⟩

theorem Quiet.inv {s t : State} {o : Out1} (h : Quiet s o) (hs : Safety.Inv s) (ht : o = .next t) : Safety.Inv t := by
  obtain rfl | ⟨u, rfl⟩ := h <;> cases ht
  · exact hs
  · exact commit_inv s u

theorem commitReset_inv {s u t : State} (hu : u.sram.mem = []) (ht : commitReset s u = .next t) : Safety.Inv t := by
  cases ht
  exact ⟨canonPar_wf _ _, canonMem_wf _, by rw [hu]; rfl⟩

theorem exec_inv (i : Instr) {s t : State} (hs : Safety.Inv s) (ht : exec i s = .next t) : Safety.Inv t := by
  obtain h | ⟨b, rfl, h⟩ | ⟨-, h⟩ := exec_outcome i s
  · exact h.inv hs ht
  · exact commitReset_inv (startOf_sram s b) (h ▸ ht)
  · rw [h] at ht; cases ht

/-! ### Reserved bits (00 R4) -/

theorem blockRows_reset_reserved :
    ∀ b < 19, (blockRows b).all (fun r => r.resetWord &&& r.reserved == 0) = true := by decide +kernel

theorem blockRows_of_le {b : Nat} (h : 19 ≤ b) : blockRows b = [] := by
  obtain ⟨n, rfl⟩ := Nat.exists_eq_add_of_le' h
  rfl

/-- No row resets a reserved bit to 1. -/
theorem resetWord_reserved {snd : Bool} {i : Nat} {r : PRow} (hr : findRow snd i = some r) :
    r.resetWord &&& r.reserved = 0 := by
  have hmem : r ∈ blockRows (i / 1024) := List.mem_of_find?_eq_some hr
  by_cases hb : i / 1024 < 19
  · exact beq_iff_eq.mp (List.all_eq_true.mp (blockRows_reset_reserved _ hb) r hmem)
  · rw [blockRows_of_le (Nat.le_of_not_lt hb)] at hmem
    cases hmem

theorem normWord_reserved {snd : Bool} {i : Nat} {v w : Word} {r : PRow} (hr : findRow snd i = some r)
    (h : normWord snd i v = some w) : w &&& r.reserved = 0 := by
  simp only [normWord, hr] at h
  split at h
  · cases h
  · cases h
    rw [BitVec.and_assoc, BitVec.and_comm (~~~r.reserved), BitVec.and_not_self]
    exact BitVec.and_zero

end Sys2Proof.Machine

namespace Sys2Proof.Proofs

open Sys2Proof.Machine

/-- Settles O46: a command commits a canonical state, and a start begins with empty on-chip memory and only drops bytes
of it. -/
theorem everyStepKeepsTheInvariant : Obligations.EveryStepKeepsTheInvariant := by
  unfold Obligations.EveryStepKeepsTheInvariant
  intro s t hs ht
  unfold step at ht
  split at ht
  · next c r _ => exact exec_inv c (s := s.withPending r) hs ht
  · exact (quiet_idle s).inv hs ht

/-- Settles O49: the outcomes of a command are those of `exec_outcome`. -/
theorem onlyDramStops : Obligations.OnlyDramStops := by
  unfold Obligations.OnlyDramStops
  intro i s
  obtain h | ⟨b, rfl, h⟩ | ⟨hi, h⟩ := exec_outcome i s
  · refine ⟨fun r hr => ?_, fun f hf => ?_, fun t ht => ?_⟩
    · obtain h | ⟨u, h⟩ := h <;> rw [h] at hr <;> cases hr
    · obtain h | ⟨u, h⟩ := h <;> rw [h] at hf <;> cases hf
    · exact ⟨(h.keeps ht).2, .inr (h.keeps ht).1⟩
  · refine ⟨fun r hr => ?_, fun f hf => ?_, fun t ht => ?_⟩
    · rw [h] at hr; cases hr
    · rw [h] at hf; cases hf
    · rw [h] at ht; cases ht; exact ⟨rfl, .inl ⟨b, rfl⟩⟩
  · refine ⟨fun r hr => ?_, fun f hf => ?_, fun t ht => ?_⟩
    · rw [h] at hr; cases hr
    · rw [h] at hf; cases hf; exact ⟨rfl, hi⟩
    · rw [h] at ht; cases ht

/-- Settles O48: outside the always-on domain a command acts through `act`, which stands while held. -/
theorem heldDeviceStands : Obligations.HeldDeviceStands := by
  unfold Obligations.HeldDeviceStands
  intro i s hheld hoff
  obtain ⟨f, hf⟩ | hon | ⟨p, a, w, n, rfl⟩ := exec_shape i s
  · rw [hf, act_held s f hheld]
  · rw [hoff] at hon; cases hon
  · show execDramRequest p a w n s = _
    unfold execDramRequest
    rw [if_pos hheld]

/-- Settles O47: a listed word is in normal form, and no row resets a reserved bit to 1. -/
theorem reservedBitsReadZero : Obligations.ReservedBitsReadZero := by
  unfold Obligations.ReservedBitsReadZero
  intro s i r ⟨hpar, _, _⟩ hr
  unfold rd
  cases hl : look i s.par with
  | none =>
    simp only [Option.getD_none, resetWord, hr]
    exact resetWord_reserved hr
  | some w => exact normWord_reserved hr (look_wf _ _ _ _ hpar hl)

end Sys2Proof.Proofs
end

section
/-! Counters and written words (00 R5; 14 R319, R323). -/

namespace Sys2Proof.Machine

theorem toNat_satAdd (w : Word) (n : Nat) : (satAdd w n).toNat = min (w.toNat + n) 0xFFFFFFFF := by
  unfold satAdd sat32 w32
  rw [BitVec.toNat_ofNat]
  omega

theorem testBit_fld (w : Word) (hi lo i : Nat) :
    (fld w hi lo).testBit i = (decide (i < hi + 1 - lo) && w.getLsbD (lo + i)) := by
  unfold fld
  rw [Nat.testBit_mod_two_pow, Nat.testBit_shiftRight, BitVec.testBit_toNat]

theorem getLsbD_maskOf {hi lo : Nat} (hhi : hi < 32) (i : Nat) :
    (maskOf hi lo).getLsbD i = (decide (lo ≤ i) && decide (i < hi + 1)) := by
  unfold maskOf
  rw [BitVec.getLsbD_ofNat, Nat.testBit_shiftLeft, Nat.testBit_two_pow_sub_one]
  by_cases h : lo ≤ i <;> by_cases h' : i < hi + 1 <;> simp [h, h'] <;> omega

/-- A field set reads what was set, as far as it fits the field. -/
theorem fld_setFld (w : Word) {hi lo : Nat} (hhi : hi < 32) (v : Nat) :
    fld (setFld w hi lo v) hi lo = v % 2 ^ (hi + 1 - lo) := by
  refine Nat.eq_of_testBit_eq fun i => ?_
  rw [testBit_fld, Nat.testBit_mod_two_pow]
  by_cases hi' : i < hi + 1 - lo
  · have hmask : (maskOf hi lo).getLsbD (lo + i) = true := by
      rw [getLsbD_maskOf hhi]; simp; omega
    have hlt : lo + i < 32 := by omega
    show (_ && ((w &&& ~~~maskOf hi lo) ||| (BitVec.ofNat 32 (v <<< lo) &&& maskOf hi lo)).getLsbD (lo + i)) = _
    rw [BitVec.getLsbD_or, BitVec.getLsbD_and, BitVec.getLsbD_and, BitVec.getLsbD_not, hmask, BitVec.getLsbD_ofNat]
    simp [hi', hlt, Nat.testBit_shiftLeft]
  · simp [hi']

/-- A field counted up rises by one and stops at its largest value. -/
theorem getF_bumpF (s : State) (i : Nat) {hi lo : Nat} (hhi : hi < 32) :
    getF (bumpF s i hi lo) i hi lo = min (getF s i hi lo + 1) (2 ^ (hi + 1 - lo) - 1) := by
  have hpos : 0 < 2 ^ (hi + 1 - lo) := Nat.two_pow_pos _
  unfold bumpF getF
  rw [rd_setF, if_pos rfl, fld_setFld _ hhi]
  exact Nat.mod_eq_of_lt (by omega)

/-- The masks of a row's access kinds and of its reserved bits are disjoint. -/
def masksApart (r : PRow) : Bool :=
  accMask r .ro &&& accMask r .w1c == 0 && accMask r .ro &&& r.reserved == 0 && accMask r .w1c &&& r.reserved == 0

theorem blockRows_masksApart : ∀ b < 19, (blockRows b).all masksApart = true := by decide +kernel

theorem masksApart_of_findRow {snd : Bool} {i : Nat} {r : PRow} (hr : findRow snd i = some r) :
    accMask r .ro &&& accMask r .w1c = 0 ∧ accMask r .ro &&& r.reserved = 0 ∧ accMask r .w1c &&& r.reserved = 0 := by
  have hmem : r ∈ blockRows (i / 1024) := List.mem_of_find?_eq_some hr
  have hapart : masksApart r = true := by
    by_cases hb : i / 1024 < 19
    · exact List.all_eq_true.mp (blockRows_masksApart _ hb) r hmem
    · rw [blockRows_of_le (Nat.le_of_not_lt hb)] at hmem
      cases hmem
  simpa [masksApart, and_assoc] using hapart

/-- Bit for bit: a merged word takes each bit by the mask that the bit lies in. -/
theorem mergeWord_masks {snd : Bool} {i : Nat} {r : PRow} (old v : Word) (hr : findRow snd i = some r) :
    mergeWord r old v &&& accMask r .ro = old &&& accMask r .ro
    ∧ mergeWord r old v &&& accMask r .w1c = old &&& accMask r .w1c &&& ~~~v
    ∧ mergeWord r old v &&& r.reserved = 0 := by
  obtain ⟨hrw, hrr, hwr⟩ := masksApart_of_findRow hr
  unfold mergeWord
  generalize accMask r .ro = ro at *
  generalize accMask r .w1c = wc at *
  generalize r.reserved = rs at *
  have bit {a b : Word} (h : a &&& b = 0) (k : Nat) : (a.getLsbD k && b.getLsbD k) = false := by
    rw [← BitVec.getLsbD_and, h]; exact BitVec.getLsbD_zero
  refine ⟨?_, ?_, ?_⟩ <;> refine BitVec.eq_of_getLsbD_eq fun k hk => ?_
  all_goals
    have h1 := bit hrw k
    have h2 := bit hrr k
    have h3 := bit hwr k
    simp only [BitVec.getLsbD_and, BitVec.getLsbD_or, BitVec.getLsbD_not, hk, decide_true, Bool.true_and]
    revert h1 h2 h3
    generalize ro.getLsbD k = x
    generalize wc.getLsbD k = y
    generalize rs.getLsbD k = z
    generalize old.getLsbD k = o
    generalize v.getLsbD k = u
  · revert x y z o u; decide
  · revert x y z o u; decide
  · rw [show (0 : Word).getLsbD k = false from BitVec.getLsbD_zero]; revert x y z o u; decide

end Sys2Proof.Machine

namespace Sys2Proof.Proofs

open Sys2Proof.Machine

/-- Settles O51: counters by `toNat_satAdd` and `getF_bumpF`, written words by the disjoint masks of every row. -/
theorem countersAndWrites : Obligations.CountersAndWrites := by
  unfold Obligations.CountersAndWrites
  refine ⟨fun s i n => ?_, fun s i j n hj => ?_, fun s i hi lo _ hhi => getF_bumpF s i hhi,
    fun _ _ _ old v hr => mergeWord_masks old v hr⟩
  · rw [rd_bumpN, if_pos rfl, toNat_satAdd]
  · rw [rd_bumpN, if_neg hj.symm]

end Sys2Proof.Proofs
end

section
/-! The replay window (02 R38). -/

namespace Sys2Proof.Machine

theorem inWindow_iff (x : Session) (q : Word) :
    inWindow x q = true ↔ x.hi ≠ 0xFFFFFFFF ∧
      (x.hi.toNat < q.toNat ∨ (x.hi.toNat - q.toNat < 64 ∧ x.win.getLsbD (x.hi.toNat - q.toNat) = false)) := by
  unfold inWindow
  by_cases hhi : x.hi = 0xFFFFFFFF
  · rw [if_pos hhi]
    exact iff_of_false Bool.false_ne_true fun h => h.1 hhi
  · rw [if_neg hhi]
    by_cases hlt : x.hi < q
    · rw [if_pos hlt]
      exact iff_of_true rfl ⟨hhi, .inl hlt⟩
    · have hn : ¬ x.hi.toNat < q.toNat := hlt
      rw [if_neg hlt, and_iff_right hhi]
      simp [hn]

theorem acceptSeq_hi_of_lt {s : State} {p : Smb} {x : Session} (h : x.hi.toNat < (hSeq p.hdr).toNat) :
    (acceptSeq s p x).hi = hSeq p.hdr := by
  have hlt : x.hi < hSeq p.hdr := h
  simp [acceptSeq, hlt]

theorem acceptSeq_hi_of_le {s : State} {p : Smb} {x : Session} (h : (hSeq p.hdr).toNat ≤ x.hi.toNat) :
    (acceptSeq s p x).hi = x.hi := by
  have hlt : ¬ x.hi < hSeq p.hdr := Nat.not_lt.mpr h
  simp [acceptSeq, hlt]

theorem acceptSeq_win_of_lt {s : State} {p : Smb} {x : Session} (h : x.hi.toNat < (hSeq p.hdr).toNat) :
    (acceptSeq s p x).win = (x.win <<< ((hSeq p.hdr).toNat - x.hi.toNat)) ||| 1 := by
  have hlt : x.hi < hSeq p.hdr := h
  simp [acceptSeq, hlt]

theorem acceptSeq_win_of_le {s : State} {p : Smb} {x : Session} (h : (hSeq p.hdr).toNat ≤ x.hi.toNat) :
    (acceptSeq s p x).win = x.win ||| ((1 : BitVec 64) <<< (x.hi.toNat - (hSeq p.hdr).toNat)) := by
  have hlt : ¬ x.hi < hSeq p.hdr := Nat.not_lt.mpr h
  simp [acceptSeq, hlt]

/-- The bit of a SEQ that was accepted is set. -/
theorem getLsbD_one_shiftLeft {d : Nat} (hd : d < 64) (k : Nat) :
    ((1 : BitVec 64) <<< d).getLsbD k = decide (k = d) := by
  rw [BitVec.getLsbD_shiftLeft]
  by_cases hk : k = d
  · subst hk; simp [hd]
  · by_cases hlt : k < d
    · simp [hk, hlt]
    · simp [hk, hlt]; omega

theorem le_max_seq (q : Word) : q.toNat ≤ 0xFFFFFFFF := by omega

theorem inWindow_acceptSeq_self (s : State) (p : Smb) (x : Session) (hin : inWindow x (hSeq p.hdr) = true) :
    inWindow (acceptSeq s p x) (hSeq p.hdr) = false := by
  rw [Bool.eq_false_iff, Ne, inWindow_iff]
  obtain ⟨-, hin⟩ := (inWindow_iff _ _).mp hin
  rintro ⟨-, h⟩
  by_cases hlt : x.hi.toNat < (hSeq p.hdr).toNat
  · rw [acceptSeq_hi_of_lt hlt, acceptSeq_win_of_lt hlt] at h
    simp at h
  · have hle := Nat.le_of_not_lt hlt
    rw [acceptSeq_hi_of_le hle, acceptSeq_win_of_le hle] at h
    obtain h | ⟨hd, h⟩ := h
    · exact hlt h
    · rw [BitVec.getLsbD_or, getLsbD_one_shiftLeft hd] at h
      simp at h

theorem hi_le_acceptSeq (s : State) (p : Smb) (x : Session) : x.hi.toNat ≤ (acceptSeq s p x).hi.toNat := by
  by_cases hlt : x.hi.toNat < (hSeq p.hdr).toNat
  · rw [acceptSeq_hi_of_lt hlt]; exact hlt.le
  · rw [acceptSeq_hi_of_le (Nat.le_of_not_lt hlt)]

/-- What is still in the window after an acceptance was in it before. -/
theorem inWindow_of_acceptSeq (s : State) (p : Smb) (x : Session) (q : Word) (hx : x.hi ≠ 0xFFFFFFFF)
    (hin : inWindow (acceptSeq s p x) q = true) : inWindow x q = true := by
  rw [inWindow_iff] at hin ⊢
  obtain ⟨-, hin⟩ := hin
  refine ⟨hx, ?_⟩
  by_cases hlt : x.hi.toNat < (hSeq p.hdr).toNat
  · rw [acceptSeq_hi_of_lt hlt, acceptSeq_win_of_lt hlt] at hin
    obtain hin | ⟨hd, hin⟩ := hin
    · exact .inl (hlt.trans hin)
    · by_cases hq : x.hi.toNat < q.toNat
      · exact .inl hq
      · refine .inr ⟨by omega, ?_⟩
        rw [BitVec.getLsbD_or, Bool.or_eq_false_iff, BitVec.getLsbD_shiftLeft] at hin
        obtain ⟨hin, -⟩ := hin
        rw [show (hSeq p.hdr).toNat - q.toNat - ((hSeq p.hdr).toNat - x.hi.toNat) = x.hi.toNat - q.toNat by omega] at hin
        simpa [hd, show ¬ (hSeq p.hdr).toNat - q.toNat < (hSeq p.hdr).toNat - x.hi.toNat by omega] using hin
  · have hle := Nat.le_of_not_lt hlt
    rw [acceptSeq_hi_of_le hle, acceptSeq_win_of_le hle] at hin
    obtain hin | ⟨hd, hin⟩ := hin
    · exact .inl hin
    · rw [BitVec.getLsbD_or, Bool.or_eq_false_iff] at hin
      exact .inr ⟨hd, hin.1⟩

end Sys2Proof.Machine

namespace Sys2Proof.Proofs

open Sys2Proof.Machine

/-- Settles O52: the window read by `inWindow_iff`, an acceptance by what it leaves of HI and of the window's bits. -/
theorem seqAcceptedOnce : Obligations.SeqAcceptedOnce := by
  unfold Obligations.SeqAcceptedOnce
  intro s p x hin
  have hx : x.hi ≠ 0xFFFFFFFF := ((inWindow_iff _ _).mp hin).1
  refine ⟨inWindow_acceptSeq_self s p x hin, hi_le_acceptSeq s p x, fun q hq => ?_, fun q hq => ?_,
    fun q hq => inWindow_of_acceptSeq s p x q hx hq, hx, fun hmax q => ?_⟩
  · rw [Bool.eq_false_iff, Ne, inWindow_iff]
    omega
  · exact (inWindow_iff _ _).mpr ⟨hx, .inl hq⟩
  · have hlt : x.hi.toNat < (hSeq p.hdr).toNat := by
      have hne : x.hi.toNat ≠ 0xFFFFFFFF := fun h => hx (BitVec.eq_of_toNat_eq h)
      have hle : x.hi.toNat ≤ 0xFFFFFFFF := le_max_seq x.hi
      rw [hmax]
      show x.hi.toNat < 0xFFFFFFFF
      omega
    rw [Bool.eq_false_iff, Ne, inWindow_iff, acceptSeq_hi_of_lt hlt, hmax]
    exact fun h => h.1 rfl

end Sys2Proof.Proofs
end

section
/-! The instants of a schedule (11 R255) and the numbers of control packets (06 R130). -/

namespace Sys2Proof.Machine

theorem cdiv_le_iff {a b m : Nat} (hb : 0 < b) : cdiv a b ≤ m ↔ a ≤ m * b := by
  unfold cdiv
  rw [← Nat.lt_succ_iff, Nat.div_lt_iff_lt_mul hb, Nat.succ_mul]
  omega

/-- An instant is the first tick at or after the exact time. -/
theorem instant_le_iff {num den n m : Nat} (hnum : 1 ≤ num) :
    instant (num, den) n ≤ 4 * m ↔ n * den * 10 ^ 9 ≤ 4 * m * num := by
  have hcdiv := cdiv_le_iff (a := n * den * 10 ^ 9) (m := m) (show 0 < 4 * num by omega)
  show 4 * cdiv (n * den * 10 ^ 9) (4 * num) ≤ 4 * m ↔ _
  rw [show 4 * m * num = m * (4 * num) by ring, ← hcdiv]
  omega

theorem instant_mod_four (r : Nat × Nat) (n : Nat) : instant r n % 4 = 0 := Nat.mul_mod_right 4 _

theorem exact_le_instant {num den n : Nat} (hnum : 1 ≤ num) :
    n * den * 10 ^ 9 ≤ instant (num, den) n * num := by
  obtain ⟨m, hm⟩ := Nat.dvd_of_mod_eq_zero (instant_mod_four (num, den) n)
  rw [hm]
  exact (instant_le_iff hnum).mp hm.le

theorem instant_sub_lt_exact {num den n : Nat} (hnum : 1 ≤ num) (hpos : 1 ≤ instant (num, den) n) :
    (instant (num, den) n - 4) * num < n * den * 10 ^ 9 := by
  obtain ⟨m, hm⟩ := Nat.dvd_of_mod_eq_zero (instant_mod_four (num, den) n)
  have hlt : ¬ instant (num, den) n ≤ 4 * (m - 1) := by omega
  rw [instant_le_iff hnum, Nat.not_le] at hlt
  rwa [hm, show 4 * m - 4 = 4 * (m - 1) by omega]

theorem instant_mono {num den a b : Nat} (hnum : 1 ≤ num) (h : a ≤ b) :
    instant (num, den) a ≤ instant (num, den) b := by
  obtain ⟨m, hm⟩ := Nat.dvd_of_mod_eq_zero (instant_mod_four (num, den) b)
  rw [hm, instant_le_iff hnum]
  calc a * den * 10 ^ 9 ≤ b * den * 10 ^ 9 := by gcongr
    _ ≤ 4 * m * num := (instant_le_iff hnum).mp hm.le

/-- The instants up to the present are those up to the number that the exact times give. -/
theorem instant_le_iff_index {num den c n : Nat} (hnum : 1 ≤ num) (hden : 1 ≤ den) :
    instant (num, den) n ≤ c ↔ n ≤ 4 * (c / 4) * num / (den * 10 ^ 9) := by
  have hmul := instant_mod_four (num, den) n
  rw [Nat.le_div_iff_mul_le (by omega), ← mul_assoc, ← instant_le_iff hnum]
  omega

theorem nextCseq_ne_zero (c : BitVec 16) : nextCseq c ≠ 0 := by
  unfold nextCseq
  split
  · decide
  · next hmax =>
    intro h
    have hsucc := congrArg BitVec.toNat h
    rw [BitVec.toNat_add] at hsucc
    have hne : c.toNat ≠ 0xFFFF := fun h => hmax (BitVec.eq_of_toNat_eq h)
    simp at hsucc
    omega

end Sys2Proof.Machine

namespace Sys2Proof.Proofs

open Sys2Proof.Machine

/-- Settles O53: an instant is the least tick at or after its exact time, and the next one has the first number whose
exact time lies after the tick of the present. -/
theorem scheduleInstants : Obligations.ScheduleInstants := by
  unfold Obligations.ScheduleInstants
  refine ⟨fun num den n hnum => ⟨instant_mod_four _ _, exact_le_instant hnum, instant_sub_lt_exact hnum,
    instant_mono hnum n.le_succ⟩, fun num den c hnum hden => ⟨?_, fun n hn => ?_⟩, by decide +kernel,
    fun c _ => nextCseq_ne_zero c⟩
  · rw [← Nat.not_le]
    exact fun h => Nat.not_succ_le_self _ ((instant_le_iff_index hnum hden).mp h)
  · refine instant_mono hnum ?_
    rw [← Nat.not_le, instant_le_iff_index hnum hden] at hn
    exact Nat.lt_of_not_le hn

end Sys2Proof.Proofs
end

section
/-! The parameter file under a write (14 R319, R326): canonical lists are told apart by what they list. -/

namespace Sys2Proof.Machine

/-! ### Canonical lists -/

theorem rising_of_zip {β : Type} {l : List (Nat × β)}
    (h : (l.zip (l.drop 1)).all (fun e => decide (e.1.1 < e.2.1)) = true) : Rising l := by
  refine List.IsChain.pairwise ?_
  induction l with
  | nil => exact .nil
  | cons x r ih =>
    cases r with
    | nil => exact .singleton x
    | cons y r' =>
      simp only [List.drop_succ_cons, List.drop_zero, List.zip_cons_cons, List.all_cons, Bool.and_eq_true,
        decide_eq_true_eq] at h ih
      exact .cons_cons h.1 (ih h.2)

theorem rising_of_parWf {snd : Bool} {l : List (Nat × Word)} (h : parWf snd l = true) : Rising l :=
  rising_of_zip (Bool.and_eq_true _ _ ▸ h : _ ∧ _).1

theorem mem_iff_look {β : Type} {l : List (Nat × β)} (h : Rising l) (e : Nat × β) :
    e ∈ l ↔ look e.1 l = some e.2 := by
  induction l with
  | nil => simp [look_nil]
  | cons x r ih =>
    obtain ⟨a, w⟩ := x
    obtain ⟨k, v⟩ := e
    obtain ⟨hx, hr⟩ := List.pairwise_cons.1 h
    rw [List.mem_cons, ih hr, look_cons]
    by_cases hk : a = k
    · subst hk
      rw [if_pos rfl]
      have hnone : (a, v) ∉ r := fun hmem => Nat.lt_irrefl a (hx (a, v) hmem)
      rw [ih hr] at hnone
      simp only [Prod.mk.injEq, true_and, hnone, or_false, Option.some.injEq]
      exact eq_comm
    · rw [if_neg hk]
      simp [Ne.symm hk]

/-- Canonical lists that list the same are the same. -/
theorem rising_ext {β : Type} {l l' : List (Nat × β)} (h : Rising l) (h' : Rising l')
    (hlook : ∀ j, look j l = look j l') : l = l' := by
  have hmem (e : Nat × β) : e ∈ l ↔ e ∈ l' := by rw [mem_iff_look h, mem_iff_look h', hlook]
  have hperm : l.Perm l' :=
    (List.perm_ext_iff_of_nodup (h.imp fun hlt => by rintro rfl; exact Nat.lt_irrefl _ hlt)
      (h'.imp fun hlt => by rintro rfl; exact Nat.lt_irrefl _ hlt)).mpr hmem
  exact hperm.eq_of_pairwise (fun a b _ _ hab hba => absurd hab (Nat.lt_asymm hba)) h h'

theorem look_filter_key {β : Type} (f : Nat → Bool) (j : Nat) (l : List (Nat × β)) :
    look j (l.filter (fun e => f e.1)) = if f j then look j l else none := by
  induction l with
  | nil => simp [look_nil]
  | cons x r ih =>
    obtain ⟨a, w⟩ := x
    rw [List.filter_cons]
    by_cases hj : a = j
    · subst hj
      by_cases hf : f a <;> simp [hf, look_cons, ih]
    · by_cases hf : f a <;> simp [hf, look_cons, hj, ih]

theorem canonPar_of_wf {snd : Bool} {l : List (Nat × Word)} (h : parWf snd l = true) : canonPar snd l = l := by
  refine rising_ext (canonPar_rising snd l) (rising_of_parWf h) fun j => ?_
  rw [look_canonPar]
  cases hl : look j l with
  | none => rfl
  | some w => exact look_wf snd j l w h hl

theorem sorted_of_rising {β : Type} {l : List (Nat × β)} (h : Rising l) :
    l.foldr (fun e acc => insertKey e.1 e.2 acc) [] = l :=
  rising_ext (sorted_rising l) h fun j => look_sorted j l

theorem canonMem_of_wf {l : List Host.Cell} (h : Memory.wf l = true) : canonMem l = l := by
  obtain ⟨hzip, hne⟩ := Bool.and_eq_true _ _ ▸ h
  unfold canonMem
  rw [sorted_of_rising (rising_of_zip hzip), List.filter_eq_self]
  intro e he
  simpa using List.all_eq_true.mp hne e he

/-! ### A write to the parameter file -/

/-- Whether index `j` is kept over a loss of power (14 R324). -/
def keptIdx (snd : Bool) (j : Nat) : Bool :=
  match findRow snd j with
  | some r => r.kept == .settings || r.kept == .badger
  | none => false

theorem keptPar_eq_filter (snd : Bool) (l : List (Nat × Word)) :
    keptPar snd l = l.filter (fun e => keptIdx snd e.1) := rfl

theorem look_keptPar (snd : Bool) (j : Nat) (l : List (Nat × Word)) :
    look j (keptPar snd l) = if keptIdx snd j then look j l else none := look_filter_key (keptIdx snd) j l

theorem keptPar_rising {snd : Bool} {l : List (Nat × Word)} (h : Rising l) : Rising (keptPar snd l) := h.filter _

theorem look_canonPar_wr {s : State} (h : parWf s.id.sender s.par = true) (i j : Nat) (w : Word) :
    look j (canonPar s.id.sender (wr s i w).par) = if i = j then normWord s.id.sender i w else look j s.par := by
  rw [look_canonPar, wr_par, look_cons]
  by_cases hj : i = j
  · subst hj; simp
  · rw [if_neg hj, if_neg hj, ← look_canonPar, canonPar_of_wf h]

/-- In a canonical file an index lists the normal form of what it reads. -/
theorem normWord_rd {s : State} (h : parWf s.id.sender s.par = true) {i : Nat} {w : Word} {r : PRow}
    (hr : findRow s.id.sender i = some r) (hw : w &&& ~~~r.reserved = rd s i) :
    normWord s.id.sender i w = look i s.par := by
  unfold rd at hw
  simp only [normWord, hr, resetWord] at hw ⊢
  cases hl : look i s.par with
  | none => rw [hl] at hw; exact if_pos hw
  | some u =>
    rw [hl] at hw
    have hu := look_wf _ _ _ _ h hl
    simp only [normWord, hr] at hu
    simp only [Option.getD_some] at hw
    rw [hw, if_neg]
    rintro rfl
    split at hu
    · cases hu
    · next hne => exact hne (Option.some.inj hu)

/-- An index that serves no parameter holds nothing. -/
theorem look_of_findRow_none {s : State} (h : parWf s.id.sender s.par = true) {i : Nat}
    (hr : findRow s.id.sender i = none) : look i s.par = none := by
  cases hl : look i s.par with
  | none => rfl
  | some u =>
    have hu := look_wf _ _ _ _ h hl
    simp [normWord, hr] at hu

theorem canonPar_wr_same {s : State} (h : parWf s.id.sender s.par = true) {i : Nat} {w : Word}
    (hnorm : normWord s.id.sender i w = look i s.par) : canonPar s.id.sender (wr s i w).par = s.par := by
  refine rising_ext (canonPar_rising _ _) (rising_of_parWf h) fun j => ?_
  rw [look_canonPar_wr h]
  by_cases hj : i = j
  · rw [if_pos hj, hnorm, hj]
  · rw [if_neg hj]

theorem alignsSince_self (s : State) : alignsSince s s.time.lt = [] := by
  simp [alignsSince]

/-- A word that changes nothing in its normal form leaves the state as it is. -/
theorem commitState_wr_same {s : State} (h : Safety.Inv s) {i : Nat} {w : Word}
    (hnorm : normWord s.id.sender i w = look i s.par) : commitState s (wr s i w) = s := by
  obtain ⟨hpar, hdram, hsram⟩ := h
  unfold commitState
  rw [canonPar_wr_same hpar hnorm]
  show State.mk _ (pgenOf s.id.sender s.par s.par s.id.na s.id.na) _ _ _ _ _ _ _ { s.dram with mem := canonMem s.dram.mem }
    { s.sram with mem := canonMem s.sram.mem } _ _ _ _ _ _ _ _ _ _ _ _ _ _ _ _
    (s.out ++ alignsSince s s.time.lt) _ = s
  rw [canonMem_of_wf hdram, canonMem_of_wf hsram, alignsSince_self, List.append_nil, pgenOf, if_pos ⟨rfl, rfl⟩]
  rfl

/-- SYS.PGEN has no reserved bit and resets to 0. -/
theorem sysPgen_row (snd : Bool) : ∃ r, findRow snd sysPgen = some r ∧ r.reserved = 0 ∧ r.resetWord = 0 := by
  cases snd
  · exact ⟨_, rfl, by decide +kernel, by decide +kernel⟩
  · exact ⟨_, rfl, by decide +kernel, by decide +kernel⟩

theorem rd_sysPgen (s : State) : rd s sysPgen = (look sysPgen s.par).getD 0 := by
  obtain ⟨r, hr, -, hreset⟩ := sysPgen_row s.id.sender
  simp [rd, resetWord, hr, hreset]

theorem getD_normWord_sysPgen (snd : Bool) (v : Word) : (normWord snd sysPgen v).getD 0 = v := by
  obtain ⟨r, hr, hres, hreset⟩ := sysPgen_row snd
  have hfull : v &&& ~~~(0 : Word) = v := BitVec.and_allOnes
  simp only [normWord, hr, hres, hreset, hfull]
  split
  · next h => exact h.symm
  · rfl

/-- After a write SYS.PGEN has risen where a kept value changed, and stands otherwise (14 R326). -/
theorem rd_commitState_wr_sysPgen {s : State} (h : parWf s.id.sender s.par = true) {i : Nat} (w : Word)
    (hi : i ≠ sysPgen) : rd (commitState s (wr s i w)) sysPgen =
      if keptPar s.id.sender (canonPar s.id.sender (wr s i w).par) = keptPar s.id.sender s.par then rd s sysPgen
      else nextPgen (rd s sysPgen) := by
  have hlook : look sysPgen (canonPar s.id.sender (wr s i w).par) = look sysPgen s.par := by
    rw [look_canonPar_wr h, if_neg hi]
  have hrd : rd (commitState s (wr s i w)) sysPgen
      = (look sysPgen (pgenOf s.id.sender s.par (canonPar s.id.sender (wr s i w).par) s.id.na s.id.na)).getD 0 :=
    rd_sysPgen (commitState s (wr s i w))
  rw [hrd, rd_sysPgen s, pgenOf]
  by_cases hkept : keptPar s.id.sender (canonPar s.id.sender (wr s i w).par) = keptPar s.id.sender s.par
  · rw [if_pos hkept, if_pos ⟨hkept, rfl⟩, hlook]
  · rw [if_neg hkept, if_neg fun h => hkept h.1, look_canonPar, look_cons, if_pos rfl, Option.bind_some,
      getD_normWord_sysPgen, hlook]

/-- What an index that is not kept holds is none of the kept values. -/
theorem keptPar_wr_of_not_kept {s : State} (h : parWf s.id.sender s.par = true) {i : Nat} (w : Word)
    (hk : keptIdx s.id.sender i = false) :
    keptPar s.id.sender (canonPar s.id.sender (wr s i w).par) = keptPar s.id.sender s.par := by
  refine rising_ext (keptPar_rising (canonPar_rising _ _)) (keptPar_rising (rising_of_parWf h)) fun j => ?_
  rw [look_keptPar, look_keptPar, look_canonPar_wr h]
  by_cases hj : i = j
  · subst hj; simp [hk]
  · rw [if_neg hj]

/-- A kept index that reads another word is another kept value. -/
theorem keptPar_wr_of_kept {s : State} (h : parWf s.id.sender s.par = true) {i : Nat} {w : Word} {r : PRow}
    (hr : findRow s.id.sender i = some r) (hk : keptIdx s.id.sender i = true) (hw : w &&& ~~~r.reserved ≠ rd s i) :
    keptPar s.id.sender (canonPar s.id.sender (wr s i w).par) ≠ keptPar s.id.sender s.par := by
  intro heq
  have hlook := congrArg (look i) heq
  rw [look_keptPar, look_keptPar, if_pos hk, if_pos hk, look_canonPar_wr h, if_pos rfl] at hlook
  refine hw ?_
  unfold rd
  rw [← hlook]
  simp only [normWord, hr, resetWord]
  split
  · next h => exact h
  · rfl

end Sys2Proof.Machine

namespace Sys2Proof.Proofs

open Sys2Proof.Machine

/-- Settles O50: a write changes what its index lists alone, and SYS.PGEN by whether the kept list changed. -/
theorem parameterFile : Obligations.ParameterFile := by
  unfold Obligations.ParameterFile
  intro s i w hinv hi
  have hpar : parWf s.id.sender s.par = true := hinv.1
  have hkept {r : PRow} (hr : findRow s.id.sender i = some r) :
      keptIdx s.id.sender i = (r.kept == .settings || r.kept == .badger) := by simp [keptIdx, hr]
  refine ⟨fun r hr => rd_commit_wr s s i w r hi hr, fun hr => commitState_wr_same hinv ?_, fun j hj hjp => ?_,
    fun r hr hk => ⟨fun hw => ?_, fun hw => ?_⟩, fun r hr hs hb => ?_⟩
  · rw [look_of_findRow_none hpar hr]
    simp [normWord, hr]
  · refine rd_commit_same s _ j hjp hpar ?_
    rw [wr_par, look_cons, if_neg hj.symm]
  · have hk' : keptIdx s.id.sender i = true := by rw [hkept hr]; simpa using hk
    rw [rd_commitState_wr_sysPgen hpar w hi, if_neg (keptPar_wr_of_kept hpar hr hk' hw)]
    rfl
  · rw [commitState_wr_same hinv (normWord_rd hpar hr hw)]
  · have hk' : keptIdx s.id.sender i = false := by rw [hkept hr]; simp [hs, hb]
    rw [rd_commitState_wr_sysPgen hpar w hi, if_pos (keptPar_wr_of_not_kept hpar w hk')]

end Sys2Proof.Proofs
end

section
/-! Answers and records: what they do to the session and to the recorder (02 R38, R46; 20 R426, R428). -/

namespace Sys2Proof.Machine

theorem updSess_ref_apply {f : Session → Session} (hf : ∀ y, (f y).ref = y.ref) (r r' : SRef) (y : Session) :
    (if y.ref = r then f y else y).ref = r' ↔ y.ref = r' := by
  split
  · rw [hf]
  · rfl

/-- The session that an update names is updated. -/
theorem findSess_updSess_same {s : State} {r : SRef} {x : Session} {f : Session → Session} (hf : ∀ y, (f y).ref = y.ref)
    (h : findSess s r = some x) : findSess (updSess s r f) r = some (f x) := by
  have hx : x.ref = r := by simpa using List.find?_some h
  unfold findSess updSess at *
  rw [List.find?_map]
  simp only [Function.comp_def, updSess_ref_apply hf, h, Option.map_some, hx, if_true]

theorem smb_linkSend (s : State) (p : Nat) (b : CtlBody) : (linkSend s p b).smb = s.smb := by
  rw [(sent_linkSend s p b).1]

/-- A packet that leaves changes no session. -/
theorem ship_sess (s : State) (p : Packet) : (ship s p).smb.sess = s.smb.sess := by
  unfold ship
  split
  · simp only
    split <;> rfl
  · rw [smb_linkSend]
  · split
    · rfl
    · split <;> rfl

theorem findSess_ship (s : State) (p : Packet) (r : SRef) : findSess (ship s p) r = findSess s r := by
  unfold findSess
  rw [ship_sess]

theorem findSess_of_liveSess {s : State} {c : CmdRef} {x : Session} (h : liveSess s c = some x) :
    findSess s c.sess = some x := (Option.filter_eq_some_iff.mp h).1

/-- A packet sent in a session raises its own SEQ there, as long as the session lasts (02 R38). -/
theorem findSess_sendIn {s : State} {r : SRef} {x : Session} (hx : findSess s r = some x)
    (hkey : x.key.isSome = true) (hseq : x.dseq + 1 ≠ 0xFFFFFFFF) (kind level opcode : Nat) (echo issue : Word)
    (status : Nat) (trunc : Bool) (payload : List Word) (via : Option Via) :
    findSess (sendIn s r kind level opcode echo issue status trunc payload via).1 r
      = some { x with dseq := x.dseq + 1 } := by
  obtain ⟨k, hk⟩ := Option.isSome_iff_exists.mp hkey
  unfold sendIn
  rw [hx]
  simp only [hk, if_neg hseq]
  rw [findSess_ship, ← hk]
  exact findSess_updSess_same (f := fun y => { y with dseq := y.dseq + 1 }) (fun _ => rfl) hx

theorem reply_of_gone {s : State} {c : CmdRef} (h : liveSess s c = none) (v : Via) (st : Nat) (words : List Word) :
    reply s c v st words = s := by
  simp [reply, h]

/-- An answer raises the device's SEQ in the session, where the command waits no longer. -/
theorem findSess_reply {s : State} {c : CmdRef} {x : Session} (hx : liveSess s c = some x)
    (hkey : x.key.isSome = true) (hseq : x.dseq + 1 ≠ 0xFFFFFFFF) (v : Via) (st : Nat) (words : List Word) :
    ∃ y, findSess (reply s c v st words) c.sess = some y ∧ y.dseq = x.dseq + 1 ∧ ¬ c.seq ∈ y.queued := by
  have hsent := findSess_sendIn (findSess_of_liveSess hx) hkey hseq 2 c.level c.opcode c.seq (nowW s) st false words
    (some v)
  unfold reply
  rw [if_neg (by simp [hx])]
  exact ⟨_, findSess_updSess_same (fun _ => rfl) hsent, rfl, by simp⟩

end Sys2Proof.Machine

namespace Sys2Proof.Proofs

open Sys2Proof.Machine

/-- Settles O54: an answer is `told_reply` and `findSess_reply`; a record goes to the head of the ring. -/
theorem answersAndRecords : Obligations.AnswersAndRecords := by
  unfold Obligations.AnswersAndRecords
  refine ⟨fun s c v st words => ⟨_, _, _, _, _, told_reply s c v st words⟩, fun s c v st words h => reply_of_gone h v st words,
    fun s c v st words x hx hkey hseq => findSess_reply hx hkey hseq v st words, fun s trig snap => ?_⟩
  refine ⟨mkRec s trig snap, putRec_ring s _, rfl, rfl, putRec_rseq s _, ?_⟩
  unfold record putRec
  simp only
  split <;> rfl

end Sys2Proof.Proofs
end

section
/-! DRAM transactions (15 R331, R337, R343 to R347): the outcome of a request by its case. -/

namespace Sys2Proof.Machine

theorem noteCmd_mem (s : State) (c k : Nat) : (noteCmd s c k).dram.mem = s.dram.mem := rfl

theorem noteCmd_reqs (s : State) (c k : Nat) : (noteCmd s c k).dram.reqs = s.dram.reqs := rfl

theorem srExit_mem (s : State) (c : Nat) : (srExit s c).dram.mem = s.dram.mem := by
  unfold srExit
  split
  · split
    · rw [noteCmd_mem]; rfl
    · rfl
  · rfl

theorem srExit_reqs (s : State) (c : Nat) : (srExit s c).dram.reqs = s.dram.reqs := by
  unfold srExit
  split
  · split
    · rw [noteCmd_reqs]; rfl
    · rfl
  · rfl

theorem takeTag_write_mem (s : State) (r : DramReq) {b : List Byte} (h : r.write = some b) :
    (takeTag s r).dram.mem = memStore s.dram.mem r.addr b := by
  unfold takeTag
  simp only [h, noteCmd_mem, srExit_mem]

theorem takeTag_read_mem (s : State) (r : DramReq) (h : r.write = none) : (takeTag s r).dram.mem = s.dram.mem := by
  unfold takeTag
  simp only [h, noteCmd_mem, srExit_mem]

/-- A read that takes its tag finds what the earlier writes left (15 R343). -/
theorem takeTag_read_reqs (s : State) (r : DramReq) (h : r.write = none) :
    ∃ x, (takeTag s r).dram.reqs = s.dram.reqs ++ [x] ∧ x.data = memRead s.dram.mem r.addr r.len := by
  unfold takeTag
  simp only [h, noteCmd_reqs, srExit_reqs]
  exact ⟨_, rfl, rfl⟩

/-- The bytes a request asks for. -/
def reqLen (w : Option (List Byte)) (n : Nat) : Nat := match w with | some b => b.length | none => n

/-- The request that a transaction makes of the controller. -/
def reqOf (s : State) (p a : Nat) (w : Option (List Byte)) (n : Nat) : DramReq :=
  { tag := 0, port := p, ch := 0, addr := a, len := reqLen w n, write := w, at_ := lt s, data := [], poison := false }

theorem exec_dramRequest {s : State} (hheld : s.boot.held = false) (p a : Nat) (w : Option (List Byte)) (n : Nat) :
    exec (.dramRequest p a w n) s =
      if !portServes s.id.sender p || (p == 0 && w.isNone) || reqLen w n == 0 then .next s
      else if s.dram.state = 3 ∨ s.dram.state = 4 ∨ s.dram.ended = true then commit s (poisonAnswer s p a w.isSome)
      else if s.dram.state ≠ 2 then .next s
      else if dramSpace s < a + reqLen w n then .fault .dramOutside
      else commit s (if tagFree s p then takeTag s (reqOf s p a w n) else waitTag s (reqOf s p a w n)) := by
  show execDramRequest p a w n s = _
  unfold execDramRequest
  rw [if_neg (by simp [hheld])]
  rfl

/-- What a port may ask for. -/
theorem dramAsk_served {s : State} {p : Nat} {w : Option (List Byte)} {n : Nat} (hserves : portServes s.id.sender p = true)
    (hp : p ≠ 0 ∨ w.isSome = true) (hn : 1 ≤ reqLen w n) :
    ¬ (!portServes s.id.sender p || (p == 0 && w.isNone) || reqLen w n == 0) = true := by
  have hne : reqLen w n ≠ 0 := Nat.one_le_iff_ne_zero.mp hn
  obtain hp | hp := hp
  · simp [hserves, hp, hne]
  · simp [hserves, Option.isSome_iff_ne_none.mp hp, hne]

section
variable {s : State} {p a n : Nat} {w : Option (List Byte)} (hheld : s.boot.held = false)
  (hserves : portServes s.id.sender p = true) (hp : p ≠ 0 ∨ w.isSome = true) (hn : 1 ≤ reqLen w n)
include hheld hserves hp hn

/-- A request within the space is taken by a controller that is ready (15 R344). -/
theorem dramRequest_ready (hst : s.dram.state = 2) (hend : s.dram.ended = false) (hin : a + reqLen w n ≤ dramSpace s) :
    exec (.dramRequest p a w n) s
      = commit s (if tagFree s p then takeTag s (reqOf s p a w n) else waitTag s (reqOf s p a w n)) := by
  rw [exec_dramRequest hheld, if_neg (dramAsk_served hserves hp hn), if_neg (by simp [hst, hend]),
    if_neg (by simp [hst]), if_neg (by omega)]

theorem dramRequest_outside (hst : s.dram.state = 2) (hend : s.dram.ended = false) (hout : dramSpace s < a + reqLen w n) :
    exec (.dramRequest p a w n) s = .fault .dramOutside := by
  rw [exec_dramRequest hheld, if_neg (dramAsk_served hserves hp hn), if_neg (by simp [hst, hend]),
    if_neg (by simp [hst]), if_pos hout]

theorem dramRequest_frozen (hfrozen : s.dram.state = 3 ∨ s.dram.state = 4 ∨ s.dram.ended = true) :
    exec (.dramRequest p a w n) s = commit s (poisonAnswer s p a w.isSome) := by
  rw [exec_dramRequest hheld, if_neg (dramAsk_served hserves hp hn), if_pos hfrozen]

end

theorem dramRequest_unready {s : State} (hheld : s.boot.held = false) (p a n : Nat) (w : Option (List Byte))
    (h2 : s.dram.state ≠ 2) (h3 : s.dram.state ≠ 3) (h4 : s.dram.state ≠ 4) (hend : s.dram.ended = false) :
    exec (.dramRequest p a w n) s = .next s := by
  rw [exec_dramRequest hheld, if_neg (by simp [h3, h4, hend] : ¬ (s.dram.state = 3 ∨ s.dram.state = 4 ∨ s.dram.ended = true)),
    if_pos h2, ite_self]

theorem dramRequest_unserved {s : State} (hheld : s.boot.held = false) {p a n : Nat} {w : Option (List Byte)}
    (h : portServes s.id.sender p = false ∨ (p = 0 ∧ w = none) ∨ reqLen w n = 0) :
    exec (.dramRequest p a w n) s = .next s := by
  rw [exec_dramRequest hheld, if_pos]
  obtain h | ⟨rfl, rfl⟩ | h := h <;> simp [*]

theorem memByte_commitState (s u : State) (x : Nat) : memByte (commitState s u).dram.mem x = memByte u.dram.mem x :=
  memByte_canon u.dram.mem x

end Sys2Proof.Machine

namespace Sys2Proof.Proofs

open Sys2Proof.Machine

/-- Settles O31: each clause is the case of the request that `exec_dramRequest` names. -/
theorem dramTransactions : Obligations.DramTransactions := by
  unfold Obligations.DramTransactions
  intro s p a n hheld
  have hwrite {b : List Byte} : p ≠ 0 ∨ (some b).isSome = true := .inr rfl
  refine ⟨fun w h => dramRequest_unserved hheld (h.imp_right .inl),
    ⟨dramRequest_unserved hheld (.inr (.inr rfl)), dramRequest_unserved hheld (.inr (.inr rfl))⟩,
    fun hserves => ⟨fun hst hend => ⟨fun b hb hin hfree => ?_, fun hp hn hin hfree => ?_, fun hp hn hin hfull => ?_,
      fun b hb hin hfull => ?_, fun hp hn hout => dramRequest_outside hheld hserves (.inl hp) hn hst hend hout,
      fun b hb hout => dramRequest_outside hheld hserves hwrite hb hst hend hout⟩,
      fun hfrozen hp hn => dramRequest_frozen hheld hserves (.inl hp) hn hfrozen,
      fun b hfrozen hb => dramRequest_frozen hheld hserves hwrite hb hfrozen,
      fun h2 h3 h4 hend w => dramRequest_unready hheld p a n w h2 h3 h4 hend⟩⟩
  · have hexec := dramRequest_ready hheld hserves hwrite (n := n) (w := some b) hb hst hend hin
    rw [if_pos hfree] at hexec
    refine ⟨_, hexec, fun x => ?_⟩
    rw [memByte_commitState, takeTag_write_mem s _ rfl, memByte_store]
    rfl
  · have hexec := dramRequest_ready hheld hserves (w := none) (.inl hp) hn hst hend hin
    rw [if_pos hfree] at hexec
    obtain ⟨x, hreqs, hdata⟩ := takeTag_read_reqs s (reqOf s p a none n) rfl
    refine ⟨_, hexec, fun y => ?_, x, hreqs, hdata⟩
    rw [memByte_commitState, takeTag_read_mem s _ rfl]
  · have hexec := dramRequest_ready hheld hserves (w := none) (.inl hp) hn hst hend hin
    rwa [if_neg (by simp [hfull])] at hexec
  · have hexec := dramRequest_ready hheld hserves hwrite (n := n) (w := some b) hb hst hend hin
    rwa [if_neg (by simp [hfull])] at hexec

end Sys2Proof.Proofs
end

section
/-! How a command completes, said for the proofs that follow: outside Smiben through `act`, in a session by its rule
(02 R40, R46). -/

namespace Sys2Proof.Machine

open Sys2Proof.Safety

/-- A meaning through `act` on a device that is not in reset, with the state that it computes named. -/
theorem completes_act {i : Instr} {s u : State} {f : State → State} (hexec : exec i s = act s f)
    (hheld : s.boot.held = false) (hf : f s = u) : Completes i s u := by
  rw [Completes, hexec, act_next s f hheld, hf]

/-- A command whose rule refuses, with the words it gives. -/
theorem answers_noW {op st : Nat} {h : Handler} {p : Smb} {s a u : State} {c : CmdRef} {words : List Word}
    (H : Accepted op p s a c) (hst : isRefusal st = true) (hrule : h c p a = .noW u st words) :
    smibenRow op h p s = .next (commitState s (reply u c p.via st words)) := by
  rw [refuses H (by rw [hrule]; exact hst), hrule]
  rfl

theorem answers_no {op st : Nat} {h : Handler} {p : Smb} {s a u : State} {c : CmdRef}
    (H : Accepted op p s a c) (hst : isRefusal st = true) (hrule : h c p a = .no u st) :
    smibenRow op h p s = .next (commitState s (reply u c p.via st [])) := answers_noW H hst hrule

/-- A command whose rule answers without words at once, with what follows the reply. -/
theorem answers_post {op st : Nat} {h : Handler} {p : Smb} {s a u : State} {c : CmdRef} {post : State → State}
    (H : Accepted op p s a c) (hst : isRefusal st = false) (hrule : h c p a = ⟨st, [], u, false, post⟩) :
    smibenRow op h p s = .next (commitState s (post (reply u c p.via st []))) := by
  rw [answers H (by rw [hrule]; exact hst) (by rw [hrule]; exact room_nil a p) (by rw [hrule]), hrule]

theorem answers_pend {op : Nat} {h : Handler} {p : Smb} {s a u : State} {c : CmdRef}
    (H : Accepted op p s a c) (hrule : h c p a = .pend u) :
    smibenRow op h p s = .next (commitState s (reply u c p.via stPending [])) := answers_post H rfl hrule

/-- An OK without words. -/
theorem answers_ok_nil {op : Nat} {h : Handler} {p : Smb} {s a u : State} {c : CmdRef}
    (H : Accepted op p s a c) (hrule : h c p a = .ok u []) :
    smibenRow op h p s = .next (commitState s (reply u c p.via stOk [])) := answers_ok H hrule (room_nil a p)

theorem withLen_of_length_ne {n : Nat} {h : Handler} {c : CmdRef} {p : Smb} {s : State} (hn : p.payload.length ≠ n) :
    withLen n h c p s = .no s stBadLength := if_neg hn

end Sys2Proof.Machine
end

section
/-! The tick of an idle block (11 R241; log 3) and the state after reset (14 R324). -/

namespace Sys2Proof.Machine

theorem told_of_linkOnly {s t : State} (h : LinkOnly s t) : Told s t := by
  unfold Told
  unfold LinkOnly at h
  generalize t.link = l at h
  generalize t.out = o at h
  rw [h]

theorem told_flumeSendOn (s : State) (p : Nat) (k : LinkPkt) : Told s (flumeSendOn s p k) := by
  unfold flumeSendOn
  split <;> exact told_of_linkOnly (linkOnly_flumeOut _ _ _)

theorem told_upDrain (s : State) : Told s (upDrain s) := by
  unfold upDrain
  split
  · exact .refl s
  · split
    · exact .refl s
    · exact Told.trans (b := { s with link := _ }) rfl (told_flumeSendOn _ _ _)

theorem told_retrainsDone (s : State) : Told s (retrainsDone s) :=
  Told.trans (b := { s with link := _ }) rfl (told_foldl _ (fun t _ => told_notify t _ _ _) _ _)

/-- What the links do of their own at a tick leaves the clocks, the start and the queue alone. -/
theorem told_linkTick (s : State) : Told s (linkTick s) :=
  ((told_foldl boundary (fun s p => told_of_linkOnly (sent_boundary s p).1) _ s).trans (told_upDrain _)).trans
    (told_retrainsDone _)

theorem idle_next {s : State} (hheld : s.boot.held = false) (hreset : s.boot.resetPending = none) :
    idle s = .next (commitState s (linkTick (tick s))) := by
  have hboot : (linkTick (tick s)).boot.resetPending = none := by
    rw [(told_linkTick (tick s)).boot]
    exact hreset
  unfold idle
  rw [if_neg (by simp [hheld])]
  simp only [hboot]
  rfl

theorem lt_linkTick_tick (s : State) : lt (linkTick (tick s)) = lt s + 4 := by
  unfold lt
  rw [(told_linkTick (tick s)).time]
  rfl

theorem now_le_linkTick_tick (s : State) : now s ≤ now (linkTick (tick s)) := by
  unfold now
  rw [(told_linkTick (tick s)).time]
  exact Nat.le_add_right _ _

end Sys2Proof.Machine

namespace Sys2Proof.Proofs

open Sys2Proof.Machine

/-- Settles O44: `step` reads the front of the queue, and an idle tick is `linkTick` after `tick`. -/
theorem stepRunsTheFrontCommand : Obligations.StepRunsTheFrontCommand := by
  unfold Obligations.StepRunsTheFrontCommand
  refine ⟨fun c r s => rfl, fun c s => rfl, fun s hq => ⟨fun hheld => ?_, fun hheld hreset => ?_⟩, fun _ _ => rfl,
    fun _ _ _ => rfl⟩
  · unfold step
    rw [hq]
    exact if_pos hheld
  · refine ⟨commitState s (linkTick (tick s)), ?_, now_le_linkTick_tick s, lt_linkTick_tick s, hq⟩
    unfold step
    rw [hq]
    exact idle_next hheld hreset

/-- Settles O45: the reset state lists no parameter and no byte. -/
theorem stateAfterReset : Obligations.StateAfterReset :=
  ⟨rfl, rfl, rfl, rfl, rfl, rfl, fun _ => rfl, fun _ => rfl, rfl, rfl, rfl⟩

end Sys2Proof.Proofs
end

section
/-! The opacity of a pattern engine (08 R180, R188). -/

namespace Sys2Proof.Machine

theorem engineA_blink {w : List Word} (t x y : Nat) (hmode : enMode w = 1) :
    engineA w t x y = if (t + enOffset w * 10 ^ 6) % max 1 (enPeriod w * 10 ^ 6) * 256
      < enDuty w * (enPeriod w * 10 ^ 6) then enAmax w else 0 := if_pos hmode

theorem engineA_breathe {w : List Word} {t u : Nat} (x y : Nat) (hmode : enMode w = 2)
    (hu : u = (t + enOffset w * 10 ^ 6) % max 1 (enPeriod w * 10 ^ 6) * 512 / max 1 (enPeriod w * 10 ^ 6)) :
    engineA w t x y = (enAmax w * (if u ≤ 256 then u else 512 - u) + 128) / 256 := by
  subst hu
  unfold engineA
  rw [if_neg (by omega), if_pos hmode]

/-- How far a pixel lies from the edge of the field at which the chase of a direction starts. -/
def chaseAt (w : List Word) (x y : Nat) : Nat :=
  if enDir w = 0 then x - fdX w else if enDir w = 1 then fdX w + fdW w - 1 - x
  else if enDir w = 2 then y - fdY w else fdY w + fdH w - 1 - y

theorem engineA_chase {w : List Word} {t k : Nat} (x y : Nat) (hmode : enMode w = 3)
    (hk : k = (t + enOffset w * 10 ^ 6) % max 1 (enPeriod w * 10 ^ 6) * (2 * enBw w) / max 1 (enPeriod w * 10 ^ 6)) :
    engineA w t x y = if (chaseAt w x y + 2 * enBw w - k % max 1 (2 * enBw w)) % max 1 (2 * enBw w) < enBw w
      then enAmax w else 0 := by
  subst hk
  unfold engineA
  rw [if_neg (by omega), if_neg (by omega)]
  rfl

theorem enDir_lt (w : List Word) : enDir w < 4 := Nat.mod_lt _ (by decide)

/-- The place of a pixel in the band, counted modulo the two bands of a chase. -/
theorem chase_mod {m : Nat} (hm : 1 ≤ m) (d k : Nat) : (((d + m - k % max 1 m) % max 1 m : Nat) : Int) = ((d : Int) - k) % m := by
  have hk : k % m < m := Nat.mod_lt _ hm
  rw [max_eq_right hm, Int.natCast_mod, Int.natCast_sub (by omega), Int.natCast_add, Int.natCast_mod,
    Int.sub_emod, Int.add_emod_right, Int.emod_emod_of_dvd _ (dvd_refl _), ← Int.sub_emod]

end Sys2Proof.Machine

namespace Sys2Proof.Proofs

open Sys2Proof.Machine

/-- Settles O59: the three modes of `engineA`, and the worked example of 08 R188. -/
theorem engineOpacity : Obligations.EngineOpacity := by
  unfold Obligations.EngineOpacity
  refine ⟨fun w t x y q ph hper hq hph => ?_, fun a v acc => rfl, fun w x y hmode hper hoff hmax => ?_⟩
  · have hmax : max 1 (enPeriod w * 10 ^ 6) = q := by omega
    have hph' : (t + enOffset w * 10 ^ 6) % max 1 (enPeriod w * 10 ^ 6) = ph := by rw [hmax, hph]; rfl
    refine ⟨fun hmode => ?_, fun hmode u hu => engineA_breathe x y hmode (by rw [hph', hmax, hu]),
      fun hmode hbw k d hk h0 h1 h2 h3 hx hx' hy hy' => ?_⟩
    · rw [engineA_blink t x y hmode, hph', hq]; rfl
    · have hd : d = (chaseAt w x y : Int) := by
        have hdir := enDir_lt w
        unfold chaseAt
        split
        · have := h0 ‹_› hx; omega
        · split
          · have := h1 ‹_› hx'; omega
          · split
            · have := h2 ‹_› hy; omega
            · have := h3 (by omega) hy'; omega
      rw [engineA_chase x y hmode rfl, hph', hmax, hd, hk]
      have hmod := chase_mod (m := 2 * enBw w) (by omega) (chaseAt w x y) (ph * (2 * enBw w) / q)
      rw [Int.natCast_mul] at hmod
      refine if_congr ?_ rfl rfl
      rw [← Int.ofNat_lt, hmod]
      rfl
  · rw [engineA_breathe x y hmode rfl, hper, hoff, hmax]
    rfl

end Sys2Proof.Proofs
end

section
/-! The order of the checks of a command in a session (02 R40). -/

namespace Sys2Proof.Machine

/-- Steps 4 to 9 of a command for this device whose session is open and which its policer lets pass. -/
theorem checkSteps_of_policed {op : Nat} {p : Smb} {s s1 b : State} {x : Session}
    (hreach : reaches op (handTwin op s p) p = true) (hs1 : s1 = freeBuf (handTwin op s p) p) (hshape : shapeOk p = true)
    (hlevel : levelOk s1 p = true) (hsess : hSess p.hdr ≠ 15) (hmatch : matchSess s1 p = some x)
    (hnear : s1.id.sender = false ∨ hDmode p.hdr = 0) (hpol : policed s1 p 0 = some b) :
    checkSteps op p s = if !tagOk x.key p then .done (drop3 b p)
      else if !inWindow x (hSeq p.hdr) then .done (answerOld b op p x) else checks69 op p (passFive b p x) := by
  have hfar : (s1.id.sender && hDmode p.hdr != 0) = false := by
    obtain h | h := hnear <;> simp [h]
  unfold checkSteps
  simp only [hreach, ← hs1, hshape, hlevel, hmatch, hfar, hpol, beq_eq_false_iff_ne.mpr hsess, Bool.not_true,
    Bool.and_self, Bool.or_self, Bool.false_and, Bool.false_eq_true, if_false]

theorem hostCommand_done {op : Nat} {h : Handler} {p : Smb} {s t : State} (hsteps : checkSteps op p s = .done t) :
    hostCommand op h p s = t := by
  simp only [hostCommand, hsteps]

theorem hostCommand_accept {op : Nat} {h : Handler} {p : Smb} {s t : State} {c : CmdRef}
    (hsteps : checkSteps op p s = .accept c t) : hostCommand op h p s = finish c p (h c p t) t := by
  simp only [hostCommand, hsteps]

/-! ### Steps 7 to 11 -/

section
variable {op : Nat} {p : Smb} {a : State} (hissue : issueOk a p = true)
include hissue

theorem checks69_unknown (hop : opSpec op = none) :
    checks69 op p a = .done (reply (countNotime a p) (cmdRef a op p) p.via stBadOpcode []) := by
  simp [checks69, hissue, hop]

theorem checks69_recovery {o : OpSpec} (hop : opSpec op = some o) (hrec : inRecovery (countNotime a p) = true)
    (hknown : knownInRecovery op = false) :
    checks69 op p a = .done (reply (countNotime a p) (cmdRef a op p) p.via stBadOpcode []) := by
  simp [checks69, hissue, hop, hrec, hknown]

section
variable {o : OpSpec} (hop : opSpec op = some o) (hrec : inRecovery (countNotime a p) = false)
include hop hrec

theorem checks69_role (hrole : (if (countNotime a p).id.sender then o.snd else o.tile) = false) :
    checks69 op p a = .done (reply (countNotime a p) (cmdRef a op p) p.via stNotInState []) := by
  simp only [checks69, hissue, hop, hrec, hrole, Bool.not_true, Bool.not_false, Bool.false_and, Bool.false_eq_true,
    if_false, if_true]

variable (hrole : (if (countNotime a p).id.sender then o.snd else o.tile) = true)
include hrole

theorem checks69_keyClass (hkeys : o.keys.contains (hKeyc p.hdr) = false) :
    checks69 op p a = .done (reply (countNotime a p) (cmdRef a op p) p.via stAuthFail []) := by
  simp only [checks69, hissue, hop, hrec, hrole, hkeys, Bool.not_true, Bool.not_false, Bool.false_and, Bool.or_false,
    Bool.false_eq_true, if_false, if_true]

variable (hkeys : o.keys.contains (hKeyc p.hdr) = true)
include hkeys

theorem checks69_keyPayload (hkey : keyOk op p = false) :
    checks69 op p a = .done (reply (countNotime a p) (cmdRef a op p) p.via stAuthFail (keyWhy op p)) := by
  simp only [checks69, hissue, hop, hrec, hrole, hkeys, hkey, Bool.not_true, Bool.not_false, Bool.false_and, Bool.or_false,
    Bool.false_eq_true, if_false, if_true]

variable (hkey : keyOk op p = true)
include hkey

theorem checks69_owner (hown : ownerOk (countNotime a p) (domOf o (hKeyc p.hdr)) (cmdRef a op p).sess = false) :
    checks69 op p a = .done (reply (countNotime a p) (cmdRef a op p) p.via stNotOwner []) := by
  simp only [checks69, hissue, hop, hrec, hrole, hkeys, hkey, hown, Bool.not_true, Bool.not_false, Bool.false_and,
    Bool.or_false, Bool.false_eq_true, if_false, if_true]

theorem checks69_accept (hown : ownerOk (countNotime a p) (domOf o (hKeyc p.hdr)) (cmdRef a op p).sess = true)
    (hmgmt : (countNotime a p).id.sender = true ∨ p.via ≠ .mgmt ∨ hDmode p.hdr = 0) :
    checks69 op p a = .accept (cmdRef a op p) (countNotime a p) := by
  have hmgmt' : (!(countNotime a p).id.sender && p.via == .mgmt && hDmode p.hdr != 0) = false := by
    obtain h | h | h := hmgmt
    · rw [h]; rfl
    · rw [beq_eq_false_iff_ne.mpr h, Bool.and_false]; rfl
    · rw [h]; exact Bool.and_false _
  simp only [checks69, hissue, hop, hrec, hrole, hkeys, hkey, hown, hmgmt', Bool.not_true, Bool.false_and,
    Bool.or_false, Bool.false_eq_true, if_false]

end
end

/-- Step 9 (02 R43): a session is shut out where another owns the domain, and by nothing else. -/
theorem ownerOk_of_owner {s : State} {d : Nat} {w : Owner} {r : SRef} (hown : ownerOf s d = some w) :
    ownerOk s (some d) r = (w.sess == r) := by
  simp only [ownerOk, hown]

theorem ownerOk_of_forall {s : State} {dom : Option Nat} {r : SRef}
    (h : ∀ d w, dom = some d → ownerOf s d = some w → w.sess = r) : ownerOk s dom r = true := by
  cases dom with
  | none => rfl
  | some d =>
    cases hown : ownerOf s d with
    | none => simp only [ownerOk, hown]
    | some w => rw [ownerOk_of_owner hown, h d w rfl hown, beq_self_eq_true]

end Sys2Proof.Machine

namespace Sys2Proof.Proofs

open Sys2Proof.Machine

/-- Settles O60: the order of `checkSteps_of_policed`, and behind it that of `checks69`. -/
theorem checksOfACommand : Obligations.ChecksOfACommand := by
  unfold Obligations.ChecksOfACommand
  intro op h p s s1 x b hreach hs1 hshape hlevel hsess hmatch hnear hpol
  have hsteps := checkSteps_of_policed hreach hs1 hshape hlevel hsess hmatch hnear hpol
  refine ⟨fun htag => ?_, fun htag hwin => ?_, fun htag hwin => ?_⟩
  · exact hostCommand_done (by simpa [htag] using hsteps)
  · exact hostCommand_done (by simpa [htag, hwin] using hsteps)
  · rintro a c rfl rfl
    have hrest : checkSteps op p s = checks69 op p (passFive b p x) := by simpa [htag, hwin] using hsteps
    refine ⟨fun hissue => ?_, fun hissue => ?_⟩
    · exact hostCommand_done (hrest.trans (checks69_of_stale_issue op hissue))
    · rintro t rfl
      refine ⟨fun hop => hostCommand_done (hrest.trans (checks69_unknown hissue hop)),
        fun o hop hrec hknown => hostCommand_done (hrest.trans (checks69_recovery hissue hop hrec hknown)),
        fun o hop hrec => ⟨fun hrole => hostCommand_done (hrest.trans (checks69_role hissue hop hrec hrole)),
          fun hrole => ⟨fun hkeys => hostCommand_done (hrest.trans (checks69_keyClass hissue hop hrec hrole hkeys)),
            fun hkeys hkey => hostCommand_done (hrest.trans (checks69_keyPayload hissue hop hrec hrole hkeys hkey)),
            fun hkeys hkey => ⟨fun d w hd hw hne => ?_, fun hown hmgmt => ?_⟩⟩⟩⟩
      · refine hostCommand_done (hrest.trans (checks69_owner hissue hop hrec hrole hkeys hkey ?_))
        rw [hd, ownerOk_of_owner hw]
        exact beq_eq_false_iff_ne.mpr hne
      · exact hostCommand_accept (hrest.trans
          (checks69_accept hissue hop hrec hrole hkeys hkey (ownerOk_of_forall hown) hmgmt))

end Sys2Proof.Proofs
end

section
/-! PING, CLAIM and RELEASE (02 R44, R45; 13 R301). -/

namespace Sys2Proof.Machine

open Sys2Proof.Safety

theorem claimRule_of_payload {c : CmdRef} {p : Smb} {a : State} {w n : Word} (hp : p.payload = [w, n]) :
    claimRule c p a =
      if fld w 1 0 = 3 ∨ n = 0 then .no a stBadParam
      else match ownerOf a (fld w 1 0) with
        | none => .ok (setOwner a (fld w 1 0) (some ⟨c.sess, n⟩)) []
        | some o =>
          if o.sess = c.sess then .ok (setOwner a (fld w 1 0) (some ⟨c.sess, n⟩)) []
          else if o.claim < n then
            .ok (eventTo (setOwner a (fld w 1 0) (some ⟨c.sess, n⟩)) o.sess 0x0004 0 [w32 (fld w 1 0), n]) []
          else .noW a stNotOwner [o.claim] := by
  unfold claimRule
  rw [withLen_of_length_eq (by rw [hp]; rfl)]
  simp only [pw, hp]
  rfl

theorem releaseRule_of_payload {c : CmdRef} {p : Smb} {a : State} {w : Word} (hp : p.payload = [w]) :
    releaseRule c p a =
      if fld w 1 0 = 3 then .no a stBadParam
      else match ownerOf a (fld w 1 0) with
        | none => .ok a []
        | some o => if o.sess = c.sess then .ok (setOwner a (fld w 1 0) none) [] else .no a stNotOwner := by
  unfold releaseRule
  rw [withLen_of_length_eq (by rw [hp]; rfl)]
  simp only [pw, hp]
  rfl

section
variable {p : Smb} {s a : State} {c : CmdRef}

theorem ping_answers (H : Accepted 0x0003 p s a c) (hlen : p.payload.length ≤ 16)
    (hroom : Room a p (wt80 a.time.valid (now a) ++ p.payload)) :
    AnswersOk (.ping p) p s a c (wt80 a.time.valid (now a) ++ p.payload) :=
  answers_ok (h := pingRule) H (if_neg (Nat.not_lt.mpr hlen)) hroom

theorem ping_refuses (H : Accepted 0x0003 p s a c) (hlen : 16 < p.payload.length) :
    AnswersNo (.ping p) p s a c stBadLength [] := answers_no (h := pingRule) H rfl (if_pos hlen)

variable {w n : Word}

section
variable (H : Accepted 0x0004 p s a c) (hp : p.payload = [w, n])
include H hp

theorem claim_refuses_param (hbad : fld w 1 0 = 3 ∨ n = 0) : AnswersNo (.claim p) p s a c stBadParam [] :=
  answers_no (h := claimRule) H rfl (by rw [claimRule_of_payload hp, if_pos hbad])

variable (hdom : fld w 1 0 ≠ 3) (hn : n ≠ 0)
include hdom hn

theorem claim_takes_free (hfree : ownerOf a (fld w 1 0) = none) :
    AnswersOk (.claim p) p s (setOwner a (fld w 1 0) (some ⟨c.sess, n⟩)) c [] :=
  answers_ok_nil (h := claimRule) H (by rw [claimRule_of_payload hp, if_neg (not_or.mpr ⟨hdom, hn⟩), hfree])

variable {o : Owner} (hown : ownerOf a (fld w 1 0) = some o)
include hown

theorem claim_replaces_own (hsess : o.sess = c.sess) :
    AnswersOk (.claim p) p s (setOwner a (fld w 1 0) (some ⟨c.sess, n⟩)) c [] :=
  answers_ok_nil (h := claimRule) H (by
    rw [claimRule_of_payload hp, if_neg (not_or.mpr ⟨hdom, hn⟩), hown]
    exact if_pos hsess)

theorem claim_displaces (hsess : o.sess ≠ c.sess) (hlt : o.claim < n) :
    AnswersOk (.claim p) p s (eventTo (setOwner a (fld w 1 0) (some ⟨c.sess, n⟩)) o.sess 0x0004 0
      [w32 (fld w 1 0), n]) c [] :=
  answers_ok_nil (h := claimRule) H (by
    rw [claimRule_of_payload hp, if_neg (not_or.mpr ⟨hdom, hn⟩), hown]
    exact (if_neg hsess).trans (if_pos hlt))

theorem claim_refuses_owner (hsess : o.sess ≠ c.sess) (hle : ¬ o.claim < n) :
    AnswersNo (.claim p) p s a c stNotOwner [o.claim] :=
  answers_noW (h := claimRule) H rfl (by
    rw [claimRule_of_payload hp, if_neg (not_or.mpr ⟨hdom, hn⟩), hown]
    exact (if_neg hsess).trans (if_neg hle))

end

section
variable (H : Accepted 0x0005 p s a c) (hp : p.payload = [w])
include H hp

theorem release_refuses_param (hbad : fld w 1 0 = 3) : AnswersNo (.release p) p s a c stBadParam [] :=
  answers_no (h := releaseRule) H rfl (by rw [releaseRule_of_payload hp, if_pos hbad])

variable (hdom : fld w 1 0 ≠ 3)
include hdom

theorem release_of_free (hfree : ownerOf a (fld w 1 0) = none) : AnswersOk (.release p) p s a c [] :=
  answers_ok_nil (h := releaseRule) H (by rw [releaseRule_of_payload hp, if_neg hdom, hfree])

variable {o : Owner} (hown : ownerOf a (fld w 1 0) = some o)
include hown

theorem release_frees (hsess : o.sess = c.sess) : AnswersOk (.release p) p s (setOwner a (fld w 1 0) none) c [] :=
  answers_ok_nil (h := releaseRule) H (by
    rw [releaseRule_of_payload hp, if_neg hdom, hown]
    exact if_pos hsess)

theorem release_refuses_owner (hsess : o.sess ≠ c.sess) : AnswersNo (.release p) p s a c stNotOwner [] :=
  answers_no (h := releaseRule) H rfl (by
    rw [releaseRule_of_payload hp, if_neg hdom, hown]
    exact if_neg hsess)

end
end

end Sys2Proof.Machine

namespace Sys2Proof.Proofs

open Sys2Proof.Machine

/-- Settles O1, by the cases of the three rules. -/
theorem ownershipCommands : Obligations.OwnershipCommands := by
  unfold Obligations.OwnershipCommands
  exact ⟨fun p s a c H => ⟨ping_answers H, ping_refuses H⟩,
    fun p s a c w n H hp => ⟨claim_refuses_param H hp, fun hdom hn => ⟨claim_takes_free H hp hdom hn,
      fun o hown => ⟨claim_replaces_own H hp hdom hn hown, claim_displaces H hp hdom hn hown,
        claim_refuses_owner H hp hdom hn hown⟩⟩⟩,
    fun p s a c w H hp => ⟨release_refuses_param H hp, fun hdom => ⟨release_of_free H hp hdom,
      fun o hown => ⟨release_frees H hp hdom hown, release_refuses_owner H hp hdom hown⟩⟩⟩⟩

end Sys2Proof.Proofs
end

section
/-! The MGMT port and the GPIO pins (02 R33, R34; 21 R446). -/

namespace Sys2Proof.Machine

open Sys2Proof.Safety

theorem gpioResult_of_recovery {s : State} (pin mode : Nat) (hrec : inRecovery s = true) :
    gpioResult s pin mode = 0x40 := if_pos hrec

theorem gpioResult_of_range {s : State} {pin mode : Nat} (hrec : inRecovery s = false) (hbad : 15 < pin ∨ 3 < mode) :
    gpioResult s pin mode = 0x11 := by simp [gpioResult, hrec, hbad]

theorem gpioResult_of_low {s : State} {pin mode : Nat} (hrec : inRecovery s = false) (hpin : pin < 8) (hmode : mode ≤ 3) :
    gpioResult s pin mode = 0x31 := by
  simp only [gpioResult, hrec, Bool.false_eq_true, if_false, if_pos hpin, ite_eq_right_iff]
  omega

/-- A pin of the eight in a mode it may have (21 R446). -/
theorem gpioResult_of_pin {s : State} {pin mode : Nat} (hrec : inRecovery s = false) (hlow : 8 ≤ pin) (hhigh : pin ≤ 15)
    (hmode : mode ≤ 3) : gpioResult s pin mode =
      if (gpioMode s (pin - 8) = 3 ∧ (mode = 1 ∨ mode = 2))
        ∨ (mode = 3 ∧ (gpioMode s (pin - 8) = 1 ∨ gpioMode s (pin - 8) = 2)) then 0x31 else 0 := by
  unfold gpioResult
  rw [if_neg (by simp [hrec]), if_neg (by omega), if_neg (by omega)]

/-- A mode that is refused leaves the modes as they are. -/
theorem gpioModeSet_refused {s : State} {pin mode : Byte} {r : Nat} (hheld : s.boot.held = false)
    (hres : gpioResult s pin.toNat mode.toNat = r) (hr : r ≠ 0) :
    Completes (.gpioModeSet pin mode) s (emit s (.busRead [BitVec.ofNat 8 r])) := by
  refine completes_act (by unfold exec execGpioModeSet; rfl) hheld ?_
  simp only [hres, if_neg hr]

theorem gpioModeSet_done {s : State} {pin mode : Byte} (hheld : s.boot.held = false)
    (hres : gpioResult s pin.toNat mode.toNat = 0) :
    Completes (.gpioModeSet pin mode) s
      (emit { s with gpio := { s.gpio with modes := s.gpio.modes.set (pin.toNat - 8) mode.toNat } } (.busRead [0x00])) := by
  refine completes_act (by unfold exec execGpioModeSet; rfl) hheld ?_
  simp only [hres, if_true]
  rfl

/-- A byte put together from eight bits has those bits. -/
theorem getLsbD_byteOfBits (f : Nat → Bool) {n : Nat} (hn : n < 8) :
    (BitVec.ofNat 8 ((List.range 8).foldl (fun a k => a + (if f k then 2 ^ k else 0)) 0)).getLsbD n = f n := by
  have hsum (b0 b1 b2 b3 b4 b5 b6 b7 : Bool) (m : Fin 8) :
      (BitVec.ofNat 8 (0 + (if b0 then 2 ^ 0 else 0) + (if b1 then 2 ^ 1 else 0) + (if b2 then 2 ^ 2 else 0)
        + (if b3 then 2 ^ 3 else 0) + (if b4 then 2 ^ 4 else 0) + (if b5 then 2 ^ 5 else 0) + (if b6 then 2 ^ 6 else 0)
        + (if b7 then 2 ^ 7 else 0))).getLsbD m = [b0, b1, b2, b3, b4, b5, b6, b7].getD m false := by
    revert b0 b1 b2 b3 b4 b5 b6 b7 m
    decide
  have h := hsum (f 0) (f 1) (f 2) (f 3) (f 4) (f 5) (f 6) (f 7) ⟨n, hn⟩
  have hget : [f 0, f 1, f 2, f 3, f 4, f 5, f 6, f 7].getD n false = f n := by
    interval_cases n <;> rfl
  exact h.trans hget

end Sys2Proof.Machine

namespace Sys2Proof.Proofs

open Sys2Proof.Machine

/-- Settles O3: the MGMT cases by what the buffer and the queue hold, the pins by `gpioResult`. -/
theorem mgmtPort : Obligations.MgmtPort := by
  unfold Obligations.MgmtPort
  intro s hheld
  refine ⟨fun p hbuf => completes_act (by unfold exec execMgmtWritePacket; rfl) hheld ?_,
    fun p q hbuf => completes_act (by unfold exec execMgmtWritePacket; rfl) hheld ?_,
    fun hout => completes_act (by unfold exec execMgmtReadPacket; rfl) hheld ?_, fun q r hout =>
      ⟨fun hr => completes_act (by unfold exec execMgmtReadPacket; rfl) hheld ?_,
        fun hr => completes_act (by unfold exec execMgmtReadPacket; rfl) hheld ?_⟩, completes_act (by unfold exec execMgmtReadStatus; rfl) hheld rfl, fun pin mode hrec hlow hhigh hmode => ?_,
    fun pin mode hrec hbad => gpioModeSet_refused hheld (gpioResult_of_range hrec hbad) (by decide),
    fun pin mode hrec hpin hmode => gpioModeSet_refused hheld (gpioResult_of_low hrec hpin hmode) (by decide),
    fun pin mode hrec => gpioModeSet_refused hheld (gpioResult_of_recovery _ _ hrec) (by decide),
    fun balls => ⟨_, completes_act (by unfold exec execGpioRead; rfl) hheld rfl, fun n hn => getLsbD_byteOfBits (fun k => gpioLevel s k _) hn⟩⟩
  · simp only [hbuf, Option.isSome_none, Bool.false_eq_true, if_false]
  · simp only [hbuf, Option.isSome_some, if_true]
  · simp only [hout]
  · simp only [hout, if_pos hr]
  · simp only [hout, if_neg hr]
  · have hres := gpioResult_of_pin hrec hlow hhigh hmode
    refine ⟨fun h => gpioModeSet_done hheld (hres.trans (if_neg (by omega))),
      fun h3 h => gpioModeSet_refused hheld (hres.trans (if_pos (.inl ⟨h3, h⟩))) (by decide),
      fun h h3 => gpioModeSet_refused hheld (hres.trans (if_pos (.inr ⟨h3, h⟩))) (by decide)⟩

end Sys2Proof.Proofs
end

section
/-! LAYER_SET, HOLD_DISCARD and COMMIT_AT (04 R77 to R83). -/

namespace Sys2Proof.Machine

open Sys2Proof.Safety

/-- The tables with the held set put into them (04 R79). -/
def tablesHeld (a : State) : Tables :=
  { tablesSoon a with layers := a.canvas.held.foldr (fun e m => m.set e.1 e.2) (tablesSoon a).layers }

theorem layerSetRule_of_payload {c : CmdRef} {p : Smb} {a : State} {w : Word} {l : List Word}
    (hp : p.payload = w :: l) (hl : l.length = 8) : layerSetRule c p a =
      if w &&& ~~~0x11F ≠ 0 then .noW a stBadParam [whyWord 4 0 0]
      else match layerRefusal a (if bit w 8 then tablesHeld a else tablesSoon a) (fld w 4 0) l with
        | some x => .noW a stBadParam [x]
        | none =>
          if bit w 8 then .ok { a with canvas := { a.canvas with held := put (fld w 4 0) l a.canvas.held } } []
          else if a.canvas.held.any (fun e => e.1 == fld w 4 0) then .no a stNotInState
          else .pend (proposeCmd a c (.layer (fld w 4 0) l)) := by
  unfold layerSetRule
  rw [withLen_of_length_eq (by rw [hp, List.length_cons, hl])]
  simp only [pw, hp]
  rfl

section
variable {p : Smb} {s a : State} {c : CmdRef} {w : Word} {l : List Word} (H : Accepted 0x0301 p s a c)
  (hp : p.payload = w :: l) (hl : l.length = 8)
include H hp hl

theorem layerSet_refuses_reserved (hw : w &&& ~~~0x11F ≠ 0) :
    AnswersNo (.layerSet p) p s a c stBadParam [whyWord 4 0 0] :=
  answers_noW (h := layerSetRule) H rfl ((layerSetRule_of_payload hp hl).trans (if_pos hw))

variable (hw : w &&& ~~~0x11F = 0)
include hw

theorem layerSet_refuses_layer {x : Word}
    (hx : layerRefusal a (if bit w 8 then tablesHeld a else tablesSoon a) (fld w 4 0) l = some x) :
    AnswersNo (.layerSet p) p s a c stBadParam [x] :=
  answers_noW (h := layerSetRule) H rfl (by rw [layerSetRule_of_payload hp hl, if_neg (not_not.mpr hw), hx])

theorem layerSet_holds (hhold : bit w 8 = true) (hok : layerRefusal a (tablesHeld a) (fld w 4 0) l = none) :
    AnswersOk (.layerSet p) p s { a with canvas := { a.canvas with held := put (fld w 4 0) l a.canvas.held } } c [] :=
  answers_ok_nil (h := layerSetRule) H (by
    simp only [layerSetRule_of_payload hp hl, if_neg (not_not.mpr hw), if_pos hhold, hok])

variable (hhold : bit w 8 = false) (hok : layerRefusal a (tablesSoon a) (fld w 4 0) l = none)
include hhold hok

theorem layerSet_proposes (hheld : a.canvas.held.any (fun e => e.1 == fld w 4 0) = false) :
    AnswersPending (.layerSet p) p s (proposeCmd a c (.layer (fld w 4 0) l)) c :=
  answers_pend (h := layerSetRule) H (by
    simp only [layerSetRule_of_payload hp hl, if_neg (not_not.mpr hw), hhold, Bool.false_eq_true, if_false, hok, hheld])

theorem layerSet_refuses_held (hheld : a.canvas.held.any (fun e => e.1 == fld w 4 0) = true) :
    AnswersNo (.layerSet p) p s a c stNotInState [] :=
  answers_no (h := layerSetRule) H rfl (by
    simp only [layerSetRule_of_payload hp hl, if_neg (not_not.mpr hw), hhold, Bool.false_eq_true, if_false, hok, hheld,
      if_true])

end

theorem holdDiscard_answers {p : Smb} {s a : State} {c : CmdRef} (H : Accepted 0x0311 p s a c) (hp : p.payload = []) :
    AnswersOk (.holdDiscard p) p s { a with canvas := { a.canvas with held := [] } } c [] :=
  answers_ok_nil (h := holdDiscardRule) H (withLen_of_length_eq (by rw [hp]; rfl))

theorem commitAtRule_of_payload {c : CmdRef} {p : Smb} {a : State} {t : Word} (hp : p.payload = [t]) :
    commitAtRule c p a =
      if !a.time.valid then .no a stNotInState
      else if 8 * 10 ^ 9 < 4 * sdiff t (nowW a) then .no a stBadParam
      else if a.canvas.held = [] then .ok a []
      else if 4 ≤ (takenSets a).length then .no a stBusy
      else .pend (proposeCmd { a with canvas := { a.canvas with held := [] } } c
        (.commit (decide (decision a (instantAt (rate a) (nearClk (now a) t)) ≤ now a)) (nearClk (now a) t)
          a.canvas.held.reverse)) := by
  unfold commitAtRule
  rw [withLen_of_length_eq (by rw [hp]; rfl)]
  simp only [pw, hp]
  rfl

section
variable {p : Smb} {s a : State} {c : CmdRef} {t : Word} (H : Accepted 0x0310 p s a c) (hp : p.payload = [t])
include H hp

theorem commitAt_refuses_untimed (ht : a.time.valid = false) : AnswersNo (.commitAt p) p s a c stNotInState [] :=
  answers_no (h := commitAtRule) H rfl ((commitAtRule_of_payload hp).trans (if_pos (by simp [ht])))

variable (ht : a.time.valid = true)
include ht

theorem commitAt_refuses_far (hfar : 8 * 10 ^ 9 < 4 * sdiff t (nowW a)) :
    AnswersNo (.commitAt p) p s a c stBadParam [] :=
  answers_no (h := commitAtRule) H rfl (by
    rw [commitAtRule_of_payload hp, if_neg (by simp [ht]), if_pos hfar])

variable (hnear : 4 * sdiff t (nowW a) ≤ 8 * 10 ^ 9)
include hnear

theorem commitAt_of_empty (hheld : a.canvas.held = []) : AnswersOk (.commitAt p) p s a c [] :=
  answers_ok_nil (h := commitAtRule) H (by
    rw [commitAtRule_of_payload hp, if_neg (by simp [ht]), if_neg (not_lt.mpr hnear), if_pos hheld])

variable (hheld : a.canvas.held ≠ [])
include hheld

theorem commitAt_refuses_full (hfull : 4 ≤ (takenSets a).length) : AnswersNo (.commitAt p) p s a c stBusy [] :=
  answers_no (h := commitAtRule) H rfl (by
    rw [commitAtRule_of_payload hp, if_neg (by simp [ht]), if_neg (not_lt.mpr hnear), if_neg hheld, if_pos hfull])

theorem commitAt_proposes (hroom : (takenSets a).length < 4) :
    AnswersPending (.commitAt p) p s
      (proposeCmd { a with canvas := { a.canvas with held := [] } } c
        (.commit (decide (decision a (instantAt (rate a) (nearClk (now a) t)) ≤ now a)) (nearClk (now a) t)
          a.canvas.held.reverse)) c :=
  answers_pend (h := commitAtRule) H (by
    rw [commitAtRule_of_payload hp, if_neg (by simp [ht]), if_neg (not_lt.mpr hnear), if_neg hheld,
      if_neg (not_le.mpr hroom)])

end

end Sys2Proof.Machine

namespace Sys2Proof.Proofs

open Sys2Proof.Machine

/-- Settles O11, by the cases of the three rules. -/
theorem layersAndCommit : Obligations.LayersAndCommit := by
  unfold Obligations.LayersAndCommit
  refine ⟨⟨fun p s a c w l H hp hl => ⟨layerSet_refuses_reserved H hp hl, fun hw hhold v hv => ⟨fun hnone => ?_,
      fun x hx => ?_⟩, fun hw hhold => ⟨fun hok => ⟨layerSet_proposes H hp hl hw hhold hok,
        layerSet_refuses_held H hp hl hw hhold hok⟩, fun x hx => ?_⟩⟩, fun p s a c H hp => holdDiscard_answers H hp⟩,
    fun p s a c t H hp => ⟨commitAt_refuses_untimed H hp, commitAt_refuses_far H hp, fun ht hnear =>
      ⟨commitAt_of_empty H hp ht hnear, fun hheld => ⟨commitAt_refuses_full H hp ht hnear hheld,
        commitAt_proposes H hp ht hnear hheld⟩⟩⟩⟩
  · exact layerSet_holds H hp hl hw hhold (hv.symm.trans hnone)
  · exact layerSet_refuses_layer H hp hl hw (by rw [if_pos hhold]; exact hv.symm.trans hx)
  · exact layerSet_refuses_layer H hp hl hw (by simpa [hhold] using hx)

end Sys2Proof.Proofs
end

section
/-! What sending and recording leave of the parts that the proofs below ask for: every part that `Told` keeps, and every
parameter but the recorder's three counts. -/

namespace Sys2Proof.Machine

namespace Told

variable {s t : State} (h : Told s t)
include h

theorem pwr : t.pwr = s.pwr := by rw [h]
theorem sram : t.sram = s.sram := by rw [h]
theorem cal : t.cal = s.cal := by rw [h]
theorem gpio : t.gpio = s.gpio := by rw [h]
theorem net : t.net = s.net := by rw [h]
theorem canvas : t.canvas = s.canvas := by rw [h]
theorem flume : t.flume = s.flume := by rw [h]
theorem bdg : t.bdg = s.bdg := by rw [h]
theorem weir : t.weir = s.weir := by rw [h]
theorem heavy : t.heavy = s.heavy := by rw [h]
theorem pending : t.pending = s.pending := by rw [h]

end Told

/-- The counts that a record writes (20 R426). -/
def recorderIdx (j : Nat) : Bool := j == evrWritten || j == evrRseq || j == evrLost

/-- `t` is `s` but for Smiben, CorsinLink, what was sent and the recorder with its three counts. -/
def Spoke (s t : State) : Prop := Told s t ∧ ∀ j, recorderIdx j = false → rd t j = rd s j

theorem Spoke.told {s t : State} (h : Spoke s t) : Told s t := h.1

theorem Spoke.rd {s t : State} (h : Spoke s t) {j : Nat} (hj : recorderIdx j = false) : rd t j = rd s j := h.2 j hj

theorem Spoke.refl (s : State) : Spoke s s := ⟨.refl s, fun _ _ => rfl⟩

theorem Spoke.trans {a b c : State} (h : Spoke a b) (k : Spoke b c) : Spoke a c :=
  ⟨h.told.trans k.told, fun _ hj => (k.rd hj).trans (h.rd hj)⟩

theorem spoke_of_par {s t : State} (h : Told s t) (hpar : t.par = s.par) : Spoke s t :=
  ⟨h, fun j _ => by rw [rd, rd, hpar, h.id]⟩

theorem spoke_foldl {α : Type} {f : State → α → State} (h : ∀ s x, Spoke s (f s x)) (l : List α) (s : State) :
    Spoke s (l.foldl f s) := by
  induction l generalizing s with
  | nil => exact .refl s
  | cons x r ih => exact (h s x).trans (ih (f s x))

theorem spoke_smb (s : State) (m : Smiben) : Spoke s { s with smb := m } := spoke_of_par rfl rfl

theorem spoke_updSess (s : State) (r : SRef) (f : Session → Session) : Spoke s (updSess s r f) := spoke_of_par rfl rfl

theorem spoke_of_linkOnly {s t : State} (h : LinkOnly s t) : Spoke s t :=
  spoke_of_par (told_of_linkOnly h) (by rw [h])

theorem spoke_linkSend (s : State) (p : Nat) (b : CtlBody) : Spoke s (linkSend s p b) :=
  spoke_of_linkOnly (sent_linkSend s p b).1

theorem spoke_linkCast (s : State) (l : List Nat) (b : CtlBody) : Spoke s (linkCast s l b) :=
  spoke_foldl (fun s p => spoke_linkSend s p b) l s

theorem spoke_ship (s : State) (p : Packet) : Spoke s (ship s p) := by
  unfold ship
  split
  · simp only
    split <;> exact spoke_of_par rfl rfl
  · exact spoke_linkSend _ _ _
  · split
    · exact .refl s
    · split
      · exact .refl s
      · exact spoke_of_par rfl rfl

theorem spoke_closeSess (s : State) (r : SRef) : Spoke s (closeSess s r) := by
  unfold closeSess
  split
  · exact .refl s
  · simp only
    split
    · exact (spoke_smb s _).trans (spoke_linkCast _ _ _)
    · exact spoke_smb s _

theorem spoke_sendIn (s : State) (r : SRef) (kind level opcode : Nat) (echo issue : Word) (status : Nat)
    (trunc : Bool) (payload : List Word) (via : Option Via) :
    Spoke s (sendIn s r kind level opcode echo issue status trunc payload via).1 := by
  unfold sendIn
  split
  · exact .refl s
  · split
    · exact .refl s
    · simp only
      have hship := fun f p => (spoke_updSess s r f).trans (spoke_ship (updSess s r f) p)
      split
      · exact (hship _ _).trans (spoke_closeSess _ _)
      · exact hship _ _

theorem spoke_reply (s : State) (c : CmdRef) (via : Via) (st : Nat) (words : List Word) :
    Spoke s (reply s c via st words) := by
  unfold reply
  split
  · exact .refl s
  · exact (spoke_sendIn _ _ _ _ _ _ _ _ _ _ _).trans (spoke_updSess _ _ _)

theorem rd_putRec (s : State) (r : Rec) {j : Nat} (hj : recorderIdx j = false) : rd (putRec s r) j = rd s j := by
  obtain ⟨⟨hw, hr⟩, hl⟩ : (evrWritten ≠ j ∧ evrRseq ≠ j) ∧ evrLost ≠ j := by
    simp only [recorderIdx, Bool.or_eq_false_iff, beq_eq_false_iff_ne] at hj
    exact ⟨⟨hj.1.1.symm, hj.1.2.symm⟩, hj.2.symm⟩
  unfold putRec
  simp only
  split
  · rw [rd_bump, if_neg hl, rd_wr, if_neg hr, rd_bump, if_neg hw]; rfl
  · rw [rd_wr, if_neg hr, rd_bump, if_neg hw]; rfl

theorem spoke_record (s : State) (trig : Nat) (snap : List Word) : Spoke s (record s trig snap) :=
  ⟨told_record s trig snap, fun _ hj => rd_putRec s _ hj⟩

theorem spoke_recordX (s : State) (k : Nat) (snap : List Word) : Spoke s (recordX s k snap) := spoke_record _ _ _

theorem spoke_notifyAt (s : State) (c : CmdRef) (st clk : Nat) (words : List Word) :
    Spoke s (notifyAt s c st clk words) := by
  unfold notifyAt
  split
  · split
    · exact spoke_recordX _ _ _
    · exact .refl s
  · split
    · exact .refl s
    · simp only
      split
      · exact spoke_sendIn _ _ _ _ _ _ _ _ _ _ _
      · exact (spoke_sendIn _ _ _ _ _ _ _ _ _ _ _).trans (spoke_updSess _ _ _)

theorem spoke_notify (s : State) (c : CmdRef) (st : Nat) (words : List Word) : Spoke s (notify s c st words) :=
  spoke_notifyAt _ _ _ _ _

theorem spoke_notifyO (s : State) (c : Option CmdRef) (st : Nat) (words : List Word) :
    Spoke s (notifyO s c st words) := by
  unfold notifyO
  split
  · exact .refl s
  · exact spoke_notify _ _ _ _

theorem spoke_eventTo (s : State) (r : SRef) (op : Nat) (echo : Word) (l : List Word) :
    Spoke s (eventTo s r op echo l) := by
  unfold eventTo
  split
  · exact .refl s
  · exact spoke_sendIn _ _ _ _ _ _ _ _ _ _ _

theorem spoke_event (s : State) (a : Aud) (trig : Nat) (words : List Word) : Spoke s (event s a trig words) :=
  spoke_foldl (fun s r => spoke_eventTo s r _ _ _) _ s

theorem spoke_recEvent (s : State) (a : Aud) (trig : Nat) (w : List Word) : Spoke s (recEvent s a trig w) :=
  (spoke_record _ _ _).trans (spoke_event _ _ _ _)

theorem spoke_recEventX (s : State) (a : Aud) (k : Nat) (w : List Word) : Spoke s (recEventX s a k w) :=
  spoke_recEvent _ _ _ _

theorem spoke_twinSend (s : State) (m : TwinMsg) : Spoke s (twinSend s m) := spoke_linkSend _ _ _

/-! ### Time reached (11 R241) -/

theorem toLt_reached (d : Nat) (s : State) : d ≤ lt (toLt d s) := by
  show d ≤ s.time.lt + 4 * cdiv (d - s.time.lt) 4
  have h := (cdiv_le_iff (a := d - s.time.lt) (m := cdiv (d - s.time.lt) 4) (show 0 < 4 by decide)).mp le_rfl
  omega

end Sys2Proof.Machine
end

section
/-! Canvas frames of a sender (04 R73 to R92). -/

namespace Sys2Proof.Machine

open Sys2Proof.Safety

theorem latchLayer_words (s : State) (e : Nat) (y : Layer) : (latchLayer s e y).1.words = y.words := by
  unfold latchLayer
  extract_lets was
  split
  · rfl
  · split
    · rfl
    · split <;> rfl

theorem told_recordSources (l : List (Layer × Bool)) (s : State) (n : Nat) : Told s (recordSources s l n) := by
  induction l generalizing s n with
  | nil => exact .refl s
  | cons e r ih =>
    obtain ⟨y, was⟩ := e
    unfold recordSources
    extract_lets is
    refine Told.trans ?_ (ih _ _)
    split
    · exact told_recordX _ _ _
    · exact .refl s

/-- The clocks and the frame being composed stand. -/
def FrameKept (s t : State) : Prop :=
  t.time = s.time ∧ t.canvas.latched = s.canvas.latched ∧ t.canvas.composing = s.canvas.composing

theorem FrameKept.refl (s : State) : FrameKept s s := ⟨rfl, rfl, rfl⟩

theorem FrameKept.trans {a b c : State} (h : FrameKept a b) (k : FrameKept b c) : FrameKept a c :=
  ⟨k.1.trans h.1, k.2.1.trans h.2.1, k.2.2.trans h.2.2⟩

theorem frameKept_pair (s : State) (x : Pair) : FrameKept s { s with pair := x } := ⟨rfl, rfl, rfl⟩

theorem frameKept_flume (s : State) (x : Flume) : FrameKept s { s with flume := x } := ⟨rfl, rfl, rfl⟩

theorem frameKept_of_told {s t : State} (h : Told s t) : FrameKept s t :=
  ⟨h.time, congrArg (·.latched) h.canvas, congrArg (·.composing) h.canvas⟩

theorem frameKept_foldl {α : Type} {f : State → α → State} (h : ∀ s x, FrameKept s (f s x)) (l : List α) (s : State) :
    FrameKept s (l.foldl f s) := by
  induction l generalizing s with
  | nil => exact .refl s
  | cons x r ih => exact (h s x).trans (ih (f s x))

theorem frameKept_setMode (s : State) (mode w : Nat) : FrameKept s (setMode s mode w) := by
  unfold setMode
  split
  · exact frameKept_pair s _
  · exact (frameKept_pair s _).trans (frameKept_of_told (told_recEventX _ _ _ _))

theorem frameKept_railYield (s : State) (on : Bool) : FrameKept s (railYield s on) := by
  unfold railYield
  split
  · exact .refl s
  · exact (frameKept_flume s _).trans (frameKept_of_told (told_linkCast _ _ _))

theorem frameKept_takeFree (s : State) : FrameKept s (takeFree s).2 := ⟨rfl, rfl, rfl⟩

theorem frameKept_owlThawed (s : State) (n : Nat) (sig : Option Word) : FrameKept s (owlThawed s n sig) :=
  (frameKept_takeFree s).trans (frameKept_of_told (told_recEvent _ _ _ _))

theorem frameKept_owlFrozen (s : State) (w : Watch) : FrameKept s (owlFrozen s w) :=
  (frameKept_takeFree s).trans (frameKept_of_told (told_recEvent _ _ _ _))

theorem frameKept_adoptSender (s : State) (m : StateMsg) : FrameKept s (adoptSender s m) := by
  unfold adoptSender
  extract_lets mk staged known sets watch canvas flume s1
  have hadopt : FrameKept s s1 := ⟨rfl, rfl, rfl⟩
  refine hadopt.trans (frameKept_foldl (fun t w => ?_) _ s1)
  extract_lets x
  split
  · exact frameKept_owlThawed _ _ _
  · split
    · exact frameKept_owlFrozen _ _
    · exact .refl t

theorem frameKept_resyncEnd (s : State) : FrameKept s (resyncEnd s) := by
  unfold resyncEnd
  extract_lets pair s1 s2
  have h1 : FrameKept s s1 := frameKept_pair s _
  have h2 : FrameKept s s2 := by
    refine h1.trans ?_
    show FrameKept s1 (if _ then _ else _)
    split
    · exact frameKept_railYield _ _
    · exact .refl _
  clear_value s2
  split
  · exact h2.trans (frameKept_pair s2 _)
  · split
    · exact h2.trans (frameKept_pair s2 _)
    · split
      · exact (h2.trans (frameKept_pair s2 _)).trans (frameKept_of_told (spoke_twinSend _ _).told)
      · exact h2

theorem frameKept_adoptAtStart (s : State) (e : Nat) : FrameKept s (adoptAtStart s e) := by
  unfold adoptAtStart
  split
  · exact .refl s
  · split
    · exact .refl s
    · split
      · exact (frameKept_adoptSender _ _).trans (frameKept_resyncEnd _)
      · split
        · exact frameKept_resyncEnd s
        · exact .refl s

theorem frameKept_enterDue (s : State) (e : Nat) : FrameKept s (enterDue s e) := by
  unfold enterDue
  split
  · exact .refl s
  · split
    · exact .refl s
    · split
      · exact .refl s
      · extract_lets pair s1
        have h1 : FrameKept s s1 := frameKept_pair s _
        have hedges : FrameKept s1 (keepEdges s1) := ⟨rfl, rfl, rfl⟩
        clear_value s1
        split
        · exact (h1.trans hedges).trans (frameKept_setMode _ _ _)
        · exact h1.trans (frameKept_pair s1 _)

theorem told_edgeTrig (s : State) : Told s (edgeTrig s) := by
  unfold edgeTrig
  split
  · exact .refl s
  · refine told_foldl _ (fun t c => ?_) _ s
    split
    · exact told_emit _ _
    · exact .refl t

end Sys2Proof.Machine
end

section
/-! Canvas frames of a sender (04 R73 to R92). -/

namespace Sys2Proof.Machine

open Sys2Proof.Safety

theorem tablesNow_layers (s : State) : (tablesNow s).layers = layersNow s := rfl

theorem markReading_canvas (s : State) (picks : List (Option LPick)) : (markReading s picks).canvas = s.canvas := rfl

/-- The latch fixes the next frame's start and the layers in effect (04 R73). -/
theorem canvasLatch_latches {s : State} (hheld : s.boot.held = false) (hsnd : s.id.sender = true)
    (hfree : s.canvas.latched = none) :
    ∃ u, Completes .canvasLatch s u ∧ ∃ l, u.canvas.latched = some l ∧ l.start = nextEdge s ∧ l.layers = layersNow u := by
  refine ⟨_, completes_act (by unfold exec execCanvasLatch; rfl) hheld rfl, ?_⟩
  have hcond : ¬ (!s.id.sender || s.canvas.latched.isSome) = true := by simp [hsnd, hfree]
  rw [if_neg hcond]
  extract_lets e d s1 due rectRefs s2 s3 ys s4 layers picks t hot off l counted canvas s5
  have hcanvas : s4.canvas = s3.canvas := (told_recordSources _ _ _).canvas
  have hwords : layers.map (·.words) = layersNow s4 := by
    show (ys.map (fun z => z.1.1)).map (·.words) = s4.canvas.layers.map (·.words)
    rw [hcanvas]
    show ((s3.canvas.layers.map _).map _).map _ = _
    simp only [List.map_map, Function.comp_def, latchLayer_words]
  have hstart : l.start = nextEdge s := by with_reducible rfl
  have hlayers : l.layers = t.layers := by with_reducible rfl
  have htables : t.layers = layersNow s4 := tablesNow_layers s4
  have hlatched : s5.canvas.latched = some l := by with_reducible rfl
  have hnow : layersNow s5 = layers.map (·.words) := by rw [layersNow]
  have hmark := markReading_canvas s5 picks
  clear_value s5 l t
  refine ⟨l, ?_, hstart, ?_⟩
  · split
    · exact hlatched
    · rw [hmark, hlatched]
  · rw [hlayers, htables, ← hwords, ← hnow]
    split
    · rfl
    · rw [layersNow, layersNow, hmark]

/-- The start begins the composition of what was latched (04 R75). -/
theorem canvasFrameStart_composes {s : State} (hheld : s.boot.held = false) {l : Latched} (hl : s.canvas.latched = some l) :
    ∃ u, Completes .canvasFrameStart s u ∧ u.canvas.latched = none
      ∧ u.canvas.composing = (if l.skip then none else some l)
      ∧ u.time.lastEdge = some (l.start, lt u) ∧ l.start ≤ now u := by
  refine ⟨_, completes_act (by unfold exec execCanvasFrameStart; rfl) hheld rfl, ?_⟩
  simp -zeta only [hl]
  extract_lets s1 canvas time s2 lost canvas' s3 s4
  have hreached : l.start ≤ s1.time.clk := toClk_reached l.start s
  have hlost : FrameKept s2 s3 := by
    show FrameKept s2 (if _ then _ else _)
    split
    · exact ⟨rfl, rfl, rfl⟩
    · exact .refl s2
  have hdone : FrameKept s2 ((inPassedOrder s4 l.notes).foldl (fun t n => notify t n.1 n.2 []) s4) :=
    (((hlost.trans (frameKept_adoptAtStart s3 l.start)).trans (frameKept_enterDue _ _)).trans
      (frameKept_of_told (told_edgeTrig _))).trans
      (frameKept_of_told (told_foldl _ (fun t _ => told_notify t _ _ _) _ s4))
  obtain ⟨htime, hlatched, hcomposing⟩ := hdone
  refine ⟨hlatched, hcomposing, ?_, ?_⟩
  · rw [lt, htime]; rfl
  · rw [now, htime]; exact hreached

/-- An abandoned composition is counted, and the newest frame stands (04 R75). -/
theorem abandonCanvas_counts {s : State} {l : Latched} (hl : s.canvas.composing = some l) :
    (abandonCanvas s).canvas.composing = none ∧ (abandonCanvas s).canvas.newest = s.canvas.newest
      ∧ rd (abandonCanvas s) cmpAbandon = satAdd (rd s cmpAbandon) 1 := by
  unfold abandonCanvas
  simp only [hl]
  have hrec := spoke_recordX (bump { s with canvas := { s.canvas with composing := none } } cmpAbandon) xAbandon [wt32 l.start]
  generalize recordX _ _ _ = t at hrec
  have hcanvas : (endReading t).canvas = { s.canvas with composing := none } := hrec.told.canvas
  refine ⟨congrArg (·.composing) hcanvas, congrArg (·.newest) hcanvas, ?_⟩
  show rd t cmpAbandon = _
  rw [hrec.rd (by decide), rd_bump, if_pos rfl]
  rfl

theorem setPending_par (s : State) (f : CanvasFrame) : (setPending s f).par = s.par ∧ (setPending s f).id = s.id := by
  unfold setPending
  generalize s.canvas.rects = rects
  have hstep (l : List Rect) (t : State) (h : t.par = s.par ∧ t.id = s.id) (g : State → Rect → State)
      (hg : ∀ t r, (g t r).par = t.par ∧ (g t r).id = t.id) : (l.foldl g t).par = s.par ∧ (l.foldl g t).id = s.id := by
    induction l generalizing t with
    | nil => exact h
    | cons r l ih => exact ih _ ⟨(hg t r).1.trans h.1, (hg t r).2.trans h.2⟩
  exact hstep rects s ⟨rfl, rfl⟩ _ fun t r => ⟨rfl, rfl⟩

end Sys2Proof.Machine

namespace Sys2Proof.Proofs

open Sys2Proof.Machine

/-- Settles O13, by what is latched and composing. -/
theorem canvasFrames : Obligations.CanvasFrames := by
  unfold Obligations.CanvasFrames
  intro s hheld
  refine ⟨fun h => ?_, fun h => ?_, fun h => ?_, fun hsnd hfree => ?_, fun l hl => canvasFrameStart_composes hheld hl,
    fun l hl => ⟨fun hbefore => ?_, fun hlate => ?_⟩⟩
  · refine completes_act (by unfold exec execCanvasLatch; rfl) hheld ?_
    refine if_pos ?_
    obtain h | h := h <;> simp [h]
  · refine completes_act (by unfold exec execCanvasFrameStart; rfl) hheld ?_
    simp only [h]
  · refine completes_act (by unfold exec execCanvasFrameComplete; rfl) hheld ?_
    simp only [h]
  · obtain ⟨u, hu, l, hl⟩ := canvasLatch_latches hheld hsnd hfree
    exact ⟨u, l, hu, hl⟩
  · refine ⟨_, completes_act (by unfold exec execCanvasFrameComplete; rfl) hheld rfl, ?_⟩
    simp only [hl, if_neg (Nat.not_le.mpr hbefore)]
    obtain ⟨hpar, hid⟩ := setPending_par s (compose s l)
    refine ⟨rfl, rfl, rfl, ?_⟩
    show rd (bump (setPending s (compose s l)) cmpFrames) cmpFrames = _
    rw [rd_bump, if_pos rfl, rd, rd, hpar, hid]
  · refine ⟨abandonCanvas s, completes_act (by unfold exec execCanvasFrameComplete; rfl) hheld ?_, abandonCanvas_counts hl⟩
    simp only [hl, if_pos hlate]

end Sys2Proof.Proofs
end

section
/-! Frame edges, passes and the colour matrix of a tile (07 R147 to R163). -/

namespace Sys2Proof.Machine

open Sys2Proof.Safety

theorem frameEdge_completes {s : State} (hheld : s.boot.held = false) (htile : s.id.sender = false) :
    Completes .frameEdge s (dramOnce (edgeTrig (frameEdgeAt (toClk (nextEdge s) s) (nextEdge s)))) := by
  refine completes_act (by unfold exec execFrameEdge; rfl) hheld ?_
  exact if_neg (by simp [htile])

/-- What a pass that ends leaves of the picture's pass and of the clock. -/
def PassOver (s t : State) : Prop := t.img.pass = s.img.pass ∧ t.time = s.time

theorem PassOver.trans {a b c : State} (h : PassOver a b) (k : PassOver b c) : PassOver a c :=
  ⟨k.1.trans h.1, k.2.trans h.2⟩

theorem passOver_of_told {s t : State} (h : Told s t) : PassOver s t := ⟨congrArg (·.pass) h.img, h.time⟩

theorem passOver_lamp (s : State) (x : Lamp) : PassOver s { s with lamp := x } := ⟨rfl, rfl⟩

theorem passOver_bump (s : State) (i : Nat) : PassOver s (bump s i) := ⟨rfl, rfl⟩

theorem passOver_lowWatch (s : State) : PassOver s (lowWatch s) := ⟨rfl, rfl⟩

theorem passOver_holdShow (s : State) : PassOver s (holdShow s) := by
  unfold holdShow
  extract_lets v e lamp s1 img s2
  have h1 : PassOver s s1 :=
    ((passOver_lamp s _).trans (passOver_bump _ _)).trans (passOver_of_told (told_recordX _ _ _))
  clear_value s1
  have h2 : PassOver s1 s2 := ⟨rfl, rfl⟩
  clear_value s2
  split
  · exact h1
  · split
    · exact (h1.trans h2).trans (passOver_of_told (spoke_twinSend _ _).told)
    · exact h1.trans h2

theorem endPass_over (s : State) (q : Pass) : (endPass s q).img.pass = none ∧ (endPass s q).time = s.time := by
  unfold endPass
  extract_lets back img lamp s1
  have hback : back.time = s.time := creditReturn_time s _
  have h1 : s1.img.pass = none ∧ s1.time = s.time := ⟨rfl, hback⟩
  clear_value s1
  have hdone (t : State) (h : PassOver s1 t) : t.img.pass = none ∧ t.time = s.time := ⟨h.1.trans h1.1, h.2.trans h1.2⟩
  split
  · exact hdone _ ((passOver_holdShow s1).trans (passOver_lowWatch _))
  · exact hdone _ (passOver_lowWatch s1)

theorem correctionPassEnd_completes {s : State} (hheld : s.boot.held = false) {q : Pass} (hq : s.img.pass = some q) :
    ∃ u, Completes .correctionPassEnd s u ∧ u.img.pass = none ∧ q.ends ≤ now u := by
  obtain ⟨hpass, htime⟩ := endPass_over (toClk q.ends s) q
  refine ⟨endPass (toClk q.ends s) q, completes_act (by unfold exec execCorrectionPassEnd; rfl) hheld ?_, hpass, ?_⟩
  · simp only [hq]
  · rw [now, htime]
    exact toClk_reached _ _

/-! ### MATRIX_WRITE (07 R160) -/

section
variable {p : Smb} {s a : State} {c : CmdRef} {w0 w1 : Word} {l : List Word} (hp : p.payload = w0 :: w1 :: l)
  (hn : 1 ≤ fld w1 31 16) (hmax : fld w1 31 16 ≤ 448) (hy : fld w0 25 16 < picH a)
  (hx : fld w0 9 0 + fld w1 31 16 ≤ picW a) (hl : l.length = cdiv (18 * fld w1 31 16) 4)
include hp hn hmax hy hx hl

/-- Coefficients within the picture are staged while they fit (07 R160). -/
theorem matrixWriteRule_of_payload : matrixWriteRule c p a =
    if 65536 < stagedBytes a + 18 * fld w1 31 16 then .no a stBusy
    else .pend { a with img := { a.img with staging := a.img.staging ++
      [⟨fld w0 25 16, fld w0 9 0, coefsOf (fld w1 31 16) l, c⟩] } } := by
  have hlen : p.payload.length = 2 + cdiv (18 * fld w1 31 16) 4 := by
    rw [hp, List.length_cons, List.length_cons, hl]; omega
  have h0 : pw p 0 = w0 := by rw [pw, hp]; rfl
  have h1 : pw p 1 = w1 := by rw [pw, hp]; rfl
  have hdrop : p.payload.drop 2 = l := by rw [hp]; rfl
  unfold matrixWriteRule
  rw [h0, h1, hdrop]
  rw [if_neg (by omega), if_neg (by omega), if_neg (by omega)]

theorem matrixWrite_stages (H : Accepted 0x0A40 p s a c) (hfits : stagedBytes a + 18 * fld w1 31 16 ≤ 65536) :
    AnswersPending (.matrixWrite p) p s { a with img := { a.img with staging := a.img.staging ++
      [⟨fld w0 25 16, fld w0 9 0, coefsOf (fld w1 31 16) l, c⟩] } } c :=
  answers_pend (h := matrixWriteRule) H
    ((matrixWriteRule_of_payload hp hn hmax hy hx hl).trans (if_neg (Nat.not_lt.mpr hfits)))

theorem matrixWrite_refuses_full (H : Accepted 0x0A40 p s a c) (hfull : 65536 < stagedBytes a + 18 * fld w1 31 16) :
    AnswersNo (.matrixWrite p) p s a c stBusy [] :=
  answers_no (h := matrixWriteRule) H rfl ((matrixWriteRule_of_payload hp hn hmax hy hx hl).trans (if_pos hfull))

end

/-! ### A lost matrix word (07 R163) -/

theorem pixelLost_counts {s : State} {px : Nat} (hpx : ¬ px ∈ s.img.lostPx) :
    rd (pixelLost s px) tilMfault = satAdd (rd s tilMfault) 1
      ∧ (pixelLost s px).img.avgRows = s.img.avgRows ∧ (pixelLost s px).img.matrix = s.img.matrix := by
  have hcount (t : State) (ht : t = { bump s tilMfault with img := { s.img with lostPx := px :: s.img.lostPx } }) :
      rd t tilMfault = satAdd (rd s tilMfault) 1 ∧ t.img.avgRows = s.img.avgRows ∧ t.img.matrix = s.img.matrix := by
    subst ht
    refine ⟨?_, rfl, rfl⟩
    show rd (bump s tilMfault) tilMfault = _
    rw [rd_bump, if_pos rfl]
  unfold pixelLost
  rw [if_neg (by simpa using hpx)]
  extract_lets counted img s1 x y b lamps
  have h1 := hcount s1 rfl
  clear_value s1
  split
  · split
    · split
      · exact h1
      · exact h1
    · exact h1
  · exact h1

section
variable {s : State} {row col : Nat} (hheld : s.boot.held = false) (htile : s.id.sender = false)
  (hrow : row < picH s) (hcol : col < picW s) (hpx : ¬ (row * picW s + col) ∈ s.img.lostPx)
include hheld htile hrow hcol hpx

theorem matrixRowReload_good : ∃ u, Completes (.matrixRowReload ⟨row, col⟩ true) s u
    ∧ rd u tilMfault = satAdd (rd s tilMfault) 1 ∧ ¬ row ∈ u.img.avgRows ∧ ∀ e ∈ cacheRow u row, e ∈ u.img.matrix := by
  refine ⟨_, completes_act (by unfold exec execMatrixRowReload; rfl) hheld rfl, ?_⟩
  have hcond : ¬ (s.id.sender || decide (picH s ≤ row) || decide (picW s ≤ col)) = true := by
    simp [htile, hrow, hcol]
  obtain ⟨hcount, -, -⟩ := pixelLost_counts hpx
  simp only [if_neg hcond, if_true]
  refine ⟨hcount, by simp, fun e he => ?_⟩
  exact List.mem_append_left _ he

theorem matrixRowReload_bad : ∃ u, Completes (.matrixRowReload ⟨row, col⟩ false) s u
    ∧ rd u tilMfault = satAdd (rd s tilMfault) 1 ∧ row ∈ u.img.avgRows ∧ u.img.matrix = s.img.matrix := by
  refine ⟨_, completes_act (by unfold exec execMatrixRowReload; rfl) hheld rfl, ?_⟩
  have hcond : ¬ (s.id.sender || decide (picH s ≤ row) || decide (picW s ≤ col)) = true := by
    simp [htile, hrow, hcol]
  obtain ⟨hcount, -, hmatrix⟩ := pixelLost_counts hpx
  rw [if_neg hcond]
  extract_lets s0 img s1
  rw [if_neg Bool.false_ne_true]
  have hrec := spoke_recordX { s1 with img := { s1.img with avgRows := row :: s1.img.avgRows.filter (· != row) } }
    xMatrixFault [w32 row]
  refine ⟨?_, ?_, ?_⟩
  · rw [hrec.rd (by decide)]; exact hcount
  · rw [hrec.told.img]; exact List.mem_cons_self
  · rw [hrec.told.img]; exact hmatrix

end

end Sys2Proof.Machine

namespace Sys2Proof.Proofs

open Sys2Proof.Machine

/-- Settles O17, a lemma per command. -/
theorem edgesAndMatrix : Obligations.EdgesAndMatrix := by
  unfold Obligations.EdgesAndMatrix
  exact ⟨fun s hheld htile => ⟨frameEdge_completes hheld htile, toClk_reached _ _⟩,
    fun s q hheld hq => correctionPassEnd_completes hheld hq,
    fun p s a c w0 w1 l H hp hn hmax hy hx hl => ⟨matrixWrite_stages hp hn hmax hy hx hl H,
      matrixWrite_refuses_full hp hn hmax hy hx hl H⟩,
    fun s row col hheld htile hrow hcol hpx => ⟨matrixRowReload_good hheld htile hrow hcol hpx,
      matrixRowReload_bad hheld htile hrow hcol hpx⟩⟩

end Sys2Proof.Proofs
end

section
/-! Status readouts, proof ages and sensors (09 R209, R210, R217). -/

namespace Sys2Proof.Machine

open Sys2Proof.Safety

/-- The readouts that are waited for stand. -/
def ReadoutsKept (s t : State) : Prop := t.lamp.readouts = s.lamp.readouts

theorem ReadoutsKept.refl (s : State) : ReadoutsKept s s := rfl

theorem ReadoutsKept.trans {a b c : State} (h : ReadoutsKept a b) (k : ReadoutsKept b c) : ReadoutsKept a c :=
  Eq.trans k h

theorem readoutsKept_of_lamp {s t : State} (h : t.lamp = s.lamp) : ReadoutsKept s t := congrArg Lamp.readouts h

theorem readoutsKept_of_told {s t : State} (h : Told s t) : ReadoutsKept s t := readoutsKept_of_lamp h.lamp

theorem readoutsKept_foldl {α : Type} {f : State → α → State} (h : ∀ s x, ReadoutsKept s (f s x)) (l : List α) (s : State) :
    ReadoutsKept s (l.foldl f s) := by
  induction l generalizing s with
  | nil => exact .refl s
  | cons x r ih => exact (h s x).trans (ih (f s x))

theorem readoutsKept_nameEdge (s : State) (c : EdgeChange) (tick : Word) : ReadoutsKept s (nameEdge s c tick) := by
  unfold nameEdge
  extract_lets e
  refine .trans ?_ (readoutsKept_of_told (spoke_twinSend _ _).told)
  exact readoutsKept_of_lamp rfl

theorem readoutsKept_proposeWith (s : State) (id : ChangeId) (what : EdgeWhat) (ref : Option CmdRef)
    (credit : Option Nat) : ReadoutsKept s (proposeWith s id what ref credit) := by
  unfold proposeWith
  extract_lets c s1 s2 s3
  have h1 : ReadoutsKept s s1 := .refl s
  have h2 : ReadoutsKept s s2 := h1.trans (readoutsKept_of_told (told_linkSend _ _ _))
  have h3 : ∀ t, t.lamp = s2.lamp → ReadoutsKept s t := fun t ht => h2.trans (readoutsKept_of_lamp ht)
  clear_value s2
  split
  · exact .refl s
  · split
    · exact h2
    · split
      · exact (h3 _ rfl).trans (readoutsKept_nameEdge _ _ _)
      · exact h2

theorem readoutsKept_policyCheck (s : State) : ReadoutsKept s (policyCheck s) := by
  unfold policyCheck
  refine readoutsKept_foldl (fun t r => ?_) _ s
  extract_lets f
  split
  · exact .refl t
  · exact readoutsKept_proposeWith _ _ _ _ _

theorem readoutsKept_setLamps (s : State) (l : List LampX) : ReadoutsKept s (setLamps s l) := rfl

theorem readoutsKept_lampFailNote (short : Bool) (s : State) (n : Nat) : ReadoutsKept s (lampFailNote short s n) :=
  readoutsKept_of_told (told_recEventX _ _ _ _)

section
variable {s : State} {g r : Nat} {short : Bool} {bits : List (List Bool)} {x : Readout} (hheld : s.boot.held = false)
  (hx : readoutOf s g = some x)
include hheld hx

/-- A readout waits while its group has a row to write. -/
theorem statusReadoutDone_waits (hdirty : s.lamp.dirty.any (fun e => e.1 == g) = true) :
    Completes (.statusReadoutDone g r short bits) s s := by
  refine completes_act (by unfold exec execStatusReadoutDone; rfl) hheld ?_
  simp only [hx]
  exact if_pos (.inr (.inr hdirty))

variable (hr : x.r = r) (hshort : x.short = short) (hdirty : s.lamp.dirty.any (fun e => e.1 == g) = false)
  {a b : State} {ro : Readout} (ha : a = readOut s g) (hro : ro = (readoutOf a g).getD x)
  (hb : b = policyCheck { a with lamp := { a.lamp with readouts := a.lamp.readouts.erase ro } })
include hr hshort hdirty ha hro hb

/-- A standby takes nothing from a readout (09 R209). -/
theorem statusReadoutDone_standby (hout : b.pair.outputs = false) :
    Completes (.statusReadoutDone g r short bits) s b := by
  refine completes_act (by unfold exec execStatusReadoutDone; rfl) hheld ?_
  have hcond : ¬ (x.r ≠ r ∨ x.short ≠ short ∨ s.lamp.dirty.any (fun e => e.1 == g) = true) := by
    simp [hr, hshort, hdirty]
  simp only [hx, if_neg hcond, ← ha, ← hro, ← hb, hout, Bool.not_false, if_true]

theorem statusReadoutDone_driving (hout : b.pair.outputs = true) :
    ∃ u, Completes (.statusReadoutDone g r short bits) s u ∧ u.lamp.readouts = b.lamp.readouts := by
  refine ⟨_, completes_act (by unfold exec execStatusReadoutDone; rfl) hheld rfl, ?_⟩
  have hcond : ¬ (x.r ≠ r ∨ x.short ≠ short ∨ s.lamp.dirty.any (fun e => e.1 == g) = true) := by
    simp [hr, hshort, hdirty]
  have hdrive : ¬ (!b.pair.outputs) = true := by simp [hout]
  simp -zeta only [hx]
  rw [if_neg hcond]
  extract_lets a' ro' lamp s0 flagged row confirm old new lamp' s1 s2 fresh s3 changed s4
  have hs0 : s0 = b := by rw [hb, ← show ro' = ro by rw [hro, ha], ha]
  clear_value s0
  subst hs0
  rw [if_neg hdrive]
  have h1 : ReadoutsKept s0 s1 := by
    show ReadoutsKept s0 (if _ then _ else _)
    split <;> exact .refl s0
  have h2 : ReadoutsKept s1 s2 := readoutsKept_setLamps s1 _
  have h3 : ReadoutsKept s2 s3 := readoutsKept_foldl (fun t _ => readoutsKept_lampFailNote _ _ _) _ s2
  have h4 : ReadoutsKept s3 s4 := by
    show ReadoutsKept s3 (if _ then _ else _)
    split
    · exact readoutsKept_of_told (spoke_twinSend _ _).told
    · exact .refl s3
  exact ((((h1.trans h2).trans h3).trans h4).trans (readoutsKept_policyCheck s4))

end

theorem proofAgeExpire_completes {s : State} {n : Nat} (hheld : s.boot.held = false) (htile : s.id.sender = false)
    (hn : n < lampCount s) : Completes (.proofAgeExpire n) s
      (match (lampX s n).pass with | some t => policyCheck (toLt (t + maxAge s) s) | none => policyCheck s) := by
  refine completes_act (by unfold exec execProofAgeExpire; rfl) hheld ?_
  exact if_neg (by simp [htile, hn])

end Sys2Proof.Machine

namespace Sys2Proof.Proofs

open Sys2Proof.Machine

/-- Settles O23, a lemma per command. -/
theorem lampProofs : Obligations.LampProofs := by
  unfold Obligations.LampProofs
  refine ⟨fun s g r short bits x hheld hx hr hshort hdirty a ro ha hro b hb =>
      ⟨statusReadoutDone_standby hheld hx hr hshort hdirty ha hro hb,
        fun hout _ => statusReadoutDone_driving hheld hx hr hshort hdirty ha hro hb hout⟩,
    fun s g r short bits x hheld hx hdirty => statusReadoutDone_waits hheld hx hdirty,
    fun s n hheld htile hn => ⟨fun t ht => ?_, fun ht => ?_⟩, fun s raws hheld htile => ?_,
    fun s k v t hheld htile ht => ?_⟩
  · simpa only [ht] using proofAgeExpire_completes hheld htile hn
  · simpa only [ht] using proofAgeExpire_completes hheld htile hn
  · rintro s1 rfl s2 rfl ks rfl
    refine completes_act (by unfold exec execSensorPoll; rfl) hheld ?_
    exact if_neg (by simp [htile])
  · refine completes_act (by unfold exec execSensorValidityExpire; rfl) hheld ?_
    simp only [htile, Bool.false_eq_true, if_false, ht]

end Sys2Proof.Proofs
end

section
/-! HELLO, heartbeats and their loss (12 R273, R274, R289). -/

namespace Sys2Proof.Proofs

open Sys2Proof.Machine

/-- Settles O24: each command by what was heard last and by the mode of the pair. -/
theorem helloAndHeartbeats : Obligations.HelloAndHeartbeats := by
  unfold Obligations.HelloAndHeartbeats
  refine ⟨fun s hheld => ?_, fun s m hheld => ?_, fun s hheld => ?_, fun s m hheld => ?_,
    fun s m t hheld hbeat => ⟨fun hlost => ?_, fun hlost => ?_⟩, fun s d hheld hd => ⟨fun hmode => ?_, fun hmode => ?_⟩⟩
  · refine completes_act (by unfold exec execHelloSend; rfl) hheld ?_
    rfl
  · refine completes_act (by unfold exec execHelloReceived; rfl) hheld ?_
    rfl
  · rintro s1 rfl s2 rfl
    refine completes_act (by unfold exec execHeartbeatSend; rfl) hheld ?_
    rfl
  · rintro s1 rfl s2 rfl s3 rfl s4 rfl
    refine completes_act (by unfold exec execHeartbeatReceived; rfl) hheld ?_
    rfl
  · refine completes_act (by unfold exec execHeartbeatLoss; rfl) hheld ?_
    simp only [hbeat, hlost, if_true]
  · intro s1 hs1 s2 hs2
    refine ⟨fun hmode => ?_, fun hmode hhold => ?_, fun hmode hhold => ?_⟩
    all_goals
      refine completes_act (by unfold exec execHeartbeatLoss; rfl) hheld ?_
      simp only [hbeat, hlost, Bool.false_eq_true, if_false, ← hs1, ← hs2]
    · exact if_pos hmode
    · rw [if_neg (not_not.mpr hmode), if_pos hhold]
    · rw [if_neg (not_not.mpr hmode), if_neg (by simp [hhold])]
  · refine completes_act (by unfold exec execStepHoldEnd; rfl) hheld ?_
    simp only [hd]
    exact if_neg (not_not.mpr hmode)
  · refine completes_act (by unfold exec execStepHoldEnd; rfl) hheld ?_
    simp only [hd]
    exact if_pos hmode

end Sys2Proof.Proofs
end

section
/-! OWN_N, leases, health and lockstep edges (12 R268 to R289). -/

namespace Sys2Proof.Machine

open Sys2Proof.Safety

theorem setStuck_wires (s : State) (v : Bool) :
    (setStuck s v).pair.pull = s.pair.pull ∧ (setStuck s v).pair.token = s.pair.token ∧ (setStuck s v).time = s.time := by
  unfold setStuck
  split
  · exact ⟨rfl, rfl, rfl⟩
  · have hrec := told_recEvent { s with pair := { s.pair with stuck := v } } .both 0x0802 [flagAt v 0, nowW s]
    exact ⟨congrArg (·.pull) hrec.pair, congrArg (·.token) hrec.pair, hrec.time⟩

/-- OWN_N gone high starts the guard where this device does not pull the net (12 R268). -/
def guardBegun (t : State) : State :=
  { t with pair := { t.pair with guard := some (lt t), gapFrom := some (t.pair.gapFrom.getD (lt t - 80)) } }

section
variable {s : State} (hheld : s.boot.held = false)
include hheld

section
variable {s1 : State} (hs1 : s1 = setStuck { s with pair := { s.pair with high := true } } false)
include hs1

theorem ownNHigh_pulled (hpull : s.pair.pull = true) : Completes (.ownNChange true) s s1 := by
  obtain ⟨hpull1, -, -⟩ := setStuck_wires { s with pair := { s.pair with high := true } } false
  rw [← hs1] at hpull1
  refine completes_act (by unfold exec execOwnNChange; rfl) hheld ?_
  rw [if_pos rfl, ← hs1]
  exact if_pos (hpull1.trans hpull)

variable (hpull : s.pair.pull = false)
include hpull

theorem ownNHigh_open : Completes (.ownNChange true) s
    (match s.pair.token with
      | some (a, b) => if a ≤ now s ∧ now s ≤ b ∧ mayClaim (guardBegun s1) = true then startClaim (guardBegun s1) true
        else guardBegun s1
      | none => guardBegun s1) := by
  obtain ⟨hpull1, htoken1, htime1⟩ := setStuck_wires { s with pair := { s.pair with high := true } } false
  rw [← hs1] at hpull1 htoken1 htime1
  have hnow1 : now s1 = now s := congrArg (·.clk) htime1
  have hneg : ¬ s1.pair.pull = true := by rw [hpull1]; simp [hpull]
  refine completes_act (by unfold exec execOwnNChange; rfl) hheld ?_
  rw [if_pos rfl, ← hs1]
  refine (if_neg hneg).trans ?_
  show (match s1.pair.token with
      | some (a, b) => if a ≤ now s1 ∧ now s1 ≤ b ∧ mayClaim (guardBegun s1) = true then startClaim (guardBegun s1) true
        else guardBegun s1
      | none => guardBegun s1) = _
  rw [htoken1, hnow1]

end

theorem ownNLow_completes : Completes (.ownNChange false) s (stuckCheck (driveBegin (ownFaultTick
    (heldGone { s with pair := { s.pair with
      high := false, guard := none, gapFrom := if s.pair.pull then s.pair.gapFrom else none } })))) := by
  refine completes_act (by unfold exec execOwnNChange; rfl) hheld ?_
  exact if_neg Bool.false_ne_true

end

end Sys2Proof.Machine

namespace Sys2Proof.Proofs

open Sys2Proof.Machine Sys2Proof.Safety

/-- Settles O25: each command by the states of the net, of the mode and of what waits. -/
theorem holdingAndLockstep : Obligations.HoldingAndLockstep := by
  unfold Obligations.HoldingAndLockstep
  refine ⟨⟨fun s d hheld hd => ⟨?_, ?_⟩, fun s b hheld => ⟨fun hb => ?_, fun h1 h3 => ?_⟩, fun s hheld s1 hs1 =>
    ⟨ownNHigh_pulled hheld hs1, fun hpull s2 hs2 => ⟨fun htok => ?_, fun a b htok => ⟨fun hin => ?_, fun hin => ?_⟩⟩⟩,
    fun s hheld => ownNLow_completes hheld, fun s g hheld htile hg hhold hclaim => ?_, fun s hheld h => ?_,
    fun s g hheld hg s1 hs1 => ⟨fun h => ?_, fun h => ?_⟩, fun s c low hheld hc => ⟨fun hside => ?_,
      fun hside s1 hs1 s2 hs2 => ?_⟩⟩,
    fun s hheld => ⟨fun s1 hs1 => ⟨?_, ?_⟩, fun b s1 hs1 => ?_⟩,
    fun s hheld => ⟨fun id tick hmode => ⟨fun hnone => ?_, fun c hc => ⟨fun hhold => ?_, fun hhold => ?_⟩⟩,
      fun id tick hmode => ?_, fun id edge hmode hhold s1 hs1 => ⟨fun hlt => ?_, fun hle => ?_⟩,
      fun edge hmode hhold hdone => ?_, fun id edge h => ?_, fun id c hmode hhold hc => ?_⟩,
    fun s hheld => ⟨fun m hhold hres => ?_, fun m h => ?_, fun m htile hown => ?_, fun m h => ?_,
      fun ents htile hhold hnamed xs hxs => ?_, fun ents h => ?_, fun w f hsnd hhold hmode => ?_, fun w f h => ?_,
      fun t f hready hnew hsnd hhold hmode hdel hdeliv hund hpend => ?_⟩⟩
  · rintro s1 hs1 ok rfl
    refine ⟨fun hlt hok => ?_, fun hlt hok => ?_, fun hle => ?_⟩
    all_goals
      refine completes_act (by unfold exec execLeaseRenewal; rfl) hheld ?_
      simp only [hd, ← hs1]
    · rw [if_neg (Nat.not_le.mpr hlt), if_pos hok]
    · rw [if_neg (Nat.not_le.mpr hlt), if_neg (by simp [hok])]
    · exact if_pos hle
  · refine completes_act (by unfold exec execLeaseExpiry; rfl) hheld ?_
    simp only [hd]
  · refine completes_act (by unfold exec execFatalCheckFail; rfl) hheld ?_
    exact if_pos hb
  · refine completes_act (by unfold exec execFatalCheckFail; rfl) hheld ?_
    exact if_neg (not_or.mpr ⟨h1, h3⟩)
  · have hopen := ownNHigh_open hheld hs1 hpull
    rw [htok] at hopen
    rw [hs2]; exact hopen
  · have hbegun : s2 = guardBegun s1 := hs2
    have hopen : Completes (.ownNChange true) s (if _ then _ else _) := htok ▸ ownNHigh_open hheld hs1 hpull
    rw [hbegun] at hin ⊢
    rwa [if_pos hin] at hopen
  · have hbegun : s2 = guardBegun s1 := hs2
    have hopen : Completes (.ownNChange true) s (if _ then _ else _) := htok ▸ ownNHigh_open hheld hs1 hpull
    rw [hbegun] at hin ⊢
    rwa [if_neg hin] at hopen
  · refine completes_act (by unfold exec execPadActivity; rfl) hheld ?_
    exact if_neg (by simp [htile, hg, hhold, hclaim])
  · refine completes_act (by unfold exec execPadActivity; rfl) hheld ?_
    refine if_pos ?_
    obtain h | h | h | h := h <;> simp [h]
  · refine completes_act (by unfold exec execGuardEnd; rfl) hheld ?_
    simp only [hg, ← hs1]
    exact if_pos h
  · refine completes_act (by unfold exec execGuardEnd; rfl) hheld ?_
    simp only [hg, ← hs1]
    exact if_neg (by simp [h])
  · refine completes_act (by unfold exec execClaimArbitration; rfl) hheld ?_
    simp only [hc]
    exact if_neg (by rw [hside]; decide)
  · refine completes_act (by unfold exec execClaimArbitration; rfl) hheld ?_
    simp only [hc]
    rw [if_pos (by rw [hside]; decide), hs2, hs1]
    rfl
  · refine completes_act (by unfold exec execHealthCheckTimeout; rfl) hheld ?_
    rw [← hs1]; rfl
  · refine completes_act (by unfold exec execHealthCheckTimeout; rfl) hheld ?_
    rw [← hs1]; rfl
  · refine completes_act (by unfold exec execPipelineKatTimer; rfl) hheld ?_
    rw [← hs1]
  · refine completes_act (by unfold exec execAcceptReceived; rfl) hheld ?_
    rw [if_neg (not_not.mpr hmode), hnone]
  · refine completes_act (by unfold exec execAcceptReceived; rfl) hheld ?_
    simp only [if_neg (not_not.mpr hmode), hc, if_pos hhold]
  · refine completes_act (by unfold exec execAcceptReceived; rfl) hheld ?_
    simp only [if_neg (not_not.mpr hmode), hc, hhold, Bool.false_eq_true, if_false]
  · refine completes_act (by unfold exec execAcceptReceived; rfl) hheld ?_
    exact if_pos hmode
  · refine completes_act (by unfold exec execEdgeSetReceived; rfl) hheld ?_
    rw [if_neg (by simp [hmode]), if_neg (by simp [hmode, hhold]), hs1]
    exact if_neg (Nat.not_le.mpr hlt)
  · refine completes_act (by unfold exec execEdgeSetReceived; rfl) hheld ?_
    rw [if_neg (by simp [hmode]), if_neg (by simp [hmode, hhold]), hs1]
    exact if_pos hle
  · refine completes_act (by unfold exec execEdgeSetReceived; rfl) hheld ?_
    exact if_pos ⟨rfl, hmode, hhold, hdone⟩
  · refine completes_act (by unfold exec execEdgeSetReceived; rfl) hheld ?_
    rw [if_neg (by rintro ⟨-, h2, h3, -⟩; simp [h2, h3] at h)]
    refine if_pos ?_
    obtain h | h := h
    · exact .inr h
    · exact .inl h.1
  · refine completes_act (by unfold exec execAgreeTimeout; rfl) hheld ?_
    simp only [if_neg (show ¬ (s.pair.mode ≠ 1 ∨ s.pair.holding = false) by simp [hmode, hhold]), hc]
  · refine completes_act (by unfold exec execStateReceived; rfl) hheld ?_
    exact if_neg (by simp [hhold, hres])
  · refine completes_act (by unfold exec execStateReceived; rfl) hheld ?_
    refine if_pos ?_
    obtain h | h := h <;> simp [h]
  · refine completes_act (by unfold exec execCoefReceived; rfl) hheld ?_
    exact if_neg (by simp [htile, hown])
  · refine completes_act (by unfold exec execCoefReceived; rfl) hheld ?_
    refine if_pos ?_
    obtain h | h := h <;> simp [h]
  · refine completes_act (by unfold exec execLampstateReceived; rfl) hheld ?_
    rw [if_neg (by simp [htile, hhold, hnamed]), hxs]
  · refine completes_act (by unfold exec execLampstateReceived; rfl) hheld ?_
    refine if_pos ?_
    obtain h | h | h := h <;> simp [h]
  · refine completes_act (by unfold exec execDelivReceived; rfl) hheld ?_
    exact if_neg (by simp [hsnd, hhold, hmode])
  · refine completes_act (by unfold exec execDelivReceived; rfl) hheld ?_
    refine if_pos ?_
    obtain h | h | h := h <;> simp [h]
  · refine completes_act (by unfold exec execDelivTimeout; rfl) hheld ?_
    simp only [hready, hnew]
    exact if_neg (by simp [hsnd, hhold, hmode, hdel, hdeliv, hund, hpend])

end Sys2Proof.Proofs
end

section
/-! The comparison of twins and its resolution (12 R281 to R288). -/

namespace Sys2Proof.Proofs

open Sys2Proof.Machine Sys2Proof.Safety

/-- Settles O26: each command by the mode, by what of the comparison is here and by the resolution under way. -/
theorem comparisonAndResolution : Obligations.ComparisonAndResolution := by
  unfold Obligations.ComparisonAndResolution
  refine ⟨fun s hheld => ⟨fun m htile hmode => ?_, fun m h => ?_, fun shown s1 hne hs1 s2 hs2 => ⟨fun hres => ?_,
      fun hres => ?_⟩, fun start picks incs ovf hsnd hmode => ?_, fun start sigs hsnd hmode => ?_,
      fun start picks incs ovf sigs h => ⟨?_, ?_⟩⟩,
    fun s r failed hheld hr => ⟨fun hown => ?_, fun hown bits hbits v hv => ?_⟩,
    fun s r code failed hheld hr => ⟨fun hcode htwin => ?_, fun htwin => ?_⟩, fun s failed hheld hmode hres => ?_,
    fun s r hheld hr => ?_, fun s hheld hres => ⟨?_, fun b => ?_⟩⟩
  · refine completes_act (by unfold exec execCmpReceived; rfl) hheld ?_
    refine if_neg ?_
    obtain h | h := hmode <;> simp [htile, h]
  · refine completes_act (by unfold exec execCmpReceived; rfl) hheld ?_
    refine if_pos ?_
    obtain h | ⟨h1, h2⟩ := h
    · simp [h]
    · simp [h1, h2]
  · have hres1 : s2.pair.resolution = none := by rw [hs2, hs1, toClk_pair]; exact hres
    have hnone : ¬ s2.pair.resolution.isSome = true := by rw [hres1]; exact Bool.false_ne_true
    refine completes_act (by unfold exec execCmpPartnerTimeout; rfl) hheld ?_
    subst hs1
    subst hs2
    refine (if_neg (by simpa using hne)).trans ?_
    exact if_neg hnone
  · have hres1 : s2.pair.resolution.isSome = true := by rw [hs2, hs1, toClk_pair]; exact hres
    refine completes_act (by unfold exec execCmpPartnerTimeout; rfl) hheld ?_
    subst hs1
    subst hs2
    refine (if_neg (by simpa using hne)).trans ?_
    exact if_pos hres1
  · refine completes_act (by unfold exec execCanvasMsgReceived; rfl) hheld ?_
    exact if_neg (by simp [hsnd, hmode])
  · refine completes_act (by unfold exec execCanvsigReceived; rfl) hheld ?_
    exact if_neg (by simp [hsnd, hmode])
  · refine completes_act (by unfold exec execCanvasMsgReceived; rfl) hheld ?_
    refine if_pos ?_
    obtain h | h := h <;> simp [h]
  · refine completes_act (by unfold exec execCanvsigReceived; rfl) hheld ?_
    refine if_pos ?_
    obtain h | h := h <;> simp [h]
  · refine completes_act (by unfold exec execResolutionChecksDone; rfl) hheld ?_
    simp only [hr]
    exact if_pos hown
  · refine completes_act (by unfold exec execResolutionChecksDone; rfl) hheld ?_
    simp only [hr, hown, Option.isSome_none, Bool.false_eq_true, if_false, ← hbits, hv]
  · refine completes_act (by unfold exec execVerdictReceived; rfl) hheld ?_
    rw [if_neg (by omega), hr]
    exact if_pos ⟨hcode, by rw [htwin]; rfl⟩
  · refine completes_act (by unfold exec execVerdictReceived; rfl) hheld ?_
    have htwin' : ¬ r.twin.isNone = true := by simpa [Option.isSome_iff_ne_none] using htwin
    simp only [hr]
    split
    · exact if_neg (by simp)
    · exact if_neg fun h => htwin' h.2
  · refine completes_act (by unfold exec execVerdictReceived; rfl) hheld ?_
    rw [if_pos rfl, if_pos ⟨hmode, by rw [hres]; rfl⟩]
  · refine completes_act (by unfold exec execVerdictTimeout; rfl) hheld ?_
    simp only [hr]
  · refine completes_act (by unfold exec execVerdictTimeout; rfl) hheld ?_
    simp only [hres]
  · refine completes_act (by unfold exec execResolutionChecksDone; rfl) hheld ?_
    simp only [hres]

end Sys2Proof.Proofs
end

section
/-! Handovers, PAIR_STATUS and PAIR_CLEAR (12 R275, R288, R292, R293). -/

namespace Sys2Proof.Machine

open Sys2Proof.Safety

theorem pairHandoverRule_of_empty {c : CmdRef} {p : Smb} {a : State} (hp : p.payload = []) :
    pairHandoverRule c p a =
      if !a.pair.holding || !portUp a 8 || !twinChk a then .no a stNotInState
      else if a.pair.handover.isSome || a.pair.resolution.isSome then .no a stBusy
      else { Res.pend a with post := fun t => startHandover t (.command c) } :=
  withLen_of_length_eq (by rw [hp]; rfl)

theorem length_ne_zero_of_ne_nil {p : Smb} (hp : p.payload ≠ []) : p.payload.length ≠ 0 :=
  mt List.length_eq_zero_iff.mp hp

end Sys2Proof.Machine

namespace Sys2Proof.Proofs

open Sys2Proof.Machine Sys2Proof.Safety

/-- Settles O27: the commands by their rules, the messages and instants by the handover under way. -/
theorem handoversAndStatus : Obligations.HandoversAndStatus := by
  unfold Obligations.HandoversAndStatus
  refine ⟨⟨fun p s a c H hp => ⟨fun hbad => ?_, fun hhold hup hchk => ⟨fun hho hres => ?_, fun hbusy => ?_⟩⟩,
      fun s b0 hheld => ⟨fun hhold => ?_, fun hhold ok hok => ⟨fun hno => ?_, fun hyes e he h hh => ?_⟩⟩,
      fun s h hheld hh hholder hacked => ⟨fun hin => ?_, fun hlate => ?_, ?_, ?_⟩,
      fun s h hheld hh hholder hacked => ⟨fun hrel hhold s1 hs1 => ?_, fun hrel s1 hs1 => ⟨fun hlow => ?_,
        fun hhigh s2 hs2 => ?_⟩⟩, fun s on hheld htile s1 hs1 go hgo => ?_⟩,
    fun p s a c H => ⟨fun hp hroom v hv => ?_, fun hp => ?_⟩, fun p s a c H => ⟨fun hp => ?_, fun hp => ?_⟩⟩
  · refine answers_no (h := pairHandoverRule) H rfl ((pairHandoverRule_of_empty hp).trans (if_pos ?_))
    obtain h | h | h := hbad <;> simp [h]
  · refine answers_post (h := pairHandoverRule) (post := fun t => startHandover t (.command c)) (u := a) H (st := stPending) rfl ((pairHandoverRule_of_empty hp).trans ?_)
    rw [if_neg (by simp [hhold, hup, hchk]), if_neg (by simp [hho, hres])]
    rfl
  · refine answers_no (h := pairHandoverRule) H rfl ((pairHandoverRule_of_empty hp).trans ?_)
    rw [if_neg (by simp [hhold, hup, hchk]), if_pos (by simpa using hbusy)]
  · refine completes_act (by unfold exec execHandoverReqReceived; rfl) hheld ?_
    exact if_pos hhold
  · refine completes_act (by unfold exec execHandoverReqReceived; rfl) hheld ?_
    simp only [hhold, Bool.false_eq_true, if_false, ← hok, hno]
  · refine completes_act (by unfold exec execHandoverReqReceived; rfl) hheld ?_
    simp only [hhold, Bool.false_eq_true, if_false, ← hok, hyes, if_true, hh, he]
  · refine completes_act (by unfold exec execHandoverAckReceived; rfl) hheld ?_
    simp only [hh]
    rw [if_neg (by simp [hholder, hacked]), if_pos (by simp [hin])]
  · refine completes_act (by unfold exec execHandoverAckReceived; rfl) hheld ?_
    simp only [hh]
    rw [if_neg (by simp [hholder, hacked]), if_neg (by simp [hlate])]
  · refine completes_act (by unfold exec execHandoverAckReceived; rfl) hheld ?_
    simp only [hh]
    rw [if_neg (by simp [hholder, hacked]), if_neg (by simp)]
  · refine completes_act (by unfold exec execHandoverAckTimeout; rfl) hheld ?_
    simp only [hh]
    exact if_neg (by simp [hholder, hacked])
  · refine completes_act (by unfold exec execHandoverBoundary; rfl) hheld ?_
    simp only [hh]
    rw [if_neg (by simp [hholder, hacked, hrel, hhold]), ← hs1]
  · have hlow1 : s1.pair.high = false := by rw [hs1, toClk_pair]; exact hlow
    refine completes_act (by unfold exec execHandoverClaimBack; rfl) hheld ?_
    simp only [hh]
    rw [if_neg (by simp [hholder, hrel]), ← hs1]
    exact if_pos (by simp [hlow1])
  · have hhigh1 : s1.pair.high = true := by rw [hs1, toClk_pair]; exact hhigh
    refine completes_act (by unfold exec execHandoverClaimBack; rfl) hheld ?_
    simp only [hh]
    rw [if_neg (by simp [hholder, hrel]), ← hs1, if_neg (by simp [hhigh1]), ← hs2]
  · refine completes_act (by unfold exec execRailYieldReceived; rfl) hheld ?_
    rw [if_neg (by simp [htile]), hgo, hs1]
  · refine answers_ok (h := pairStatusRule) H ?_ hroom
    rw [hv]
    exact withLen_of_length_eq (by rw [hp]; rfl)
  · exact answers_no (h := pairStatusRule) H rfl (withLen_of_length_ne (length_ne_zero_of_ne_nil hp))
  · exact answers_ok_nil (h := pairClearRule) H (withLen_of_length_eq (by rw [hp]; rfl))
  · exact answers_no (h := pairClearRule) H rfl (withLen_of_length_ne (length_ne_zero_of_ne_nil hp))

end Sys2Proof.Proofs
end

section
/-! Crossings (06 R135 to R138). -/

namespace Sys2Proof.Machine

open Sys2Proof.Safety

/-- `t` is `s` but for the ports and what was sent. -/
def PortsOnly (s t : State) : Prop := t = { s with link := { s.link with ports := t.link.ports }, out := t.out }

theorem PortsOnly.refl (s : State) : PortsOnly s s := rfl

theorem PortsOnly.trans {a b c : State} (h : PortsOnly a b) (k : PortsOnly b c) : PortsOnly a c := by
  unfold PortsOnly at *
  rw [k, h]

theorem PortsOnly.crossDown {s t : State} (h : PortsOnly s t) : t.link.crossDown = s.link.crossDown := by rw [h]
theorem PortsOnly.guests {s t : State} (h : PortsOnly s t) : t.link.guests = s.link.guests := by rw [h]
theorem PortsOnly.flume {s t : State} (h : PortsOnly s t) : t.flume = s.flume := by rw [h]

theorem portsOnly_setPort (s : State) (x : Port) : PortsOnly s (setPort s x) := rfl

theorem portsOnly_emit (s : State) (o : Out) : PortsOnly s (emit s o) := rfl

theorem portsOnly_sendCtl (s : State) (x : Port) : PortsOnly s (sendCtl s x) := by
  unfold sendCtl
  split
  · exact .refl s
  · extract_lets y
    obtain ⟨o, ho⟩ := emitCtl_out (setPort s { y with
      waiting := _, nextC := nextCseq x.nextC, unacked := _ }) x x.nextC _
    rw [ho]
    exact (portsOnly_setPort s _).trans (portsOnly_emit _ o)

theorem portsOnly_sendQueued (s : State) (x : Port) : PortsOnly s (sendQueued s x) := by
  unfold sendQueued
  split
  · exact .refl s
  · exact (portsOnly_setPort s _).trans (portsOnly_emit _ _)

theorem PortsOnly.ite {s a b : State} {p : Prop} [Decidable p] (ha : PortsOnly s a) (hb : PortsOnly s b) :
    PortsOnly s (if p then a else b) := by
  split
  · exact ha
  · exact hb

theorem portsOnly_boundary (s : State) (p : Nat) : PortsOnly s (boundary s p) := by
  unfold boundary
  split
  · exact .refl s
  · next x _ =>
    have hctl := portsOnly_sendCtl s x
    exact .ite (.refl s) (.ite (.ite hctl (.ite (portsOnly_sendQueued s x) (.ite hctl (.refl s)))) (.ite hctl (.refl s)))

theorem portsOnly_linkItem (s : State) (p : Nat) (i : CtlItem) : PortsOnly s (linkItem s p i) := by
  unfold linkItem
  split
  · exact .refl s
  · exact (portsOnly_setPort s _).trans (portsOnly_boundary _ p)

/-- A control packet sent on a port changes the ports alone. -/
theorem portsOnly_linkSend (s : State) (p : Nat) (b : CtlBody) : PortsOnly s (linkSend s p b) := by
  unfold linkSend linkSendFor
  split <;> exact portsOnly_linkItem _ _ _

theorem portsOnly_markCross (s : State) (p : Nat) (on : Bool) : PortsOnly s (markCross s p on) := by
  unfold markCross
  split
  · exact portsOnly_setPort s _
  · exact .refl s

theorem portsOnly_twFree (s : State) : PortsOnly s (twFree s) := .ite (portsOnly_markCross s 8 false) (.refl s)

theorem mem_crossForgot_changes {s : State} {c : Nat} {rail : Side} {below : BitVec 64} {e : LatChange}
    (he : e ∈ (crossForgot s c rail below).flume.changes) : ¬ (e.chain = c ∧ e.rail = rail ∧ e.below = below) := by
  have hleft := (List.mem_filter.mp he).2
  rintro ⟨hc, hr, hb⟩
  simp [hc, hr, hb] at hleft

/-- UNCROSS ends what the twin carried for a port (06 R138). -/
theorem uncrossReceived_ends {s : State} (hheld : s.boot.held = false) (p : Nat) (below : BitVec 64) :
    ∃ u, Completes (.uncrossReceived ⟨p, below⟩) s u
      ∧ u.link.crossDown = s.link.crossDown.filter (· != p)
      ∧ u.link.guests = s.link.guests.filter (· != p)
      ∧ (s.id.sender = true → ∀ e ∈ u.flume.changes,
        ¬ (e.chain = p ∧ e.rail = otherSide s.id.side ∧ e.below = below)) := by
  refine ⟨_, completes_act (by unfold exec execUncrossReceived; rfl) hheld rfl, ?_⟩
  extract_lets port s0 s1 link s2
  have h0 : s0.link.crossDown = s.link.crossDown ∧ s0.link.guests = s.link.guests
      ∧ (s.id.sender = true → s0 = crossForgot s p (otherSide s.id.side) below) := by
    cases hsnd : s.id.sender
    · have hs0 : s0 = s := if_neg (by simp [hsnd])
      rw [hs0]; exact ⟨rfl, rfl, nofun⟩
    · have hs0 : s0 = crossForgot s p (otherSide s.id.side) below := if_pos hsnd
      rw [hs0]; exact ⟨rfl, rfl, fun _ => rfl⟩
  obtain ⟨hdown, hguests, hforgot⟩ := h0
  have h1 : PortsOnly s0 s1 := .ite (portsOnly_linkSend s0 8 _) (.refl s0)
  have h2 : PortsOnly s2 (twFree (markCross s2 p false)) := (portsOnly_markCross s2 p false).trans (portsOnly_twFree _)
  refine ⟨?_, ?_, fun hsnd e he => ?_⟩
  · rw [h2.crossDown]
    show s1.link.crossDown.filter (· != p) = _
    rw [h1.crossDown, hdown]
  · rw [h2.guests]
    show s1.link.guests.filter (· != p) = _
    rw [h1.guests, hguests]
  · rw [h2.flume] at he
    have he1 : e ∈ s1.flume.changes := he
    rw [h1.flume, hforgot hsnd] at he1
    exact mem_crossForgot_changes he1

end Sys2Proof.Machine

namespace Sys2Proof.Proofs

open Sys2Proof.Machine

/-- Settles O30: a crossing is granted or turned down by the port, the settings and the places, and answered by what the
port asked for. -/
theorem crossings : Obligations.Crossings := by
  unfold Obligations.Crossings
  intro s hheld
  refine ⟨fun p ok hok => ⟨fun hno => ?_, fun s1 hyes hs1 => ?_⟩, fun ok htile hok => ⟨fun hno => ?_, fun s1 hyes hs1 => ?_⟩,
    fun down port p x hp hx => ⟨fun h grant => ?_, fun hup hasked => ⟨?_, fun s1 s2 s3 hs1 hs2 hs3 => ⟨fun hdown => ?_,
      fun hdown => ?_⟩⟩⟩, fun c x below hx hsnd hchain hopen => ⟨fun hfirst hup => ?_, fun hlater => ?_⟩,
    fun c x below hx hopen => ?_, fun p below => uncrossReceived_ends hheld p below⟩
  · refine completes_act (by unfold exec execCrossDownReceived; rfl) hheld ?_
    exact if_neg (by rw [← hok, hno]; exact Bool.false_ne_true)
  · refine completes_act (by unfold exec execCrossDownReceived; rfl) hheld ?_
    rw [if_pos (by rw [← hok, hyes]), hs1]
  · refine completes_act (by unfold exec execCrossUpReceived; rfl) hheld ?_
    rw [if_neg (by simp [htile]), if_neg (by rw [← hok, hno]; exact Bool.false_ne_true)]
  · refine completes_act (by unfold exec execCrossUpReceived; rfl) hheld ?_
    rw [if_neg (by simp [htile]), if_pos (by rw [← hok, hyes]), hs1]
  · refine completes_act (by unfold exec execCrossAnswerReceived; rfl) hheld ?_
    simp only [← hp, hx]
    refine if_pos ?_
    obtain h | h := h <;> simp [h]
  · refine completes_act (by unfold exec execCrossAnswerReceived; rfl) hheld ?_
    simp only [← hp, hx]
    rw [if_neg (by simp [hup, hasked]), if_pos (by rfl)]
  · refine completes_act (by unfold exec execCrossAnswerReceived; rfl) hheld ?_
    simp only [← hp, hx]
    rw [if_neg (by simp [hup, hasked]), if_neg (by simp), if_pos hdown, hs3, hs2, hs1]
  · refine completes_act (by unfold exec execCrossAnswerReceived; rfl) hheld ?_
    simp only [← hp, hx]
    rw [if_neg (by simp [hup, hasked]), if_neg (by simp), if_neg (by simp [hdown]), hs3, hs2, hs1]
  · refine completes_act (by unfold exec execRevertStableElapsed; rfl) hheld ?_
    simp only [hx]
    rw [if_neg (by simpa [hsnd, hup, hopen] using hchain), if_pos (by simp [hfirst])]
  · refine completes_act (by unfold exec execRevertStableElapsed; rfl) hheld ?_
    simp only [hx]
    rw [if_neg (by simpa [hsnd, hopen, hlater] using hchain), if_neg (by simp [hlater])]
  · refine completes_act (by unfold exec execRevertStableElapsed; rfl) hheld ?_
    simp only [hx]
    exact if_pos (by simp [hopen])

end Sys2Proof.Proofs
end

section
/-! Sluice, the source gain, the supply, the clocks and the die temperature (17 R366 to R384). -/

namespace Sys2Proof.Machine

open Sys2Proof.Safety

/-- A meaning of the always-on domain, with the state that it computes named. -/
theorem completes_commit {i : Instr} {s u t : State} (hexec : exec i s = commit s t) (ht : t = u) : Completes i s u := by
  rw [Completes, hexec, ht]
  rfl

theorem ticks_lt (n : Nat) (s : State) : lt (ticks n s) = lt s + 4 * n := rfl

/-! ### Sluice (17 R376) -/

theorem fits_iff (s : State) (chip lamp : Nat) : fits s chip lamp = true ↔
    chipGranted s + chip + standing s ≤ chipBudget s ∧ (lamp = 0 ∨ lampInUse s + lamp ≤ lampBudget s) := by
  simp [fits]

theorem sluiceGrant_completes {s : State} {c : Credit} (hheld : s.boot.held = false) (hc : nextGrant s = some c) :
    Completes .sluiceGrant s (if waitOver s c then s else dramOnce (opGranted (grant s c) c.op)) := by
  refine completes_act (by unfold exec execSluiceGrant; rfl) hheld ?_
  simp only [hc]

theorem sluiceReadRule_of_empty {c : CmdRef} {p : Smb} {a : State} (hp : p.payload = []) : sluiceReadRule c p a =
    .ok a [mkFld 31 16 (chipBudget a) ||| mkFld 15 0 (chipGranted a)
      , if a.id.sender then 0 else mkFld 31 16 (lampBudget a) ||| w32 (min 65535 (lampInUse a))
      , mkFld 31 16 a.slu.waiting.length ||| w32 (min 65535 (rd a pwrRefused).toNat)] :=
  withLen_of_length_eq (by rw [hp]; rfl)

end Sys2Proof.Machine

namespace Sys2Proof.Proofs

open Sys2Proof.Machine Sys2Proof.Safety

/-- Settles O35: the grant by `nextGrant`, the rise of the gain by what `askRecompute` answers. -/
theorem sluiceAndGain : Obligations.SluiceAndGain := by
  unfold Obligations.SluiceAndGain
  refine ⟨⟨fun s c hheld hc => ?_, fun s hheld hnone => ?_, fun s req hheld h => ?_,
      fun s req c l hheld hc hl s1 hs1 => ?_, fun p s a c H hp hroom lamp hlamp => ?_⟩,
    fun s hheld => ⟨fun h => ?_, fun t ht htile hown hslg s1 v need s2 u st hs1 hv hneed hs2 hask =>
      ⟨fun hst => ?_, fun hst => ?_⟩⟩⟩
  · have hgrant := sluiceGrant_completes hheld hc
    obtain ⟨hchip, hlamp⟩ := (fits_iff _ _ _).mp (nextGrant_fits s c hc).2
    refine ⟨fun hover => ?_, fun hover => ?_, hchip, hlamp⟩
    · rwa [if_neg (by simp [hover])] at hgrant
    · rwa [if_pos hover] at hgrant
  · refine completes_act (by unfold exec execSluiceGrant; rfl) hheld ?_
    simp only [hnone]
  · refine completes_act (by unfold exec execSluiceWaitTimeout; rfl) hheld ?_
    obtain h | ⟨c, hc, hl⟩ := h
    · simp only [h]
    · simp only [hc, hl]
  · refine completes_act (by unfold exec execSluiceWaitTimeout; rfl) hheld ?_
    simp only [hc, hl, ← hs1]
  · refine answers_ok (h := sluiceReadRule) H ?_ hroom
    rw [sluiceReadRule_of_empty hp, hlamp]
  · refine completes_act (by unfold exec execSlgRaise; rfl) hheld ?_
    cases ht : s.slu.lowSince with
    | none => rfl
    | some t =>
      refine if_pos ?_
      obtain h | h | h | h := h
      · rw [ht] at h; cases h
      all_goals simp [h]
  · refine completes_act (by unfold exec execSlgRaise; rfl) hheld ?_
    simp only [ht]
    rw [if_neg (by simp [htile, hown, hslg]), ← hs1, ← hv, ← hneed, ← hs2, hask]
    exact (if_neg (show ¬ (u, st).2 ≠ stPending from not_not.mpr hst)).trans (by rw [hs2])
  · refine completes_act (by unfold exec execSlgRaise; rfl) hheld ?_
    simp only [ht]
    rw [if_neg (by simp [htile, hown, hslg]), ← hs1, ← hv, ← hneed, ← hs2, hask]
    exact if_pos hst

end Sys2Proof.Proofs
end

section
/-! The write stop and the rails (17 R370 to R373; 21 R448). -/

namespace Sys2Proof.Machine

open Sys2Proof.Safety

/-- The supply's state stands. -/
def PwrKept (s t : State) : Prop := t.pwr = s.pwr

theorem PwrKept.refl (s : State) : PwrKept s s := rfl

theorem PwrKept.trans {a b c : State} (h : PwrKept a b) (k : PwrKept b c) : PwrKept a c := Eq.trans k h

theorem pwrKept_of_told {s t : State} (h : Told s t) : PwrKept s t := h.pwr

theorem pwrKept_foldl {α : Type} {f : State → α → State} (h : ∀ s x, PwrKept s (f s x)) (l : List α) (s : State) :
    PwrKept s (l.foldl f s) := by
  induction l generalizing s with
  | nil => exact .refl s
  | cons x r ih => exact (h s x).trans (ih (f s x))

theorem PwrKept.ite {s a b : State} {p : Prop} [Decidable p] (ha : PwrKept s a) (hb : PwrKept s b) :
    PwrKept s (if p then a else b) := by
  split
  · exact ha
  · exact hb

theorem pwrKept_bootProgram (s : State) (f : BootRec → BootRec) : PwrKept s (bootProgram s f) := by
  unfold bootProgram bootPut
  exact .ite rfl rfl

theorem pwrKept_startHandover (s : State) (c : HoCause) : PwrKept s (startHandover s c) := by
  unfold startHandover
  extract_lets b0 h
  refine PwrKept.trans ?_ (pwrKept_of_told (spoke_twinSend _ _).told)
  exact rfl

theorem pwrKept_followEffect (s : State) (ref : Option CmdRef) (op : Nat) (arg : Word) :
    PwrKept s (followEffect s ref op arg) := by
  unfold followEffect
  refine .ite rfl (.ite rfl (.ite ?_ (.ite ?_ (.ite ?_ rfl))))
  · extract_lets s1
    have h1 : PwrKept s s1 := by
      refine .ite ?_ (.refl s)
      unfold railYield
      refine .ite (.refl s) (PwrKept.trans ?_ (pwrKept_of_told (told_linkCast _ _ _)))
      exact rfl
    exact h1
  · split <;> rfl
  · have hburn : PwrKept s (burnMarks s) := .ite (.refl s) (pwrKept_bootProgram s _)
    exact hburn

theorem pwrKept_lateReply (s : State) (c : Option CmdRef) (st : Nat) : PwrKept s (lateReply s c st) := by
  unfold lateReply
  split
  · exact .refl s
  · exact pwrKept_of_told (told_reply _ _ _ _ _)

theorem pwrKept_afterHandover (s : State) (ref : Option CmdRef) (op : Nat) (arg : Word) :
    PwrKept s (afterHandover s ref op arg) := (pwrKept_lateReply s ref _).trans (pwrKept_followEffect _ ref op arg)

theorem pwrKept_fallBack (s : State) (why : Nat) : PwrKept s (fallBack s why) := by
  unfold fallBack handoverThen withoutHandover
  refine PwrKept.trans (b := { s with fl := { s.fl with failWhy := why } }) rfl ?_
  exact .ite (pwrKept_afterHandover _ _ _ _)
    (.ite (.ite (pwrKept_afterHandover _ _ _ _) (.ite (pwrKept_afterHandover _ _ _ _) (pwrKept_lateReply _ _ _)))
      (pwrKept_startHandover _ _))

theorem pwrKept_notifyO (s : State) (c : Option CmdRef) (st : Nat) (words : List Word) : PwrKept s (notifyO s c st words) :=
  pwrKept_of_told (told_notifyO s c st words)

theorem pwrKept_flashRefuse (s : State) (x : FlashItem) (st : Nat) : PwrKept s (flashRefuse s x st) := by
  unfold flashRefuse
  extract_lets mine fl s0 flConfirm rcdClear s1 s2
  have h0 : PwrKept s s0 := rfl
  have h1 : PwrKept s0 s1 := by
    show PwrKept s0 (match x.op with | .fwConfirm => _ | .recClear => _ | .paramSave _ => _ | _ => _)
    split <;> rfl
  have h2 : PwrKept s s2 := (h0.trans h1).trans (pwrKept_notifyO _ _ _ _)
  clear_value s2
  split
  · exact .ite (h2.trans (pwrKept_fallBack _ _)) h2
  · exact h2

theorem pwrKept_suspendBoard (s : State) : PwrKept s (suspendBoard s) := by
  unfold suspendBoard
  split
  · exact .ite rfl (.refl s)
  · exact .refl s

theorem pwrKept_boardStop (s : State) : PwrKept s (boardStop s) := by
  unfold boardStop
  extract_lets refuse
  have hrefuse (l : List BoardOp) (t : State) : PwrKept t (refuse l t) :=
    pwrKept_foldl (fun u _ => pwrKept_of_told (told_notify (nvRefuse u) _ _ _)) l t
  clear_value refuse
  split
  · exact .refl s
  · next o r _ =>
    refine .ite (PwrKept.trans ?_ (hrefuse _ _)) (PwrKept.trans ?_ (hrefuse _ _))
    · exact PwrKept.trans (b := { s with lamp := { s.lamp with boardOps := [o] } }) rfl (pwrKept_suspendBoard _)
    · exact rfl

/-- The write stop begins at once (17 R372). -/
theorem enterStop_pwr (s : State) : (enterStop s).pwr.stopped = true ∧ (enterStop s).pwr.pfail = s.pwr.pfail := by
  unfold enterStop
  split
  · next h => exact ⟨h, rfl⟩
  · extract_lets pwr s1 s2 wait
    have h1 : s1.pwr.stopped = true ∧ s1.pwr.pfail = s.pwr.pfail := ⟨rfl, rfl⟩
    have h2 : PwrKept s1 s2 := pwrKept_of_told ((told_bump s1 pwrSags).trans (told_recordX _ _ _))
    have h3 : PwrKept s1 (boardStop (wait.foldl (fun t x => flashRefuse (nvRefuse t) x stNvHeld) s2)) :=
      (h2.trans (pwrKept_foldl (fun t x => pwrKept_flashRefuse (nvRefuse t) x stNvHeld) wait s2)).trans
        (pwrKept_boardStop _)
    clear_value s2 wait s1
    split
    · exact h1
    · rw [h3]
      exact h1

/-- The wait of 100 ms that lifts the write stop (17 R373). -/
theorem nvStopLift_completes {s : State} {t : Nat} (hstop : s.pwr.stopped = true) (hlow : s.pwr.vio18Low = false)
    (hgood : s.pwr.goodSince = some t) : ∃ v, Completes .nvStopLift s (resumeBoard v) ∧ v.pwr.stopped = false ∧
      v.pwr.pfail = false ∧ t + 10 ^ 8 ≤ lt v := by
  refine ⟨{ toLt (t + 10 ^ 8) s with pwr := { s.pwr with pfail := false, stopped := false, goodSince := none } }, ?_,
    rfl, rfl, toLt_reached _ s⟩
  unfold Completes exec execNvStopLift
  rw [if_neg (by simp [hstop, hlow]), hgood]
  rfl

theorem railReadRule_of_empty {c : CmdRef} {p : Smb} {a : State} (hp : p.payload = []) : railReadRule c p a =
    .ok a ((List.range 8).map (fun k => w32 (railMv a k)) ++ [flagAt a.pwr.pfail 0 ||| flagAt a.pwr.stopped 1]) :=
  withLen_of_length_eq (by rw [hp]; rfl)

end Sys2Proof.Machine

namespace Sys2Proof.Proofs

open Sys2Proof.Machine Sys2Proof.Safety

/-- Settles O36: what `enterStop` leaves of the supply, and the branches of a rail's crossing and return. -/
theorem powerSupply : Obligations.PowerSupply := by
  unfold Obligations.PowerSupply
  refine ⟨⟨fun s => ?_, fun s s1 hs1 go hgo => ?_, fun s h => ?_, fun s t hstop hlow hgood =>
      nvStopLift_completes hstop hlow hgood⟩,
    fun s mv rail h8 => ?_, fun s rail mv s1 h8 hs1 => ⟨fun warn bad s2 hwarn hbad hs2 => ?_, fun s2 hs2 => ?_⟩,
    fun s mv => ⟨fun h => ?_, fun h => ?_⟩, fun p s a c H hp hroom => answers_ok H (railReadRule_of_empty hp) hroom⟩
  · refine ⟨_, completes_commit (by unfold exec execPfailAssert; rfl) rfl, ?_⟩
    obtain ⟨hstop, hpf⟩ := enterStop_pwr { s with pwr := { s.pwr with pfail := true } }
    dsimp only
    split
    · rw [pwrKept_startHandover]
      exact ⟨hpf, hstop⟩
    · exact ⟨hpf, hstop⟩
  · subst hs1 hgo
    exact ⟨fun h => completes_commit (by unfold exec execPfailAssert; rfl) (if_pos h),
      fun h => completes_commit (by unfold exec execPfailAssert; rfl) (if_neg (by simp [h]))⟩
  · unfold exec execNvStopLift
    refine if_pos ?_
    obtain h | h := h <;> simp [h]
  · exact ⟨completes_commit (by unfold exec execRailThresholdCross; rfl) (if_pos h8),
      completes_commit (by unfold exec execRailRecovery; rfl) (if_pos h8)⟩
  · have hexec (u : State) (hu : (if s2.boot.held then s2 else
        let s4 := throttle (if warn || bad then recordX s2 xRail [w32 rail, w32 mv, flagAt bad 0] else s2)
        if bad then railFaultAction s4 rail else s4) = u) : Completes (.railThresholdCross rail mv) s u := by
      refine completes_commit (by unfold exec execRailThresholdCross; rfl) ?_
      subst hs2 hbad hwarn hs1
      exact (if_neg (by omega)).trans hu
    refine ⟨fun h => hexec _ (if_pos h), fun h => ⟨fun hw hb => hexec _ ?_, fun hw hb => hexec _ ?_, fun hb => hexec _ ?_⟩⟩
    · simp [h, hw, hb]
    · simp [h, hw, hb, flagAt]
    · simp [h, hb, flagAt]
  · have hexec (u : State) (hu : (if s2.boot.held then s2 else
        if [2, 3].any (fun k => s.pwr.railWarn.contains k || s.pwr.railFault.contains k) &&
            !([2, 3].any (fun k => (throttle s2).pwr.railWarn.contains k || (throttle s2).pwr.railFault.contains k)) then
          (((throttle s2).link.ports.filter (fun x => x.st == 0)).map (·.p)).foldl (fun t p => trainStart t p 0)
            (throttle s2)
        else throttle s2) = u) : Completes (.railRecovery rail mv) s u := by
      refine completes_commit (by unfold exec execRailRecovery; rfl) ?_
      subst hs2 hs1
      exact (if_neg (by omega)).trans hu
    refine ⟨fun h => hexec _ (if_pos h), fun h low hlow => ⟨fun hl => hexec _ ?_, fun h1 h2 => hexec _ ?_⟩⟩
    · rw [if_neg (by simp [h])]
      refine if_neg ?_
      subst hlow
      obtain hl | hl := hl <;> simp only [hl] <;> simp
    · rw [if_neg (by simp [h])]
      refine if_pos ?_
      subst hlow
      simp only [h1, h2]
      rfl
  · refine completes_commit (by unfold exec execViolNominalLatch; rfl) ?_
    obtain ⟨v, hv⟩ := Option.isSome_iff_exists.mp h
    simp only [hv]
  · refine completes_commit (by unfold exec execViolNominalLatch; rfl) ?_
    simp only [h]

end Sys2Proof.Proofs
end

section
/-! The clocks and the die temperature (17 R366, R381 to R384). -/

namespace Sys2Proof.Machine

open Sys2Proof.Safety

theorem freqCheckWindow_completes (s : State) (hheld : s.boot.held = false) (a b c : Nat) :
    Completes (.freqCheckWindow a b c) s
      (if (countOk 400000 a && countOk 100000 b && countOk 100000 c) = true then
        toLt ((lt s / 400000 + 1) * 400000) s
      else fatalFall (bumpF (toLt ((lt s / 400000 + 1) * 400000) s) pwrClk 7 0) 3) :=
  completes_act (by unfold exec execFreqCheckWindow; rfl) hheld rfl

theorem thermalReadRule_of_empty {c : CmdRef} {p : Smb} {a : State} (hp : p.payload = []) : thermalReadRule c p a =
    .ok a ((mkFld 31 24 16 ||| mkFld 23 16 (throttleStep a)) ::
      a.pwr.sensors.zipIdx.map (fun e => mkFld 31 24 e.2 ||| flagAt e.1.xfail 16 ||| w32 (unsigned 16 e.1.t))) :=
  withLen_of_length_eq (by rw [hp]; rfl)

end Sys2Proof.Machine

namespace Sys2Proof.Proofs

open Sys2Proof.Machine Sys2Proof.Safety

/-- Settles O37: the branches of each meaning; a restart waits until 10 s below the limit have passed. -/
theorem clocksAndHeat : Obligations.ClocksAndHeat := by
  unfold Obligations.ClocksAndHeat
  refine ⟨fun s hheld => ⟨fun n s1 hs1 => ?_, fun pll => ⟨fun h => ?_, fun h => ?_⟩, fun a b c => ⟨fun h => ?_, fun h => ?_⟩⟩,
    fun s raws h => ?_, fun s raws s2 hheld hup hs2 => ⟨fun h => ?_, fun h => ?_⟩, fun s k t s1 hheld hk ht hs1 => ?_,
    fun s hheld h => ?_, fun s t hdown hcool => ?_, fun s h => ?_,
    fun p s a c l H hp hl hroom => answers_ok H (by rw [hl]; exact thermalReadRule_of_empty hp) hroom⟩
  · subst hs1
    exact completes_act (by unfold exec execXinLoss; rfl) hheld rfl
  · exact completes_act (by unfold exec execPllLossOfLock; rfl) hheld (if_pos h)
  · exact completes_act (by unfold exec execPllLossOfLock; rfl) hheld (if_neg (by omega))
  · have hdone := freqCheckWindow_completes s hheld a b c
    rwa [if_pos h] at hdone
  · have hdone := freqCheckWindow_completes s hheld a b c
    rwa [if_neg (by simp [h])] at hdone
  · unfold Completes exec execThermalConversion
    exact if_pos h
  · subst hs2
    refine completes_act (by show execThermalConversion raws s = _; unfold execThermalConversion; rw [if_neg (by simp [hup])]) hheld ?_
    exact if_neg (by omega)
  · subst hs2
    refine completes_act (by show execThermalConversion raws s = _; unfold execThermalConversion; rw [if_neg (by simp [hup])]) hheld ?_
    exact if_pos h
  · refine completes_act (by unfold exec execThrottleStepLeave; rfl) hheld ?_
    simp only [hk, ht, hs1]
  · refine completes_act (by unfold exec execThrottleStepLeave; rfl) hheld ?_
    obtain h | ⟨k, hk, hb⟩ := h
    · simp only [h]
    · simp only [hk, hb]
  · refine ⟨emit { toLt (t + 10 ^ 10) s with
      pwr := { s.pwr with shutdown := false, coolSince := none, tstep := 0 } } (.pin pinThermN true), ?_, rfl, rfl,
      toLt_reached _ s, rfl⟩
    unfold Completes exec execThermalRestart
    rw [if_neg (by simp [hdown]), hcool]
    rfl
  · unfold exec execThermalRestart
    obtain h | h := h
    · exact if_pos (by simp [h])
    · rw [h]
      exact ite_self _

end Sys2Proof.Proofs
end

section
/-! The recorder's commands and timers (20 R427 to R430). -/

namespace Sys2Proof.Machine

open Sys2Proof.Safety

theorem recReadRule_of_payload {c : CmdRef} {p : Smb} {a : State} {w i n : Word} (hp : p.payload = [w, i, n]) :
    recReadRule c p a = (
      let size := if bit w 0 then 262144 else 1024
      if size ≤ i.toNat ∨ fld n 5 0 = 0 then .no a stBadParam
      else if replyRoom a p.via < 4 * (1 + 32 * fld n 5 0) then .no a stBadLength
      else .ok a (w32 (min (fld n 5 0) (size - i.toNat)) ::
        (List.range (min (fld n 5 0) (size - i.toNat))).flatMap (fun j =>
          if bit w 0 then slotWords a.rcd.archive a.rcd.arcHead size (i.toNat + j) 0xFFFFFFFF
          else slotWords a.rcd.ring a.rcd.head size (i.toNat + j) 0))) := by
  unfold recReadRule
  rw [withLen_of_length_eq (by rw [hp]; rfl)]
  simp only [pw, hp]
  rfl

theorem recClearRule_of_payload {c : CmdRef} {p : Smb} {a : State} {w x : Word} (hp : p.payload = [w, x]) :
    recClearRule c p a =
      if x ≠ rd a evrPcc then .no a stBadParam
      else if a.rcd.clearing.isSome then .no a stBusy
      else if nvStop a && bit w 0 && !bit w 1 && a.rcd.unarch == 0 then
        ⟨stPending, [], a, false, fun t => notify (clearDone t ⟨c, true, false, rd a evrRseq⟩) c stOk []⟩
      else if (flashAsk a .recClear (some c) 2 false).2 = stPending then
        .pend { (flashAsk a .recClear (some c) 2 false).1 with rcd :=
          { (flashAsk a .recClear (some c) 2 false).1.rcd with
            clearing := some ⟨c, bit w 0, bit w 1, rd (flashAsk a .recClear (some c) 2 false).1 evrRseq⟩ } }
      else .no (flashAsk a .recClear (some c) 2 false).1 (flashAsk a .recClear (some c) 2 false).2 := by
  unfold recClearRule
  rw [withLen_of_length_eq (by rw [hp]; rfl)]
  simp only [pw, hp]
  rfl

theorem archiveCopy_completes {s u : State} (hheld : s.boot.held = false) (hnv : nvStop s = false)
    (hclear : s.rcd.clearing = none) (hun : s.rcd.unarch ≠ 0) (hbusy : flashBusy s (· == .archive) = false)
    (hu : (match flashHead (flashAsk s .archive none 2 false).1 with
      | some x => if x.op = .archive then archiveAll (flashDrop (flashAsk s .archive none 2 false).1 x)
        else (flashAsk s .archive none 2 false).1
      | none => (flashAsk s .archive none 2 false).1) = u) : Completes .archiveCopy s u := by
  refine completes_act (by unfold exec execArchiveCopy; rfl) hheld ?_
  exact (if_neg (by simp [hnv, hclear, hun, hbusy])).trans hu

end Sys2Proof.Machine

namespace Sys2Proof.Proofs

open Sys2Proof.Machine Sys2Proof.Safety

/-- Settles O41: the two rules on their payloads, and the timers' branches. -/
theorem recorderCommands : Obligations.RecorderCommands := by
  unfold Obligations.RecorderCommands
  refine ⟨fun p s a c w i n size H hp hsize => ⟨fun h => ?_, fun hi hn => ⟨fun h => ?_, fun h l hl hroom => ?_⟩⟩,
    fun p s a c w x H hp => ⟨fun h => ?_, fun h hc => ?_, fun h hc now_ hnow => ⟨fun hn k hk => ?_,
      fun hn t st hask => ⟨fun hst => ?_, fun hst href => ?_⟩⟩⟩,
    fun s hheld => ⟨fun t ht => ?_, fun h => ?_, fun hnv hclear hun hbusy s1 hs1 => ⟨fun h => ?_, fun x hx =>
      ⟨fun h => ?_, fun h => ?_⟩⟩⟩⟩
  · subst hsize
    exact answers_no (h := recReadRule) H rfl ((recReadRule_of_payload hp).trans (if_pos h))
  · subst hsize
    exact answers_no (h := recReadRule) H rfl ((recReadRule_of_payload hp).trans
      ((if_neg (by omega)).trans (if_pos h)))
  · subst hsize
    refine answers_ok (h := recReadRule) H ((recReadRule_of_payload hp).trans ?_) hroom
    refine (if_neg (by omega)).trans ((if_neg (by omega)).trans ?_)
    rw [hl]
    cases bit w 0 <;> rfl
  · exact answers_no (h := recClearRule) H rfl ((recClearRule_of_payload hp).trans (if_pos h))
  · exact answers_no (h := recClearRule) H rfl ((recClearRule_of_payload hp).trans
      ((if_neg (not_not.mpr h)).trans (if_pos hc)))
  · subst hnow hk
    refine answers_post (h := recClearRule) (u := a) (st := stPending)
      (post := fun t => notify (clearDone t ⟨c, true, false, rd a evrRseq⟩) c stOk [])
      H rfl ((recClearRule_of_payload hp).trans ?_)
    exact (if_neg (not_not.mpr h)).trans ((if_neg (by simp [hc])).trans (if_pos hn))
  · subst hnow
    refine answers_pend (h := recClearRule) H ((recClearRule_of_payload hp).trans ?_)
    refine (if_neg (not_not.mpr h)).trans ((if_neg (by simp [hc])).trans ((if_neg (by simp [hn])).trans ?_))
    rw [hask]
    exact if_pos hst
  · subst hnow
    refine answers_no (h := recClearRule) H href ((recClearRule_of_payload hp).trans ?_)
    refine (if_neg (not_not.mpr h)).trans ((if_neg (by simp [hc])).trans ((if_neg (by simp [hn])).trans ?_))
    rw [hask]
    exact if_neg hst
  · subst ht
    exact completes_act (by unfold exec execCheckpointTimer; rfl) hheld rfl
  · refine completes_act (by unfold exec execArchiveCopy; rfl) hheld ?_
    refine if_pos ?_
    obtain h | h | h | h := h <;> simp [h]
  · refine archiveCopy_completes hheld hnv hclear hun hbusy ?_
    rw [← hs1, h]
  · refine archiveCopy_completes hheld hnv hclear hun hbusy ?_
    rw [← hs1, hx]
    exact if_pos h
  · refine archiveCopy_completes hheld hnv hclear hun hbusy ?_
    rw [← hs1, hx]
    exact if_neg h

end Sys2Proof.Proofs
end

section
/-! Calibration (13 R311; 18 R396 to R401). -/

namespace Sys2Proof.Machine

open Sys2Proof.Safety

theorem calRunRule_of_payload {m : CalIn} {c : CmdRef} {p : Smb} {a : State} {w : Word} (hp : p.payload = [w]) :
    calRunRule m c p a =
      if fld w 3 0 = 0 ∨ 4 < fld w 3 0 then .no a stBadParam
      else if fld w 3 0 = 2 ∧ (a.id.sender = true ∨ a.lamp.lit = true) then .no a stNotInState
      else if calBusy a (fld w 3 0) then .no a stBusy
      else match sluiceAsk { a with cal := { a.cal with running := a.cal.running ++ [(fld w 3 0, c, m)] } }
          (.calRun (fld w 3 0) c) 3 5 0 with
        | (t, .granted _) => { Res.pend t with post := fun u => calGranted u (fld w 3 0) }
        | (t, .waiting _) => .pend t
        | (_, .refused) => .no (bump a pwrRefused) stNoCredit := by
  unfold calRunRule
  rw [withLen_of_length_eq (by rw [hp]; rfl)]
  simp only [pw, hp]
  rfl

/-- CAL_RUN on an item that stands idle and may run: what Sluice answers decides (13 R311). -/
theorem calRunRule_of_idle {m : CalIn} {c : CmdRef} {p : Smb} {a a1 : State} {w : Word} (hp : p.payload = [w])
    (h1 : 1 ≤ fld w 3 0) (h4 : fld w 3 0 ≤ 4) (hdark : fld w 3 0 = 2 → a.id.sender = false ∧ a.lamp.lit = false)
    (hidle : calBusy a (fld w 3 0) = false)
    (ha1 : a1 = { a with cal := { a.cal with running := a.cal.running ++ [(fld w 3 0, c, m)] } }) :
    calRunRule m c p a = match sluiceAsk a1 (.calRun (fld w 3 0) c) 3 5 0 with
      | (t, .granted _) => { Res.pend t with post := fun u => calGranted u (fld w 3 0) }
      | (t, .waiting _) => .pend t
      | (_, .refused) => .no (bump a pwrRefused) stNoCredit := by
  subst ha1
  rw [calRunRule_of_payload hp, if_neg (by omega), if_neg, if_neg (by simp [hidle])]
  rintro ⟨h, hs | hl⟩
  · simp [(hdark h).1] at hs
  · simp [(hdark h).2] at hl

theorem calReadRule_of_payload {c : CmdRef} {p : Smb} {a : State} {w : Word} (hp : p.payload = [w]) :
    calReadRule c p a =
      if fld w 3 0 = 0 ∨ 4 < fld w 3 0 then .no a stBadParam else .ok a [calQWord a (fld w 3 0)] := by
  unfold calReadRule
  rw [withLen_of_length_eq (by rw [hp]; rfl)]
  simp only [pw, hp]
  rfl

theorem matrixSaveRule_of_empty {c : CmdRef} {p : Smb} {a : State} (hp : p.payload = []) :
    matrixSaveRule c p a = match flashAsk a .matrixSave (some c) 2 false with
      | (t, st) => if st = stPending then .pend t else .no t st :=
  withLen_of_length_eq (by rw [hp]; rfl)

theorem ttabLoadRule_of_payload {c : CmdRef} {p : Smb} {a : State} {w : Word} (hp : p.payload = [w]) :
    ttabLoadRule c p a =
      if (boardsIn (fld w 15 0)).isEmpty || (boardsIn (fld w 15 0)).any (fun b => !(boardsOn a).contains b) then
        .no a stBadParam
      else if (boardsIn (fld w 15 0)).any (boardBusy a) then .no a stBusy
      else match sluiceAsk a (.ttab (fld w 15 0) (bit w 16) (some c)) 3 5 0 with
        | (t, .granted _) => { Res.pend t with post := fun u => ttabGranted u (fld w 15 0) (some c) }
        | (t, .waiting _) => .pend t
        | (t, .refused) => .no t stNoCredit := by
  unfold ttabLoadRule
  rw [withLen_of_length_eq (by rw [hp]; rfl)]
  simp only [pw, hp]
  rfl

/-- TTAB_LOAD of enabled boards without a load under way: what Sluice answers decides (18 R401). -/
theorem ttabLoadRule_of_idle {c : CmdRef} {p : Smb} {a : State} {w : Word} (hp : p.payload = [w])
    (hne : boardsIn (fld w 15 0) ≠ []) (hon : (boardsIn (fld w 15 0)).any (fun b => !(boardsOn a).contains b) = false)
    (hidle : (boardsIn (fld w 15 0)).any (boardBusy a) = false) :
    ttabLoadRule c p a = match sluiceAsk a (.ttab (fld w 15 0) (bit w 16) (some c)) 3 5 0 with
      | (t, .granted _) => { Res.pend t with post := fun u => ttabGranted u (fld w 15 0) (some c) }
      | (t, .waiting _) => .pend t
      | (t, .refused) => .no t stNoCredit := by
  rw [ttabLoadRule_of_payload hp, if_neg, if_neg (by simp only [hidle]; decide)]
  simp only [hon, List.isEmpty_eq_false_iff.mpr hne]
  decide

end Sys2Proof.Machine

namespace Sys2Proof.Proofs

open Sys2Proof.Machine Sys2Proof.Safety

/-- Settles O38: each rule on its payload, with what Sluice or the flash queue answers. -/
theorem calibrationCommands : Obligations.CalibrationCommands := by
  unfold Obligations.CalibrationCommands
  refine ⟨fun p s a c m w H hp => ⟨fun h => ?_, fun h2 h => ?_, fun h1 h4 hdark => ⟨fun hbusy => ?_,
      fun hidle a1 ha1 => ⟨fun t k hask => ?_, fun t k hask => ?_, fun t hask => ?_⟩⟩⟩,
    fun p s a c w H hp hroom => ⟨fun h1 h4 => ?_, fun h => ?_⟩,
    fun p s a c t st H hp hask => ⟨fun h => ?_, fun h href => ?_⟩,
    fun p s a c w H hp => ⟨fun h => ?_, fun hne hon => ⟨fun hbusy => ?_, fun hidle => ⟨fun t k hask => ?_,
      fun t k hask => ?_, fun t hask => ?_⟩⟩⟩,
    fun s board ok table tableOk matrix hheld => ⟨fun h => ?_, fun h => ?_, fun c h => ?_⟩⟩
  · exact answers_no (h := calRunRule m) H rfl ((calRunRule_of_payload hp).trans (if_pos h))
  · exact answers_no (h := calRunRule m) H rfl ((calRunRule_of_payload hp).trans
      ((if_neg (by omega)).trans (if_pos ⟨h2, h⟩)))
  · refine answers_no (h := calRunRule m) H rfl ?_
    rw [calRunRule_of_payload hp, if_neg (by omega), if_neg, if_pos hbusy]
    rintro ⟨h, hs | hl⟩
    · simp [(hdark h).1] at hs
    · simp [(hdark h).2] at hl
  · exact answers_post (h := calRunRule m) (u := t) (st := stPending) (post := fun u => calGranted u (fld w 3 0)) H rfl
      (by rw [calRunRule_of_idle hp h1 h4 hdark hidle ha1, hask]; rfl)
  · exact answers_pend (h := calRunRule m) H (by rw [calRunRule_of_idle hp h1 h4 hdark hidle ha1, hask])
  · exact answers_no (h := calRunRule m) H rfl (by rw [calRunRule_of_idle hp h1 h4 hdark hidle ha1, hask])
  · exact answers_ok (h := calReadRule) H ((calReadRule_of_payload hp).trans (if_neg (by omega))) hroom
  · exact answers_no (h := calReadRule) H rfl ((calReadRule_of_payload hp).trans (if_pos h))
  · refine answers_pend (h := matrixSaveRule) H ((matrixSaveRule_of_empty hp).trans ?_)
    rw [hask]
    exact if_pos h
  · refine answers_no (h := matrixSaveRule) H href ((matrixSaveRule_of_empty hp).trans ?_)
    rw [hask]
    exact if_neg h
  · refine answers_no (h := ttabLoadRule) H rfl ((ttabLoadRule_of_payload hp).trans (if_pos ?_))
    obtain h | h := h
    · rw [h]
      rfl
    · rw [h, Bool.or_true]
  · refine answers_no (h := ttabLoadRule) H rfl ((ttabLoadRule_of_payload hp).trans ((if_neg ?_).trans (if_pos hbusy)))
    simp only [hon, List.isEmpty_eq_false_iff.mpr hne]
    decide
  · exact answers_post (h := ttabLoadRule) (u := t) (st := stPending)
      (post := fun u => ttabGranted u (fld w 15 0) (some c)) H rfl
      (by rw [ttabLoadRule_of_idle hp hne hon hidle, hask]; rfl)
  · exact answers_pend (h := ttabLoadRule) H (by rw [ttabLoadRule_of_idle hp hne hon hidle, hask])
  · exact answers_no (h := ttabLoadRule) H rfl (by rw [ttabLoadRule_of_idle hp hne hon hidle, hask])
  · refine completes_act (by unfold exec execBoardLoadDone; rfl) hheld ?_
    simp only [h]
  · refine completes_act (by unfold exec execBoardLoadDone; rfl) hheld ?_
    simp only [h]
  · refine completes_act (by unfold exec execBoardLoadDone; rfl) hheld ?_
    simp only [h]

end Sys2Proof.Proofs
end

section
/-! Commands that a holder carries out after a handover (12 R275), and asks for the flash (19 R404). -/

namespace Sys2Proof.Machine

open Sys2Proof.Safety

/-- A command whose reply waits. -/
theorem answers_later {op : Nat} {h : Handler} {p : Smb} {s a u : State} {c : CmdRef}
    (H : Accepted op p s a c) (hrule : h c p a = .later u) :
    smibenRow op h p s = .next (commitState s (enqueue u c)) := by
  rw [accepted_runs H, finish_later H (by rw [hrule]; rfl) (by rw [hrule]; rfl) (by rw [hrule]; rfl), hrule]
  rfl

theorem followRes_go {c : CmdRef} {s : State} {op : Nat} {arg : Word} {force : Bool}
    (h : s.pair.holding = false ∨ (force = true ∧ (s.pair.handover.isSome = true ∨ standbyReady s = false))) :
    followRes c s op arg force = ⟨followStatus op, [], s, false, fun t => followEffect t (some c) op arg⟩ := by
  unfold followRes
  obtain h | ⟨hforce, h⟩ := h
  · exact if_pos (by simp [h])
  · extract_lets go
    refine ite_eq_left_iff.mpr fun _ => (if_pos ?_).trans (if_pos hforce)
    obtain h | h := h <;> simp [h]

theorem followRes_no {c : CmdRef} {s : State} {op : Nat} {arg : Word} {force : Bool} (hhold : s.pair.holding = true)
    (h : s.pair.handover.isSome = true ∨ standbyReady s = false) (hforce : force = false) :
    followRes c s op arg force = .no s stNotInState := by
  refine (if_neg (by simp [hhold])).trans ((if_pos ?_).trans (if_neg (by simp [hforce])))
  obtain h | h := h <;> simp [h]

theorem followRes_later {c : CmdRef} {s : State} {op : Nat} {arg : Word} {force : Bool} (hhold : s.pair.holding = true)
    (hnone : s.pair.handover = none) (hready : standbyReady s = true) :
    followRes c s op arg force = .later (startHandover s (.follow (some c) op (arg ||| flagAt force 31))) :=
  (if_neg (by simp [hhold])).trans (if_neg (by simp [hnone, hready]))

theorem flashAsk_of_stop {s : State} (h : nvStop s = true) (op : FlashOp) (ref : Option CmdRef) (cls : Nat)
    (free : Bool) : flashAsk s op ref cls free = (nvRefuse s, stNvHeld) := if_pos h

/-- An ask that needs no credits of its own. -/
theorem flashAsk_free {s : State} (h : nvStop s = false) (op : FlashOp) (ref : Option CmdRef) (cls : Nat) :
    flashAsk s op ref cls true = (flashPut s op ref true, stPending) := if_neg (by simp [h])

end Sys2Proof.Machine
end

section
/-! The firmware update (19 R404 to R422). -/

namespace Sys2Proof.Machine

open Sys2Proof.Safety

theorem fwBeginRule_of_payload {c : CmdRef} {p : Smb} {a : State} {w0 w1 w2 : Word} (hp : p.payload = [w0, w1, w2]) :
    fwBeginRule c p a =
      if w0.toNat = 0 ∨ 16777216 < w0.toNat ∨ a.fl.trial then .no a stBadParam
      else if nvStop a then .no (nvRefuse a) stNvHeld
      else
        let next := if bit w2 0 && (fwSoon a).writing && (fwSoon a).len == w0.toNat && (fwSoon a).ver == w1 then
          (fwSoon a).next else 0
        if dlOpen a && (fwSoon a).dl then .pend (openDownload a c w0.toNat w1 next)
        else match sluiceAsk a (.download c w0.toNat w1 next) 2 5 0 with
          | (t, .granted _) => .pend (openDownload t c w0.toNat w1 next)
          | (t, .waiting _) => .pend (flashPut t (.fwBegin w0.toNat w1 next) (some c) false)
          | (t, .refused) => .no t stNoCredit := by
  unfold fwBeginRule
  rw [withLen_of_length_eq (by rw [hp]; rfl)]
  simp only [pw, hp]
  rfl

/-- FW_BEGIN of a size and in a state that allow it (19 R408). -/
theorem fwBeginRule_of_allowed {c : CmdRef} {p : Smb} {a : State} {w0 w1 w2 : Word} {next : Nat}
    (hp : p.payload = [w0, w1, w2]) (h1 : 1 ≤ w0.toNat) (hmax : w0.toNat ≤ 16777216) (htrial : a.fl.trial = false)
    (hnv : nvStop a = false)
    (hnext : next = (if bit w2 0 && (fwSoon a).writing && (fwSoon a).len == w0.toNat && (fwSoon a).ver == w1
      then (fwSoon a).next else 0)) :
    fwBeginRule c p a =
      if dlOpen a && (fwSoon a).dl then .pend (openDownload a c w0.toNat w1 next)
      else match sluiceAsk a (.download c w0.toNat w1 next) 2 5 0 with
        | (t, .granted _) => .pend (openDownload t c w0.toNat w1 next)
        | (t, .waiting _) => .pend (flashPut t (.fwBegin w0.toNat w1 next) (some c) false)
        | (t, .refused) => .no t stNoCredit := by
  subst hnext
  refine (fwBeginRule_of_payload hp).trans ((if_neg ?_).trans (if_neg (by simp [hnv])))
  simp only [htrial, Bool.false_eq_true, or_false]
  omega

theorem fwBlockRule_of_payload {c : CmdRef} {p : Smb} {a : State} {w : Word} {l : List Word} (hp : p.payload = w :: l) :
    fwBlockRule c p a =
      if (fwSoon a).blockWhy w.toNat l.length ≠ stOk then .no a ((fwSoon a).blockWhy w.toNat l.length)
      else if (flashAsk a (.fwBlock w.toNat l) (some c) 2 true).2 = stPending then
        let t := (flashAsk a (.fwBlock w.toNat l) (some c) 2 true).1
        .pend { t with fl := { t.fl with dl := t.fl.dl.map (fun _ => lt t) } }
      else .no (flashAsk a (.fwBlock w.toNat l) (some c) 2 true).1 (flashAsk a (.fwBlock w.toNat l) (some c) 2 true).2 := by
  unfold fwBlockRule
  simp only [pw, hp]
  exact if_neg (List.cons_ne_nil w l)

theorem blockWhy_of_closed {v : FwView} {off n : Nat} (h : v.dl = false ∨ v.writing = false) :
    v.blockWhy off n = stNotInState := by
  refine if_pos ?_
  obtain h | h := h <;> simp [h]

theorem blockWhy_of_wrong {v : FwView} {off n : Nat} (hdl : v.dl = true) (hw : v.writing = true)
    (h : off % 4096 ≠ 0 ∨ v.len ≤ off ∨ n ≠ cdiv (min 4096 (v.len - off)) 4) : v.blockWhy off n = stBadParam :=
  (if_neg (by simp [hdl, hw])).trans (if_pos h)

theorem blockWhy_of_whole {v : FwView} {off n : Nat} (hdl : v.dl = true) (hw : v.writing = true)
    (hplace : off % 4096 = 0) (hin : off < v.len) (hn : n = cdiv (min 4096 (v.len - off)) 4) :
    v.blockWhy off n = stOk := (if_neg (by simp [hdl, hw])).trans (if_neg (by omega))

theorem fwVerifyRule_of_length {c : CmdRef} {p : Smb} {a : State} (hp : p.payload.length = 1964) :
    fwVerifyRule c p a =
      if !((fwSoon a).writing && (fwSoon a).full) then .no a stNotInState
      else if nvStop a then .no (nvRefuse a) stNvHeld
      else match sluiceAsk a (.verify c) 2 8 0 with
        | (t, .granted _) => .pend (fwTurn (flashPut t (.fwVerified p.payload) (some c) true))
        | (t, .waiting _) => .pend (flashPut t (.fwVerified p.payload) (some c) false)
        | (t, .refused) => .no t stNoCredit := withLen_of_length_eq hp

theorem fwActivateRule_of_payload {c : CmdRef} {p : Smb} {a : State} {w : Word} (hp : p.payload = [w]) :
    fwActivateRule c p a =
      let h := headerOf (slotOf a (otherSlot a))
      if slotState a (otherSlot a) ≠ 3 ∨ a.fl.trial ∨ nvStop a then .no a stNotInState
      else if (farLevel h.smbHigh a.fl.fw.smbHigh || farLevel h.flHigh a.fl.fw.flHigh) && !bit w 0 then
        .no a stNotInState
      else followRes c a 0x0B05 (w32 (otherSlot a)) (bit w 0) := by
  unfold fwActivateRule
  rw [withLen_of_length_eq (by rw [hp]; rfl)]
  simp only [pw, hp]
  rfl

/-- FW_ACTIVATE of a verified slot that may start (19 R411). -/
theorem fwActivateRule_of_free {c : CmdRef} {p : Smb} {a : State} {w : Word} (hp : p.payload = [w])
    (hslot : slotState a (otherSlot a) = 3) (htrial : a.fl.trial = false) (hnv : nvStop a = false)
    (hlevel : (farLevel (headerOf (slotOf a (otherSlot a))).smbHigh a.fl.fw.smbHigh ||
      farLevel (headerOf (slotOf a (otherSlot a))).flHigh a.fl.fw.flHigh) = false ∨ bit w 0 = true) :
    fwActivateRule c p a = followRes c a 0x0B05 (w32 (otherSlot a)) (bit w 0) := by
  refine (fwActivateRule_of_payload hp).trans ((if_neg (by simp [hslot, htrial, hnv])).trans (if_neg ?_))
  obtain h | h := hlevel
  · rw [h]
    exact Bool.false_ne_true
  · simp [h]

theorem fwConfirmRule_of_empty {c : CmdRef} {p : Smb} {a : State} (hp : p.payload = []) : fwConfirmRule c p a =
    if !a.fl.trial || a.fl.migFail || decide (trialEnd a ≤ opTime a) then .no a stNotInState
    else if (flashAsk a .fwConfirm (some c) 2 true).2 = stPending then
      .pend { (flashAsk a .fwConfirm (some c) 2 true).1 with
        fl := { (flashAsk a .fwConfirm (some c) 2 true).1.fl with confirming := true } }
    else .no (flashAsk a .fwConfirm (some c) 2 true).1 (flashAsk a .fwConfirm (some c) 2 true).2 :=
  withLen_of_length_eq (by rw [hp]; rfl)

theorem fwAbortRule_of_empty {c : CmdRef} {p : Smb} {a : State} (hp : p.payload = []) : fwAbortRule c p a =
    if a.fl.trial then ⟨stOk, [], a, false, fun t => fallBack t 4⟩
    else
      let busy := flashBusy a isFwOp && !nvStop a
      let s1 := if busy then a else closeDownload a
      if busy || (fwSoon a).writing then .ok (flashAsk s1 .fwAbort none 2 busy).1 [] else .ok s1 [] :=
  withLen_of_length_eq (by rw [hp]; rfl)

theorem followEffect_activate (s : State) (ref : Option CmdRef) (arg : Word) : followEffect s ref 0x0B05 arg =
    resetIn { s with fl := { s.fl with bootReq := some arg.toNat } } (10 ^ 7) causeActivate := rfl

theorem followEffect_recovery (s : State) (ref : Option CmdRef) (arg : Word) : followEffect s ref 0x0F01 arg =
    resetIn { (if s.id.sender then railYield s true else s) with
      fl := { (if s.id.sender then railYield s true else s).fl with recReq := true } } (10 ^ 6) causeRecovery := rfl

end Sys2Proof.Machine

namespace Sys2Proof.Proofs

open Sys2Proof.Machine Sys2Proof.Safety

/-- Settles O39: each rule on its payload, with what Sluice, the flash queue and a handover answer. -/
theorem firmwareUpdate : Obligations.FirmwareUpdate := by
  unfold Obligations.FirmwareUpdate
  refine ⟨⟨fun p s a c w0 w1 w2 H hp => ⟨fun h => ?_, fun h1 hmax htrial => ⟨fun hnv => ?_, fun hnv next hnext =>
        ⟨fun hdl hv => ?_, fun h => ⟨fun t k hask => ?_, fun t k hask => ?_, fun t hask => ?_⟩⟩⟩⟩,
      fun p s a c w l H hp => ⟨fun h => ?_, fun hdl hw => ⟨fun h => ?_, fun hplace hin hlen =>
        ⟨fun hnv => ?_, fun hnv t ht => ?_⟩⟩⟩,
      fun s t hheld ht => ?_, fun s hheld hnone => ?_⟩,
    fun p s a c H hp => ⟨fun h => ?_, fun hw hfull => ⟨fun hnv => ?_, fun hnv => ⟨fun t k hask => ?_, fun t k hask => ?_,
      fun t hask => ?_⟩⟩⟩,
    fun p s a c H hp hroom => ?_,
    fun p s a c w h H hp hh far hfar => ⟨fun hno => ?_, fun hslot htrial hnv hlevel => ⟨fun hgo r hr => ?_,
      fun hhold hforce hstandby => ?_, fun hhold hnone hready => ?_⟩⟩,
    fun p s a c H hp => ⟨fun h => ?_, fun htrial hmig htime => ⟨fun hnv => ?_, fun hnv t ht => ?_⟩⟩,
    fun p s a c H hp => ⟨fun htrial => ?_, fun htrial => ⟨fun hbusy hnv => ?_, fun h => ⟨fun hw => ?_, fun hw => ?_⟩⟩⟩⟩
  · refine answers_no (h := fwBeginRule) H rfl ((fwBeginRule_of_payload hp).trans (if_pos ?_))
    exact h
  · refine answers_no (h := fwBeginRule) H rfl ((fwBeginRule_of_payload hp).trans ((if_neg ?_).trans (if_pos hnv)))
    simp only [htrial, Bool.false_eq_true, or_false]
    omega
  · refine answers_pend (h := fwBeginRule) H ((fwBeginRule_of_allowed hp h1 hmax htrial hnv hnext).trans (if_pos ?_))
    simp [hdl, hv]
  · refine answers_pend (h := fwBeginRule) H ((fwBeginRule_of_allowed hp h1 hmax htrial hnv hnext).trans
      ((if_neg ?_).trans ?_))
    · obtain h | h := h <;> simp [h]
    · rw [hask]
  · refine answers_pend (h := fwBeginRule) H ((fwBeginRule_of_allowed hp h1 hmax htrial hnv hnext).trans
      ((if_neg ?_).trans ?_))
    · obtain h | h := h <;> simp [h]
    · rw [hask]
  · refine answers_no (h := fwBeginRule) H rfl ((fwBeginRule_of_allowed hp h1 hmax htrial hnv hnext).trans
      ((if_neg ?_).trans ?_))
    · obtain h | h := h <;> simp [h]
    · rw [hask]
  · refine answers_no (h := fwBlockRule) H rfl ((fwBlockRule_of_payload hp).trans ?_)
    rw [blockWhy_of_closed h]
    rfl
  · refine answers_no (h := fwBlockRule) H rfl ((fwBlockRule_of_payload hp).trans ?_)
    rw [blockWhy_of_wrong hdl hw h]
    rfl
  · refine answers_no (h := fwBlockRule) H rfl ((fwBlockRule_of_payload hp).trans ?_)
    rw [blockWhy_of_whole hdl hw hplace hin hlen, flashAsk_of_stop hnv]
    rfl
  · refine answers_pend (h := fwBlockRule) H ((fwBlockRule_of_payload hp).trans ?_)
    rw [blockWhy_of_whole hdl hw hplace hin hlen, flashAsk_free hnv, ht]
    rfl
  · refine completes_act (by unfold exec execDownloadIdleTimeout; rfl) hheld ?_
    simp only [ht]
  · refine completes_act (by unfold exec execDownloadIdleTimeout; rfl) hheld ?_
    simp only [hnone]
  · refine answers_no (h := fwVerifyRule) H rfl ((fwVerifyRule_of_length hp).trans (if_pos ?_))
    obtain h | h := h <;> simp [h]
  · exact answers_no (h := fwVerifyRule) H rfl ((fwVerifyRule_of_length hp).trans
      ((if_neg (by simp [hw, hfull])).trans (if_pos hnv)))
  · refine answers_pend (h := fwVerifyRule) H ((fwVerifyRule_of_length hp).trans
      ((if_neg (by simp [hw, hfull])).trans ((if_neg (by simp [hnv])).trans ?_)))
    rw [hask]
  · refine answers_pend (h := fwVerifyRule) H ((fwVerifyRule_of_length hp).trans
      ((if_neg (by simp [hw, hfull])).trans ((if_neg (by simp [hnv])).trans ?_)))
    rw [hask]
  · refine answers_no (h := fwVerifyRule) H rfl ((fwVerifyRule_of_length hp).trans
      ((if_neg (by simp [hw, hfull])).trans ((if_neg (by simp [hnv])).trans ?_)))
    rw [hask]
  · exact answers_ok (h := fwStatusRule) H (withLen_of_length_eq (by rw [hp]; rfl)) hroom
  · subst hfar hh
    refine answers_no (h := fwActivateRule) H rfl ((fwActivateRule_of_payload hp).trans ?_)
    by_cases hstate : slotState a (otherSlot a) ≠ 3 ∨ a.fl.trial = true ∨ nvStop a = true
    · exact if_pos hstate
    · refine (if_neg hstate).trans (if_pos ?_)
      simp only [← or_assoc] at hno hstate
      obtain ⟨hfar, hforce⟩ := hno.resolve_left hstate
      simp only [hfar, hforce]
      rfl
  · subst hfar hh
    refine answers_post (h := fwActivateRule) (u := a) (st := stOk)
      (post := fun t => followEffect t (some c) 0x0B05 (w32 (otherSlot a))) H rfl ?_ |>.trans ?_
    · rw [fwActivateRule_of_free hp hslot htrial hnv hlevel, followRes_go hgo]
      rfl
    · rw [hr, followEffect_activate]
  · subst hfar hh
    exact answers_no (h := fwActivateRule) H rfl (by
      rw [fwActivateRule_of_free hp hslot htrial hnv hlevel, followRes_no hhold hstandby hforce])
  · subst hfar hh
    exact answers_later (h := fwActivateRule) H (by
      rw [fwActivateRule_of_free hp hslot htrial hnv hlevel, followRes_later hhold hnone hready])
  · refine answers_no (h := fwConfirmRule) H rfl ((fwConfirmRule_of_empty hp).trans (if_pos ?_))
    obtain h | h | h := h <;> simp [h]
  · refine answers_no (h := fwConfirmRule) H rfl ((fwConfirmRule_of_empty hp).trans ((if_neg ?_).trans ?_))
    · simp [htrial, hmig, htime]
    · rw [flashAsk_of_stop hnv]
      rfl
  · refine answers_pend (h := fwConfirmRule) H ((fwConfirmRule_of_empty hp).trans ((if_neg ?_).trans ?_))
    · simp [htrial, hmig, htime]
    · rw [flashAsk_free hnv, ht]
      rfl
  · exact answers_post (h := fwAbortRule) (u := a) (st := stOk) (post := fun t => fallBack t 4) H rfl
      ((fwAbortRule_of_empty hp).trans (if_pos htrial))
  · refine answers_ok_nil (h := fwAbortRule) H ((fwAbortRule_of_empty hp).trans ((if_neg (by simp [htrial])).trans ?_))
    simp only [hbusy, hnv]
    rfl
  · refine answers_ok_nil (h := fwAbortRule) H ((fwAbortRule_of_empty hp).trans ((if_neg (by simp [htrial])).trans ?_))
    have hbusy : (flashBusy a isFwOp && !nvStop a) = false := by obtain h | h := h <;> simp [h]
    simp only [hbusy, hw]
    rfl
  · refine answers_ok_nil (h := fwAbortRule) H ((fwAbortRule_of_empty hp).trans ((if_neg (by simp [htrial])).trans ?_))
    have hbusy : (flashBusy a isFwOp && !nvStop a) = false := by obtain h | h := h <;> simp [h]
    simp only [hbusy, hw]
    rfl

end Sys2Proof.Proofs
end

section
/-! The firmware's timers and recovery (19 R404, R412 to R422). -/

namespace Sys2Proof.Machine

open Sys2Proof.Safety

theorem recoveryEnterRule_of_payload {c : CmdRef} {p : Smb} {a : State} {w : Word} (hp : p.payload = [w]) :
    recoveryEnterRule c p a = followRes c a 0x0F01 0 (bit w 0) := by
  unfold recoveryEnterRule
  rw [withLen_of_length_eq (by rw [hp]; rfl)]
  simp only [pw, hp]
  rfl

theorem recoveryWriteRule_of_payload {c : CmdRef} {p : Smb} {a : State} {w : Word} {l : List Word}
    (hp : p.payload = w :: l) (hl : l.length = 1024) : recoveryWriteRule c p a =
      if !inRecovery a then .no a stNotInState
      else if 4096 ≤ fld w 23 0 then .no a stBadParam
      else
        let r := flashAsk a (.recoveryWrite (fld w 31 31) (fld w 23 0) l) none 2 true
        if r.2 = stPending then
          .ok { r.1 with fl := { r.1.fl with staged := put (fld w 31 31 * 4096 + fld w 23 0) l r.1.fl.staged } } []
        else .no r.1 r.2 := by
  unfold recoveryWriteRule
  rw [withLen_of_length_eq (by rw [hp, List.length_cons, hl])]
  simp only [pw, hp]
  rfl

theorem recoveryBootRule_of_payload {c : CmdRef} {p : Smb} {a : State} {w : Word} {l : List Word}
    (hp : p.payload = w :: l) (hl : l.length = 1964) : recoveryBootRule c p a =
      let x := slotStaged a (fld w 31 31)
      if !inRecovery a then .no a stNotInState
      else if !(List.range (blocksOf (headerOf x).len)).all (fun i => (look i x.data).isSome) || (headerOf x).len == 0 then
        .no a stNotInState
      else
        let r := flashAsk a (.recoveryBoot (fld w 31 31) l) (some c) 2 true
        if r.2 = stPending then .pend r.1 else .no r.1 r.2 := by
  unfold recoveryBootRule
  rw [withLen_of_length_eq (by rw [hp, List.length_cons, hl])]
  simp only [pw, hp]
  rfl

/-- RECOVERY_BOOT in recovery mode of a slot all of whose blocks are there: the flash decides (19 R422). -/
theorem recoveryBootRule_of_whole {c : CmdRef} {p : Smb} {a : State} {w : Word} {l : List Word} {x : Slot}
    (hp : p.payload = w :: l) (hl : l.length = 1964) (hx : x = slotStaged a (fld w 31 31))
    (hrec : inRecovery a = true) (hwhole : (decide ((headerOf x).len ≠ 0) &&
      (List.range (blocksOf (headerOf x).len)).all (fun i => (look i x.data).isSome)) = true) :
    recoveryBootRule c p a =
      let r := flashAsk a (.recoveryBoot (fld w 31 31) l) (some c) 2 true
      if r.2 = stPending then .pend r.1 else .no r.1 r.2 := by
  subst hx
  obtain ⟨hlen, hall⟩ := (Bool.and_eq_true _ _).mp hwhole
  refine (recoveryBootRule_of_payload hp hl).trans ((if_neg (by simp [hrec])).trans (if_neg ?_))
  rw [hall]
  simpa using hlen

end Sys2Proof.Machine

namespace Sys2Proof.Proofs

open Sys2Proof.Machine Sys2Proof.Safety

/-- Settles O40: the timers' branches, and the recovery commands by the handover and the flash queue. -/
theorem firmwareTimersAndRecovery : Obligations.FirmwareTimersAndRecovery := by
  unfold Obligations.FirmwareTimersAndRecovery
  refine ⟨⟨fun s hheld => ⟨fun ht hc => ?_, fun h => ?_, fun ht hm => ?_, fun h => ?_, fun h => ?_, fun h => ?_⟩,
      fun s x hheld hx => ⟨?_, ?_⟩, fun s ok hheld hnone => ?_⟩,
    fun p s a c w H hp => ⟨fun r r1 hr hr1 hgo => ?_, fun hhold hstandby hforce => ?_, fun hhold hnone hready => ?_⟩,
    fun p s a c w l H hp hl => ⟨fun hrec => ?_, fun hrec => ⟨fun hoff => ?_, fun hoff hnv => ?_,
      fun hoff hnv t ht => ?_⟩⟩,
    fun p s a c w l x H hp hl hx whole hwhole => ⟨fun h => ?_, fun hrec hall => ⟨fun hnv => ?_, fun hnv => ?_⟩⟩⟩
  · refine completes_act (by unfold exec execTrialDeadline; rfl) hheld ?_
    exact if_pos (by simp [ht, hc])
  · refine completes_act (by unfold exec execTrialDeadline; rfl) hheld ?_
    refine if_neg ?_
    obtain h | h := h <;> simp [h]
  · refine completes_act (by unfold exec execMigrationFallback; rfl) hheld ?_
    exact if_pos (by simp [ht, hm])
  · refine completes_act (by unfold exec execMigrationFallback; rfl) hheld ?_
    refine if_neg ?_
    obtain h | h := h <;> simp [h]
  · refine ⟨{ toLt (60 * 10 ^ 9) s with fl := { s.fl with loops := 0 } }, ?_, rfl, toLt_reached _ s⟩
    refine completes_act (by unfold exec execBootLoopClear; rfl) hheld ?_
    exact if_neg (by simp [h])
  · refine completes_act (by unfold exec execBootLoopClear; rfl) hheld ?_
    exact if_pos h
  · refine completes_act (by unfold exec execFlashOperationDone; rfl) hheld ?_
    simp only [hx]
    rfl
  · refine completes_act (by unfold exec execFlashOperationDone; rfl) hheld ?_
    simp only [hx]
    rfl
  · refine completes_act (by unfold exec execFlashOperationDone; rfl) hheld ?_
    simp only [hnone]
  · subst hr hr1
    exact answers_post (h := recoveryEnterRule) (u := a) (st := stOk)
      (post := fun t => followEffect t (some c) 0x0F01 0) H rfl
      ((recoveryEnterRule_of_payload hp).trans (followRes_go hgo))
  · exact answers_no (h := recoveryEnterRule) H rfl
      ((recoveryEnterRule_of_payload hp).trans (followRes_no hhold hstandby hforce))
  · exact answers_later (h := recoveryEnterRule) H
      ((recoveryEnterRule_of_payload hp).trans (followRes_later hhold hnone hready))
  · exact answers_no (h := recoveryWriteRule) H rfl
      ((recoveryWriteRule_of_payload hp hl).trans (if_pos (by simp [hrec])))
  · exact answers_no (h := recoveryWriteRule) H rfl
      ((recoveryWriteRule_of_payload hp hl).trans ((if_neg (by simp [hrec])).trans (if_pos hoff)))
  · refine answers_no (h := recoveryWriteRule) H rfl
      ((recoveryWriteRule_of_payload hp hl).trans ((if_neg (by simp [hrec])).trans ((if_neg (by omega)).trans ?_)))
    rw [flashAsk_of_stop hnv]
    rfl
  · refine answers_ok_nil (h := recoveryWriteRule) H
      ((recoveryWriteRule_of_payload hp hl).trans ((if_neg (by simp [hrec])).trans ((if_neg (by omega)).trans ?_)))
    rw [flashAsk_free hnv, ht]
    rfl
  · subst hwhole hx
    refine answers_no (h := recoveryBootRule) H rfl ((recoveryBootRule_of_payload hp hl).trans ?_)
    by_cases hrec : inRecovery a = true
    · refine (if_neg (by simp [hrec])).trans (if_pos ?_)
      have h := h.resolve_left (by simp [hrec])
      simpa [imp_iff_or_not, or_comm] using h
    · exact if_pos (by simp [hrec])
  · subst hwhole
    refine answers_no (h := recoveryBootRule) H rfl ((recoveryBootRule_of_whole hp hl hx hrec hall).trans ?_)
    rw [flashAsk_of_stop hnv]
    rfl
  · subst hwhole
    refine answers_pend (h := recoveryBootRule) H ((recoveryBootRule_of_whole hp hl hx hrec hall).trans ?_)
    rw [flashAsk_free hnv]
    rfl

end Sys2Proof.Proofs
end

section
/-! Keys, life cycle, attestation and tamper (16 R359; 20 R432 to R437). -/

namespace Sys2Proof.Machine

open Sys2Proof.Safety

theorem attestRule_of_length {c : CmdRef} {p : Smb} {a : State} (hp : p.payload.length = 4) : attestRule c p a =
    if !a.sec.entropyOk then .no a stInternal
    else match openKey a c.keyc with
      | none => .no a stInternal
      | some k => .ok a (attestBody a p.payload ++ wordsOfNat 8
        (hmac (hmac k (label [0x41, 0x54, 0x54, 0x31] ++ bytesOf 16 a.otp.serial))
          (bytesOfWords (attestBody a p.payload))).toNat) := withLen_of_length_eq hp

/-- The wrapping key of a class (20 R434). -/
def wrapKey (s : State) (cls : Nat) : W256 := (slotKey s cls).getD s.otp.kdev

/-- The tag that KEY_PROVISION compares (20 R434). -/
def provisionTag (s : State) (cls : Nat) (nonce : W128) (wrapped : W256) : W128 :=
  trunc16 (hmac (wrapKey s cls) (label [0x54, 0x41, 0x47, 0x31] ++ wrapBytes s cls nonce ++ bytesOf 32 wrapped))

/-- The state with the key of a class on its way to the one-time storage (20 R434). -/
def provisioning (s : State) (c : CmdRef) (cls : Nat) (nonce : W128) (wrapped : W256) : State :=
  { s with sec := { s.sec with
    kpNonces := (nonce :: s.sec.kpNonces).take 16
    job := some (.key c cls
      (wrapped ^^^ hmac (wrapKey s cls) (label [0x57, 0x52, 0x50, 0x31] ++ wrapBytes s cls nonce))) } }

theorem keyProvisionRule_of_class {c : CmdRef} {p : Smb} {a : State} {cls : Nat} {nonce tag : W128} {wrapped : W256}
    (hp : p.payload.length = 17) (hcls : cls = fld (pw p 0) 1 0) (hne : cls ≠ 0)
    (hnonce : nonce = BitVec.ofNat 128 (natOfWords ((p.payload.drop 1).take 4)))
    (hwrapped : wrapped = BitVec.ofNat 256 (natOfWords ((p.payload.drop 5).take 8)))
    (htag : tag = BitVec.ofNat 128 (natOfWords ((p.payload.drop 13).take 4))) : keyProvisionRule c p a =
      if provisionTag a cls nonce wrapped ≠ tag ∨ a.sec.wiping then .no (record a 0x0D11 [w32 cls]) stAuthFail
      else if a.sec.kpNonces.contains nonce ∨ 16 ≤ (slotsOf a cls).length then .no a stBadParam
      else if nvStop a then .no (nvRefuse a) stNvHeld
      else if a.sec.job.isSome then .no a stBusy
      else .pend (provisioning a c cls nonce wrapped) := by
  subst hcls hnonce hwrapped htag
  unfold keyProvisionRule
  rw [withLen_of_length_eq hp]
  exact if_neg hne

theorem lifecycleSetRule_of_payload {c : CmdRef} {p : Smb} {a : State} {w n : Word} (hp : p.payload = [w, n]) :
    lifecycleSetRule c p a =
      if 5 ≤ fld w 2 0 ∨ n ≠ w32 a.otp.serial.toNat then .no a stBadParam
      else if !lifeStep a.otp.lcs (fld w 2 0) then .no a stNotInState
      else if fld w 2 0 = 1 ∧ !([1, 2, 3].all (fun k => (slotKey a k).isSome)) then .no a stNotInState
      else if nvStop a then .no (nvRefuse a) stNvHeld
      else if a.sec.job.isSome then .no a stBusy
      else followRes c a 0x0D20 (w32 (fld w 2 0)) false := by
  unfold lifecycleSetRule
  rw [withLen_of_length_eq (by rw [hp]; rfl)]
  simp only [pw, hp]
  rfl

/-- LIFECYCLE_SET along an allowed step, with the keys that it needs (20 R436). -/
theorem lifecycleSetRule_of_fit {c : CmdRef} {p : Smb} {a : State} {w n : Word} (hp : p.payload = [w, n])
    (hstep : fld w 2 0 < 5) (hn : n = w32 a.otp.serial.toNat) (hfit : (lifeStep a.otp.lcs (fld w 2 0) &&
      (fld w 2 0 != 1 || [1, 2, 3].all (fun k => (slotKey a k).isSome))) = true) : lifecycleSetRule c p a =
      if nvStop a then .no (nvRefuse a) stNvHeld
      else if a.sec.job.isSome then .no a stBusy
      else followRes c a 0x0D20 (w32 (fld w 2 0)) false := by
  obtain ⟨hlife, hkeys⟩ := (Bool.and_eq_true _ _).mp hfit
  refine (lifecycleSetRule_of_payload hp).trans ((if_neg ?_).trans ((if_neg (by simp [hlife])).trans (if_neg ?_)))
  · rintro (h | h)
    · omega
    · exact h hn
  · rintro ⟨h1, h⟩
    rw [h1] at hkeys
    simp only [Bool.not_eq_true'] at h
    rw [h] at hkeys
    cases hkeys

theorem lifecycleSetRule_of_free {c : CmdRef} {p : Smb} {a : State} {w n : Word} (hp : p.payload = [w, n])
    (hstep : fld w 2 0 < 5) (hn : n = w32 a.otp.serial.toNat) (hfit : (lifeStep a.otp.lcs (fld w 2 0) &&
      (fld w 2 0 != 1 || [1, 2, 3].all (fun k => (slotKey a k).isSome))) = true) (hnv : nvStop a = false)
    (hjob : a.sec.job = none) : lifecycleSetRule c p a = followRes c a 0x0D20 (w32 (fld w 2 0)) false :=
  (lifecycleSetRule_of_fit hp hstep hn hfit).trans ((if_neg (by simp [hnv])).trans (if_neg (by simp [hjob])))

theorem otpProgramDone_life {s s1 s2 s3 s4 : State} {c : CmdRef} {lc : Nat} (hheld : s.boot.held = false)
    (hjob : s.sec.job = some (.life c lc))
    (hs1 : s1 = { s with sec := { s.sec with job := none }, otp := { s.otp with lcs := lc } })
    (hs2 : s2 = (if 3 ≤ lc then revokeAll s1 else s1))
    (hs3 : s3 = (if lc = 4 then { s2 with otp := { s2.otp with kdevRevoked := true } } else s2))
    (hs4 : s4 = wipe (notify (record s3 0x0D20 [w32 s.otp.lcs, w32 lc, w32 c.sess.num]) c stOk [])) :
    Completes .otpProgramDone s
      (if 3 ≤ lc then closeWhere s4 (fun x => lc == 4 || (slotKey s x.keyc).isSome) else s4) := by
  subst hs4 hs3 hs2 hs1
  refine completes_act (by unfold exec execOtpProgramDone; rfl) hheld ?_
  simp only [hjob]

theorem secureWipeEnd_completes {s s0 s1 : State} (hheld : s.boot.held = false) (hwipe : s.sec.wiping = true)
    (hs0 : s0 = toLt (s.sec.wipeAt + 4100) s)
    (hs1 : s1 = recordX (bump { s0 with sec := { s0.sec with wiping := false } } srmWipes) xWipe []) :
    Completes .secureWipeEnd s (if s1.sec.tamperSeen && getF s1 secTamper 1 0 == 0 then s1 else loadKeys s1) := by
  subst hs1 hs0
  refine completes_act (by unfold exec execSecureWipeEnd; rfl) hheld ?_
  exact if_neg (by simp [hwipe])

end Sys2Proof.Machine

namespace Sys2Proof.Proofs

open Sys2Proof.Machine Sys2Proof.Safety

/-- Settles O42: each rule on its payload, and the branches of what security does on its own. -/
theorem securityCommands : Obligations.SecurityCommands := by
  unfold Obligations.SecurityCommands
  refine ⟨⟨fun p s a c H hp hroom => answers_ok (h := devInfoRule) H (withLen_of_length_eq (by rw [hp]; rfl)) hroom,
      fun p s a c l H hp => ⟨fun k hent hk hl hroom => ?_, fun h => ?_⟩,
      fun p s a c H hp h0 => ?_,
      fun p s a c cls nonce tag wrapped w H hp hcls hne hnonce hwrapped htag hw want hwant => ⟨fun h => ?_,
        fun htagOk hwipe => ⟨fun h => ?_, fun hfresh hroom => ⟨fun hnv => ?_, fun hnv hjob => ?_, fun hnv hjob => ?_⟩⟩⟩,
      fun p s a c w n H hp => ⟨fun h => ?_, fun hstep hn fit hfit => ⟨fun hno => ?_, fun hyes hnv => ?_,
        fun hyes hnv hjob => ?_, fun hyes hnv hjob => ⟨fun hhold r hr => ?_, fun hhold hstandby => ?_,
          fun hhold hnone hready => ?_⟩⟩⟩⟩,
    fun s hheld => ⟨fun hjob => ?_, fun c cls k hjob => ?_, fun c lc s1 s2 s3 s4 hjob hs1 hs2 hs3 hs4 =>
        ⟨fun h => ?_, fun h => ?_⟩, fun hwipe => ?_, fun s1 hwipe s0 hs0 hs1 => ⟨fun hseen hact => ?_, fun h => ?_⟩,
      fun h => ?_, fun hlow h => ?_, fun hlow => ?_, fun hlow => ?_, fun t s1 ht hact hseen hs1 => ?_, fun h => ?_,
      fun b => completes_act (by unfold exec execEntropyHealthChange; rfl) hheld rfl⟩⟩
  · refine answers_ok (h := attestRule) H ((attestRule_of_length hp).trans ((if_neg (by simp [hent])).trans ?_)) hroom
    rw [hk, hl]
  · refine answers_no (h := attestRule) H rfl ((attestRule_of_length hp).trans ?_)
    obtain h | h := h
    · exact if_pos (by simp [h])
    · rw [h]
      exact ite_self _
  · exact answers_no (h := keyProvisionRule) H rfl ((withLen_of_length_eq hp).trans (if_pos h0))
  · subst hwant hw
    exact answers_no (h := keyProvisionRule) H rfl
      ((keyProvisionRule_of_class hp hcls hne hnonce hwrapped htag).trans (if_pos h))
  · subst hwant hw
    exact answers_no (h := keyProvisionRule) H rfl ((keyProvisionRule_of_class hp hcls hne hnonce hwrapped htag).trans
      ((if_neg (not_or.mpr ⟨not_not.mpr htagOk, by simp [hwipe]⟩)).trans (if_pos h)))
  · subst hwant hw
    exact answers_no (h := keyProvisionRule) H rfl ((keyProvisionRule_of_class hp hcls hne hnonce hwrapped htag).trans
      ((if_neg (not_or.mpr ⟨not_not.mpr htagOk, by simp [hwipe]⟩)).trans
        ((if_neg (not_or.mpr ⟨ne_true_of_eq_false hfresh, by omega⟩)).trans (if_pos hnv))))
  · subst hwant hw
    exact answers_no (h := keyProvisionRule) H rfl ((keyProvisionRule_of_class hp hcls hne hnonce hwrapped htag).trans
      ((if_neg (not_or.mpr ⟨not_not.mpr htagOk, by simp [hwipe]⟩)).trans
        ((if_neg (not_or.mpr ⟨ne_true_of_eq_false hfresh, by omega⟩)).trans ((if_neg (by simp [hnv])).trans (if_pos hjob)))))
  · subst hwant hw
    exact answers_pend (h := keyProvisionRule) H ((keyProvisionRule_of_class hp hcls hne hnonce hwrapped htag).trans
      ((if_neg (not_or.mpr ⟨not_not.mpr htagOk, by simp [hwipe]⟩)).trans
        ((if_neg (not_or.mpr ⟨ne_true_of_eq_false hfresh, by omega⟩)).trans
          ((if_neg (by simp [hnv])).trans (if_neg (by simp [hjob]))))))
  · exact answers_no (h := lifecycleSetRule) H rfl ((lifecycleSetRule_of_payload hp).trans (if_pos h))
  · refine answers_no (h := lifecycleSetRule) H rfl ((lifecycleSetRule_of_payload hp).trans ((if_neg ?_).trans ?_))
    · rintro (h | h)
      · omega
      · exact h hn
    · rw [hno] at hfit
      by_cases hlife : lifeStep a.otp.lcs (fld w 2 0) = true
      · refine (if_neg (by simp [hlife])).trans (if_pos ?_)
        rw [hlife, Bool.true_and, eq_comm, Bool.or_eq_false_iff] at hfit
        exact ⟨by simpa using hfit.1, by rw [hfit.2]; rfl⟩
      · exact if_pos (by simp [hlife])
  · subst hfit
    exact answers_no (h := lifecycleSetRule) H rfl ((lifecycleSetRule_of_fit hp hstep hn hyes).trans (if_pos hnv))
  · subst hfit
    exact answers_no (h := lifecycleSetRule) H rfl ((lifecycleSetRule_of_fit hp hstep hn hyes).trans
      ((if_neg (by simp [hnv])).trans (if_pos hjob)))
  · subst hfit hr
    exact answers_post (h := lifecycleSetRule) (u := a) (st := stPending)
      (post := fun t => followEffect t (some c) 0x0D20 (w32 (fld w 2 0))) H rfl
      ((lifecycleSetRule_of_free hp hstep hn hyes hnv hjob).trans (followRes_go (.inl hhold)))
  · subst hfit
    exact answers_no (h := lifecycleSetRule) H rfl
      ((lifecycleSetRule_of_free hp hstep hn hyes hnv hjob).trans (followRes_no hhold hstandby rfl))
  · subst hfit
    exact answers_later (h := lifecycleSetRule) H
      ((lifecycleSetRule_of_free hp hstep hn hyes hnv hjob).trans (followRes_later hhold hnone hready))
  · refine completes_act (by unfold exec execOtpProgramDone; rfl) hheld ?_
    simp only [hjob]
  · refine completes_act (by unfold exec execOtpProgramDone; rfl) hheld ?_
    simp only [hjob]
  · have hdone := otpProgramDone_life hheld hjob hs1 hs2 hs3 hs4
    rwa [if_neg (by omega)] at hdone
  · have hdone := otpProgramDone_life hheld hjob hs1 hs2 hs3 hs4
    rwa [if_pos h] at hdone
  · refine completes_act (by unfold exec execSecureWipeEnd; rfl) hheld ?_
    exact if_pos (by simp [hwipe])
  · have hdone := secureWipeEnd_completes hheld hwipe hs0 hs1
    rwa [if_pos (by simp [hseen, hact])] at hdone
  · have hdone := secureWipeEnd_completes hheld hwipe hs0 hs1
    rwa [if_neg (by obtain h | h := h <;> simp [h])] at hdone
  · refine completes_act (by unfold exec execTamperAssert; rfl) hheld ?_
    refine if_pos ?_
    obtain h | ⟨h, h'⟩ := h
    · simp [h]
    · simp [h, h']
  · refine completes_act (by unfold exec execTamperAssert; rfl) hheld ?_
    refine if_neg ?_
    obtain h | h := h <;> simp [h, hlow]
  · refine completes_act (by unfold exec execTamperRelease; rfl) hheld ?_
    exact if_pos hlow
  · refine completes_act (by unfold exec execTamperRelease; rfl) hheld ?_
    exact if_neg (by simp [hlow])
  · subst hs1
    refine completes_act (by unfold exec execTamperKeyReload; rfl) hheld ?_
    rw [ht]
    exact if_pos ⟨hact, hseen⟩
  · refine completes_act (by unfold exec execTamperKeyReload; rfl) hheld ?_
    cases ht : s.sec.highSince with
    | none => rfl
    | some t =>
      refine if_neg ?_
      rintro ⟨hact, hseen⟩
      obtain h | h | h := h
      · rw [ht] at h
        cases h
      · exact h hact
      · rw [hseen] at h
        cases h

end Sys2Proof.Proofs
end

section
/-! The start and the loss of power (18 R387 to R389; 19 R412, R415, R420; 20 R427). -/

namespace Sys2Proof.Machine

open Sys2Proof.Safety

theorem startOf_run {s s1 : State} {b : BootIn} {r : RomStart} {k : Nat} (hrom : romSelect (bootBase s b) b = (s1, r))
    (hrun : r.run = some k) : startOf s b = startFirmware s1 b r k s.pwr.hottest := by
  unfold startOf
  rw [hrom, hrun]

theorem startOf_none {s s1 : State} {b : BootIn} {r : RomStart} (hrom : romSelect (bootBase s b) b = (s1, r))
    (hrun : r.run = none) : startOf s b = startRecovery s1 b := by
  unfold startOf
  rw [hrom, hrun]

theorem mayStart_eq_false {s : State} {b : BootIn} (h : s.boot.held = false ∨ b.tmode = true ∨ s.pwr.shutdown = true) :
    mayStart s b = false := by
  unfold mayStart
  obtain h | h | h := h <;> simp [h]

end Sys2Proof.Machine

namespace Sys2Proof.Proofs

open Sys2Proof.Machine Sys2Proof.Safety

/-- Settles O43: `exec_start` with the choice of the ROM, and the state that the loss of power builds. -/
theorem startAndPowerLoss : Obligations.StartAndPowerLoss := by
  unfold Obligations.StartAndPowerLoss
  refine ⟨fun s b h => ?_, fun s b h => mayStart_eq_false h, fun s b s1 r hmay hrom => ⟨fun k hrun => ?_, fun hrun => ⟨?_, rfl⟩⟩,
    fun s b => ⟨rfl, rfl, rfl, rfl, rfl⟩, fun s => ⟨_, rfl,
      rfl, rfl, rfl, rfl, rfl, rfl, rfl⟩⟩
  · rw [exec_start, if_neg (by simp [h])]
  · rw [exec_start, if_pos hmay, startOf_run hrom hrun]
  · rw [exec_start, if_pos hmay, startOf_none hrom hrun]

end Sys2Proof.Proofs
end

section
/-! The march tests of the on-chip banks (16 R352 to R363). -/

namespace Sys2Proof.Machine

open Sys2Proof.Safety

theorem sramStore_poisoned_of_word {s : State} {r : SramReq} {off : Nat} {b : List Byte} (hb : 8 ≤ b.length) :
    sramAddr r.bank r.word ∉ (sramStore s r off b).sram.poisoned := by
  have hbad : (sramStore s r off b).sram.poisoned = s.sram.poisoned.filter (· != sramAddr r.bank r.word) :=
    if_neg (by simp [Nat.not_lt.mpr hb])
  simp [hbad]

theorem sramAnswer_of_allowed {pre : List Host.Cell} {peers : List SramReq} {s : State} {r : SramReq}
    (h : r.bank ≠ 64 ∨ (r.port = 0 ∧ r.secure = true ∧ s.sec.wiping = false)) : sramAnswer pre peers s r =
      match r.write with
      | some (off, b) =>
        if displaced peers r then emit (bump s srmWcoll) (.sram r.port r.bank r.word .lost)
        else emit (sramStore s r off b) (.sram r.port r.bank r.word .done)
      | none =>
        let bad := r.err == 2 || s.sram.poisoned.contains (sramAddr r.bank r.word)
        emit (if bad then sramUncorrectable s r.bank r.word else if r.err = 1 then bump s srmCe else s)
          (.sram r.port r.bank r.word (.data (memRead pre (sramAddr r.bank r.word) 8) bad)) := by
  refine (if_neg ?_).trans ((if_neg ?_).trans rfl)
  · rintro ⟨h64, hno⟩
    obtain h | ⟨hport, hsec, _⟩ := h
    · exact h h64
    · simp [hport, hsec] at hno
  · rintro ⟨h64, hwipe⟩
    obtain h | ⟨_, _, h⟩ := h
    · exact h h64
    · simp [h] at hwipe

theorem marchGranuleLock_completes {s : State} {bank g word element : Nat} {d1 d2 : Bool} {reqs : List SramReq}
    {u : State} (hheld : s.boot.held = false) (hact : s.sram.active.find? (fun e => e.1 == bank) = some (bank, g))
    (hu : (if s.sram.mmode ≠ 1 ∨ 1024 ≤ g ∨ 1 ≤ throttleStep s then s
      else
        let release := if d1 then 960 else 832
        let served := lockedServe bank g release reqs
        let stall := (served.map (fun e => e.1 - e.2.cycle)).foldl max 0
        let s2 := granuleDone (sramServe (ticks (release / 4) (toLt (marchFrom s bank) s)) served) bank g
        let s3 := wr s2 srmMaxstall (w32 (max (rd s2 srmMaxstall).toNat (sat32 stall)))
        let s4 := if d1 && d2 || element != 0 then marchFail s3 bank word element else s3
        if d1 && d2 then
          let s5 := sramUncorrectable s4 bank word
          { s5 with sram := { s5.sram with poisoned := insertNat (sramAddr bank word) s5.sram.poisoned } }
        else s4) = u) : Completes (.marchGranuleLock bank d1 d2 word element reqs) s u := by
  refine completes_act (by unfold exec execMarchGranuleLock; rfl) hheld ?_
  rw [hact]
  exact hu

/-- The end of a bank whose granules are done (16 R360). -/
theorem marchBankDone_completes {s s0 s1 : State} {bank g : Nat} {failed : Option (Nat × Nat)} {cl : State → State}
    (hheld : s.boot.held = false) (hact : s.sram.active.find? (fun e => e.1 == bank) = some (bank, g))
    (h : s.sram.mmode ≠ 1 ∨ 1024 ≤ g)
    (hs0 : s0 = (if s.sram.mmode = 1 then s else toLt (marchFrom s bank + 655360) s))
    (hs1 : s1 = creditReturn { s0 with sram := { s0.sram with
        active := s0.sram.active.filter (fun e => e.1 != bank) } } (isMarch bank))
    (hcl : cl = fun t => if s.sram.mmode = 1 then t else clearBanks t (· == bank)) :
    Completes (.marchBankDone bank failed) s (marchEnd (cl (match failed with
      | some (w, e) => marchFail (setBank s1 bank (fun b => { b with passes := min 65535 (b.passes + 1) })) bank w e
      | none => setBank s1 bank (fun b => { b with passes := min 65535 (b.passes + 1) })))) := by
  subst hcl hs1 hs0
  refine completes_act (by unfold exec execMarchBankDone; rfl) hheld ?_
  rw [hact]
  exact if_neg (by omega)

end Sys2Proof.Machine

namespace Sys2Proof.Proofs

open Sys2Proof.Machine Sys2Proof.Safety

/-- Settles O34: the answer to a request by its branches, and the march engine's. -/
theorem marchTests : Obligations.MarchTests := by
  unfold Obligations.MarchTests
  refine ⟨fun pre peers s r => ⟨fun h64 h => ?_, fun h64 hport hsec hwipe => ?_, fun h => ⟨fun off b hw =>
      ⟨fun hd => ?_, fun hd => ⟨sramStore s r off b, ?_, sramStore_poisoned_of_word⟩⟩, fun hw => ⟨fun herr hclean => ?_, fun hbad => ?_⟩⟩⟩,
    fun s bank hheld hnone => ⟨fun d1 d2 w e l => ?_, fun f => ?_⟩,
    fun s bank g hheld hact => ⟨fun h d1 d2 w e l => ?_,
      fun hmode hg hthr word element reqs d1 d2 wait hwait served hserved s1 hs1 s2 hs2 s3 hs3 => ⟨fun hboth => ?_,
        fun hboth s4 hs4 => ?_⟩,
      fun hmode hg f => ?_, fun h s0 hs0 s1 hs1 cl hcl => ⟨?_, fun w e => ?_⟩⟩,
    fun s hheld => ⟨fun t ht hmode hhours hon => ?_, fun h => ?_⟩⟩
  · refine if_pos ⟨h64, ?_⟩
    obtain h | h := h <;> simp [h]
  · exact (if_neg (by simp [hport, hsec])).trans (if_pos ⟨h64, hwipe⟩)
  · rw [sramAnswer_of_allowed h, hw]
    exact if_pos hd
  · rw [sramAnswer_of_allowed h, hw]
    exact if_neg (by simp [hd])
  · rw [sramAnswer_of_allowed h, hw]
    have hgood : (r.err == 2 || s.sram.poisoned.contains (sramAddr r.bank r.word)) = false := by simp [herr, hclean]
    simp only [hgood]
    rfl
  · rw [sramAnswer_of_allowed h, hw]
    have hbad : (r.err == 2 || s.sram.poisoned.contains (sramAddr r.bank r.word)) = true := by
      obtain h | h := hbad <;> simp [h]
    simp only [hbad]
    rfl
  · refine completes_act (by unfold exec execMarchGranuleLock; rfl) hheld ?_
    rw [hnone]
  · refine completes_act (by unfold exec execMarchBankDone; rfl) hheld ?_
    rw [hnone]
  · exact marchGranuleLock_completes hheld hact (if_pos h)
  · subst hs3 hs2 hs1 hserved hwait
    refine marchGranuleLock_completes hheld hact ((if_neg (by omega)).trans ?_)
    by_cases he : element = 0
    · simp only [hboth, he]
      rfl
    · simp only [hboth, Bool.false_or, bne_iff_ne.mpr he]
      exact (if_neg he).symm
  · subst hs4 hs3 hs2 hs1 hserved hwait
    refine marchGranuleLock_completes hheld hact ((if_neg (by omega)).trans ?_)
    simp only [hboth]
    rfl
  · refine completes_act (by unfold exec execMarchBankDone; rfl) hheld ?_
    rw [hact]
    exact if_pos ⟨hmode, hg⟩
  · exact marchBankDone_completes (failed := none) hheld hact h hs0 hs1 hcl
  · exact marchBankDone_completes (failed := some (w, e)) hheld hact h hs0 hs1 hcl
  · refine completes_act (by unfold exec execMarchPeriod; rfl) hheld ?_
    simp only [ht]
    exact if_neg (by simp [hmode, hhours, hon])
  · refine completes_act (by unfold exec execMarchPeriod; rfl) hheld ?_
    cases ht : s.sram.doneAt with
    | none => rfl
    | some t =>
      refine if_pos (h.resolve_left ?_)
      simp [ht]

end Sys2Proof.Proofs
end

section
/-! The upkeep of DRAM: training, refresh, self-refresh, returns, the scrubber and the freeze (15 R330 to R349). -/

namespace Sys2Proof.Machine

open Sys2Proof.Safety

/-! ### Training -/

theorem dramTrainingDone_completes {s u : State} {c dens : Nat} {rds wrs : List (List Nat)} {x : DramCh}
    (hheld : s.boot.held = false) (hx : chanOf s c = some x) (hu : (
      if x.step = 0 ∨ 8 ≤ x.step then s
      else
        let other := match chanOf s 0 with | some y => c != 0 && y.trained && y.dens != dens | none => false
        if dens == 0 || decide (4 < dens) || other then attemptFailed s x
        else match laneScan rds, laneScan wrs with
          | none, _ => s
          | some none, _ => attemptFailed s x
          | some (some _), none => s
          | some (some r), some none => attemptFailed s { x with rdEye := r }
          | some (some r), some (some w) =>
            let t := toLt (fillEnd x dens) s
            if x.since + 10 ^ 6 * stepLimit 7 < lt t then attemptFailed t { x with rdEye := r, wrEye := w }
            else
              dramSettle (densOthers (setChan (creditReturn t (isDramTrain c))
                (chanTrained t { x with dens := dens, rdEye := r, wrEye := w })) c dens)) = u) :
    Completes (.dramTrainingDone c dens rds wrs) s u := by
  refine completes_act (by unfold exec execDramTrainingDone; rfl) hheld ?_
  rw [hx]
  exact hu

/-- An attempt under way whose density fits: the scans of the eyes decide (15 R330). -/
theorem dramTrainingDone_of_fit {s u : State} {c dens : Nat} {rds wrs : List (List Nat)} {x : DramCh}
    (hheld : s.boot.held = false) (hx : chanOf s c = some x) (h1 : 1 ≤ x.step) (h8 : x.step < 8) (hd1 : 1 ≤ dens)
    (hd4 : dens ≤ 4) (hsame : c = 0 ∨ ∀ y, chanOf s 0 = some y → y.trained = true → y.dens = dens)
    (hu : (match laneScan rds, laneScan wrs with
        | none, _ => s
        | some none, _ => attemptFailed s x
        | some (some _), none => s
        | some (some r), some none => attemptFailed s { x with rdEye := r }
        | some (some r), some (some w) =>
          let t := toLt (fillEnd x dens) s
          if x.since + 10 ^ 6 * stepLimit 7 < lt t then attemptFailed t { x with rdEye := r, wrEye := w }
          else
            dramSettle (densOthers (setChan (creditReturn t (isDramTrain c))
              (chanTrained t { x with dens := dens, rdEye := r, wrEye := w })) c dens)) = u) :
    Completes (.dramTrainingDone c dens rds wrs) s u := by
  refine dramTrainingDone_completes hheld hx ((if_neg (by omega)).trans ((if_neg ?_).trans hu))
  have hother : (match chanOf s 0 with | some y => c != 0 && y.trained && y.dens != dens | none => false) = false := by
    cases hy : chanOf s 0 with
    | none => rfl
    | some y =>
      obtain h | h := hsame
      · simp [h]
      · cases ht : y.trained
        · simp [ht]
        · simp [h y hy ht]
  rw [hother]
  simp
  omega

/-! ### Refresh and self-refresh -/

/-- `t` is `s` but for the commands noted and the refreshes put off. -/
def RefreshesNoted (s t : State) : Prop :=
  t = { s with dram := { s.dram with cmds := t.dram.cmds, postponed := t.dram.postponed } }

theorem RefreshesNoted.refl (s : State) : RefreshesNoted s s := rfl

theorem RefreshesNoted.trans {a b c : State} (h : RefreshesNoted a b) (k : RefreshesNoted b c) : RefreshesNoted a c := by
  unfold RefreshesNoted at *
  rw [k, h]

theorem refreshesNoted_foldl {α : Type} {f : State → α → State} (h : ∀ s x, RefreshesNoted s (f s x)) (l : List α)
    (s : State) : RefreshesNoted s (l.foldl f s) := by
  induction l generalizing s with
  | nil => exact .refl s
  | cons x r ih => exact (h s x).trans (ih (f s x))

theorem refreshesNoted_noteCmd (s : State) (c k : Nat) : RefreshesNoted s (noteCmd s c k) := rfl

theorem refreshesNoted_refreshNow (s : State) (c b k : Nat) : RefreshesNoted s (refreshNow s c b k) :=
  RefreshesNoted.trans (b := { s with dram := { s.dram with postponed := del (c, b) s.dram.postponed } }) rfl
    (refreshesNoted_foldl (fun t _ => refreshesNoted_noteCmd t c 3) _ _)

theorem refreshesNoted_settleRefresh (s : State) (c : Nat) : RefreshesNoted s (settleRefresh s c) :=
  refreshesNoted_foldl (fun t b => refreshesNoted_refreshNow t c b 0) _ s

/-- The state in which a channel may enter self-refresh: its refreshes settled and the entry noted (15 R346). -/
def srAsked (s : State) (c : Nat) (x : DramCh) : State := noteCmd (settleRefresh (toLt (idleEnd s x) s) c) c 6

theorem refreshesNoted_srAsked (s : State) (c : Nat) (x : DramCh) :
    RefreshesNoted (toLt (idleEnd s x) s) (srAsked s c x) :=
  (refreshesNoted_settleRefresh _ c).trans (refreshesNoted_noteCmd _ c 6)

theorem srAsked_srCh (s : State) (c : Nat) (x : DramCh) : (srAsked s c x).dram.srCh = s.dram.srCh := by
  rw [refreshesNoted_srAsked s c x]
  rfl

theorem RefreshesNoted.rd {s t : State} (h : RefreshesNoted s t) (i : Nat) : rd t i = rd s i := by
  have hpar : t.par = s.par := by rw [h]
  have hid : t.id = s.id := by rw [h]
  unfold Machine.rd
  rw [hpar, hid]

theorem RefreshesNoted.lt {s t : State} (h : RefreshesNoted s t) : lt t = lt s := by
  unfold Machine.lt
  rw [h]

theorem rd_toLt (d : Nat) (s : State) (i : Nat) : rd (toLt d s) i = rd s i := rfl

theorem rd_srAsked (s : State) (c : Nat) (x : DramCh) (i : Nat) : rd (srAsked s c x) i = rd s i :=
  ((refreshesNoted_srAsked s c x).rd i).trans (rd_toLt _ s i)

theorem idleEnd_le_srAsked (s : State) (c : Nat) (x : DramCh) : idleEnd s x ≤ lt (srAsked s c x) := by
  rw [(refreshesNoted_srAsked s c x).lt]
  exact toLt_reached _ s

/-- A channel in self-refresh, counted (15 R346). -/
def srEntered (t : State) (c : Nat) : State :=
  noteCmd (bump { t with dram := { t.dram with srCh := c :: t.dram.srCh } } memSrEntry) c 4

theorem srEntered_srCh (t : State) (c : Nat) : (srEntered t c).dram.srCh = c :: t.dram.srCh := rfl

theorem lt_srEntered (t : State) (c : Nat) : lt (srEntered t c) = lt t := rfl

theorem rd_srEntered (t : State) (c : Nat) : rd (srEntered t c) memSrEntry = satAdd (rd t memSrEntry) 1 := by
  unfold srEntered
  rw [(refreshesNoted_noteCmd _ c 4).rd, rd_bump, if_pos rfl]
  rfl

theorem selfRefreshEntry_completes {s u : State} {c : Nat} {x : DramCh} (hheld : s.boot.held = false)
    (hx : chanOf s c = some x) (htrained : x.trained = true) (hready : s.dram.state = 2) (hon : getF s memSr 15 0 ≠ 0)
    (hout : s.dram.srCh.contains c = false) (hu : (
      let mine := s.dram.reqs.filter (fun r => r.ch == c)
      if mine.any (fun r => decide (r.at_ < idleEnd s x)) then s
      else if mine.any (fun r => decide (r.at_ < idleEnd s x + 22)) then bump (srAsked s c x) memSrCancel
      else
        if mine = [] then srEntered (srAsked s c x) c else srExit (srEntered (srAsked s c x) c) c) = u) : Completes (.selfRefreshEntry c) s u := by
  refine completes_act (by unfold exec execSelfRefreshEntry; rfl) hheld ?_
  rw [hx]
  refine (if_neg ?_).trans hu
  simp only [htrained, hready, hout, beq_eq_false_iff_ne.mpr hon]
  decide

theorem selfRefreshEntry_of_barred {s : State} {c : Nat} (hheld : s.boot.held = false)
    (h : s.dram.state ≠ 2 ∨ s.dram.srCh.contains c = true ∨ getF s memSr 15 0 = 0) : Completes (.selfRefreshEntry c) s s := by
  refine completes_act (by unfold exec execSelfRefreshEntry; rfl) hheld ?_
  cases hx : chanOf s c with
  | none => rfl
  | some x =>
    refine if_pos ?_
    obtain h | h | h := h
    · simp [h]
    · simp only [h, Bool.or_true]
    · simp [h]

/-! ### Returns and the scrubber -/

/-- What a return does to its request before a waiting one takes the tag: `s1` has the request off the queue. -/
def returned (s s1 : State) (r : DramReq) (outcome : Nat) : State :=
  let bad := decide (outcome = 2) || r.poison
  if r.write.isSome then
    let s2 := emit s1 (.dram r.port [] false)
    if readUnits r = [] then s2
    else if bad then poisonUnits (uncorrectable s2 r.port (badUnit s r)) r
    else if outcome = 1 then corrected s2 r.ch
    else s2
  else if bad then
    respond (uncorrectable (emit s1 (.dram r.port r.data true)) r.port (badUnit s r)) r.port (badUnit s r)
  else if outcome = 1 then corrected (emit s1 (.dram r.port r.data false)) r.ch
  else emit s1 (.dram r.port r.data false)

theorem dramReadReturn_completes {s s0 s1 : State} {tag outcome : Nat} {r : DramReq} (hheld : s.boot.held = false)
    (hready : s.dram.state = 2) (hr : s.dram.reqs.find? (fun r => r.tag == tag) = some r)
    (hfirst : s.dram.reqs.any (fun x => x.port == r.port && x.ch == r.ch && decide (x.tag < tag)) = false)
    (hs0 : s0 = chanBusy { s with dram := { s.dram with reqs := s.dram.reqs.filter (fun x => x.tag != tag) } } r.ch)
    (hs1 : s1 = (if ageBound s r.port ≤ lt s - r.at_ then bump s0 memAged else s0)) :
    Completes (.dramReadReturn tag outcome) s (serveWaiting (returned s s1 r outcome)) := by
  subst hs1 hs0
  refine completes_act (by unfold exec execDramReadReturn; rfl) hheld ?_
  rw [if_neg (not_not.mpr hready), hr]
  refine (if_neg (by rw [hfirst]; exact Bool.false_ne_true)).trans ?_
  simp only [decide_eq_true_eq]
  rfl

theorem returned_clean {s s1 : State} {r : DramReq} (hw : r.write = none) (hr : r.poison = false) :
    returned s s1 r 0 = emit s1 (.dram r.port r.data false)
    ∧ returned s s1 r 1 = corrected (emit s1 (.dram r.port r.data false)) r.ch := by
  simp [returned, hw, hr]

theorem returned_uncorrectable {s s1 : State} {r : DramReq} {k : Nat} (hw : r.write = none)
    (hk : k = 2 ∨ r.poison = true) : returned s s1 r k =
      respond (uncorrectable (emit s1 (.dram r.port r.data true)) r.port (badUnit s r)) r.port (badUnit s r) := by
  have hbad : (decide (k = 2) || r.poison) = true := by simpa using hk
  simp only [returned, hw, hbad]
  rfl

theorem returned_whole_write {s s1 : State} {r : DramReq} {k : Nat} (hw : r.write.isSome = true)
    (hu : readUnits r = []) : returned s s1 r k = emit s1 (.dram r.port [] false) :=
  (if_pos hw).trans (if_pos hu)

theorem returned_partial_write {s s1 : State} {r : DramReq} (hw : r.write.isSome = true) (hu : readUnits r ≠ [])
    (hr : r.poison = false) : returned s s1 r 0 = emit s1 (.dram r.port [] false)
      ∧ returned s s1 r 1 = corrected (emit s1 (.dram r.port [] false)) r.ch := by
  simp [returned, hw, hu, hr]

theorem returned_poisoned_write {s s1 : State} {r : DramReq} {k : Nat} (hw : r.write.isSome = true)
    (hu : readUnits r ≠ []) (hk : k = 2 ∨ r.poison = true) : returned s s1 r k =
      poisonUnits (uncorrectable (emit s1 (.dram r.port [] false)) r.port (badUnit s r)) r :=
  (if_pos hw).trans ((if_neg hu).trans (if_pos (by simpa using hk)))

theorem scrubStep_completes {s : State} {k u : Nat} (hheld : s.boot.held = false) (hready : s.dram.state = 2)
    (hon : getF s memScrub 7 0 ≠ 0) (hspace : 32 ≤ dramSpace s) (hcool : throttleStep s = 0)
    (hu : u = s.dram.scrub % (dramSpace s / 32)) : Completes (.scrubStep k) s
      (if k = 2 ∨ s.dram.poisoned.contains u = true then staysPoisoned (uncorrectable (scrubMove s) 12 (32 * u)) u
      else if k = 1 then corrected (scrubMove s) (chanAt s (32 * u))
      else scrubMove s) := by
  subst hu
  refine completes_act (by unfold exec execScrubStep; rfl) hheld ?_
  refine if_neg ?_
  have hunits : dramSpace s / 32 ≠ 0 := by omega
  simp [hready, hon, hunits, hcool]

end Sys2Proof.Machine

namespace Sys2Proof.Proofs

open Sys2Proof.Machine Sys2Proof.Safety

/-- Settles O33: the branches of the training, the upkeep, the returns (`returned`), the scrubber and the freeze. -/
theorem dramUpkeep : Obligations.DramUpkeep := by
  unfold Obligations.DramUpkeep
  refine ⟨fun s c x hheld hx => ⟨fun h1 h8 => ⟨fun step => ?_, fun dens rds wrs hdens => ?_,
        fun dens rds wrs y hc hy hty hne => ?_, fun dens rds wrs hd1 hd4 hsame => ⟨fun hrd => ?_, fun hrd => ?_,
          fun r hrd => ⟨fun hwr => ?_, fun hwr => ?_, fun w hwr s1 hs1 => ⟨fun hlate => ?_, fun hin => ?_⟩⟩⟩⟩,
      fun h dens rds wrs => ?_, fun t ht hsender hfailed => ?_⟩,
    ⟨fun s c hheld h => ⟨fun d => ?_, fun ns hot => ?_, fun b put => ?_, ?_⟩, fun s c hheld h => ⟨fun b put => ?_, ?_⟩,
      fun s c hheld h => selfRefreshEntry_of_barred hheld (.inr (.inr h)),
      fun s c x hheld hx htrained => ⟨fun drift t ht => ?_, fun t ht => ⟨fun ns => ?_, fun ns u hu => ?_⟩,
        fun b hsr hready t ht => ⟨fun h => ?_, fun p h => ?_⟩,
        fun hready hon hsr => ⟨fun ⟨r, hr, hch, hat⟩ => ?_, fun hall ⟨r, hr, hch, hat⟩ => ?_, fun hnone => ?_⟩⟩⟩,
    fun s hheld => ⟨fun h => ⟨fun tag k => ?_, fun k => ?_⟩, fun h k => ?_, fun hready => ⟨fun tag k hnone => ?_,
      fun tag r hr => ⟨fun hlater k => ?_, fun hfirst s0 hs0 s1 hs1 => ⟨fun hw => ⟨fun hclean => ⟨?_, ?_⟩, fun k hk => ?_⟩,
        fun hw s2 hs2 => ⟨fun hu k => ?_, fun hu => ⟨fun hclean => ⟨?_, ?_⟩, fun k hk => ?_⟩⟩⟩⟩,
      fun hon hspace hcool u s1 hu hs1 => ⟨fun hclean => ⟨?_, ?_⟩, fun k hk => ?_⟩⟩⟩,
    fun s source c hheld => ⟨fun h => ?_, fun h1 h2 h4 => ?_⟩, fun s hheld h => ?_, fun s t hheld ht hst s1 hs1 => ?_⟩
  · refine completes_act (by unfold exec execDramTrainingStepTimeout; rfl) hheld ?_
    rw [hx]
    exact if_neg (by omega)
  · refine dramTrainingDone_completes hheld hx ((if_neg (by omega)).trans (if_pos ?_))
    obtain h | h := hdens <;> simp [h]
  · refine dramTrainingDone_completes hheld hx ((if_neg (by omega)).trans (if_pos ?_))
    simp [hy, hc, hty, hne]
  · exact dramTrainingDone_of_fit hheld hx h1 h8 hd1 hd4 hsame (by rw [hrd])
  · exact dramTrainingDone_of_fit hheld hx h1 h8 hd1 hd4 hsame (by rw [hrd])
  · exact dramTrainingDone_of_fit hheld hx h1 h8 hd1 hd4 hsame (by rw [hrd, hwr])
  · exact dramTrainingDone_of_fit hheld hx h1 h8 hd1 hd4 hsame (by rw [hrd, hwr])
  · subst hs1
    refine dramTrainingDone_of_fit hheld hx h1 h8 hd1 hd4 hsame ?_
    rw [hrd, hwr]
    refine if_pos ?_
    show x.since + 10 ^ 6 * 400 < _
    rw [Nat.mul_comm]
    exact hlate
  · subst hs1
    refine dramTrainingDone_of_fit hheld hx h1 h8 hd1 hd4 hsame ?_
    rw [hrd, hwr]
    refine if_neg (not_lt.mpr ?_)
    show _ ≤ x.since + 10 ^ 6 * 400
    rw [Nat.mul_comm]
    exact hin
  · exact dramTrainingDone_completes hheld hx (if_pos h)
  · refine completes_act (by unfold exec execDramChannelRetry; rfl) hheld ?_
    simp only [hx, ht]
    exact if_neg (by simp [hsender, hfailed])
  · refine completes_act (by unfold exec execDqsOscRead; rfl) hheld ?_
    obtain h | ⟨x, h, hno⟩ := h <;> simp only [h]
    exact if_pos (by simp [hno])
  · refine completes_act (by unfold exec execMr4Read; rfl) hheld ?_
    obtain h | ⟨x, h, hno⟩ := h <;> simp only [h]
    exact if_pos (by simp [hno])
  · refine completes_act (by unfold exec execDramRefresh; rfl) hheld ?_
    obtain h | ⟨x, h, hno⟩ := h <;> simp only [h]
    exact if_pos (by simp [hno])
  · refine completes_act (by unfold exec execSelfRefreshEntry; rfl) hheld ?_
    obtain h | ⟨x, h, hno⟩ := h <;> simp only [h]
    exact if_pos (by simp [hno])
  · refine completes_act (by unfold exec execDramRefresh; rfl) hheld ?_
    cases hx : chanOf s c with
    | none => rfl
    | some x =>
      refine if_pos ?_
      obtain h | h := h
      · simp [h]
      · simp only [h, Bool.or_true, Bool.true_or]
  · exact selfRefreshEntry_of_barred hheld (h.imp_right .inl)
  · subst ht
    refine completes_act (by unfold exec execDqsOscRead; rfl) hheld ?_
    simp only [hx]
    exact if_neg (by simp [htrained])
  · subst ht
    refine completes_act (by unfold exec execMr4Read; rfl) hheld ?_
    simp only [hx]
    exact (if_neg (by simp [htrained])).trans (if_neg (by simp))
  · subst hu ht
    refine completes_act (by unfold exec execMr4Read; rfl) hheld ?_
    simp only [hx]
    refine (if_neg (by simp [htrained])).trans ?_
    cases x.hot <;> rfl
  · subst ht
    refine completes_act (by unfold exec execDramRefresh; rfl) hheld ?_
    simp only [hx]
    refine (if_neg ?_).trans (if_pos (by simpa using h))
    simp only [htrained, hsr, hready]
    decide
  · subst ht
    refine completes_act (by unfold exec execDramRefresh; rfl) hheld ?_
    simp only [hx]
    refine (if_neg ?_).trans (if_neg ?_)
    · simp only [htrained, hsr, hready]
      decide
    · obtain h | h := h
      · simp [Nat.not_lt.mpr h]
      · simp [h]
  · refine selfRefreshEntry_completes hheld hx htrained hready hon hsr (if_pos ?_)
    simpa using ⟨r, hr, hch, hat⟩
  · refine ⟨bump (srAsked s c x) memSrCancel, ?_, srAsked_srCh s c x, ?_⟩
    · refine selfRefreshEntry_completes hheld hx htrained hready hon hsr ((if_neg ?_).trans (if_pos ?_))
      · simpa using fun r hr hch => hall r hr hch
      · simpa using ⟨r, hr, hch, hat⟩
    · rw [rd_bump, if_pos rfl, rd_srAsked]
  · have hmine : s.dram.reqs.filter (fun r => r.ch == c) = [] := by simpa using hnone
    refine ⟨srEntered (srAsked s c x) c, ?_, ?_, ?_, ?_⟩
    · refine selfRefreshEntry_completes hheld hx htrained hready hon hsr ?_
      simp only [hmine]
      rfl
    · rw [srEntered_srCh, srAsked_srCh]
    · rw [lt_srEntered]
      exact idleEnd_le_srAsked s c x
    · rw [rd_srEntered, rd_srAsked]
  · refine completes_act (by unfold exec execDramReadReturn; rfl) hheld ?_
    exact if_pos h
  · refine completes_act (by unfold exec execScrubStep; rfl) hheld ?_
    exact if_pos (.inl h)
  · refine completes_act (by unfold exec execScrubStep; rfl) hheld ?_
    refine if_pos ?_
    omega
  · refine completes_act (by unfold exec execDramReadReturn; rfl) hheld ?_
    rw [if_neg (not_not.mpr hready), hnone]
  · refine completes_act (by unfold exec execDramReadReturn; rfl) hheld ?_
    rw [if_neg (not_not.mpr hready), hr]
    exact if_pos hlater
  · exact (returned_clean hw hclean).1 ▸ dramReadReturn_completes hheld hready hr hfirst hs0 hs1
  · exact (returned_clean hw hclean).2 ▸ dramReadReturn_completes hheld hready hr hfirst hs0 hs1
  · exact returned_uncorrectable hw hk ▸ dramReadReturn_completes hheld hready hr hfirst hs0 hs1
  · subst hs2
    exact returned_whole_write hw hu ▸ dramReadReturn_completes hheld hready hr hfirst hs0 hs1
  · subst hs2
    exact (returned_partial_write hw hu hclean).1 ▸ dramReadReturn_completes hheld hready hr hfirst hs0 hs1
  · subst hs2
    exact (returned_partial_write hw hu hclean).2 ▸ dramReadReturn_completes hheld hready hr hfirst hs0 hs1
  · subst hs2
    exact returned_poisoned_write hw hu hk ▸ dramReadReturn_completes hheld hready hr hfirst hs0 hs1
  · have hdone := scrubStep_completes (k := 0) hheld hready hon hspace hcool hu
    rwa [if_neg (by rw [hclean]; decide), if_neg (by decide), ← hs1] at hdone
  · have hdone := scrubStep_completes (k := 1) hheld hready hon hspace hcool hu
    rwa [if_neg (by rw [hclean]; decide), if_pos rfl, ← hs1] at hdone
  · have hdone := scrubStep_completes (k := k) hheld hready hon hspace hcool hu
    rwa [if_pos hk, ← hs1] at hdone
  · refine completes_act (by unfold exec execCommandPathError; rfl) hheld ?_
    exact if_pos (by omega)
  · refine completes_act (by unfold exec execCommandPathError; rfl) hheld ?_
    exact if_neg (by omega)
  · refine completes_act (by unfold exec execFreezeRecovery; rfl) hheld ?_
    cases ht : s.dram.frozenAt with
    | none => rfl
    | some t => exact if_pos (h.resolve_left (by simp [ht]))
  · refine completes_act (by unfold exec execFreezeRecovery; rfl) hheld ?_
    rw [ht, hs1]
    exact if_neg (not_not.mpr hst)

end Sys2Proof.Proofs
end

section
/-! Holdover, validity and the marks (11 R249 to R252, R263; 06 R120). -/

namespace Sys2Proof.Machine

open Sys2Proof.Safety

/-! ### The estimated error (11 R249) -/

theorem herr_of_hold {s : State} {h : Nat} (hsender : s.id.sender = true) (hh : s.time.holdSince = some h) :
    herr s = s.time.filtered.natAbs + getF s timHold 15 0 * (lt s - h) / 10 ^ 9 := by
  unfold herr
  rw [hh]
  exact if_pos hsender

/-- After the time that the rate of the hold needs, the estimate has passed a limit. -/
theorem limit_lt_hold {lim filtered rate h l : Nat} (hrate : 1 ≤ rate)
    (hl : h + cdiv ((lim + 1 - filtered) * 10 ^ 9) (max 1 rate) ≤ l) :
    lim < filtered + rate * (l - h) / 10 ^ 9 := by
  have hgap := (cdiv_le_iff (a := (lim + 1 - filtered) * 10 ^ 9) (b := rate) (m := l - h) hrate).mp
    (by rw [max_eq_right hrate] at hl; omega)
  have hdiv : lim + 1 - filtered ≤ rate * (l - h) / 10 ^ 9 := by
    rw [Nat.le_div_iff_mul_le (by norm_num), Nat.mul_comm rate]
    exact hgap
  omega

/-- The state when the estimate of a hold passes `lim`. -/
def herrAt (s : State) (h lim : Nat) : State :=
  toLt (h + cdiv ((lim + 1 - s.time.filtered.natAbs) * 10 ^ 9) (max 1 (getF s timHold 15 0))) s

theorem lim_lt_herrAt {s : State} {h lim : Nat} (hrate : 1 ≤ getF s timHold 15 0) :
    lim < s.time.filtered.natAbs + getF s timHold 15 0 * (lt (herrAt s h lim) - h) / 10 ^ 9 :=
  limit_lt_hold hrate (toLt_reached _ s)

theorem herr_herrAt {s : State} {h lim : Nat} (hsender : s.id.sender = true) (hh : s.time.holdSince = some h) :
    herr (herrAt s h lim) = s.time.filtered.natAbs + getF s timHold 15 0 * (lt (herrAt s h lim) - h) / 10 ^ 9 :=
  herr_of_hold (s := herrAt s h lim) hsender hh

theorem herrLimit_completes {s s1 s2 : State} {h lim : Nat} (hheld : s.boot.held = false)
    (hsender : s.id.sender = true) (hh : s.time.holdSince = some h)
    (hlim : lim = (if s.time.herrTold then getF s timValid 15 0 * 1000 else min 900 (getF s timValid 15 0 * 1000)))
    (hs1 : s1 = herrAt s h lim) (hs2 : s2 = (if 900 < herr s1 ∧ !s.time.herrTold then
        recEventX { s1 with time := { s1.time with herrTold := true } } .wall xFrameLock [w32 (herr s1)]
      else s1)) : Completes .herrLimit s
      (if getF s timValid 15 0 * 1000 < herr s2 then { s2 with time := { s2.time with valid := false } } else s2) := by
  subst hs2 hs1 hlim
  refine completes_act (by unfold exec execHerrLimit; rfl) hheld ?_
  rw [hh]
  exact if_neg (by simp [hsender])

theorem lt_of_herrTold {s t : State} {b : Bool} (h : s.time = { t.time with herrTold := b }) : lt s = lt t := by
  unfold lt
  rw [h]

/-- The first time that the estimate passes its limit the loss of frame lock is told (11 R249). -/
theorem herrLimit_tells {s : State} {h lim : Nat} (hheld : s.boot.held = false) (hsender : s.id.sender = true)
    (hh : s.time.holdSince = some h) (hrate : 1 ≤ getF s timHold 15 0) (htold : s.time.herrTold = false)
    (h900 : lim = 900)
    (hlim : lim = (if s.time.herrTold then getF s timValid 15 0 * 1000 else min 900 (getF s timValid 15 0 * 1000))) :
    ∃ u, Completes .herrLimit s u ∧ u.time.herrTold = true ∧
      lim < s.time.filtered.natAbs + getF s timHold 15 0 * (lt u - h) / 10 ^ 9 := by
  have hpast := lim_lt_herrAt (h := h) (lim := lim) hrate
  have hdone := herrLimit_completes hheld hsender hh hlim rfl
    (if_pos ⟨by rw [herr_herrAt hsender hh, ← h900]; exact hpast, by simp [htold]⟩).symm
  generalize hs2 : recEventX _ _ _ _ = s2 at hdone
  have htime : s2.time = { (herrAt s h lim).time with herrTold := true } := by
    rw [← hs2]
    exact (told_recEventX _ _ _ _).time
  have hlt : lt s2 = lt (herrAt s h lim) := lt_of_herrTold htime
  have htold2 : s2.time.herrTold = true := by rw [htime]
  split at hdone
  · exact ⟨_, hdone, htold2, hlt ▸ hpast⟩
  · exact ⟨_, hdone, htold2, hlt ▸ hpast⟩

/-! ### The marks (11 R251, R252) -/

theorem toClk_marks (c : Nat) (s : State) : (toClk c s).time.src = s.time.src ∧ (toClk c s).time.has = s.time.has ∧
    (toClk c s).time.epoch = s.time.epoch ∧ (toClk c s).time.valid = s.time.valid := by
  unfold toClk
  split
  · exact ⟨rfl, rfl, rfl, rfl⟩
  · exact ⟨rfl, rfl, rfl, rfl⟩

theorem now_le_toClk (c : Nat) (s : State) : now s ≤ now (toClk c s) := by
  unfold toClk
  split
  · exact le_rfl
  · exact Nat.le_add_right _ _

theorem foldl_emit_pair (a b : Nat → Out) (l : List Nat) (s : State) :
    l.foldl (fun t p => emit (emit t (a p)) (b p)) s = { s with out := s.out ++ l.flatMap (fun p => [a p, b p]) } := by
  induction l generalizing s with
  | nil => simp
  | cons p l ih =>
    rw [List.foldl_cons, ih]
    simp [emit]

/-- The tick in which the next marks leave (11 R251). -/
def markTick (s : State) : State :=
  let s1 := toClk (s.time.lastMark + 100000) s
  { s1 with time := { s1.time with lastMark := now s1 } }

theorem markPorts_congr {s t : State} (hid : t.id = s.id) (hlink : t.link = s.link) (hsrc : t.time.src = s.time.src) :
    markPorts t = markPorts s := by
  unfold markPorts portUp portSt
  rw [hid, hlink, hsrc]

theorem markSrc_setMark_same (s : State) (tw : Bool) (m : MarkSrc) : markSrc (setMark s tw m) tw = m := by
  cases tw <;> rfl

theorem markSrc_setMark_other (s : State) (tw : Bool) (m : MarkSrc) :
    markSrc (setMark s tw m) (!tw) = markSrc s (!tw) := by
  cases tw <;> rfl

/-- The time of `t` is that of `s` but for the run of rail differences. -/
def RailRunOnly (s t : State) : Prop := t.time = { s.time with railRun := t.time.railRun }

theorem railRunOnly_railDiff (s : State) : RailRunOnly s (railDiff s) := by
  unfold railDiff
  extract_lets v
  clear_value v
  split
  · exact rfl
  · extract_lets s1 time s2
    split
    · exact rfl
    · split
      · unfold RailRunOnly
        rw [(told_recEventX _ _ _ _).time]
        rfl
      · exact rfl

/-- A tile that holds no time takes the clock of the mark (11 R252). -/
theorem follow_of_none {s : State} {epoch : Byte} {src : Nat} {m : MarkSrc} (hno : s.time.has = false) :
    (follow s false epoch true src m).time.has = true ∧ (follow s false epoch true src m).time.valid = true ∧
    (follow s false epoch true src m).time.epoch = epoch ∧ (follow s false epoch true src m).time.src = 3 ∧
    (follow s false epoch true src m).time.clk = src / 4 * 4 := by
  unfold follow
  simp -zeta only [hno]
  exact ⟨rfl, rfl, rfl, rfl, rfl⟩

theorem next_congr {s t u : State} (h : t = u) : (.next (commitState s t) : Out1) = .next (commitState s u) := by rw [h]

/-- A mark on UP of a tile, with the seconds it belongs to (11 R252). -/
theorem markReceived_completes {s : State} {epoch : Byte} {subns secs : Nat} {wt : Word} {x : Port}
    (hheld : s.boot.held = false) (htile : s.id.sender = false) (hsecs : (markSrc s false).secs = some secs)
    (hx : s.link.ports.find? (fun x => x.p == 0) = some x)
    (hns : (4 * wt.toNat + subns + 2 ^ 34 - secs * 10 ^ 9 % 2 ^ 34) % 2 ^ 34 < 10 ^ 9) :
    ∃ m w, Completes (.markReceived false epoch true subns wt 0) s
      (railDiff (follow (wr (setMark s false m) timMarkoff w) false epoch true
        (secs * 10 ^ 9 + (4 * wt.toNat + subns + 2 ^ 34 - secs * 10 ^ 9 % 2 ^ 34) % 2 ^ 34 + x.lat) m)) := by
  unfold Completes
  show ∃ m w, execMarkReceived false epoch true subns wt 0 s = .next (commitState s _)
  unfold execMarkReceived
  rw [act_next s _ hheld, if_neg (by simp [htile])]
  simp -zeta only [hsecs, Bool.false_eq_true, if_false, hx]
  extract_lets ns lat src off o m s1
  rw [if_neg (show ¬ 10 ^ 9 ≤ ns from not_le.mpr hns)]
  refine ⟨m, satInt off, next_congr ?_⟩
  exact if_pos (by simp [steers, htile])

/-- A tile that loses UP and has no mark of its twin enters holdover (11 R252). -/
theorem markSourceLoss_completes {s : State} {t : Nat} (hheld : s.boot.held = false) (htile : s.id.sender = false)
    (hsrc : s.time.src = 3) (hlast : (markSrc s false).last = some t) (htw : (markSrc s true).last = none) :
    ∃ m f, Completes (.markSourceLoss false) s
      (let s2 := setMark (toLt (t + 400004) s) false m
       { s2 with time := { s2.time with
          src := 5, state := 3, phase := 0, freq := f
          validUntil := if s2.time.valid then some (lt s2 + 100 * 10 ^ 6) else none } }) := by
  unfold Completes
  show ∃ m f, execMarkSourceLoss false s = .next (commitState s _)
  unfold execMarkSourceLoss
  rw [act_next s _ hheld]
  extract_lets m was
  simp -zeta only [show m.last = some t from hlast]
  extract_lets s1 s2
  have hunusable : usable s2 true = false := by
    have htw : (markSrc s2 true).last = none := htw
    simp [usable, htw]
  refine ⟨{ m with last := none, secs := none, inRun := 0, outRun := 0, farRun := 0 }, meanFreq s2 (10 ^ 9), next_congr ?_⟩
  exact (if_neg (by simp [hsrc, was])).trans ((if_neg (by simp [htile])).trans (if_neg (by simp [hunusable])))

end Sys2Proof.Machine

namespace Sys2Proof.Proofs

open Sys2Proof.Machine Sys2Proof.Safety

/-- Settles O9: the estimate passes a limit with the time of `herrAt`, and the branches of the marks. -/
theorem timeAndMarks : Obligations.TimeAndMarks := by
  unfold Obligations.TimeAndMarks
  refine ⟨⟨fun s h hheld hsender hh hrate => ⟨fun htold => ?_, fun htold hv => ?_⟩, fun s t hheld ht => ?_,
      fun p s a c H hp hroom => answers_ok (h := timeReadRule) H (withLen_of_length_eq (by rw [hp]; rfl)) hroom⟩,
    fun s hheld h => ?_, fun tw secs s hheld => ?_, fun s epoch subns wt secs x hheld htile hno hsecs hx hns => ?_,
    fun s t hheld htile hsrc hlast htw hvalid => ?_⟩
  · have hpast := lim_lt_herrAt (h := h) (lim := getF s timValid 15 0 * 1000) hrate
    have hdone := herrLimit_completes hheld hsender hh (if_pos htold).symm rfl (if_neg (by simp [htold])).symm
    rw [if_pos (by rw [herr_herrAt hsender hh]; exact hpast)] at hdone
    exact ⟨_, hdone, rfl, hpast⟩
  · refine herrLimit_tells hheld hsender hh hrate htold rfl ?_
    rw [htold, if_neg Bool.false_ne_true, min_eq_left (by omega)]
  · refine ⟨{ toLt t s with time := { (toLt t s).time with valid := false, validUntil := none } }, ?_, rfl, rfl,
      toLt_reached t s⟩
    refine completes_act (by unfold exec execValidHoldExpire; rfl) hheld ?_
    rw [ht]
  · obtain ⟨hsrc, hhas, hepoch, hvalid⟩ := toClk_marks (s.time.lastMark + 100000) s
    refine ⟨{ markTick s with out := (markTick s).out ++ (markPorts (markTick s)).flatMap (fun p =>
        [.block p (secondsBlock ((now (markTick s) + alignShift (markTick s) p) / 10 ^ 9))
        , .block p (markBlock (markTick s).time.epoch (markTick s).time.valid
            ((now (markTick s) + alignShift (markTick s) p) % 4)
            (wt32 (now (markTick s) + alignShift (markTick s) p)))]) },
      completes_act (by unfold exec execMarkSendTimer; rfl) hheld ?_, now_le_toClk _ s, toClk_reached _ s, rfl, ?_⟩
    · refine (if_pos (by simpa using h)).trans ?_
      exact foldl_emit_pair _ _ _ _
    · have hports : markPorts (markTick s) = markPorts s := markPorts_congr (toClk_id _ s) (toClk_link _ s) hsrc
      have hout : (markTick s).out = s.out := toClk_out _ s
      rw [← hports, ← hepoch, ← hvalid, ← hout]
      rfl
  · refine ⟨setMark s tw { markSrc s tw with secs := some secs.toNat },
      completes_act (by unfold exec execSecondsReceived; rfl) hheld rfl, ?_, markSrc_setMark_other _ _ _⟩
    rw [markSrc_setMark_same]
  · obtain ⟨m, w, hdone⟩ := markReceived_completes (epoch := epoch) hheld htile hsecs hx hns
    obtain ⟨hhas, hvalid, hepoch, hsrc, hclk⟩ := follow_of_none (s := wr (setMark s false m) timMarkoff w)
      (epoch := epoch) (m := m)
      (src := secs * 10 ^ 9 + (4 * wt.toNat + subns + 2 ^ 34 - secs * 10 ^ 9 % 2 ^ 34) % 2 ^ 34 + x.lat) hno
    refine ⟨_, hdone, ?_⟩
    unfold now
    rw [railRunOnly_railDiff]
    exact ⟨hhas, hvalid, hepoch, hsrc, hclk⟩
  · obtain ⟨m, f, hdone⟩ := markSourceLoss_completes hheld htile hsrc hlast htw
    have hreached : t + 400000 < lt (toLt (t + 400004) s) := Nat.lt_of_lt_of_le (by omega) (toLt_reached _ s)
    exact ⟨_, hdone, rfl, rfl, hvalid, if_pos hvalid, hreached⟩

end Sys2Proof.Proofs
end

section
/-! Trigger inputs and comparators (11 R259 to R262; 01 R25 to R27; 20 R431). -/

namespace Sys2Proof.Machine

open Sys2Proof.Safety

/-! ### Trigger inputs (11 R259) -/

theorem trigInEdge_completes {s q : State} {k subns : Nat} {rising : Bool} (hheld : s.boot.held = false) (hk : k < 4)
    (hsub : subns < 4) (hsel : tinEdges s k &&& (if rising then 1 else 2) ≠ 0)
    (hq : q = (if (s.time.trig.getD k []).length < 32 then
        setTrig s k (s.time.trig.getD k [] ++ [stampWords s subns])
      else bumpF s (timTin + k) 31 16)) : Completes (.trigInEdge k rising subns) s
      (if bit (rd s evrCfg) k then putRec q { mkRec q 0x0C11 (snapWords q) with wt := now s + subns } else q) := by
  have hstamp : (if 32 ≤ (s.time.trig.getD k []).length then bumpF s (timTin + k) 31 16
      else setTrig s k (s.time.trig.getD k [] ++ [stampWords s (subns % 4)])) = q := by
    rw [hq, Nat.mod_eq_of_lt hsub]
    by_cases hlen : (s.time.trig.getD k []).length < 32
    · rw [if_pos hlen, if_neg (by omega)]
    · rw [if_neg hlen, if_pos (by omega)]
  have hcfg : rd q evrCfg = rd s evrCfg := by
    rw [hq]
    split
    · rfl
    · exact (rd_wr _ _ _ _).trans (if_neg (by unfold timTin evrCfg; omega))
  have hnow : now q = now s := by
    rw [hq]
    split <;> rfl
  refine completes_act (by unfold exec execTrigInEdge; rfl) hheld ?_
  refine (if_neg (not_or.mpr ⟨by omega, hsel⟩)).trans ?_
  extract_lets _ s1
  have hs1 : s1 = q := hstamp
  clear_value s1
  subst hs1
  rw [hcfg, hnow, Nat.mod_eq_of_lt hsub]

theorem trigInReadRule_of_payload {c : CmdRef} {p : Smb} {a : State} {w : Word} (hp : p.payload = [w]) :
    trigInReadRule c p a = .ok (setTrig a (fld w 1 0) [])
      (w32 (a.time.trig.getD (fld w 1 0) []).length :: (a.time.trig.getD (fld w 1 0) []).flatMap id) := by
  unfold trigInReadRule
  rw [withLen_of_length_eq (by rw [hp]; rfl)]
  simp only [pw, hp]
  rfl

/-! ### The commands that take a comparator (11 R260 to R262; 01 R25, R27) -/

theorem takeComp_free {s : State} {u : CmpUse} {first k : Nat} {c : CmdRef} (hk : freeComp s = some k) :
    takeComp s u first c = .ok (setComp s k (taken u first c)) [w32 k] := by
  unfold takeComp
  rw [hk]
  rfl

theorem takeComp_conflict {s : State} {u v : CmpUse} {first : Nat} {c : CmdRef} (hnone : freeComp s = none)
    (hv : (comp s 0).use = some v) : takeComp s u first c = .noW s stConflict [conflictWord 0x07 (useRank v) 0] := by
  have hconflict : compConflict s = conflictWord 0x07 (useRank v) 0 := by
    unfold compConflict
    rw [List.range_succ_eq_map, List.findSome?_cons, hv]
    rfl
  unfold takeComp
  rw [hnone, hconflict]

/-- What a command that takes a comparator answers. -/
theorem answers_takeComp {op : Nat} {h : Handler} {p : Smb} {s a b : State} {c : CmdRef} {use : CmpUse} {first : Nat}
    (H : Accepted op p s a c) (hrule : h c p a = takeComp b use first c) (hroom : 4 ≤ replyRoom a p.via) :
    (∀ k, freeComp b = some k → smibenRow op h p s =
      .next (commitState s (reply (setComp b k (taken use first c)) c p.via stOk [w32 k])))
    ∧ (∀ u, freeComp b = none → (comp b 0).use = some u → smibenRow op h p s =
      .next (commitState s (reply b c p.via stConflict [conflictWord 0x07 (useRank u) 0]))) :=
  ⟨fun _ hk => answers_ok H (hrule.trans (takeComp_free hk)) hroom,
    fun _ hnone hu => answers_noW H rfl (hrule.trans (takeComp_conflict hnone hu))⟩

theorem trigOutSetRule_of_payload {c : CmdRef} {p : Smb} {a : State} {o hi sec ns per w : Word}
    (hp : p.payload = [o, hi, sec, ns, per, w]) : trigOutSetRule c p a =
      let mode := fld o 29 28
      let start := clkOfWords hi sec ns
      if mode = 0 then .ok (freeOut a (fld o 31 30)) [0xFF]
      else if (mode == 1 || mode == 2) && decide (999999999 < ns.toNat) then .no a stBadParam
      else if mode = 2 ∧ (per.toNat < 1000 ∨ 4000000000 < per.toNat) then .no a stBadParam
      else if w.toNat < 8 ∨ widthMax a mode per.toNat < w.toNat then .no a stBadParam
      else if mode = 1 ∧ start < now a then .no a stBadParam
      else takeComp (freeOut a (fld o 31 30)) (.trig (fld o 31 30) mode per.toNat w.toNat)
        (if mode = 1 then start else if mode = 2 then firstAhead a start per.toNat else 0) c := by
  unfold trigOutSetRule
  rw [withLen_of_length_eq (by rw [hp]; rfl)]
  simp only [pw, hp]
  rfl

theorem trigOutSetRule_of_narrow {c : CmdRef} {p : Smb} {a : State} {o hi sec ns per w : Word}
    (hp : p.payload = [o, hi, sec, ns, per, w]) (hmode : fld o 29 28 ≠ 0) (hw : w.toNat < 8) :
    trigOutSetRule c p a = .no a stBadParam := by
  refine (trigOutSetRule_of_payload hp).trans ((if_neg hmode).trans ?_)
  refine ite_eq_left_iff.mpr fun _ => ite_eq_left_iff.mpr fun _ => if_pos (.inl hw)

theorem trigOutSetRule_of_past {c : CmdRef} {p : Smb} {a : State} {o hi sec ns per w : Word}
    (hp : p.payload = [o, hi, sec, ns, per, w]) (hmode : fld o 29 28 = 1) (hpast : clkOfWords hi sec ns < now a) :
    trigOutSetRule c p a = .no a stBadParam := by
  refine (trigOutSetRule_of_payload hp).trans ((if_neg (by omega)).trans ?_)
  refine ite_eq_left_iff.mpr fun _ => ite_eq_left_iff.mpr fun _ => ite_eq_left_iff.mpr fun _ => if_pos ⟨hmode, hpast⟩

theorem trigOutSetRule_of_fit {c : CmdRef} {p : Smb} {a : State} {o hi sec ns per w : Word} {first : Nat}
    (hp : p.payload = [o, hi, sec, ns, per, w]) (hw : 8 ≤ w.toNat)
    (h : (fld o 29 28 = 1 ∧ ns.toNat < 10 ^ 9 ∧ w.toNat ≤ 10 ^ 9 ∧ now a ≤ clkOfWords hi sec ns
          ∧ first = clkOfWords hi sec ns)
        ∨ (fld o 29 28 = 2 ∧ ns.toNat < 10 ^ 9 ∧ 1000 ≤ per.toNat ∧ per.toNat ≤ 4 * 10 ^ 9 ∧ w.toNat ≤ per.toNat / 2
          ∧ first = firstAhead a (clkOfWords hi sec ns) per.toNat)
        ∨ (fld o 29 28 = 3 ∧ w.toNat ≤ period (rate a) / 2 ∧ first = 0)) : trigOutSetRule c p a =
      takeComp (freeOut a (fld o 31 30)) (.trig (fld o 31 30) (fld o 29 28) per.toNat w.toNat) first c := by
  rw [trigOutSetRule_of_payload hp]
  obtain ⟨hm, hns, hmax, hahead, hfirst⟩ | ⟨hm, hns, hp1, hp4, hmax, hfirst⟩ | ⟨hm, hmax, hfirst⟩ := h
  · simp only [hm, hfirst, widthMax, if_true]
    rw [if_neg (by decide), if_neg (by simp; omega), if_neg (by omega), if_neg (by omega), if_neg (by omega)]
  · simp only [hm, hfirst, widthMax, if_true]
    rw [if_neg (by decide), if_neg (by simp; omega), if_neg (by omega), if_neg, if_neg (by omega), if_neg (by decide)]
    rw [if_neg (by decide)]
    omega
  · simp only [hm, hfirst, widthMax]
    rw [if_neg (by decide), if_neg (by simp), if_neg (by omega), if_neg, if_neg (by omega), if_neg (by decide),
      if_neg (by decide)]
    rw [if_neg (by decide), if_neg (by decide)]
    omega

theorem recSnapAtRule_of_payload {c : CmdRef} {p : Smb} {a : State} {hi sec ns : Word} (hp : p.payload = [hi, sec, ns])
    (hns : ns.toNat < 10 ^ 9) : recSnapAtRule c p a = takeComp a .snap (clkOfWords hi sec ns) c := by
  unfold recSnapAtRule
  rw [withLen_of_length_eq (by rw [hp]; rfl)]
  simp only [pw, hp]
  exact if_neg (by simp only [List.getD_cons_succ, List.getD_cons_zero]; omega)

theorem cycleSetRule_of_payload {c : CmdRef} {p : Smb} {a : State} {hi sec ns per cnt : Word} {l : List Word} {first : Nat}
    (hp : p.payload = hi :: sec :: ns :: per :: cnt :: l) (hlen : 8 ≤ l.length) (hns : ns.toNat < 10 ^ 9)
    (hkind : hKind (embeddedHdr p) = 1) (hdmode : hDmode (embeddedHdr p) = 0) (hkeyc : hKeyc (embeddedHdr p) = c.keyc)
    (hmay : mayEmbed (hOpcode (embeddedHdr p)) = true) (hmax : hLength (embeddedHdr p) ≤ 1024)
    (hlength : hLength (embeddedHdr p) = 4 * (l.length - 8))
    (hper : (per.toNat = 0 ∧ first = clkOfWords hi sec ns)
      ∨ (1000 ≤ per.toNat ∧ per.toNat ≤ 4 * 10 ^ 9
        ∧ first = firstAhead a (clkOfWords hi sec ns) (1000 * per.toNat))) : cycleSetRule c p a =
      takeComp a (.cycle a.smb.wall per.toNat (fld cnt 31 16) 0
        { via := .mgmt, hdr := embeddedHdr p, payload := l.drop 8, tag := 0, size := 0 }
        (hOpcode (embeddedHdr p)) (hKeyc (embeddedHdr p))) first c := by
  have hplen : p.payload.length = l.length + 5 := by rw [hp]; rfl
  have hdrop : p.payload.drop 13 = l.drop 8 := by rw [hp]; rfl
  unfold cycleSetRule
  simp only [hplen, hdrop]
  have hns' : (pw p 2).toNat = ns.toNat := by rw [pw, hp]; rfl
  have hper' : (pw p 3).toNat = per.toNat := by rw [pw, hp]; rfl
  rw [if_neg (by omega), if_neg (by omega), if_neg (by simp [hkind, hdmode, hkeyc, hmay, hmax]), if_neg (by omega), hper']
  have hfirst : (if per.toNat = 0 then clkOfWords (pw p 0) (pw p 1) (pw p 2)
      else firstAhead a (clkOfWords (pw p 0) (pw p 1) (pw p 2)) (1000 * per.toNat)) = first := by
    simp only [pw, hp]
    obtain ⟨h0, h⟩ | ⟨h1, _, h⟩ := hper
    · exact (if_pos h0).trans h.symm
    · exact (if_neg (by omega)).trans h.symm
  rw [hfirst, pw, hp]
  rfl

theorem cmpFreeRule_of_payload {c : CmdRef} {p : Smb} {a : State} {w : Word} (hp : p.payload = [w]) :
    cmpFreeRule c p a = match (comp a (fld w 3 0)).use with
      | some .snap => .no a stNotInState
      | some _ => .ok (setComp a (fld w 3 0) compFree) []
      | none => .ok a [] := by
  unfold cmpFreeRule
  rw [withLen_of_length_eq (by rw [hp]; rfl)]
  simp only [pw, hp]
  rfl

/-! ### A comparator fires (11 R260 to R262) -/

theorem comp_toClk (t k : Nat) (s : State) : comp (toClk t s) k = comp s k := by
  unfold toClk
  split <;> rfl

theorem comps_length_toClk (t : Nat) (s : State) : (toClk t s).time.comps.length = s.time.comps.length := by
  unfold toClk
  split <;> rfl

theorem comp_setComp_same {s : State} {k : Nat} (c : Comp) (hk : k < s.time.comps.length) : comp (setComp s k c) k = c := by
  simp [comp, setComp, List.getD_eq_getElem?_getD, hk]

theorem comp_of_told {s t : State} (h : Told s t) (k : Nat) : comp t k = comp s k := by
  unfold comp
  rw [h.time]

theorem comp_compMissed {s : State} {k : Nat} (c : Comp) (hk : k < s.time.comps.length) :
    comp (compMissed s k c) k = { compFree with missed := true } := by
  unfold compMissed
  extract_lets missed s1
  have h1 : comp s1 k = { compFree with missed := true } := comp_setComp_same _ hk
  split
  · rw [comp_of_told (told_eventTo _ _ _ _ _), h1]
  · exact h1

theorem comparatorFire_completes {s : State} {k : Nat} {x : FireIn} (hheld : s.boot.held = false)
    (hrank : (fireRank (comp s k)).isSome = true) : Completes (.comparatorFire k x) s
      (fireDue x (((fireOrder (toClk (comp s k).instant s)).takeWhile (fun j => j != k)).foldl (fireDue x)
        (toClk (comp s k).instant s)) k) := by
  refine completes_act (by unfold exec execComparatorFire; rfl) hheld ?_
  refine if_neg ?_
  cases h : fireRank (comp s k)
  · simp [h] at hrank
  · simp

theorem fireRank_of_head {s : State} {k : Nat} (h : (fireOrder s).head? = some k) : (fireRank (comp s k)).isSome = true := by
  have hmem := List.mem_of_head? h
  simp only [fireOrder, List.mem_flatMap, List.mem_filter, Bool.and_eq_true, beq_iff_eq] at hmem
  obtain ⟨r, _, _, hrank, _⟩ := hmem
  rw [hrank]
  rfl

theorem takeWhile_of_head {l : List Nat} {k : Nat} (h : l.head? = some k) : l.takeWhile (fun j => j != k) = [] := by
  cases l with
  | nil => rfl
  | cons a r =>
    cases h
    simp

/-- A comparator that goes first fires alone (01 R26, R27). -/
theorem comparatorFire_first {s : State} {k : Nat} {x : FireIn} (hheld : s.boot.held = false)
    (hfirst : (fireOrder (toClk (comp s k).instant s)).head? = some k) : Completes (.comparatorFire k x) s
      (fireComp (toClk (comp s k).instant s) x k (comp s k)) := by
  have hrank := fireRank_of_head hfirst
  have hdone := comparatorFire_completes (x := x) hheld (comp_toClk _ k s ▸ hrank)
  rw [takeWhile_of_head hfirst, List.foldl_nil] at hdone
  have hdue : (comp (toClk (comp s k).instant s) k).instant ≤ now (toClk (comp s k).instant s) := by
    rw [comp_toClk]
    exact toClk_reached _ s
  unfold fireDue at hdone
  rwa [if_pos (by simp [hrank, hdue]), comp_toClk] at hdone

end Sys2Proof.Machine

namespace Sys2Proof.Proofs

open Sys2Proof.Machine Sys2Proof.Safety

/-- Settles O10: the stamps, `takeComp` for each command, and a first comparator's firing by its use. -/
theorem triggersAndComparators : Obligations.TriggersAndComparators := by
  unfold Obligations.TriggersAndComparators
  refine ⟨⟨fun s k rising subns hheld hk hsub hsel q hq => ⟨fun h => ?_, fun h => ?_⟩,
      fun s k rising subns hheld hk hsel => ?_, fun p s a c w H hp hroom =>
        answers_ok (h := trigInReadRule) H (trigInReadRule_of_payload hp) hroom⟩,
    ⟨fun p s a c o hi sec ns per w H hp hroom => ⟨fun hmode => ?_, fun hmode hw => ?_, fun hmode hpast => ?_,
        fun first hw h => answers_takeComp (h := trigOutSetRule) H (trigOutSetRule_of_fit hp hw h) hroom⟩,
      fun p s a c hi sec ns H hp hns hroom =>
        answers_takeComp (h := recSnapAtRule) H (recSnapAtRule_of_payload hp hns) hroom,
      fun p s a c hi sec ns per cnt l first H hp hlen hns hkind hdmode hkeyc hmay hmax hlength hroom hper =>
        answers_takeComp (h := cycleSetRule) H
          (cycleSetRule_of_payload hp hlen hns hkind hdmode hkeyc hmay hmax hlength hper) hroom,
      fun p s a c w H hp => ⟨fun h => ?_, fun h => ?_, fun u hu hne => ?_⟩⟩,
    fun s k x hheld hk => ⟨comparatorFire_completes hheld, fun hfirst => ?_⟩⟩
  · have hdone := trigInEdge_completes (rising := rising) hheld hk hsub hsel hq
    rwa [if_neg (by simp [h])] at hdone
  · have hdone := trigInEdge_completes (rising := rising) hheld hk hsub hsel hq
    rwa [if_pos h] at hdone
  · refine completes_act (by unfold exec execTrigInEdge; rfl) hheld ?_
    exact if_pos (.inr hsel)
  · exact answers_ok (h := trigOutSetRule) H ((trigOutSetRule_of_payload hp).trans (if_pos hmode)) hroom
  · exact answers_no (h := trigOutSetRule) H rfl (trigOutSetRule_of_narrow hp hmode hw)
  · exact answers_no (h := trigOutSetRule) H rfl (trigOutSetRule_of_past hp hmode hpast)
  · exact answers_ok_nil (h := cmpFreeRule) H (by rw [cmpFreeRule_of_payload hp, h])
  · exact answers_no (h := cmpFreeRule) H rfl (by rw [cmpFreeRule_of_payload hp, h])
  · refine answers_ok_nil (h := cmpFreeRule) H ?_
    rw [cmpFreeRule_of_payload hp, hu]
    cases u with
    | snap => exact absurd rfl hne
    | trig => rfl
    | cycle => rfl
  · have hdone := comparatorFire_first (x := x) hheld hfirst
    have hvalid : (toClk (comp s k).instant s).time.valid = s.time.valid := (toClk_marks _ s).2.2.2
    have hk1 : k < (toClk (comp s k).instant s).time.comps.length := by rwa [comps_length_toClk]
    generalize toClk (comp s k).instant s = s1 at hdone hvalid hk1
    have hmissed := comp_compMissed (s := s1) (comp s k) hk1
    unfold fireComp at hdone
    refine ⟨fun o per w hu hv => ?_, fun o per w hu hv => ?_, fun hu hv => ?_,
      fun owner per cnt n p op keyc hu hv => ⟨fun hlast => ?_, fun hper hgo => ?_⟩, fun hv => ⟨fun h => ?_, fun d h => ?_⟩⟩
    · simp only [hu, hvalid, hv] at hdone
      exact hdone
    · simp only [hu, hvalid, hv] at hdone
      rw [← hu] at hdone
      exact hdone
    · simp only [hu, hvalid, hv] at hdone
      exact hdone
    · have hl : (per == 0 || (cnt != 0 && decide (cnt ≤ n + 1))) = true := by simpa using hlast
      simp only [hu, hvalid, hv, hl] at hdone
      exact hdone
    · have hl : (per == 0 || (cnt != 0 && decide (cnt ≤ n + 1))) = false := by
        obtain h | h := hgo
        · simp [hper, h]
        · simp [hper, Nat.not_le.mpr h]
      simp only [hu, hvalid, hv, hl] at hdone
      exact hdone
    · refine ⟨compMissed s1 k (comp s k), ?_, by rw [hmissed]; rfl, by rw [hmissed]⟩
      obtain ⟨o, per, w, hu⟩ | hu | ⟨owner, cnt, n, p, op, keyc, hu⟩ := h
      · simp only [hu, hvalid, hv] at hdone
        exact hdone
      · simp only [hu, hvalid, hv] at hdone
        exact hdone
      · simp only [hu, hvalid, hv] at hdone
        exact hdone
    · obtain ⟨o, w, hu⟩ | ⟨owner, per, cnt, n, p, op, keyc, hu, hper, hd⟩ := h
      · simp only [hu, hvalid, hv] at hdone
        rw [← hu] at hdone
        exact hdone
      · subst hd
        simp only [hu, hvalid, hv, if_neg hper] at hdone
        rw [← hu] at hdone
        exact hdone

end Sys2Proof.Proofs
end

section
/-! Tile rectangles and regions (04 R72; 10 R221 to R238). -/

namespace Sys2Proof.Machine

open Sys2Proof.Safety

/-! ### Tile rectangles (04 R72) -/

/-- The rectangle that TILE_RECT names. -/
def rectNamed (w0 w1 w2 : Word) : Rect :=
  { na := BitVec.ofNat 16 (fld w0 31 16), xb := fld w1 31 16, yb := fld w1 15 0
    wtb := fld w2 31 16, htb := fld w2 15 0, fresh := true }

theorem tileRectRule_of_payload {c : CmdRef} {p : Smb} {a : State} {w0 w1 w2 : Word} (hp : p.payload = [w0, w1, w2]) :
    tileRectRule c p a =
      let r := rectNamed w0 w1 w2
      let others := (rectsSoon a).filter (fun x => x.na != r.na)
      if !a.flume.enrolled.any (fun e => e.1 == r.na) then .no a stBadParam
      else if (r.wtb == 0) != (r.htb == 0) || decide (64 < r.wtb) || decide (48 < r.htb) then .no a stBadParam
      else if !(r.wtb == 0) && !(decide (r.xb + r.wtb ≤ (tablesSoon a).wb) && decide (r.yb + r.htb ≤ (tablesSoon a).hb)) then
        .no a stBadParam
      else if !(r.wtb == 0) && (others.any (fun x => rectsOverlap x r) || decide (512 ≤ others.length)) then
        .no a stBadParam
      else .pend { a with canvas := { a.canvas with stagedRects := a.canvas.stagedRects ++ [(r, now a, c)] } } := by
  unfold tileRectRule
  rw [withLen_of_length_eq (by rw [hp]; rfl)]
  simp only [pw, hp]
  rfl

/-- A check that fails refuses TILE_RECT, whichever other fails too. -/
theorem tileRectRule_refuses {c : CmdRef} {p : Smb} {a : State} {w0 w1 w2 : Word} (hp : p.payload = [w0, w1, w2])
    (h : a.flume.enrolled.any (fun e => e.1 == (rectNamed w0 w1 w2).na) = false
      ∨ ((fld w2 31 16 == 0) != (fld w2 15 0 == 0) || decide (64 < fld w2 31 16) || decide (48 < fld w2 15 0)) = true
      ∨ (fld w2 31 16 ≠ 0 ∧ ((tablesSoon a).wb < fld w1 31 16 + fld w2 31 16
        ∨ (tablesSoon a).hb < fld w1 15 0 + fld w2 15 0))
      ∨ (fld w2 31 16 ≠ 0 ∧ (((rectsSoon a).filter (fun x => x.na != (rectNamed w0 w1 w2).na)).any
          (fun x => rectsOverlap x (rectNamed w0 w1 w2)) = true
        ∨ 512 ≤ ((rectsSoon a).filter (fun x => x.na != (rectNamed w0 w1 w2).na)).length))) :
    tileRectRule c p a = .no a stBadParam := by
  refine (tileRectRule_of_payload hp).trans ?_
  refine ite_eq_left_iff.mpr fun h1 => ite_eq_left_iff.mpr fun h2 => ite_eq_left_iff.mpr fun h3 => if_pos ?_
  obtain h | h | ⟨hne, h⟩ | ⟨hne, h⟩ := h
  · exact absurd (by rw [h]; rfl) h1
  · exact absurd h h2
  · refine absurd ?_ h3
    simp only [Bool.and_eq_true, Bool.not_eq_true', beq_eq_false_iff_ne, Bool.and_eq_false_iff, decide_eq_false_iff_not,
      not_le]
    exact ⟨hne, h⟩
  · simp only [Bool.and_eq_true, Bool.not_eq_true', beq_eq_false_iff_ne, Bool.or_eq_true, decide_eq_true_eq]
    exact ⟨hne, h⟩

theorem tileRectRule_stages {c : CmdRef} {p : Smb} {a : State} {w0 w1 w2 : Word} (hp : p.payload = [w0, w1, w2])
    (henrolled : a.flume.enrolled.any (fun e => e.1 == (rectNamed w0 w1 w2).na) = true)
    (hdims : ((fld w2 31 16 == 0) != (fld w2 15 0 == 0) || decide (64 < fld w2 31 16) || decide (48 < fld w2 15 0)) = false)
    (hfits : fld w2 31 16 = 0 ∨ (fld w1 31 16 + fld w2 31 16 ≤ (tablesSoon a).wb
      ∧ fld w1 15 0 + fld w2 15 0 ≤ (tablesSoon a).hb
      ∧ ((rectsSoon a).filter (fun x => x.na != (rectNamed w0 w1 w2).na)).any
          (fun x => rectsOverlap x (rectNamed w0 w1 w2)) = false
      ∧ ((rectsSoon a).filter (fun x => x.na != (rectNamed w0 w1 w2).na)).length < 512)) : tileRectRule c p a =
      .pend { a with canvas := { a.canvas with
        stagedRects := a.canvas.stagedRects ++ [(rectNamed w0 w1 w2, now a, c)] } } := by
  refine (tileRectRule_of_payload hp).trans ((if_neg (by rw [henrolled]; decide)).trans
    ((if_neg (ne_true_of_eq_false hdims)).trans ((if_neg ?_).trans (if_neg ?_))))
  · obtain h | ⟨hx, hy, _, _⟩ := hfits
    · have h0 : ((rectNamed w0 w1 w2).wtb == 0) = true := beq_iff_eq.mpr h
      simp [h0]
    · simp [rectNamed, hx, hy]
  · obtain h | ⟨_, _, hover, hlen⟩ := hfits
    · have h0 : ((rectNamed w0 w1 w2).wtb == 0) = true := beq_iff_eq.mpr h
      simp [h0]
    · rw [hover]
      simp [Nat.not_le.mpr hlen]

/-! ### Regions (10 R221 to R223) -/

theorem sluiceAsk_canvas (s : State) (op : HeavyOp) (cls chip lamp : Nat) :
    (sluiceAsk s op cls chip lamp).1.canvas = s.canvas := by
  unfold sluiceAsk
  extract_lets c slu s1
  split
  · rfl
  · split <;> rfl

theorem flashAsk_canvas (s : State) (op : FlashOp) (ref : Option CmdRef) (cls : Nat) (free : Bool) :
    (flashAsk s op ref cls free).1.canvas = s.canvas := by
  unfold flashAsk
  split
  · rfl
  · split
    · rfl
    · have h := sluiceAsk_canvas s (.flash s.fl.next) cls 5 0
      split
      · next hask => rw [hask] at h; exact h
      · next hask => rw [hask] at h; exact h
      · next hask => rw [hask] at h; exact h

theorem keepSettings_canvas (s : State) : (keepSettings s).canvas = s.canvas := by
  unfold keepSettings settingsAsk
  split
  · rfl
  · exact flashAsk_canvas _ _ _ _ _

theorem reply_canvas (s : State) (c : CmdRef) (via : Via) (st : Nat) (words : List Word) :
    (reply s c via st words).canvas = s.canvas := (told_reply s c via st words).canvas

theorem regionDefineRule_removes {c : CmdRef} {p : Smb} {a : State} {w : List Word} {o : Region}
    (hp : p.payload.length = 4) (hw : w = rgClean p.payload) (hen : rgEn w = false) (ho : regionOf a (rgNum w) = some o) :
    regionDefineRule c p a = ⟨stOk, [], keepSettings { a with flume := { a.flume with
        regions := a.flume.regions.filter (fun x => x.num != rgNum w) } }, false, fun t =>
      t.canvas.rects.foldl (fun u r => sendRegionChange u r (some o.words) none (some c)) t⟩ := by
  subst hw
  unfold regionDefineRule
  rw [withLen_of_length_eq hp]
  simp only [hen, ho]
  rfl

/-- What REGION_DEFINE keeps with EN 1. -/
def regionKept (a : State) (w : List Word) (c : CmdRef) (x : Region) : State :=
  keepSettings { a with flume := { a.flume with
    regions := x :: a.flume.regions.filter (fun x => x.num != rgNum w)
    defining := a.flume.defining ++ [(rgNum w, c)] } }

theorem regionDefineRule_defines {c : CmdRef} {p : Smb} {a : State} {w : List Word} {x : Region}
    (hp : p.payload.length = 4) (hw : w = rgClean p.payload) (hen : rgEn w = true) (hrange : rgRangeOk w = true)
    (hx : rgXb w + rgWb w ≤ getF a cmpCanvas 27 16) (hy : rgYb w + rgHb w ≤ getF a cmpCanvas 10 0)
    (hfew : tooManyRegions a w = false) (hreg : x = (match regionOf a (rgNum w) with
        | some o => { o with words := w }
        | none => { num := rgNum w, words := w, fails := [], vouched := [] })) : regionDefineRule c p a =
      ⟨stPending, [], regionKept a w c x, false, fun t => regionsAcked (t.canvas.rects.foldl
        (fun u r => sendRegionChange u r ((regionOf a (rgNum w)).map (·.words)) (some w) (some c)) t)⟩ := by
  subst hw hreg
  unfold regionDefineRule
  rw [withLen_of_length_eq hp]
  refine (if_neg (by simp [hen])).trans ((if_neg (by simp [hrange])).trans ((if_neg (by omega)).trans
    ((if_neg (by simp [hfew])).trans rfl)))

theorem regionDefineRule_refuses {c : CmdRef} {p : Smb} {a : State} {w : List Word}
    (hp : p.payload.length = 4) (hw : w = rgClean p.payload) (hen : rgEn w = true)
    (h : rgRangeOk w = false ∨ getF a cmpCanvas 27 16 < rgXb w + rgWb w ∨ getF a cmpCanvas 10 0 < rgYb w + rgHb w
      ∨ tooManyRegions a w = true) : regionDefineRule c p a = .no a stBadParam := by
  subst hw
  unfold regionDefineRule
  rw [withLen_of_length_eq hp]
  refine (if_neg (by simp [hen])).trans ?_
  refine ite_eq_left_iff.mpr fun h1 => ite_eq_left_iff.mpr fun h2 => if_pos ?_
  obtain h | h | h | h := h
  · exact absurd (by rw [h]; rfl) h1
  · exact absurd (.inl h) h2
  · exact absurd (.inr h) h2
  · exact h

theorem regionReadRule_of_payload {c : CmdRef} {p : Smb} {a : State} {w : Word} (hp : p.payload = [w]) :
    regionReadRule c p a =
      if a.id.sender then
        match regionOf a (fld w 11 0) with
        | none => .no a stNotInState
        | some g => .ok a (g.words ++ (List.range 8).map (fun c => w32 ((look c g.fails).getD 0)))
      else .ok a (regionWords a (fld w 11 0)) := by
  unfold regionReadRule
  rw [withLen_of_length_eq (by rw [hp]; rfl)]
  simp only [pw, hp]
  rfl

theorem rectReadRule_of_payload {c : CmdRef} {p : Smb} {a : State} {w : Word} (hp : p.payload = [w]) :
    rectReadRule c p a = match rectOf a (BitVec.ofNat 16 (fld w 31 16)) with
      | none => .no a stNotInState
      | some r => .ok a [mkFld 31 16 r.na.toNat, mkFld 31 16 r.xb ||| w32 r.yb, mkFld 31 16 r.wtb ||| w32 r.htb] := by
  unfold rectReadRule
  rw [withLen_of_length_eq (by rw [hp]; rfl)]
  simp only [pw, hp]
  rfl

/-! ### Certificates at a tile (05 R100, R112) -/

theorem tileIn_of_beyond {s : State} {t : Nat} {k : LinkPkt} {h : FlumeHdr} {b : List Byte}
    (hb : flumeBody k t = some (h, b)) (hlevel : h.level < ownLow s ∨ ownHigh s < h.level) : tileIn s t k = none := by
  unfold tileIn
  rw [hb]
  refine ite_eq_left_iff.mpr fun _ => if_neg ?_
  have hout : (decide (ownLow s ≤ h.level) && decide (h.level ≤ ownHigh s)) = false := by
    rw [Bool.and_eq_false_iff, decide_eq_false_iff_not, decide_eq_false_iff_not]
    omega
  rw [Bool.and_assoc, hout, Bool.and_false]
  exact Bool.false_ne_true

theorem tileIn_of_chain {s : State} {t : Nat} {k : LinkPkt} {h : FlumeHdr} {b : List Byte} (ht : t ≠ 1)
    (hb : flumeBody k t = some (h, b)) (htile : s.id.sender = false) (hrec : inRecovery s = false)
    (hown : ownRail s k = true) (hcast : h.bcast = true) (hroute : h.route.toNat / 2 ^ 37 = plChain s.id.place)
    (hlow : ownLow s ≤ h.level) (hhigh : h.level ≤ ownHigh s) : tileIn s t k = some (h, b) := by
  unfold tileIn
  rw [hb]
  refine (if_neg (by simp [htile, hrec, hown])).trans ?_
  simp only [if_neg ht]
  rw [hcast, hroute]
  exact if_pos (by simp [hlow, hhigh])

theorem certificateReceived_completes {s u : State} {k : LinkPkt} (hheld : s.boot.held = false)
    (hu : (match tileIn s 3 k with
      | none => s
      | some (_, b) => match readCert b with
        | some c => c.ents.foldl (certEntry c) s
        | none => s) = u) : Completes (.certificateReceived k.toLinkStart k.toLinkRest) s u := by
  refine completes_act (by unfold exec execCertificateReceived; rfl) hheld ?_
  exact hu

end Sys2Proof.Machine

namespace Sys2Proof.Proofs

open Sys2Proof.Machine Sys2Proof.Safety

/-- Settles O12: the checks of TILE_RECT and REGION_DEFINE one by one, and what a tile takes of its chain. -/
theorem rectanglesAndRegions : Obligations.RectanglesAndRegions := by
  unfold Obligations.RectanglesAndRegions
  refine ⟨⟨fun p s a c w0 w1 w2 H hp => ⟨fun h => ?_, fun h hw hh => ?_, fun h hw hh hfit => ?_, fun h => ?_⟩,
      fun p s a c w0 w1 w2 H hp henr hw hw64 hh hh48 hx hy r hr hfew => ⟨fun hfree => ?_, fun hover => ?_⟩,
      fun p s a c w H hp => ⟨fun r hr hroom => ?_, fun h => ?_⟩⟩,
    fun p s a c w H hp hw => ⟨fun hen => ⟨fun hnone => ?_, fun o ho => ?_⟩, fun hen hrange hx hy hfew x hreg => ?_,
      fun hen h => ?_⟩,
    fun p s a c w H hp => ⟨fun hs hnone => ?_, fun g hs hg hroom => ?_, fun hs hroom => ?_⟩,
    fun r s hheld htile => ?_,
    fun k h b x s hheld hb hx => ⟨fun htile hrec hown hcast hroute hlow hhigh => ?_, fun hlevel => ?_⟩,
    fun n s r d hheld hr hd hfresh => ?_, fun n s hheld h => ?_⟩
  · exact answers_no (h := tileRectRule) H rfl (tileRectRule_refuses hp (.inl h))
  · refine answers_pend (h := tileRectRule) H ((tileRectRule_stages hp h (by simp [hw, hh]) (.inl hw)).trans ?_)
    rw [rectNamed, hw, hh]
  · exact answers_no (h := tileRectRule) H rfl (tileRectRule_refuses hp (.inr (.inr (.inl ⟨by omega, hfit⟩))))
  · refine answers_no (h := tileRectRule) H rfl (tileRectRule_refuses hp ?_)
    obtain ⟨h0, h1⟩ | ⟨h0, h1⟩ | h | h | ⟨h1, h⟩ := h
    · exact .inr (.inl (by simp [h0, h1]))
    · exact .inr (.inl (by simp [h0, h1]))
    · exact .inr (.inl (by simp [h]))
    · exact .inr (.inl (by simp [h]))
    · exact .inr (.inr (.inr ⟨by omega, .inr h⟩))
  · subst hr
    refine answers_pend (h := tileRectRule) H (tileRectRule_stages hp henr ?_ (.inr ⟨hx, hy, ?_, hfew⟩))
    · have hw0 : fld w2 31 16 ≠ 0 := by omega
      have hh0 : fld w2 15 0 ≠ 0 := by omega
      simp [hw0, hh0, hw64, hh48]
    · rw [List.any_filter]
      exact hfree
  · subst hr
    refine answers_no (h := tileRectRule) H rfl (tileRectRule_refuses hp (.inr (.inr (.inr ⟨by omega, .inl ?_⟩))))
    rw [List.any_filter]
    exact hover
  · exact answers_ok (h := rectReadRule) H (by rw [rectReadRule_of_payload hp, hr]) hroom
  · exact answers_no (h := rectReadRule) H rfl (by rw [rectReadRule_of_payload hp, h])
  · subst hw
    refine answers_ok_nil (h := regionDefineRule) H ((withLen_of_length_eq hp).trans ?_)
    simp only [hen, hnone]
    rfl
  · have hdone := answers_post (h := regionDefineRule) H rfl (regionDefineRule_removes hp hw hen ho)
    rw [reply_canvas, keepSettings_canvas] at hdone
    exact hdone
  · have hdone := answers_post (h := regionDefineRule) H rfl
      (regionDefineRule_defines hp hw hen hrange hx hy hfew hreg)
    rw [reply_canvas, regionKept, keepSettings_canvas] at hdone
    exact hdone
  · exact answers_no (h := regionDefineRule) H rfl (regionDefineRule_refuses hp hw hen h)
  · refine answers_no (h := regionReadRule) H rfl ((regionReadRule_of_payload hp).trans ((if_pos hs).trans ?_))
    rw [hnone]
  · refine answers_ok (h := regionReadRule) H ((regionReadRule_of_payload hp).trans ((if_pos hs).trans ?_)) hroom
    rw [hg]
  · exact answers_ok (h := regionReadRule) H ((regionReadRule_of_payload hp).trans (if_neg (by simp [hs]))) hroom
  · refine completes_act (by unfold exec execRegionSetReceived; rfl) hheld ?_
    exact if_neg (by simp [htile])
  · refine certificateReceived_completes hheld ?_
    rw [tileIn_of_chain (by decide) hb htile hrec hown hcast hroute hlow hhigh]
    simp only [hx]
  · refine certificateReceived_completes hheld ?_
    rw [tileIn_of_beyond hb hlevel]
  · refine completes_act (by unfold exec execRegionDeadline; rfl) hheld ?_
    simp only [hr, hd, hfresh]
    rfl
  · refine completes_act (by unfold exec execRegionDeadline; rfl) hheld ?_
    obtain h | ⟨r, hr, h⟩ := h
    · rw [h]
    · simp only [hr]
      cases hd : r.deadline with
      | none => rfl
      | some d => exact if_pos (h.resolve_left (by simp [hd]))

end Sys2Proof.Proofs
end

section
/-! Badger fields and glyphs (08 R169 to R174). -/

namespace Sys2Proof.Machine

open Sys2Proof.Safety

theorem badgerAsk_queued {s t : State} {x : BdgChange} {c : CmdRef}
    (hask : flashAsk s (.badger x) (some c) 1 false = (t, stPending)) : badgerAsk s x c = .pend t := by
  unfold badgerAsk
  rw [hask]
  rfl

theorem fieldRemoveRule_of_payload {c : CmdRef} {p : Smb} {a : State} {w : Word} (hp : p.payload = [w]) :
    fieldRemoveRule c p a =
      let n := fld w 31 24
      let coming := flashBusy a (fun o => match o with | .badger (.define f _) => f == n | _ => false)
        || a.changes.any (fun x => match x.what with | .badger (.define f _) => f == n | _ => false)
      if 43 < n then .no a stBadParam
      else if (fieldAt a n).isNone && !coming then .ok a []
      else badgerAsk a (.remove n) c := by
  unfold fieldRemoveRule
  rw [withLen_of_length_eq (by rw [hp]; rfl)]
  simp only [pw, hp]
  rfl

theorem fieldReadRule_of_payload {c : CmdRef} {p : Smb} {a : State} {w : Word} (hp : p.payload = [w]) :
    fieldReadRule c p a = match fieldAt a (fld w 31 24) with
      | some f => .ok a f.words
      | none => .no a stNotInState := by
  unfold fieldReadRule
  rw [withLen_of_length_eq (by rw [hp]; rfl)]
  simp only [pw, hp]
  rfl

/-- GLYPH_WRITE of a size that is allowed, with the words of that size (08 R173). -/
theorem glyphWriteRule_of_payload {c : CmdRef} {p : Smb} {a : State} {w : Word} {l : List Word} (hp : p.payload = w :: l)
    (hw1 : 1 ≤ fld w 15 8) (hw64 : fld w 15 8 ≤ 64) (hh1 : 1 ≤ fld w 7 0) (hh64 : fld w 7 0 ≤ 64)
    (hl : l.length = glyphLen (fld w 15 8) (fld w 7 0)) : glyphWriteRule c p a =
      if 4096 < unitsUsed ((glyphsSoon a).filter (fun g => g.index ≠ fld w 25 16)) + glyphUnits (fld w 15 8) (fld w 7 0) then
        .no a stBadParam
      else match glyphConflict a (fld w 25 16) with
        | some x =>
          if (glyphsSoon a).any (fun g => g.index == fld w 25 16 && g.size != fld w 15 8 * 256 + fld w 7 0) then
            .noW a stConflict [x]
          else badgerAsk a (.glyph ⟨fld w 25 16, fld w 15 8 * 256 + fld w 7 0, l⟩) c
        | none => badgerAsk a (.glyph ⟨fld w 25 16, fld w 15 8 * 256 + fld w 7 0, l⟩) c := by
  unfold glyphWriteRule
  simp only [pw, hp, List.length_cons, List.getD_cons_zero, List.drop_succ_cons, List.drop_zero]
  exact (if_neg (by omega)).trans ((if_neg (by omega)).trans (if_neg (by omega)))

theorem glyphEraseRule_of_payload {c : CmdRef} {p : Smb} {a : State} {w : Word} (hp : p.payload = [w]) :
    glyphEraseRule c p a = match glyphConflict a (fld w 9 0) with
      | some x => .noW a stConflict [x]
      | none => badgerAsk a (.erase (fld w 9 0)) c := by
  unfold glyphEraseRule
  rw [withLen_of_length_eq (by rw [hp]; rfl)]
  simp only [pw, hp]
  rfl

theorem glyphRomReadRule_of_payload {c : CmdRef} {p : Smb} {a : State} {w : Word} (hp : p.payload = [w]) :
    glyphRomReadRule c p a =
      if !romCodeOk (fld w 15 0) then .no a stBadParam
      else .ok a (w32 ((cellOf (fld w 15 0 / 4096)).1 * 256 + (cellOf (fld w 15 0 / 4096)).2) :: romWords (fld w 15 0)) := by
  unfold glyphRomReadRule
  rw [withLen_of_length_eq (by rw [hp]; rfl)]
  simp only [pw, hp]
  rfl

end Sys2Proof.Machine

namespace Sys2Proof.Proofs

open Sys2Proof.Machine Sys2Proof.Safety

/-- Settles O18: each rule on its payload, with what the flash queue answers. -/
theorem fieldsAndGlyphs : Obligations.FieldsAndGlyphs := by
  unfold Obligations.FieldsAndGlyphs
  refine ⟨fun p s a c H hp => ⟨fun hok t hask => ?_, fun hno => ?_⟩,
    fun p s a c w H hp => ⟨fun h43 hsome t hask => ?_, fun h => ?_, fun h43 hnone hq hch => ?_⟩,
    fun p s a c w H hp => ⟨fun f hf hroom => ?_, fun hnone => ?_⟩,
    fun p s a c w l H hp hw1 hw64 hh1 hh64 hl => ⟨fun hroom hfree t hask => ?_, fun hfull => ?_,
      fun hroom hsized x hx => ?_⟩,
    fun p s a c w H hp => ⟨fun x hx => ?_, fun hnone t hask => ?_⟩,
    fun p s a c w H hp => ⟨fun hok l hl hroom => ?_, fun hno => ?_⟩⟩
  · exact answers_pend (h := fieldDefineRule) H ((withLen_of_length_eq hp).trans
      ((if_neg (by simp [hok])).trans (badgerAsk_queued hask)))
  · exact answers_no (h := fieldDefineRule) H rfl ((withLen_of_length_eq hp).trans (if_pos (by simp [hno])))
  · refine answers_pend (h := fieldRemoveRule) H ((fieldRemoveRule_of_payload hp).trans
      ((if_neg (by omega)).trans ((if_neg ?_).trans (badgerAsk_queued hask))))
    obtain ⟨f, hf⟩ := Option.isSome_iff_exists.mp hsome
    simp [hf]
  · exact answers_no (h := fieldRemoveRule) H rfl ((fieldRemoveRule_of_payload hp).trans (if_pos h))
  · refine answers_ok_nil (h := fieldRemoveRule) H ((fieldRemoveRule_of_payload hp).trans
      ((if_neg (by omega)).trans (if_pos ?_)))
    simp [hnone, flashBusy, hq, hch]
  · exact answers_ok (h := fieldReadRule) H (by rw [fieldReadRule_of_payload hp, hf]) hroom
  · exact answers_no (h := fieldReadRule) H rfl (by rw [fieldReadRule_of_payload hp, hnone])
  · refine answers_pend (h := glyphWriteRule) H ((glyphWriteRule_of_payload hp hw1 hw64 hh1 hh64 hl).trans
      ((if_neg (not_lt.mpr hroom)).trans ?_))
    rw [hfree]
    exact badgerAsk_queued hask
  · exact answers_no (h := glyphWriteRule) H rfl ((glyphWriteRule_of_payload hp hw1 hw64 hh1 hh64 hl).trans (if_pos hfull))
  · refine answers_noW (h := glyphWriteRule) H rfl ((glyphWriteRule_of_payload hp hw1 hw64 hh1 hh64 hl).trans
      ((if_neg (not_lt.mpr hroom)).trans ?_))
    rw [hx]
    exact if_pos hsized
  · exact answers_noW (h := glyphEraseRule) H rfl (by rw [glyphEraseRule_of_payload hp, hx])
  · exact answers_pend (h := glyphEraseRule) H (by rw [glyphEraseRule_of_payload hp, hnone]; exact badgerAsk_queued hask)
  · subst hl
    exact answers_ok (h := glyphRomReadRule) H ((glyphRomReadRule_of_payload hp).trans (if_neg (by simp [hok]))) hroom
  · exact answers_no (h := glyphRomReadRule) H rfl ((glyphRomReadRule_of_payload hp).trans (if_pos (by simp [hno])))

end Sys2Proof.Proofs
end

section
/-! Values of fields, pattern engines and the test pattern (08 R168, R175 to R189). -/

namespace Sys2Proof.Machine

open Sys2Proof.Safety

theorem isRefusal_of_atFault {a : State} {w : Word} {st : Nat} (h : atFault a w = some st) : isRefusal st = true := by
  unfold atFault at h
  split at h
  · cases h
  · split at h
    · cases h
      rfl
    · split at h
      · cases h
        rfl
      · cases h

theorem atFault_of_in_time {a : State} {w : Word} (h : w = 0 ∨ (a.time.valid = true ∧
    4 * sdiff w (nowW a) ≤ 8 * 10 ^ 9 ∧ -(10 ^ 9) ≤ 4 * sdiff w (nowW a))) : atFault a w = none := by
  unfold atFault
  obtain h | ⟨hv, hmax, hmin⟩ := h
  · exact if_pos h
  · refine ite_eq_left_iff.mpr fun _ => (if_neg (by simp [hv])).trans (if_neg ?_)
    omega

theorem atFault_of_invalid {a : State} {w : Word} (hw : w ≠ 0) (hv : a.time.valid = false) :
    atFault a w = some stNotInState := (if_neg hw).trans (if_pos (by simp [hv]))

theorem atFault_of_far {a : State} {w : Word} (hw : w ≠ 0) (hv : a.time.valid = true)
    (h : 8 * 10 ^ 9 < 4 * sdiff w (nowW a) ∨ 4 * sdiff w (nowW a) < -(10 ^ 9)) : atFault a w = some stBadParam :=
  (if_neg hw).trans ((if_neg (by simp [hv])).trans (if_pos h))

/-- BADGER_VALUES with a packet that parses (08 R175). -/
theorem badgerValuesRule_of_payload {c : CmdRef} {p : Smb} {a : State} {at_ n : Word} {l : List Word} {ents : List ValEnt}
    (hp : p.payload = at_ :: n :: l) (hparse : parseValues (fld n 31 16) l = some ents) (h1 : 1 ≤ fld n 31 16)
    (h44 : fld n 31 16 ≤ 44) : badgerValuesRule c p a =
      match firstBad (badgerSoon a) 0 [] ents, atFault a at_ with
      | none, none => .pend (proposeValues (ents.foldl (fun t e => renewField t e.field) a) c at_ ents)
      | some k, none => .noW a stBadParam [w32 k]
      | none, some st => .noW a st [0xFFFFFFFF]
      | some k, some st =>
        if Config.timeFirst (takeFree a).1 then .noW (takeFree a).2 st [0xFFFFFFFF]
        else .noW (takeFree a).2 stBadParam [w32 k] := by
  unfold badgerValuesRule
  simp only [pw, hp, List.length_cons, List.getD_cons_zero, List.getD_cons_succ, List.drop_succ_cons, List.drop_zero,
    hparse]
  exact (if_neg (by omega)).trans (if_neg (by omega))

end Sys2Proof.Machine

namespace Sys2Proof.Proofs

open Sys2Proof.Machine Sys2Proof.Safety

/-- Settles O19: the entries and the time of a value packet, and the buffers of engines and the test pattern. -/
theorem overlayContents : Obligations.OverlayContents := by
  unfold Obligations.OverlayContents
  refine ⟨⟨fun p s a c at_ n l ents H hp hparse h1 h44 => ⟨fun hgood hat => ?_, fun k hbad hat => ?_, fun st hgood hat => ?_,
        fun k st hbad hat => ?_, fun hw hv => atFault_of_invalid hw hv, fun hw hv h => atFault_of_far hw hv h⟩,
      fun s n f d hheld hf hd => ⟨fun hdue => ?_, fun hdue => ?_⟩⟩,
    fun p s a c w H hp hw => ⟨fun hno => ?_, fun hok => ⟨fun h => ?_, fun hmode hfull => ?_⟩⟩,
    fun p s a c w H hp hw => ⟨fun h => ?_, fun hpitch hkind hfull => ?_, fun hpitch h t hask => ?_⟩⟩
  · refine answers_pend (h := badgerValuesRule) H ((badgerValuesRule_of_payload hp hparse h1 h44).trans ?_)
    rw [hgood, atFault_of_in_time hat]
  · exact answers_noW (h := badgerValuesRule) H rfl (by rw [badgerValuesRule_of_payload hp hparse h1 h44, hbad, hat])
  · exact answers_noW (h := badgerValuesRule) H (isRefusal_of_atFault hat)
      (by rw [badgerValuesRule_of_payload hp hparse h1 h44, hgood, hat])
  · have hrule := badgerValuesRule_of_payload (c := c) (a := a) hp hparse h1 h44
    rw [hbad, hat] at hrule
    by_cases hfirst : Config.timeFirst (takeFree a).1 = true
    · exact .inr (answers_noW (h := badgerValuesRule) H (isRefusal_of_atFault hat) (hrule.trans (if_pos hfirst)))
    · exact .inl (answers_noW (h := badgerValuesRule) H rfl (hrule.trans (if_neg hfirst)))
  · refine completes_act (by unfold exec execFieldDeadline; rfl) hheld ?_
    simp only [hf, hd, hdue]
    rfl
  · refine completes_act (by unfold exec execFieldDeadline; rfl) hheld ?_
    simp only [hf, hd, hdue]
    rfl
  · subst hw
    exact answers_no (h := engineSetRule) H rfl ((withLen_of_length_eq hp).trans (if_pos (by simp [hno])))
  · subst hw
    refine answers_pend (h := engineSetRule) H ((withLen_of_length_eq hp).trans ((if_neg (by simp [hok])).trans (if_neg ?_)))
    rintro ⟨hmode, hfull⟩
    obtain h | h := h
    · exact hmode h
    · simp [h] at hfull
  · subst hw
    exact answers_noW (h := engineSetRule) H rfl ((withLen_of_length_eq hp).trans
      ((if_neg (by simp [hok])).trans (if_pos ⟨hmode, hfull⟩)))
  · subst hw
    exact answers_no (h := testPatternRule) H rfl ((withLen_of_length_eq hp).trans (if_pos h))
  · subst hw
    exact answers_noW (h := testPatternRule) H rfl ((withLen_of_length_eq hp).trans
      ((if_neg (by omega)).trans (if_pos ⟨hkind, hfull⟩)))
  · subst hw
    refine answers_pend (h := testPatternRule) H ((withLen_of_length_eq hp).trans
      ((if_neg (by omega)).trans ((if_neg ?_).trans ?_)))
    · rintro ⟨hkind, hfull⟩
      obtain h | h := h
      · exact hkind h
      · simp [h] at hfull
    · simp only [hask]
      rfl

end Sys2Proof.Proofs
end

section
/-! Lamp drive, lamp policies and failed lamps (09 R211 to R214). -/

namespace Sys2Proof.Machine

open Sys2Proof.Safety

theorem lampDriveRule_of_payload {c : CmdRef} {p : Smb} {a : State} {w : Word} (hp : p.payload = [w]) :
    lampDriveRule c p a =
      if bit w 0 = a.lamp.drive then .ok a []
      else if bit w 0 then
        match driveCheck a with
        | some (st, w) => .noW a st w
        | none => { Res.pend a with post := fun t => driveOn t (some c) }
      else { Res.pend { a with lamp := { a.lamp with drive := false, offRef := some c } } with
        post := fun t => driveDark (driveOnEnd t stNotInState) } := by
  unfold lampDriveRule
  rw [withLen_of_length_eq (by rw [hp]; rfl)]
  simp only [pw, hp]
  rfl

theorem lampPolicyRule_of_payload {c : CmdRef} {p : Smb} {a : State} {w : Word} (hp : p.payload = [w]) :
    lampPolicyRule c p a =
      if getF a lmpCfg 31 30 = 2 then .no a stNotInState
      else if 4095 < fld w 31 16 then .no a stBadParam
      else if fld w 1 0 ≠ 0 ∧ !(policyRegions a).contains (fld w 31 16) ∧ 64 ≤ (policyRegions a).length then
        .no a stBadParam
      else .pend (policyCheck (proposeCmd a c (.policy (fld w 31 16) (fld w 1 0)))) := by
  unfold lampPolicyRule
  rw [withLen_of_length_eq (by rw [hp]; rfl)]
  simp only [pw, hp]
  rfl

theorem lampFailsRule_of_payload {c : CmdRef} {p : Smb} {a : State} {w : Word} {l : List LampX} (hp : p.payload = [w])
    (hl : l = ((failedLamps a).drop (fld w 15 0)).take (min 1024 (replyRoom a p.via / 4 - 2))) : lampFailsRule c p a =
      .ok a ([w32 (failedLamps a).length, w32 l.length] ++ l.map (fun x => failWord a x.lamp (!x.openFail))) := by
  subst hl
  unfold lampFailsRule
  rw [withLen_of_length_eq (by rw [hp]; rfl)]
  simp only [pw, hp]
  rfl

theorem lampClearRule_of_payload {c : CmdRef} {p : Smb} {a : State} {w0 w1 w2 : Word} (hp : p.payload = [w0, w1, w2]) :
    lampClearRule c p a =
      if !bit w0 31 && (fld w2 31 16 == 0 || fld w2 15 0 == 0 || decide (picW a < fld w1 31 16 + fld w2 31 16)
          || decide (picH a < fld w1 15 0 + fld w2 15 0)) then .no a stBadParam
      else .ok (policyCheck (clearLamps a (bit w0 31) (fld w1 31 16) (fld w1 15 0) (fld w2 31 16) (fld w2 15 0))) [] := by
  unfold lampClearRule
  rw [withLen_of_length_eq (by rw [hp]; rfl)]
  simp only [pw, hp]
  rfl

end Sys2Proof.Machine

namespace Sys2Proof.Proofs

open Sys2Proof.Machine Sys2Proof.Safety

/-- Settles O20: each rule on its payload. -/
theorem lampCommands : Obligations.LampCommands := by
  unfold Obligations.LampCommands
  refine ⟨⟨fun p s a c w H hp => ⟨fun hsame => ?_, fun hon hdark => ⟨fun hcheck => ?_, fun st l hcheck href => ?_⟩,
        fun hoff hdrive => ?_⟩,
      fun p s a c w H hp => ⟨fun hmode => ?_, fun hmode => ⟨fun h => ?_, fun h4095 => ⟨fun h => ?_, fun hpol hnew hfull => ?_⟩⟩⟩⟩,
    fun p s a c w l H hp hl hroom => answers_ok (h := lampFailsRule) H (lampFailsRule_of_payload hp hl) hroom,
    fun p s a c w0 w1 w2 H hp ok hok => ⟨fun h => ?_, fun hall hno => ?_⟩⟩
  · exact answers_ok_nil (h := lampDriveRule) H ((lampDriveRule_of_payload hp).trans (if_pos hsame))
  · refine answers_post (h := lampDriveRule) (u := a) (st := stPending) (post := fun t => driveOn t (some c)) H rfl
      ((lampDriveRule_of_payload hp).trans ((if_neg (by simp [hon, hdark])).trans ((if_pos hon).trans ?_)))
    rw [hcheck]
    rfl
  · refine answers_noW (h := lampDriveRule) H href
      ((lampDriveRule_of_payload hp).trans ((if_neg (by simp [hon, hdark])).trans ((if_pos hon).trans ?_)))
    rw [hcheck]
  · exact answers_post (h := lampDriveRule) (u := { a with lamp := { a.lamp with drive := false, offRef := some c } })
      (st := stPending) (post := fun t => driveDark (driveOnEnd t stNotInState)) H rfl
      ((lampDriveRule_of_payload hp).trans ((if_neg (by simp [hoff, hdrive])).trans (if_neg (by simp [hoff]))))
  · exact answers_no (h := lampPolicyRule) H rfl ((lampPolicyRule_of_payload hp).trans (if_pos hmode))
  · exact answers_no (h := lampPolicyRule) H rfl ((lampPolicyRule_of_payload hp).trans ((if_neg hmode).trans (if_pos h)))
  · refine answers_pend (h := lampPolicyRule) H ((lampPolicyRule_of_payload hp).trans
      ((if_neg hmode).trans ((if_neg (by omega)).trans (if_neg ?_))))
    rintro ⟨hpol, hnew, hfull⟩
    obtain h | h | h := h
    · exact hpol h
    · rw [h] at hnew
      cases hnew
    · omega
  · refine answers_no (h := lampPolicyRule) H rfl ((lampPolicyRule_of_payload hp).trans
      ((if_neg hmode).trans ((if_neg (by omega)).trans (if_pos ⟨hpol, ?_, hfull⟩))))
    rw [hnew]
    rfl
  · subst hok
    refine answers_ok_nil (h := lampClearRule) H ((lampClearRule_of_payload hp).trans (if_neg ?_))
    obtain h | ⟨hw, hh, hx, hy⟩ := h
    · simp [h]
    · have hw0 : fld w2 31 16 ≠ 0 := by omega
      have hh0 : fld w2 15 0 ≠ 0 := by omega
      simp [hw0, hh0, hx, hy]
  · subst hok
    refine answers_no (h := lampClearRule) H rfl ((lampClearRule_of_payload hp).trans (if_pos ?_))
    simp only [hall, Bool.not_false, Bool.true_and, Bool.or_eq_true, beq_iff_eq, decide_eq_true_eq]
    omega

end Sys2Proof.Proofs
end

section
/-! The I2C and flash buses of the lamp boards (09 R218, R219; 01 R27, R28). -/

namespace Sys2Proof.Machine

open Sys2Proof.Safety

/-- The I2C bus after LSB_I2C has sent its transfer (09 R218). -/
def i2cSent (a : State) (w : Word) (l : List Word) : State :=
  i2cSend (i2cTake a (fld w 31 31) (4 + (fld w 23 16 + fld w 15 8))
      (pollDue a (fld w 31 31) || decide (lt a < (i2cTaken a (fld w 31 31)).2)))
    (fld w 31 31) (fld w 30 24) ((bytesOfWords l).take (fld w 23 16)) (fld w 15 8)

theorem lsbI2cRule_of_payload {result : Nat} {bytes : List Byte} {c : CmdRef} {p : Smb} {a : State} {w : Word}
    {l : List Word} (hp : p.payload = w :: l) (h1 : 1 ≤ fld w 23 16 + fld w 15 8) (h32 : fld w 23 16 + fld w 15 8 ≤ 32)
    (hl : l.length = cdiv (fld w 23 16) 4) : lsbI2cRule result bytes c p a =
      if result = 0 then
        .ok (busBytes (i2cSent a w l) (fld w 15 8) bytes).2 (0 :: padWords (busBytes (i2cSent a w l) (fld w 15 8) bytes).1)
      else .ok (bump (i2cSent a w l) lmpI2cErr) [w32 (min result 3)] := by
  unfold lsbI2cRule
  simp only [pw, hp, List.length_cons, List.getD_cons_zero, List.drop_succ_cons, List.drop_zero, List.isEmpty_cons]
  rw [if_neg (by decide), if_neg (by omega), if_neg (by omega)]
  unfold i2cSent
  rw [Nat.add_assoc]

theorem lsbI2cRule_of_wrong {result : Nat} {bytes : List Byte} {c : CmdRef} {p : Smb} {a : State} {w : Word}
    {l : List Word} (hp : p.payload = w :: l) (h : fld w 23 16 + fld w 15 8 = 0 ∨ 32 < fld w 23 16 + fld w 15 8) :
    lsbI2cRule result bytes c p a = .no a stBadParam := by
  unfold lsbI2cRule
  simp only [pw, hp, List.getD_cons_zero, List.isEmpty_cons]
  exact (if_neg (by decide)).trans (if_pos h)

/-- The program or erase that LSB_FLASH queues (09 R219). -/
def boardOpOf (a : State) (c : CmdRef) (w0 w1 : Word) (l : List Word) : BoardOp :=
  { op := fld w0 31 28, board := fld w0 27 24, addr := fld w0 23 0, data := (bytesOfWords l).take (fld w1 8 0), ref := c
    start := lt a, ready := false, suspended := none, issued := false }

def boardQueued (a : State) (o : BoardOp) : State :=
  { a with lamp := { a.lamp with boardOps := a.lamp.boardOps ++ [o] } }

/-- A read of a board's flash that waits (09 R219). -/
def boardReadOf (p : Smb) (c : CmdRef) (w0 w1 : Word) (read : List Byte) : BoardRead :=
  { ref := c, via := p.via, board := fld w0 27 24, addr := fld w0 23 0, len := fld w1 8 0, data := read }

/-- What a read of a board's flash does at once: an erase suspended, the read on the bus, the erase resumed. -/
def boardReadNow (a : State) (w0 : Word) : State :=
  let a1 := emit (suspendBoard a) (.qspi norRead (fld w0 27 24) (fld w0 23 0) [])
  resumeBoard (if a.lamp.boardOps.any (fun o => o.ready && o.suspended.isNone) then busLoss a1 else a1)

theorem lsbFlashRule_of_payload {read : List Byte} {c : CmdRef} {p : Smb} {a : State} {w0 w1 : Word} {l : List Word}
    (hp : p.payload = w0 :: w1 :: l) : lsbFlashRule read c p a =
      if fld w0 31 28 = 0 ∨ 3 < fld w0 31 28 ∨ fld w1 8 0 = 0 ∨ 256 < fld w1 8 0 then .no a stBadParam
      else if l.length + 1 + 1 ≠ 2 + (if fld w0 31 28 = 2 then cdiv (fld w1 8 0) 4 else 0) then .no a stBadLength
      else if (fld w0 31 28 = 2 ∧ 256 < fld w0 23 0 % 256 + fld w1 8 0) ∨ (fld w0 31 28 = 3 ∧ fld w0 23 0 % 4096 ≠ 0) then
        .no a stBadParam
      else if fld w0 31 28 = 1 then
        if busLoading a || pageRunning a then
          .later (busLoss { a with lamp := { a.lamp with reads := a.lamp.reads ++ [boardReadOf p c w0 w1 read] } })
        else .ok (busBytes (boardReadNow a w0) (fld w1 8 0) read).2 (padWords (busBytes (boardReadNow a w0) (fld w1 8 0) read).1)
      else if nvStop a then .no (nvRefuse a) stNvHeld
      else if !a.lamp.boardOps.isEmpty then .pend (boardQueued a (boardOpOf a c w0 w1 l))
      else match sluiceAsk (boardQueued a (boardOpOf a c w0 w1 l)) .boardFlash 3 1 0 with
        | (t, .granted _) => { Res.pend t with post := beginBoard }
        | (t, .waiting _) => .pend t
        | (_, .refused) => .no (bump a pwrRefused) stNoCredit := by
  unfold lsbFlashRule
  simp only [pw, hp, List.length_cons, List.getD_cons_zero, List.getD_cons_succ, List.drop_succ_cons, List.drop_zero]
  exact if_neg (by omega)

/-- A program within its page or an erase of a sector, with the bytes that it needs (09 R219). -/
theorem lsbFlashRule_of_write {read : List Byte} {c : CmdRef} {p : Smb} {a : State} {w0 w1 : Word} {l : List Word}
    (hp : p.payload = w0 :: w1 :: l) (h1 : 1 ≤ fld w1 8 0) (h256 : fld w1 8 0 ≤ 256)
    (hl : l.length = (if fld w0 31 28 = 2 then cdiv (fld w1 8 0) 4 else 0))
    (h : fld w0 31 28 = 2 ∧ fld w0 23 0 % 256 + fld w1 8 0 ≤ 256 ∨ fld w0 31 28 = 3 ∧ fld w0 23 0 % 4096 = 0) :
    lsbFlashRule read c p a =
      if nvStop a then .no (nvRefuse a) stNvHeld
      else if !a.lamp.boardOps.isEmpty then .pend (boardQueued a (boardOpOf a c w0 w1 l))
      else match sluiceAsk (boardQueued a (boardOpOf a c w0 w1 l)) .boardFlash 3 1 0 with
        | (t, .granted _) => { Res.pend t with post := beginBoard }
        | (t, .waiting _) => .pend t
        | (_, .refused) => .no (bump a pwrRefused) stNoCredit :=
  (lsbFlashRule_of_payload hp).trans ((if_neg (by omega)).trans ((if_neg (by omega)).trans ((if_neg (by omega)).trans
    (if_neg (by omega)))))

/-- The end of the only check that a program across its page or an erase off its sector fails. -/
theorem lsbFlashRule_of_crossing {read : List Byte} {c : CmdRef} {p : Smb} {a : State} {w0 w1 : Word} {l : List Word}
    (hp : p.payload = w0 :: w1 :: l) (h1 : 1 ≤ fld w1 8 0) (h256 : fld w1 8 0 ≤ 256)
    (hl : l.length = (if fld w0 31 28 = 2 then cdiv (fld w1 8 0) 4 else 0))
    (h : fld w0 31 28 = 2 ∧ 256 < fld w0 23 0 % 256 + fld w1 8 0 ∨ fld w0 31 28 = 3 ∧ fld w0 23 0 % 4096 ≠ 0) :
    lsbFlashRule read c p a = .no a stBadParam :=
  (lsbFlashRule_of_payload hp).trans ((if_neg (by omega)).trans ((if_neg (by omega)).trans (if_pos h)))

theorem lsbFlashRule_of_read {read : List Byte} {c : CmdRef} {p : Smb} {a : State} {w0 w1 : Word} {l : List Word}
    (hp : p.payload = w0 :: w1 :: l) (h1 : 1 ≤ fld w1 8 0) (h256 : fld w1 8 0 ≤ 256)
    (hl : l.length = (if fld w0 31 28 = 2 then cdiv (fld w1 8 0) 4 else 0)) (hop : fld w0 31 28 = 1) :
    lsbFlashRule read c p a =
      if busLoading a || pageRunning a then
        .later (busLoss { a with lamp := { a.lamp with reads := a.lamp.reads ++ [boardReadOf p c w0 w1 read] } })
      else .ok (busBytes (boardReadNow a w0) (fld w1 8 0) read).2 (padWords (busBytes (boardReadNow a w0) (fld w1 8 0) read).1) :=
  (lsbFlashRule_of_payload hp).trans ((if_neg (by omega)).trans ((if_neg (by omega)).trans ((if_neg (by omega)).trans
    (if_pos hop))))

end Sys2Proof.Machine

namespace Sys2Proof.Proofs

open Sys2Proof.Machine Sys2Proof.Safety

/-- Settles O21: the transfers by `i2cSent` and `boardReadNow`, the programs and erases by what Sluice answers. -/
theorem lampBoardBuses : Obligations.LampBoardBuses := by
  unfold Obligations.LampBoardBuses
  refine ⟨fun p s a c w l result bytes H hp bus n hbus hn => ⟨fun h => ?_, fun h1 h32 hl a1 ha1 => ⟨fun hres hroom => ?_,
      fun hres b t hb hroom => ?_⟩⟩,
    fun p s a c w0 w1 l read H hp op board addr len hop hboard haddr hlen => ⟨fun h => ?_, fun h1 h256 hl =>
      ⟨fun h => ?_, fun h o ho a1 ha1 => ⟨fun hnv => ?_, fun hnv hne => ?_, fun hnv hidle => ⟨fun t k hask => ?_,
        fun t k hask => ?_, fun t hask => ?_⟩⟩, fun hread hbusy r hr => ?_,
        fun hread hbus hpage a1 ha1 a2 ha2 b t hb hroom => ?_⟩⟩,
    fun s o l hheld hops => ⟨fun hrun => ?_, fun hrun => ?_, fun hrun => ⟨?_, ?_⟩, fun t hsus her => ?_⟩⟩
  · subst hbus hn
    exact answers_no (h := lsbI2cRule result bytes) H rfl (lsbI2cRule_of_wrong hp h)
  · subst ha1 hbus hn
    exact answers_ok (h := lsbI2cRule result bytes) H ((lsbI2cRule_of_payload hp h1 h32 hl).trans (if_neg hres)) hroom
  · subst ha1 hbus hn
    refine answers_ok (h := lsbI2cRule result bytes) H ((lsbI2cRule_of_payload hp h1 h32 hl).trans ((if_pos hres).trans ?_)) hroom
    unfold i2cSent
    rw [hb]
  · subst hop hlen
    exact answers_no (h := lsbFlashRule read) H rfl ((lsbFlashRule_of_payload hp).trans (if_pos h))
  · subst hop haddr hlen
    exact answers_no (h := lsbFlashRule read) H rfl (lsbFlashRule_of_crossing hp h1 h256 hl h)
  · subst hop haddr hlen
    exact answers_no (h := lsbFlashRule read) H rfl ((lsbFlashRule_of_write hp h1 h256 hl h).trans (if_pos hnv))
  · subst ha1 ho hop haddr hlen hboard
    refine answers_pend (h := lsbFlashRule read) H ((lsbFlashRule_of_write hp h1 h256 hl h).trans
      ((if_neg (by simp [hnv])).trans (if_pos ?_)))
    rw [List.isEmpty_eq_false_iff.mpr hne]
    rfl
  · subst ha1 ho hop haddr hlen hboard
    refine answers_post (h := lsbFlashRule read) (u := t) (st := stPending) (post := beginBoard) H rfl
      ((lsbFlashRule_of_write hp h1 h256 hl h).trans ((if_neg (by simp [hnv])).trans ((if_neg (by simp [hidle])).trans ?_)))
    unfold boardQueued boardOpOf
    rw [hask]
    rfl
  · subst ha1 ho hop haddr hlen hboard
    refine answers_pend (h := lsbFlashRule read) H
      ((lsbFlashRule_of_write hp h1 h256 hl h).trans ((if_neg (by simp [hnv])).trans ((if_neg (by simp [hidle])).trans ?_)))
    unfold boardQueued boardOpOf
    rw [hask]
  · subst ha1 ho hop haddr hlen hboard
    refine answers_no (h := lsbFlashRule read) H rfl
      ((lsbFlashRule_of_write hp h1 h256 hl h).trans ((if_neg (by simp [hnv])).trans ((if_neg (by simp [hidle])).trans ?_)))
    unfold boardQueued boardOpOf
    rw [hask]
  · subst hr hop haddr hlen hboard
    refine answers_later (h := lsbFlashRule read) H ((lsbFlashRule_of_read hp h1 h256 hl hread).trans (if_pos ?_))
    simpa using hbusy
  · subst ha2 ha1 hop haddr hlen hboard
    refine answers_ok (h := lsbFlashRule read) H ((lsbFlashRule_of_read hp h1 h256 hl hread).trans
      ((if_neg (by simp [hbus, hpage])).trans ?_)) hroom
    unfold boardReadNow
    rw [hb]
  · refine completes_act (by unfold exec execQspiFlashDone; rfl) hheld ?_
    exact if_pos hrun
  · refine completes_act (by unfold exec execQspiBusyTimeout; rfl) hheld ?_
    simp only [hops]
    exact if_pos hrun
  · refine completes_act (by unfold exec execQspiFlashDone; rfl) hheld ?_
    exact if_neg (by simp [hrun])
  · refine completes_act (by unfold exec execQspiBusyTimeout; rfl) hheld ?_
    simp only [hops]
    exact if_neg (by simp [hrun])
  · refine completes_act (by unfold exec execLampEraseSuspendTimeout; rfl) hheld ?_
    simp only [hops, hsus]
    exact if_pos her

end Sys2Proof.Proofs
end

section
/-! Refresh starts, group rows, shows and cut-offs (09 R198 to R216). -/

namespace Sys2Proof.Machine

open Sys2Proof.Safety

/-! ### The refresh (09 R198, R209) -/

/-- The proofs and planes of a refresh leave its counts, the lamps' state and the time as they are. -/
structure RefreshRuns (s t : State) : Prop where
  time : t.time = s.time
  refEdge : t.lamp.refEdge = s.lamp.refEdge
  refDrive : t.lamp.refDrive = s.lamp.refDrive
  on : t.lamp.on = s.lamp.on
  lit : t.lamp.lit = s.lamp.lit

theorem RefreshRuns.refl (s : State) : RefreshRuns s s := ⟨rfl, rfl, rfl, rfl, rfl⟩

theorem RefreshRuns.trans {a b c : State} (h : RefreshRuns a b) (k : RefreshRuns b c) : RefreshRuns a c :=
  ⟨k.time.trans h.time, k.refEdge.trans h.refEdge, k.refDrive.trans h.refDrive, k.on.trans h.on, k.lit.trans h.lit⟩

theorem refreshRuns_foldl {α : Type} {f : State → α → State} (h : ∀ s x, RefreshRuns s (f s x)) (l : List α)
    (s : State) : RefreshRuns s (l.foldl f s) := by
  induction l generalizing s with
  | nil => exact .refl s
  | cons x r ih => exact (h s x).trans (ih (f s x))

theorem refreshRuns_of_told {s t : State} (h : Told s t) : RefreshRuns s t := by
  have hlamp : t.lamp = s.lamp := h.lamp
  exact ⟨h.time, by rw [hlamp], by rw [hlamp], by rw [hlamp], by rw [hlamp]⟩

theorem RefreshRuns.ite {s a b : State} {p : Prop} [Decidable p] (ha : RefreshRuns s a) (hb : RefreshRuns s b) :
    RefreshRuns s (if p then a else b) := by
  split
  · exact ha
  · exact hb

theorem told_sendXfers (s : State) (l : List Transfer) : Told s (sendXfers s l) := by
  unfold sendXfers
  split
  · exact told_foldl _ (fun t x => told_emit t _) _ s
  · exact .refl s

theorem refreshRuns_toAllGroups (s : State) (k t : Nat) (w : BitVec 16) : RefreshRuns s (toAllGroups s k t w) :=
  refreshRuns_of_told (told_sendXfers s _)

theorem refreshRuns_placeProof (low : List (Nat × Nat)) (prev t0 : Nat) (s : State) (r : Nat) :
    RefreshRuns s (placeProof low prev t0 s r) := by
  unfold placeProof
  extract_lets g p a
  have ha : RefreshRuns s a := refreshRuns_toAllGroups s _ _ _
  clear_value a
  exact .ite (ha.trans ⟨rfl, rfl, rfl, rfl, rfl⟩) (ha.trans (refreshRuns_of_told ((told_bump a _).trans (told_bump _ _))))

theorem refreshRuns_placeShort (low : List (Nat × Nat)) (busy : List Nat) (prev t0 : Nat) (s : State) :
    RefreshRuns s (placeShort low busy prev t0 s) := by
  unfold placeShort
  extract_lets g all rows room lost s1 next
  have h1 : RefreshRuns s s1 := ⟨rfl, rfl, rfl, rfl, rfl⟩
  have hnext (r : Nat) (t : State) : RefreshRuns t (next r t) := ⟨rfl, rfl, rfl, rfl, rfl⟩
  clear_value s1 next
  split
  · exact h1.trans (hnext _ _)
  · exact (h1.trans ((refreshRuns_toAllGroups s1 _ _ _).trans (hnext _ _))).trans ⟨rfl, rfl, rfl, rfl, rfl⟩

theorem refreshRuns_refreshProofs (low : List (Nat × Nat)) (prev : Nat) (s : State) :
    RefreshRuns s (refreshProofs low prev s) := by
  unfold refreshProofs
  extract_lets g due open_ lampAll s1 t0 rows s2
  have h1 : RefreshRuns s s1 := .ite (refreshRuns_of_told (told_bump s _)) (.ite ⟨rfl, rfl, rfl, rfl, rfl⟩ (.refl s))
  have h2 : RefreshRuns s s2 := h1.trans (refreshRuns_foldl (refreshRuns_placeProof low prev t0) rows s1)
  exact .ite h2 (h2.trans (refreshRuns_placeShort _ _ _ _ _))

theorem refreshRuns_countExt (s : State) (n : Nat) : RefreshRuns s (countExt s n) := by
  unfold countExt
  split
  extract_lets s1 s2 lampMarked
  have h1 : RefreshRuns s s1 := .ite (.refl s) (refreshRuns_of_told (told_bump s _))
  have h2 : RefreshRuns s s2 := h1.trans (refreshRuns_of_told (told_bump s1 _))
  refine .ite h1 (.ite h2 (h2.trans (RefreshRuns.trans ?_ (refreshRuns_of_told (told_recordX _ _ _)))))
  exact ⟨rfl, rfl, rfl, rfl, rfl⟩

/-- The lamps driven in the refresh that begins: on, and not the dark first refresh of a frame (09 R198). -/
def refreshLamps (s1 : State) : Bool := s1.lamp.on && !(s1.lamp.darkRefresh && s1.lamp.refEdge == 0)

/-- The state in which a refresh has begun, before its proofs and planes are placed (09 R198). -/
def refreshBegun (low : List (Nat × Nat)) (s1 : State) : State :=
  let dark := s1.lamp.darkRefresh && s1.lamp.refEdge == 0
  let lit := refreshLamps s1 && s1.pair.outputs
  let d :=
    if lit then (lt s1 + 4 * lpScan (rd s1) * lpSlot (rd s1), 0)
    else match s1.lamp.dark with
      | some x => if dark || s1.lamp.lit then (lt s1, 0) else x
      | none => (lt s1, 0)
  { s1 with lamp := { s1.lamp with
    refEdge := s1.lamp.refEdge + 1, lit := lit, dark := if s1.pair.outputs then some d else none
    darkRefresh := dark, refStart := lt s1, slots := if refreshLamps s1 then rowSlots s1 low else []
    ext := (((rowSlots s1 low).getLast?).map (·.ext)).getD 0 } }

/-- The proofs and planes of the refresh `n` that has begun, `prev` the local time of the one before (09 R201, R206). -/
def refreshPlaced (low : List (Nat × Nat)) (prev n : Nat) (run : Bool) (s2 : State) : State :=
  if run then
    let a := (List.range (lpScan (rd s2))).foldl (fun t r => countExt t ((look r low).getD 0)) s2
    if lpMode (rd a) = 1 then refreshProofs low prev a else sendPlanes a prev n
  else s2

theorem refreshRuns_refreshPlaced (low : List (Nat × Nat)) (prev n : Nat) (run : Bool) (s2 : State) :
    RefreshRuns s2 (refreshPlaced low prev n run s2) := by
  unfold refreshPlaced
  have ha : RefreshRuns s2 ((List.range (lpScan (rd s2))).foldl (fun t r => countExt t ((look r low).getD 0)) s2) :=
    refreshRuns_foldl (fun t r => refreshRuns_countExt t _) _ s2
  exact .ite (.ite (ha.trans (refreshRuns_refreshProofs low prev _))
    (ha.trans (refreshRuns_of_told (told_sendXfers _ _)))) (.refl s2)

/-- The end of a refresh's start: one more refresh with drive (09 R209). -/
def refreshCounted (s : State) : State :=
  { s with lamp := { s.lamp with refDrive := if s.lamp.on then s.lamp.refDrive + 1 else s.lamp.refDrive } }

/-- The state after the start of a refresh at `s1`. -/
def refreshStarted (low : List (Nat × Nat)) (s s1 : State) : State :=
  refreshCounted (refreshPlaced low s.lamp.refStart s.lamp.refEdge (refreshLamps s1) (refreshBegun low s1))

theorem refreshStart_completes {s s1 : State} {low : List (Nat × Nat)} (hheld : s.boot.held = false)
    (htile : s.id.sender = false) (hmode : lpMode (rd s) ≠ 0) (hedge : s.lamp.refEdge < lpMult (rd s))
    (hlast : s.time.lastEdge.isSome = true) (hs1 : s1 = toClk (refreshAt s (edgeOf s) s.lamp.refEdge) s) :
    Completes (.refreshStart low) s (refreshStarted low s s1) := by
  have hnone : s.time.lastEdge.isNone = false := by
    obtain ⟨e, he⟩ := Option.isSome_iff_exists.mp hlast
    rw [he]
    rfl
  have hn : s1.lamp.refEdge = s.lamp.refEdge := by rw [hs1, toClk_lamp]
  refine completes_act (by unfold exec execRefreshStart; rfl) hheld ?_
  rw [if_neg (by simp [htile, hmode, hnone, Nat.not_le.mpr hedge]), ← hs1]
  unfold refreshStarted refreshBegun refreshLamps
  rw [hn]
  rfl

theorem refreshStart_effects (low : List (Nat × Nat)) (s s1 : State)
    (hs1 : s1 = toClk (refreshAt s (edgeOf s) s.lamp.refEdge) s) :
    (refreshStarted low s s1).lamp.refEdge = s.lamp.refEdge + 1
    ∧ (refreshStarted low s s1).lamp.refDrive = (if s.lamp.on then s.lamp.refDrive + 1 else s.lamp.refDrive)
    ∧ refreshAt s (edgeOf s) s.lamp.refEdge ≤ now (refreshStarted low s s1)
    ∧ (s.lamp.on = false → (refreshStarted low s s1).lamp.lit = false ∧ (refreshStarted low s s1).out = s.out) := by
  have hruns := refreshRuns_refreshPlaced low s.lamp.refStart s.lamp.refEdge (refreshLamps s1) (refreshBegun low s1)
  have hlamp : s1.lamp = s.lamp := by rw [hs1, toClk_lamp]
  have hclk : refreshAt s (edgeOf s) s.lamp.refEdge ≤ s1.time.clk := by rw [hs1]; exact toClk_reached _ s
  have hout : s1.out = s.out := by rw [hs1, toClk_out]
  clear hs1
  refine ⟨?_, ?_, ?_, fun hoff => ⟨?_, ?_⟩⟩
  · exact hruns.refEdge.trans (congrArg (·.refEdge + 1) hlamp)
  · show (if (refreshPlaced _ _ _ _ _).lamp.on then (refreshPlaced _ _ _ _ _).lamp.refDrive + 1
      else (refreshPlaced _ _ _ _ _).lamp.refDrive) = _
    rw [hruns.on, hruns.refDrive]
    show (if s1.lamp.on then s1.lamp.refDrive + 1 else s1.lamp.refDrive) = _
    rw [hlamp]
  · exact hclk.trans (Nat.le_of_eq (congrArg (·.clk) hruns.time).symm)
  · have hrun : refreshLamps s1 = false := by simp [refreshLamps, hlamp, hoff]
    refine hruns.lit.trans ?_
    show (refreshLamps s1 && s1.pair.outputs) = false
    rw [hrun, Bool.false_and]
  · have hrun : refreshLamps s1 = false := by simp [refreshLamps, hlamp, hoff]
    unfold refreshStarted
    rw [hrun]
    exact hout

theorem pulse_gap : 4 * pulsePeriod = 8192 := rfl

theorem keepalivePulse_completes {s u : State} {d k t : Nat} (hheld : s.boot.held = false)
    (hdark : s.lamp.dark = some (d, k)) (ht : t = d + 4 * pulsePeriod * (k + 1)) (hu : (
      if !s.pair.outputs || s.id.sender || (s.lamp.lit && decide (tailEnd s ≤ t)) then s
      else keepalive { toLt t s with lamp := { (toLt t s).lamp with dark := some (d, k + 1) } }) = u) :
    Completes .keepalivePulse s u := by
  subst ht
  refine completes_act (by unfold exec execKeepalivePulse; rfl) hheld ?_
  simp only [hdark]
  exact hu

/-! ### Group rows (09 R203) -/

theorem rowXfers_length (s : State) (g r t : Nat) : (rowXfers s g r t).length = 49 := by
  simp [rowXfers]

theorem rowSent_clean (g r : Nat) (s : State) : (rowSent g r s).lamp.dirty.contains (g, r) = false := by
  simp [rowSent]

/-! ### Shows (09 R204) -/

theorem rd_toClk (c : Nat) (s : State) : rd (toClk c s) = rd s := by
  funext i
  unfold toClk
  split <;> rfl

/-- A show at its cut-off, with the pass, the rows and the last write as they stood. -/
theorem showCutoff_completes {s s1 u : State} {w : Show} (hheld : s.boot.held = false) (hw : s.lamp.shows = some w)
    (hmet : w.met = false) (hs1 : s1 = toClk w.cutoff s) (hu : (
      if (s.img.pass.isNone && decide (s.lamp.lastWrite < w.cutoff)) && (lpMode (rd s) == 2 || s.lamp.dirty.isEmpty) then
        let s2 := { s1 with lamp := { s1.lamp with shows := some { w with met := true, lights := s.lamp.wantOn } } }
        if lpMode (rd s) == 1 then takeGroups (toAllGroups s2 ltVsync (lt s2) 0) (lt s2 + xferNs (rd s2)) else s2
      else
        let n := refreshFrom s1 (edgeOf s1) (w.show_ + 4)
        let s2 := { s1 with lamp := { s1.lamp with
          shows := some { w with show_ := n, cutoff := cutoffOf s1 n, moved := true } } }
        if w.moved then s2 else bump s2 lmpShowLate) = u) : Completes .showCutoff s u := by
  subst hs1
  refine completes_act (by unfold exec execShowCutoff; rfl) hheld ?_
  rw [← toClk_img w.cutoff s, ← toClk_lamp w.cutoff s, ← rd_toClk w.cutoff s] at hu
  rw [hw]
  exact (if_neg (by simp [hmet])).trans hu

end Sys2Proof.Machine

namespace Sys2Proof.Proofs

open Sys2Proof.Machine Sys2Proof.Safety

/-- Settles O22: what the proofs and planes of a refresh keep (`RefreshRuns`), and the branches of the rows and shows. -/
theorem refreshAndShows : Obligations.RefreshAndShows := by
  unfold Obligations.RefreshAndShows
  refine ⟨⟨fun s low hheld htile hmode hedge hlast => ?_, fun s g r hheld htile hmode hdirty hfirst => ?_,
      fun s g r t => ⟨rowXfers_length s g r t, rowSent_clean g r s⟩,
      fun s d k t hheld htile hdark hout ht => ⟨fun h => ?_, fun hlit htail => ?_⟩⟩,
    fun s w hheld hw hmet s1 hs1 s2 hs2 => ⟨fun hpass hwrite => ⟨fun hmode hclean => ?_, fun hmode => ?_⟩, fun h => ?_⟩,
    fun s w hheld hw hmet => ?_, fun s w hheld htile hw => ⟨fun hmet => ?_, fun hmet => ?_⟩⟩
  · obtain ⟨hedge1, hdrive1, hclk, hoff⟩ := refreshStart_effects low s _ rfl
    exact ⟨_, refreshStart_completes hheld htile hmode hedge hlast rfl, hedge1, hdrive1, hclk, hoff⟩
  · refine completes_act (by unfold exec execGroupRowWrite; rfl) hheld ?_
    exact if_neg (by simp only [htile, hmode, hdirty, hfirst]; decide)
  · refine ⟨keepalive { toLt t s with lamp := { s.lamp with dark := some (d, k + 1) } }, ?_, rfl, toLt_reached t s, rfl⟩
    refine keepalivePulse_completes hheld hdark (ht.trans (by rw [pulse_gap])) ((if_neg ?_).trans rfl)
    obtain h | h := h
    · simp [hout, htile, h]
    · simp [hout, htile, Nat.not_le.mpr h]
  · refine keepalivePulse_completes hheld hdark (ht.trans (by rw [pulse_gap])) (if_pos ?_)
    simp [hlit, htail]
  · subst hs2
    refine showCutoff_completes hheld hw hmet hs1 ((if_pos ?_).trans (if_pos (by simp [hmode])))
    simp [hpass, hwrite, hclean]
  · subst hs2
    refine showCutoff_completes hheld hw hmet hs1 ((if_pos ?_).trans (if_neg (by simp [hmode])))
    simp [hpass, hwrite, hmode]
  · refine ⟨if w.moved then
        { s1 with lamp := { s1.lamp with shows := some { w with show_ := refreshFrom s1 (edgeOf s1) (w.show_ + 4)
                                                                cutoff := cutoffOf s1 (refreshFrom s1 (edgeOf s1) (w.show_ + 4))
                                                                moved := true } } }
      else bump { s1 with lamp := { s1.lamp with shows := some { w with
          show_ := refreshFrom s1 (edgeOf s1) (w.show_ + 4)
          cutoff := cutoffOf s1 (refreshFrom s1 (edgeOf s1) (w.show_ + 4)), moved := true } } } lmpShowLate,
      { w with show_ := refreshFrom s1 (edgeOf s1) (w.show_ + 4)
               cutoff := cutoffOf s1 (refreshFrom s1 (edgeOf s1) (w.show_ + 4)), moved := true },
      ?_, ?_, rfl, hmet, rfl, ?_⟩
    · refine showCutoff_completes hheld hw hmet hs1 (if_neg ?_)
      obtain h | h | ⟨hm, h⟩ := h
      · obtain ⟨x, hx⟩ := Option.isSome_iff_exists.mp h
        simp [hx]
      · simp [Nat.not_lt.mpr h]
      · simp [hm, h]
    · split <;> rfl
    · have hrd : rd s1 lmpShowLate = rd s lmpShowLate := by rw [hs1, rd_toClk]
      split
      · exact hrd
      · rw [rd_bump, if_pos rfl]
        exact congrArg (satAdd · 1) hrd
  · refine completes_act (by unfold exec execShowCutoff; rfl) hheld ?_
    rw [hw]
    exact if_pos hmet
  · exact completes_act (by unfold exec execShowInstant; rfl) hheld rfl
  · refine completes_act (by unfold exec execShowInstant; rfl) hheld ?_
    refine congrArg dramOnce ?_
    unfold showInstant
    rw [hw]
    exact if_pos (by simp [hmet])

end Sys2Proof.Proofs
end

section
/-! Owl watches, freeze times, certificates and display proofs (10 R224 to R238). -/

namespace Sys2Proof.Machine

open Sys2Proof.Safety

/-! ### Owl watches (10 R231 to R234) -/

theorem owlThawed_none (s : State) (n : Nat) :
    owlThawed s n none = recEvent (takeFree s).2 .wall 0x0411 [w32 n, Config.noWsig s.free] := rfl

theorem owlThawed_some (s : State) (n : Nat) (v : Word) :
    owlThawed s n (some v) = recEvent (takeFree s).2 .wall 0x0411 [w32 n, v] := rfl

/-- The state with the list of watches changed for one number (10 R231). -/
def watchesSet (a : State) (w : List Word) (l : List Watch) : State :=
  keepSettings { a with flume := { a.flume with
    watches := l, owlQueue := a.flume.owlQueue.filter (fun e => e.1 != owNum w) } }

theorem owlWatchRule_of_length {c : CmdRef} {p : Smb} {a : State} {w : List Word} (hp : p.payload.length = 4)
    (hw : w = p.payload.modify 0 (fun x => x &&& 0xFFFE0000)) : owlWatchRule c p a =
      let frozen := a.flume.watches.any (fun v => v.num == owNum w && v.st == 2)
      let rest := a.flume.watches.filter (fun v => v.num != owNum w)
      let with_ (l : List Watch) : State :=
        if frozen then owlThawed (watchesSet a w l) (owNum w) none else watchesSet a w l
      if !owEn w then .ok (with_ rest) []
      else if !owlOk a w then .no a stBadParam
      else .ok (with_ ({ num := owNum w, words := w, since := now a, wsig := none, st := 1 } :: rest)) [] := by
  subst hw
  exact withLen_of_length_eq hp

/-- OWL_WATCH that is taken: the new list of watches, with the event of a watch that was FROZEN. -/
theorem owlWatchRule_of_taken {c : CmdRef} {p : Smb} {a t : State} {w : List Word} {l : List Watch}
    (hp : p.payload.length = 4) (hw : w = p.payload.modify 0 (fun x => x &&& 0xFFFE0000))
    (hl : (owEn w = false ∧ l = a.flume.watches.filter (fun v => v.num != owNum w))
        ∨ (owEn w = true ∧ owlOk a w = true
          ∧ l = { num := owNum w, words := w, since := now a, wsig := none, st := 1 }
            :: a.flume.watches.filter (fun v => v.num != owNum w)))
    (ht : t = keepSettings { a with flume := { a.flume with
        watches := l, owlQueue := a.flume.owlQueue.filter (fun e => e.1 != owNum w) } }) : owlWatchRule c p a =
      .ok (if a.flume.watches.any (fun v => v.num == owNum w && v.st == 2) then
        recEvent (takeFree t).2 .wall 0x0411 [w32 (owNum w), Config.noWsig t.free] else t) [] := by
  subst ht
  refine (owlWatchRule_of_length hp hw).trans ?_
  obtain ⟨hoff, hl⟩ | ⟨hon, hok, hl⟩ := hl
  · subst hl
    exact if_pos (by simp [hoff])
  · subst hl
    exact (if_neg (by simp [hon])).trans (if_neg (by simp [hok]))

/-- The event of a watch that freezes, for a state whose free values are those of the state before (10 R233). -/
theorem owlFrozen_setWatch {s t : State} {v w : Watch} (hfree : t.free = s.free) :
    owlFrozen (setWatch t v) w = recEvent (takeFree (setWatch t v)).2 .wall 0x0410
      [w32 w.num, w.wsig.getD (Config.noWsig s.free), wt32 w.since] := by
  rw [← hfree]
  rfl

theorem owlReadRule_of_payload {c : CmdRef} {p : Smb} {a : State} {w : Word} (hp : p.payload = [w]) :
    owlReadRule c p a = match watchOf a (fld w 31 24) with
      | some v => .ok a v.words
      | none => .no a stNotInState := by
  unfold owlReadRule
  rw [withLen_of_length_eq (by rw [hp]; rfl)]
  simp only [pw, hp]
  rfl

/-- A checked picture with its signature (10 R232 to R234). -/
theorem owlCheck_completes {n : Nat} {s t : State} {w : Watch} {id : Nat} {ts : Word} {x : Stream} {f : SrcSlot} {v : Word}
    (hheld : s.boot.held = false) (hw : watchOf s n = some w)
    (hq : s.flume.owlQueue.find? (fun e => e.1 == n) = some (n, id, ts)) (hx : streamOf s id = some x)
    (hf : x.slots.find? (fun y => y.ts == ts && (y.st == .ready || y.st == .reading)) = some f)
    (hv : wsig w.words f.words f = some v)
    (ht : t = { s with flume := { s.flume with owlQueue := s.flume.owlQueue.filter (fun e => e.1 != n) } }) :
    Completes (.owlCheck n) s (
      if w.wsig = some v then t
      else if w.st = 2 then
        recEvent (takeFree (setWatch t { w with wsig := some v, since := f.readyAt, st := 1 })).2 .wall 0x0411 [w32 n, v]
      else setWatch t { w with wsig := some v, since := f.readyAt, st := 1 }) := by
  subst ht
  refine completes_act (by unfold exec execOwlCheck; rfl) hheld ?_
  simp only [hw, hq, hx, hf, hv, Option.bind_some, Option.map_some]
  rfl

/-! ### Proofs (10 R237, R238) -/

theorem proofReadRule_of_tile {c : CmdRef} {p : Smb} {a : State} (htile : a.id.sender = false) (hp : p.payload = []) :
    proofReadRule c p a = .ok a (proofWords a.weir.proof) := by
  unfold proofReadRule
  rw [if_neg (by simp [htile]), if_neg (by simp [hp])]

theorem proofReadRule_of_sender {c : CmdRef} {p : Smb} {a : State} {w : Word} (hsender : a.id.sender = true)
    (hp : p.payload = [w]) : proofReadRule c p a =
      match (proofOf a (BitVec.ofNat 16 (fld w 15 0))).last with
      | none => .ok a (w32 2 :: 0 :: proofWords none)
      | some m => .ok a (w32 (proofOf a (BitVec.ofNat 16 (fld w 15 0))).verdict ::
          expectedSig (proofOf a (BitVec.ofNat 16 (fld w 15 0)))
            (match rectOf a (BitVec.ofNat 16 (fld w 15 0)) with | some r => r.wtb * r.htb | none => 0) ::
          proofWords (some m)) := by
  unfold proofReadRule
  rw [if_pos hsender, if_neg (by simp [hp])]
  simp only [pw, hp]
  rfl

/-- A proof of a tile of the sender, with its verdict (10 R237). -/
theorem proofReceived_completes {s s1 : State} {m : ProofMsg} {v : Nat} (hheld : s.boot.held = false)
    (hsender : s.id.sender = true) (hplace : (placeOfNa s m.na).isSome = true)
    (hv : v = (if levelOne s m.na then 2 else proofVerdict (proofOf s m.na) m))
    (hs1 : s1 = setProof s { proofOf s m.na with last := some m, verdict := v, at_ := lt s }) :
    Completes (.proofReceived m) s (
      if v = 4 then record (bump s1 proofFault) 0x0421 [w32 m.na.toNat, w32 m.frame.toNat]
      else if v = 3 then resyncAll (recEvent (bump s1 proofMismatch) .wall 0x0420
        [w32 m.na.toNat, w32 m.frame.toNat, m.mapsig, (look m.frame (proofOf s m.na).frames).getD 0]) m.na
      else s1) := by
  subst hs1 hv
  refine completes_act (by unfold exec execProofReceived; rfl) hheld ?_
  obtain ⟨x, hx⟩ := Option.isSome_iff_exists.mp hplace
  exact if_neg (by simp [hsender, hx])

end Sys2Proof.Machine

namespace Sys2Proof.Proofs

open Sys2Proof.Machine Sys2Proof.Safety

/-- Settles O14: the watch that each command and check leaves, and the verdict of a proof. -/
theorem owlAndProofs : Obligations.OwlAndProofs := by
  unfold Obligations.OwlAndProofs
  refine ⟨⟨fun p s a c w H hp hw => ⟨fun l t hl ht => ⟨fun hthaw => ?_, fun hthaw => ?_⟩, fun hon hno => ?_⟩,
      fun p s a c w H hp => ⟨fun v hv hroom => ?_, fun hnone => ?_⟩,
      fun n s w id ts x f v hheld hw hq hx hf hv t ht => ⟨fun hsame => ?_, fun hnew u hu => ⟨fun hst => ?_, fun hst => ?_⟩⟩,
      fun n s hheld => ⟨fun h => ?_, fun h => ?_⟩, fun n s w hheld hw hst => ?_,
      fun p s a c H => ⟨fun htile hp hroom => ?_, fun w hs hp hnone hroom => ?_, fun w x m n hs hp hx hm hn hroom => ?_⟩⟩,
    fun s hheld hs t ht => ?_, fun s m hheld hs hnone => ?_,
    fun s m v hheld hs hplace hv s1 hs1 => ⟨fun h3 h4 => ?_, fun h3 => ?_, fun h4 => ?_⟩,
    fun s na x hheld hx hlast => ?_⟩
  · refine answers_ok_nil (h := owlWatchRule) H ((owlWatchRule_of_taken hp hw hl ht).trans ?_)
    rw [if_neg (by simp only [hthaw]; decide)]
  · refine answers_ok_nil (h := owlWatchRule) H ((owlWatchRule_of_taken hp hw hl ht).trans ?_)
    rw [if_pos hthaw]
  · exact answers_no (h := owlWatchRule) H rfl ((owlWatchRule_of_length hp hw).trans
      ((if_neg (by simp [hon])).trans (if_pos (by simp [hno]))))
  · exact answers_ok (h := owlReadRule) H (by rw [owlReadRule_of_payload hp, hv]) hroom
  · exact answers_no (h := owlReadRule) H rfl (by rw [owlReadRule_of_payload hp, hnone])
  · have hdone := owlCheck_completes hheld hw hq hx hf hv ht
    rwa [if_pos hsame] at hdone
  · have hdone := owlCheck_completes hheld hw hq hx hf hv ht
    rwa [if_neg hnew, if_neg hst, ← hu] at hdone
  · have hdone := owlCheck_completes hheld hw hq hx hf hv ht
    rwa [if_neg hnew, if_pos hst, ← hu] at hdone
  · refine completes_act (by unfold exec execOwlCheck; rfl) hheld ?_
    obtain h | h := h
    · simp only [h]
    · simp only [h]
      cases watchOf s n <;> rfl
  · refine completes_act (by unfold exec execOwlFreeze; rfl) hheld ?_
    obtain h | ⟨w, hw, hst⟩ := h
    · simp only [h]
    · simp only [hw]
      exact if_pos hst
  · refine completes_act (by unfold exec execOwlFreeze; rfl) hheld ?_
    simp only [hw]
    refine (if_neg (not_not.mpr hst)).trans ?_
    exact owlFrozen_setWatch (toClk_free _ s)
  · exact answers_ok (h := proofReadRule) H (proofReadRule_of_tile htile hp) hroom
  · exact answers_ok (h := proofReadRule) H (by rw [proofReadRule_of_sender hs hp, hnone]) hroom
  · subst hx hn
    exact answers_ok (h := proofReadRule) H (by rw [proofReadRule_of_sender hs hp, hm] <;> rfl) hroom
  · subst ht
    refine completes_act (by unfold exec execCertInstant; rfl) hheld ?_
    exact if_neg (by simp [hs])
  · refine completes_act (by unfold exec execProofReceived; rfl) hheld ?_
    exact if_pos (by simp [hnone])
  · have hdone := proofReceived_completes hheld hs hplace hv hs1
    rwa [if_neg h4, if_neg h3] at hdone
  · have hdone := proofReceived_completes hheld hs hplace hv hs1
    rwa [if_neg (by omega), if_pos h3] at hdone
  · have hdone := proofReceived_completes hheld hs hplace hv hs1
    rwa [if_pos h4] at hdone
  · refine completes_act (by unfold exec execProofSilenceTimeout; rfl) hheld ?_
    obtain ⟨m, hm⟩ := Option.isSome_iff_exists.mp hlast
    simp only [hx]
    exact if_neg (by simp [hm])

end Sys2Proof.Proofs
end

section
/-! Region packets and commits at a tile (05 R100 to R106). -/

namespace Sys2Proof.Machine

open Sys2Proof.Safety

/-! ### What a tile sends up (06 R128) -/

/-- A packet sent up touches the links, or is counted as dropped. -/
theorem told_sendUp (s : State) (n : Nat) (k : LinkPkt) : Told s (sendUp s n k) := by
  unfold sendUp
  split
  · exact Told.trans (b := { s with link := _ }) rfl (told_upDrain _)
  · exact told_bump _ _

theorem rd_upDrain (s : State) (j : Nat) : rd (upDrain s) j = rd s j := by
  unfold upDrain
  split
  · rfl
  · split
    · rfl
    · unfold flumeSendOn
      split <;> rw [linkOnly_flumeOut] <;> rfl

theorem rd_sendUp {s : State} {n : Nat} {k : LinkPkt} {j : Nat} (hj : flmRxDrop ≠ j) :
    rd (sendUp s n k) j = rd s j := by
  unfold sendUp
  split
  · exact rd_upDrain _ _
  · exact (rd_bump _ _ _).trans (if_neg hj)

/-! ### Region packets (05 R100 to R103) -/

theorem regionPacketReceived_completes {s : State} {k : LinkPkt} {h : FlumeHdr} {b : List Byte} {r : RegionPkt}
    (hheld : s.boot.held = false) (hin : tileIn s 1 k = some (h, b)) (hr : readRegion b = some r) :
    Completes (.regionPacketReceived k.toLinkStart k.toLinkRest) s (takeRegion s h r) := by
  refine completes_act (by unfold exec execRegionPacketReceived; rfl) hheld ?_
  have hin' : tileIn s 1 ⟨k.toLinkStart, k.toLinkRest⟩ = some (h, b) := hin
  simp only [hin', hr]

theorem takeRegion_of_bad {s : State} {h : FlumeHdr} {r : RegionPkt} (hbad : r.blocks.filter (blockFails s) ≠ []) :
    takeRegion s h r = bumpN s flmRxBadsig (r.blocks.filter (blockFails s)).length :=
  if_pos (List.length_pos_iff.mpr hbad).ne'

theorem takeRegion_of_old {s : State} {h : FlumeHdr} {r : RegionPkt} (hgood : r.blocks.filter (blockFails s) = [])
    (hold : frameOld s h.frame = true) : takeRegion s h r = bump s flmRxDrop :=
  (if_neg (by simp [hgood])).trans (if_pos hold)

theorem takeRegion_of_delivery {s s1 : State} {h : FlumeHdr} {r : RegionPkt} {o : OpenDeliv}
    (hgood : r.blocks.filter (blockFails s) = []) (hnew : frameOld s h.frame = false)
    (ho : delivFor s h.frame r.full h.level = (s1, o)) : takeRegion s h r =
      if o.landed.any (fun e => e.1 == r.pidx) then putOpen s1 { o with lastAt := lt s1, level := h.level }
      else landPacketTile s1 { o with lastAt := lt s1, level := h.level } r := by
  unfold takeRegion
  rw [if_neg (by simp [hgood]), if_neg (by simp [hnew]), ho]

/-! ### Commits (05 R104) -/

/-- A commit with its entry for the tile, judged on the delivery of its frame. -/
theorem commitReceived_completes {s t : State} {k : LinkPkt} {h : FlumeHdr} {b : List Byte} {x : CommitPkt}
    (hheld : s.boot.held = false) (hin : tileIn s 2 k = some (h, b)) (hx : readCommit b = some x)
    (ht : (match x.ents.find? (fun e => some e.na == s.id.na) with
        | some e => takeCommit s h x e
        | none => match s.img.open_ with
          | some o => if o.frame = h.frame then putOpen s { o with lastAt := lt s } else s
          | none => s) = t) :
    Completes (.commitReceived k.toLinkStart k.toLinkRest) s t := by
  refine completes_act (by unfold exec execCommitReceived; rfl) hheld ?_
  have hin' : tileIn s 2 ⟨k.toLinkStart, k.toLinkRest⟩ = some (h, b) := hin
  simp only [hin', hx]
  exact ht

theorem openDelivery_fresh (s : State) (f : BitVec 16) (full : Bool) (l : Nat) :
    (openDelivery s f full l).2.frame = f ∧ (openDelivery s f full l).2.commit = none
      ∧ (openDelivery s f full l).2.landed = [] ∧ (openDelivery s f full l).2.exhausted = false
      ∧ (openDelivery s f full l).1.time = s.time := by
  refine ⟨rfl, rfl, rfl, rfl, ?_⟩
  unfold openDelivery setBack
  generalize (!(s.img.ready && (full || !s.img.qInUse))) = q
  cases q <;> rfl

/-- Of a delivery with nothing landed a commit of one packet or more has something missing. -/
theorem allLanded_of_nothing {o : OpenDeliv} {a c : Word} {n t : Nat} (hn : 1 ≤ n) (hland : o.landed = [])
    (hc : o.commit = some (a, n, c, t)) : allLanded o = false := by
  unfold allLanded
  simp only [hc, hland]
  exact List.all_eq_false.mpr ⟨0, List.mem_range.mpr hn, by simp⟩

theorem sendNack_keeps (s : State) (o : OpenDeliv) (n : Nat) :
    (sendNack s o n).2.frame = o.frame ∧ (sendNack s o n).2.commit = o.commit := by
  unfold sendNack
  extract_lets miss all rs
  split <;> exact ⟨rfl, rfl⟩

/-- A commit that opens its delivery is held by it (05 R104). -/
theorem takeCommit_of_fresh {s : State} {h : FlumeHdr} {x : CommitPkt} {e : CommitEnt} (hrep : reportFor s h.frame = none)
    (hold : frameOld s h.frame = false) (hopen : s.img.open_ = none) (hn : 1 ≤ e.npkt) :
    ∃ o, (takeCommit s h x e).img.open_ = some o ∧ o.frame = h.frame
      ∧ o.commit = some (x.pt, e.npkt, e.tsig, now s) := by
  obtain ⟨hframe, hcommit, hland, hexh, htime⟩ := openDelivery_fresh s h.frame e.full h.level
  have hnow : now (openDelivery s h.frame e.full h.level).1 = now s := congrArg Time.clk htime
  have hdeliv : delivFor s h.frame e.full h.level = openDelivery s h.frame e.full h.level := by
    unfold delivFor
    rw [hopen]
  unfold takeCommit
  rw [hrep]
  simp only [hold, Bool.false_eq_true, if_false, hdeliv, hcommit]
  generalize openDelivery s h.frame e.full h.level = d at hframe hland hexh hnow
  obtain ⟨s1, o0⟩ := d
  dsimp only at hframe hland hexh hnow
  rw [if_neg (by
    simp only [hexh, Bool.or_false, Bool.not_eq_true]
    refine allLanded_of_nothing hn ?_ rfl
    exact hland)]
  refine ⟨_, rfl, (sendNack_keeps _ _ _).1.trans hframe, (sendNack_keeps _ _ _).2.trans ?_⟩
  simp only [hnow]

/-! ### A delivery that stands still (05 R106) -/

/-- The report of a delivery that failed, on the state that keeps it. -/
theorem failOpen_reports (s : State) (o : OpenDeliv) (t : Nat) :
    ∃ v r, failOpen s o t = bump (sendUp v 0 (reportPkt v o.level r)) flmRxFail ∧ r.kind = 3 ∧ r.frame = o.frame
      ∧ v.img.failedFrame = some o.frame ∧ v.img.open_ = none ∧ v.time = s.time ∧ v.par = s.par ∧ v.id = s.id := by
  unfold failOpen discardOpen sendReport
  cases o.quarter <;> exact ⟨_, _, rfl, rfl, rfl, rfl, rfl, rfl, rfl, rfl⟩

theorem deliveryIdleFail_completes {s s1 : State} {o : OpenDeliv} (hheld : s.boot.held = false) (ho : s.img.open_ = some o)
    (hc : o.commit = none) (hland : o.landed ≠ []) (hs1 : s1 = toLt (o.lastAt + 10 ^ 9) s) :
    Completes .deliveryIdleFail s (failOpen s1 o (now s1)) := by
  subst hs1
  refine completes_act (by unfold exec execDeliveryIdleFail; rfl) hheld ?_
  simp only [ho]
  exact if_neg (by simp [hc, hland])

end Sys2Proof.Machine

namespace Sys2Proof.Proofs

open Sys2Proof.Machine Sys2Proof.Safety

/-- Settles O16: the branch of the landing and of the commit that each packet takes. -/
theorem tilePacketsAndCommits : Obligations.TilePacketsAndCommits := by
  unfold Obligations.TilePacketsAndCommits
  refine ⟨fun s k hheld => ⟨fun hin => ?_, fun h b hin => ⟨fun hr => ?_, fun r hr bad hbad =>
      ⟨fun hne => ?_, fun hnil hold => ?_, fun hnil hold s1 o ho => ⟨fun hany => ?_, fun hany => ?_⟩⟩⟩⟩,
    fun s k h b x hheld hin hx => ⟨fun hnone hopen => ?_, fun e he =>
      ⟨fun l r hrep => ?_, fun hrep hold => ?_, fun hrep hold hopen hn => ?_⟩⟩,
    fun s o hheld ho hc hland => ?_⟩
  · refine completes_act (by unfold exec execRegionPacketReceived; rfl) hheld ?_
    have hin' : tileIn s 1 ⟨k.toLinkStart, k.toLinkRest⟩ = none := hin
    simp only [hin']
  · refine completes_act (by unfold exec execRegionPacketReceived; rfl) hheld ?_
    have hin' : tileIn s 1 ⟨k.toLinkStart, k.toLinkRest⟩ = some (h, b) := hin
    simp only [hin', hr]
  · subst hbad
    have hdone := regionPacketReceived_completes hheld hin hr
    rwa [takeRegion_of_bad hne] at hdone
  · have hdone := regionPacketReceived_completes hheld hin hr
    rwa [takeRegion_of_old (hbad.symm.trans hnil) hold] at hdone
  · have hdone := regionPacketReceived_completes hheld hin hr
    rwa [takeRegion_of_delivery (hbad.symm.trans hnil) hold ho, if_pos hany] at hdone
  · have hdone := regionPacketReceived_completes hheld hin hr
    rwa [takeRegion_of_delivery (hbad.symm.trans hnil) hold ho, if_neg (ne_true_of_eq_false hany)] at hdone
  · refine commitReceived_completes hheld hin hx ?_
    simp only [hnone, hopen]
  · refine commitReceived_completes hheld hin hx ?_
    simp only [he]
    unfold takeCommit
    simp only [hrep]
  · refine commitReceived_completes hheld hin hx ?_
    simp only [he]
    unfold takeCommit
    simp only [hrep, hold, if_true]
    rfl
  · refine ⟨takeCommit s h x e, ?_⟩
    obtain ⟨o, hopened⟩ := takeCommit_of_fresh (x := x) hrep hold hopen hn
    refine ⟨o, commitReceived_completes hheld hin hx ?_, hopened⟩
    simp only [he]
  · obtain ⟨s1, hs1⟩ : ∃ s1, s1 = toLt (o.lastAt + 10 ^ 9) s := ⟨_, rfl⟩
    obtain ⟨v, r, hu, hkind, hframe, hfail, hnone, htime, hpar, hid⟩ := failOpen_reports s1 o (now s1)
    have hsent := told_sendUp v 0 (reportPkt v o.level r)
    refine ⟨_, v, r, deliveryIdleFail_completes hheld ho hc hland hs1, hu, hkind, hframe, ?_, ?_, ?_, ?_⟩
    · rw [hu]
      exact (congrArg Image.failedFrame hsent.img).trans hfail
    · rw [hu]
      exact (congrArg Image.open_ hsent.img).trans hnone
    · have hlt : lt (failOpen s1 o (now s1)) = lt s1 := by
        rw [hu]
        exact congrArg Time.lt (hsent.time.trans htime)
      rw [hlt, hs1]
      exact toLt_reached _ _
    · rw [hu, rd_bump, if_pos rfl, rd_sendUp (by decide), rd, hpar, hid, hs1]
      rfl

end Sys2Proof.Proofs
end

section
/-! RESET, ENROL and UNENROL (13 R301; 01 R20 to R23). -/

namespace Sys2Proof.Machine

open Sys2Proof.Safety

/-! ### What an ask of Sluice and of the flash leaves -/

/-- An ask of Sluice touches its credits and the count of refusals. -/
theorem sluiceAsk_only (s : State) (op : HeavyOp) (cls chip lamp : Nat) :
    (sluiceAsk s op cls chip lamp).1 = { s with
      par := (sluiceAsk s op cls chip lamp).1.par, slu := (sluiceAsk s op cls chip lamp).1.slu } := by
  unfold sluiceAsk
  extract_lets c slu s1
  split
  · rfl
  · split <;> rfl

/-- An ask of the flash touches its queue, the credits and the counts of refusals. -/
theorem flashAsk_only (s : State) (op : FlashOp) (ref : Option CmdRef) (cls : Nat) (free : Bool) :
    (flashAsk s op ref cls free).1 = { s with
      par := (flashAsk s op ref cls free).1.par, slu := (flashAsk s op ref cls free).1.slu
      fl := (flashAsk s op ref cls free).1.fl } := by
  unfold flashAsk
  split
  · rfl
  · split
    · rfl
    · have h := sluiceAsk_only s (.flash s.fl.next) cls 5 0
      generalize sluiceAsk s (.flash s.fl.next) cls 5 0 = r at h
      obtain ⟨t, ask⟩ := r
      dsimp only at h
      generalize t.par = par at h
      generalize t.slu = slu at h
      subst h
      cases ask <;> rfl

/-! ### RESET (13 R301) -/

theorem resetRule_of_payload {c : CmdRef} {p : Smb} {a : State} {w : Word} (hp : p.payload = [w]) :
    resetRule c p a = followRes c a 0x0008 0 (bit w 0) := by
  unfold resetRule
  rw [withLen_of_length_eq (by rw [hp]; rfl)]
  simp only [pw, hp]
  rfl

theorem followEffect_reset (s : State) (ref : Option CmdRef) (arg : Word) :
    followEffect s ref 0x0008 arg = resetIn s (10 ^ 6) causeCommand := rfl

/-- RESET that is answered OK resets 1 ms later. -/
theorem reset_completes {p : Smb} {s a : State} {c : CmdRef} {w : Word} (H : Accepted 0x0008 p s a c)
    (hp : p.payload = [w]) (hgo : a.pair.holding = false
      ∨ (bit w 0 = true ∧ (a.pair.handover.isSome = true ∨ standbyReady a = false))) :
    Completes (.reset p) s (resetIn (reply a c p.via stOk []) (10 ^ 6) causeCommand) := by
  refine answers_post (h := resetRule) (u := a) (st := stOk)
    (post := fun t => followEffect t (some c) 0x0008 0) H rfl ?_ |>.trans ?_
  · exact (resetRule_of_payload hp).trans (followRes_go hgo)
  · rw [followEffect_reset]

/-! ### ENROL and UNENROL (01 R20 to R23) -/

theorem enrolRule_of_payload {c : CmdRef} {p : Smb} {a : State} {w0 w1 w2 : Word} {pl : BitVec 64} {na : BitVec 16}
    (hp : p.payload = [w0, w1, w2]) (hpl : pl = placeClean (BitVec.ofNat 64 (w0.toNat * 2 ^ 32 + w1.toNat)))
    (hna : na = BitVec.ofNat 16 (fld w2 31 16)) : enrolRule c p a =
      if fld w2 1 0 = 0 ∨ !placeOk pl then .no a stBadParam
      else if a.id.sender then
        if plHop pl = 0 then
          if (sidesOf (fld w2 1 0)).contains a.id.side then enrolHere c na a else .no a stBadParam
        else enrolBelow c p na pl a
      else if routeOf pl ≠ routeOf a.id.place ∨ !a.id.placeOk ∨ !(sidesOf (fld w2 1 0)).contains a.id.side then
        .no a stBadParam
      else enrolHere c na a := by
  subst hpl hna
  unfold enrolRule
  rw [withLen_of_length_eq (by rw [hp]; rfl)]
  simp only [placeArg, pw, hp]
  rfl

/-- ENROL that names this device by its own place and side. -/
theorem enrolRule_here {c : CmdRef} {p : Smb} {a : State} {w0 w1 w2 : Word} {pl : BitVec 64} {na : BitVec 16}
    (hp : p.payload = [w0, w1, w2]) (hpl : pl = placeClean (BitVec.ofNat 64 (w0.toNat * 2 ^ 32 + w1.toNat)))
    (hna : na = BitVec.ofNat 16 (fld w2 31 16)) (hmask : fld w2 1 0 ≠ 0) (hok : placeOk pl = true)
    (hplace : (a.id.sender = false ∧ routeOf pl = routeOf a.id.place ∧ a.id.placeOk = true)
      ∨ (a.id.sender = true ∧ plHop pl = 0)) (hside : (sidesOf (fld w2 1 0)).contains a.id.side = true) :
    enrolRule c p a = enrolHere c na a := by
  refine (enrolRule_of_payload hp hpl hna).trans ((if_neg (by simp [hmask, hok])).trans ?_)
  obtain ⟨htile, hroute, hplaced⟩ | ⟨hsender, hhop⟩ := hplace
  · exact (if_neg (by simp [htile])).trans (if_neg (by simp only [hroute, hplaced, hside]; simp))
  · exact (if_pos hsender).trans ((if_pos hhop).trans (if_pos hside))

/-- ENROL that a sender passes on to the place below it, where its table lets it. -/
theorem enrolRule_below {c : CmdRef} {p : Smb} {a : State} {w0 w1 w2 : Word} {pl : BitVec 64} {na : BitVec 16}
    (hp : p.payload = [w0, w1, w2]) (hpl : pl = placeClean (BitVec.ofNat 64 (w0.toNat * 2 ^ 32 + w1.toNat)))
    (hna : na = BitVec.ofNat 16 (fld w2 31 16)) (hmask : fld w2 1 0 ≠ 0) (hok : placeOk pl = true)
    (hsender : a.id.sender = true) (hhop : plHop pl ≠ 0) : enrolRule c p a =
      match (enrolAll a).find? (fun e => e.1 == na) with
      | some e => if e.2 = pl then .later (relayTo { a with flume := { a.flume with
            enrolling := ⟨na, pl, sidesOf (fld w2 1 0), c⟩ :: a.flume.enrolling } } 0x0010 p [(na, pl)])
          else .noW a stConflict [conflictWord 0x0A 1 na.toNat]
      | none => if 512 ≤ (enrolAll a).length then .no a stBadParam
          else .later (relayTo { a with flume := { a.flume with
            enrolling := ⟨na, pl, sidesOf (fld w2 1 0), c⟩ :: a.flume.enrolling } } 0x0010 p [(na, pl)]) := by
  refine (enrolRule_of_payload hp hpl hna).trans
    ((if_neg (by simp [hmask, hok])).trans ((if_pos hsender).trans ((if_neg hhop).trans ?_)))
  unfold enrolBelow
  simp only [pw, hp]
  rfl

theorem unenrolRule_of_payload {c : CmdRef} {p : Smb} {a : State} {w : Word} {na : BitVec 16} (hp : p.payload = [w])
    (hna : na = BitVec.ofNat 16 (fld w 31 16)) : unenrolRule c p a =
      if fld w 1 0 = 0 then .no a stBadParam
      else if willNa a = some na then
        if (sidesOf (fld w 1 0)).contains a.id.side then .ok (unenrolHere a) [] else .no a stBadParam
      else if a.id.sender then
        match (enrolAll a).find? (fun e => e.1 == na) with
        | some e => .later (relayTo a 0x0011 p [e])
        | none => .no a stBadParam
      else .no a stBadParam := by
  subst hna
  unfold unenrolRule
  rw [withLen_of_length_eq (by rw [hp]; rfl)]
  simp only [pw, hp]
  rfl

end Sys2Proof.Machine

namespace Sys2Proof.Proofs

open Sys2Proof.Machine Sys2Proof.Safety

/-- Settles O4: each rule on its payload, with the handover a holder's reset waits for. -/
theorem deviceCommands : Obligations.DeviceCommands := by
  unfold Obligations.DeviceCommands
  refine ⟨fun p s a c w H hp => ⟨fun hfree => ?_, fun hhold hnone hready => ?_, fun hhold hstandby =>
      ⟨fun hforce => ?_, fun hforce => ?_⟩⟩,
    fun p s a c w0 w1 w2 pl H hp hpl hbad => ?_, fun p s a c w na H hp hna hbad => ?_,
    fun p s a c w0 w1 w2 pl na H hp hmask hpl hna hok =>
      ⟨fun hplace hside => ⟨fun n hn => ⟨fun hsame => ?_, fun hother => ?_⟩, fun hnone t ht => ?_⟩,
        fun hsender hhop => ⟨fun e he => ⟨fun hother => ?_, fun hsame => ?_⟩, fun hnone => ⟨fun hfull => ?_, fun hfree => ?_⟩⟩⟩,
    fun p s a c w na H hp hmask hna => ⟨fun hown hside => ⟨?_, ?_⟩, fun hother => ⟨fun htile => ?_, fun hsender e he => ?_⟩⟩⟩
  · exact reset_completes H hp (.inl hfree)
  · exact answers_later (h := resetRule) H (by rw [resetRule_of_payload hp, followRes_later hhold hnone hready]; simp)
  · exact reset_completes H hp (.inr ⟨hforce, hstandby⟩)
  · exact answers_no (h := resetRule) H rfl ((resetRule_of_payload hp).trans (followRes_no hhold hstandby hforce))
  · refine answers_no (h := enrolRule) H rfl ((enrolRule_of_payload hp hpl rfl).trans (ite_eq_left_iff.mpr fun h => ?_))
    obtain ⟨hmask, hok⟩ : fld w2 1 0 ≠ 0 ∧ placeOk pl = true := by simpa using h
    obtain hbad | hbad | ⟨hsender, hhop, hside⟩ | ⟨htile, hbad⟩ := hbad
    · exact absurd hbad hmask
    · exact absurd hbad (by simp [hok])
    · exact (if_pos hsender).trans ((if_pos hhop).trans (if_neg (ne_true_of_eq_false hside)))
    · refine (if_neg (by simp [htile])).trans (if_pos ?_)
      obtain hbad | hbad | hbad := hbad
      · exact .inl hbad
      · exact .inr (.inl (by rw [hbad]; rfl))
      · exact .inr (.inr (by rw [hbad]; rfl))
  · refine answers_no (h := unenrolRule) H rfl ((unenrolRule_of_payload hp hna).trans (ite_eq_left_iff.mpr fun hmask => ?_))
    obtain hbad | ⟨hown, hside⟩ | ⟨hother, hsender, hnone⟩ := hbad
    · exact absurd hbad hmask
    · exact (if_pos hown).trans (if_neg (ne_true_of_eq_false hside))
    · exact (if_neg hother).trans ((if_pos hsender).trans (by rw [hnone]))
  · refine answers_ok_nil (h := enrolRule) H ((enrolRule_here hp hpl hna hmask hok hplace hside).trans ?_)
    unfold enrolHere
    rw [hn]
    exact if_pos hsame
  · refine answers_no (h := enrolRule) H rfl ((enrolRule_here hp hpl hna hmask hok hplace hside).trans ?_)
    unfold enrolHere
    rw [hn]
    exact if_neg hother
  · refine answers_pend (h := enrolRule) H ((enrolRule_here hp hpl hna hmask hok hplace hside).trans ?_)
    unfold enrolHere
    rw [hnone]
    simp only [ht, if_true]
  · exact answers_noW (h := enrolRule) H rfl (by
      rw [enrolRule_below hp hpl hna hmask hok hsender hhop, he]; exact if_neg hother)
  · exact answers_later (h := enrolRule) H (by
      rw [enrolRule_below hp hpl hna hmask hok hsender hhop, he]; exact if_pos hsame)
  · exact answers_no (h := enrolRule) H rfl (by
      rw [enrolRule_below hp hpl hna hmask hok hsender hhop, hnone]; exact if_pos hfull)
  · exact answers_later (h := enrolRule) H (by
      rw [enrolRule_below hp hpl hna hmask hok hsender hhop, hnone]; exact if_neg (by omega))
  · exact answers_ok_nil (h := unenrolRule) H ((unenrolRule_of_payload hp hna).trans
      ((if_neg hmask).trans ((if_pos hown).trans (if_pos hside))))
  · unfold unenrolHere
    rw [flashAsk_only]
  · exact answers_no (h := unenrolRule) H rfl ((unenrolRule_of_payload hp hna).trans
      ((if_neg hmask).trans ((if_neg hother).trans (if_neg (by simp [htile])))))
  · exact answers_later (h := unenrolRule) H ((unenrolRule_of_payload hp hna).trans
      ((if_neg hmask).trans ((if_neg hother).trans ((if_pos hsender).trans (by rw [he])))))

end Sys2Proof.Proofs
end

section
/-! PARAM_READ, PARAM_WRITE, PARAM_SAVE and LINK_RETRAIN (13 R303, R304; 14 R319 to R325; 06 R140). -/

namespace Sys2Proof.Machine

open Sys2Proof.Safety

/-- A rule that answers words under a status of its own, be it a refusal or not. -/
theorem answers_words {op st : Nat} {h : Handler} {p : Smb} {s a : State} {c : CmdRef} {words : List Word}
    (H : Accepted op p s a c) (hroom : Room a p words) (hrule : h c p a = .noW a st words) :
    smibenRow op h p s = .next (commitState s (reply a c p.via st words)) := by
  rw [accepted_runs H, hrule]
  cases hst : isRefusal st
  · rw [finish_yes H hst hroom rfl]
    rfl
  · rw [finish_no hst]
    rfl

/-! ### PARAM_READ (13 R303) -/

theorem paramReadRule_of_payload {c : CmdRef} {p : Smb} {a : State} {w : Word} (hp : p.payload = [w]) :
    paramReadRule c p a =
      if fld w 15 0 = 0 ∨ 256 < fld w 15 0 ∨ 65536 < fld w 31 16 + fld w 15 0 then .no a stBadParam
      else if replyRoom a p.via < 4 * fld w 15 0 then .no a stBadLength
      else if queueFull a c then .no a stBusy
      else
        let l := (List.range (fld w 15 0)).map (fun k => readOne a (fld w 31 16 + k))
        .noW a (l.foldl (fun m e => max m e.2) stOk) (l.map (·.1)) := by
  unfold paramReadRule
  rw [withLen_of_length_eq (by rw [hp]; rfl)]
  simp only [pw, hp]
  rfl

/-- PARAM_READ of a range that there is answers its words under the highest status. -/
theorem paramRead_completes {p : Smb} {s a : State} {c : CmdRef} {w : Word} {l : List (Word × Nat)}
    (H : Accepted 0x0100 p s a c) (hp : p.payload = [w]) (hn : 1 ≤ fld w 15 0) (hmax : fld w 15 0 ≤ 256)
    (hend : fld w 31 16 + fld w 15 0 ≤ 65536)
    (hl : l = (List.range (fld w 15 0)).map (fun k => readOne a (fld w 31 16 + k))) (hroom : Room a p (l.map (·.1))) :
    Completes (.paramRead p) s (reply a c p.via (l.foldl (fun m e => max m e.2) stOk) (l.map (·.1))) := by
  subst hl
  refine answers_words (h := paramReadRule) H hroom ((paramReadRule_of_payload hp).trans
    ((if_neg (by omega)).trans ((if_neg ?_).trans (if_neg (by simp [H.queue])))))
  simpa [Room] using hroom

/-- Words that are all in effect are answered OK. -/
theorem foldl_max_status (l : List (Word × Nat)) (h : ∀ e ∈ l, e.2 = stOk) :
    l.foldl (fun m e => max m e.2) stOk = stOk := by
  induction l with
  | nil => rfl
  | cons e l ih =>
    rw [List.foldl_cons, h e (by simp), max_self]
    exact ih fun x hx => h x (by simp [hx])

theorem readOne_of_row {s : State} {i : Nat} (h : (findRow s.id.sender i).isSome = true) :
    readOne s i = (paramWord s i, stOk) := by
  obtain ⟨r, hr⟩ := Option.isSome_iff_exists.mp h
  unfold readOne
  rw [hr]

/-! ### PARAM_WRITE (13 R304; 14 R319 to R321) -/

theorem paramWriteRule_of_payload {c : CmdRef} {p : Smb} {a : State} {w : Word} {l : List Word}
    {set : List (Nat × Word)} (hp : p.payload = w :: l) (hl : l.length = 2 * fld w 15 0) (hn : 1 ≤ fld w 15 0)
    (hmax : fld w 15 0 ≤ 64) : paramWriteRule set c p a =
      match setRefusal a (pairsOf l) with
      | some (st, x, k) => .noW a st [x, pairPlace (pairsOf l) k]
      | none =>
        let plain := (pairsOf l).filter (fun e => pairAcc a e.1 == .rw || pairAcc a e.1 == .w1c)
        if (stagedOf a (pairsOf l)).isEmpty then .ok (writeNow a set plain) []
        else
          let r : State × Nat := if (pairsOf l).any (fun e => pairAcc a e.1 == .saf)
            then flashAsk (supersede a ((stagedOf a (pairsOf l)).map (·.1))) (.badger (.params (stagedOf a (pairsOf l))))
              (some c) 1 false
            else stagePairs a c (stagedOf a (pairsOf l))
          if r.2 = stPending then { Res.pend (writeNow r.1 set plain) with words := echoPairs (stagedOf a (pairsOf l)) }
          else .noW (if r.2 = stNvHeld then nvRefuse a else bump a pwrRefused) r.2 [0, pairPlace (pairsOf l) 0] := by
  unfold paramWriteRule
  simp only [pw, hp]
  exact (if_neg (by simp only [List.length_cons, hl, List.getD_cons_zero]; omega)).trans
    (if_neg (by simp only [List.getD_cons_zero]; omega))

section
variable {p : Smb} {s a : State} {c : CmdRef} {w : Word} {l : List Word} {set : List (Nat × Word)} {i : Instr}

/-- A set with a pair that fails is refused as a whole. -/
theorem paramWrite_refused (H : Accepted 0x0101 p s a c) (hp : p.payload = w :: l) (hl : l.length = 2 * fld w 15 0)
    (hn : 1 ≤ fld w 15 0) (hmax : fld w 15 0 ≤ 64) {st k : Nat} {x : Word}
    (h : setRefusal a (pairsOf l) = some (st, x, k)) (hst : isRefusal st = true)
    (hexec : exec i s = smibenRow 0x0101 (paramWriteRule set) p s) :
    AnswersNo i p s a c st [x, pairPlace (pairsOf l) k] :=
  hexec.trans (answers_noW (h := paramWriteRule set) H hst (by rw [paramWriteRule_of_payload hp hl hn hmax, h]))

/-- A set whose pairs all take effect at once. -/
theorem paramWrite_now (H : Accepted 0x0101 p s a c) (hp : p.payload = w :: l) (hl : l.length = 2 * fld w 15 0)
    (hn : 1 ≤ fld w 15 0) (hmax : fld w 15 0 ≤ 64) (h : setRefusal a (pairsOf l) = none)
    (hnil : stagedOf a (pairsOf l) = []) (hexec : exec i s = smibenRow 0x0101 (paramWriteRule set) p s) :
    AnswersOk i p s (writeNow a set
      ((pairsOf l).filter (fun e => pairAcc a e.1 == .rw || pairAcc a e.1 == .w1c))) c [] := by
  refine hexec.trans (answers_ok_nil (h := paramWriteRule set) H ?_)
  rw [paramWriteRule_of_payload hp hl hn hmax, h]
  exact if_pos (by rw [hnil]; rfl)

/-- A set of which pairs wait, with what the flash queue or Sluice answers for them. -/
theorem paramWrite_staged (H : Accepted 0x0101 p s a c) (hp : p.payload = w :: l) (hl : l.length = 2 * fld w 15 0)
    (hn : 1 ≤ fld w 15 0) (hmax : fld w 15 0 ≤ 64) (h : setRefusal a (pairsOf l) = none)
    (hsome : stagedOf a (pairsOf l) ≠ []) {r : State × Nat}
    (hr : r = (if (pairsOf l).any (fun e => pairAcc a e.1 == .saf)
      then flashAsk (supersede a ((stagedOf a (pairsOf l)).map (·.1))) (.badger (.params (stagedOf a (pairsOf l))))
        (some c) 1 false
      else stagePairs a c (stagedOf a (pairsOf l))))
    (hexec : exec i s = smibenRow 0x0101 (paramWriteRule set) p s) :
    (r.2 = stPending → Room a p (echoPairs (stagedOf a (pairsOf l))) →
      Completes i s (reply (writeNow r.1 set
          ((pairsOf l).filter (fun e => pairAcc a e.1 == .rw || pairAcc a e.1 == .w1c)))
        c p.via stPending (echoPairs (stagedOf a (pairsOf l)))))
    ∧ (isRefusal r.2 = true →
      AnswersNo i p s (if r.2 = stNvHeld then nvRefuse a else bump a pwrRefused) c r.2 [0, pairPlace (pairsOf l) 0]) := by
  have hrule := paramWriteRule_of_payload (c := c) (a := a) (set := set) hp hl hn hmax
  rw [h] at hrule
  replace hrule := hrule.trans (if_neg (by simpa using hsome))
  simp only [← hr] at hrule
  refine ⟨fun hst hroom => ?_, fun hst => ?_⟩
  · rw [if_pos hst] at hrule
    exact hexec.trans (answers (h := paramWriteRule set) H (by rw [hrule]; rfl) (by rw [hrule]; exact hroom)
      (by rw [hrule]; rfl) |>.trans (by rw [hrule]; rfl))
  · rw [if_neg (by rintro heq; rw [heq] at hst; exact absurd hst (by decide))] at hrule
    exact hexec.trans (answers_noW (h := paramWriteRule set) H hst hrule)

end

/-! ### PARAM_SAVE and LINK_RETRAIN (14 R325; 06 R140) -/

theorem paramSaveRule_of_empty {c : CmdRef} {p : Smb} {a : State} (hp : p.payload = []) : paramSaveRule c p a =
    if saving a then .no a stBusy
    else if (settingsAsk a (.paramSave (settingsNow a)) (some c)).2 = stPending then
      .pend (settingsAsk a (.paramSave (settingsNow a)) (some c)).1
    else .no (settingsAsk a (.paramSave (settingsNow a)) (some c)).1
      (settingsAsk a (.paramSave (settingsNow a)) (some c)).2 :=
  withLen_of_length_eq (by rw [hp]; rfl)

theorem linkRetrainRule_of_payload {c : CmdRef} {p : Smb} {a : State} {w : Word} (hp : p.payload = [w]) :
    linkRetrainRule c p a =
      if (maskPorts (fld w 8 0)).any (fun q => !portExists a q) then .no a stBadParam
      else if (maskPorts (fld w 8 0)).any (fun q => match portAt a q with | some x => x.cross | none => false) then
        .no a stNotInState
      else { Res.pend a with post := beginRetrain c (maskPorts (fld w 8 0)) } := by
  unfold linkRetrainRule
  rw [withLen_of_length_eq (by rw [hp]; rfl)]
  simp only [pw, hp]
  rfl

/-- LINK_RETRAIN of ports that exist and are not crossed. -/
theorem linkRetrain_completes {p : Smb} {s a : State} {c : CmdRef} {w : Word} (H : Accepted 0x0030 p s a c)
    (hp : p.payload = [w]) (hexists : ∀ q ∈ maskPorts (fld w 8 0), portExists a q = true)
    (hcross : ∀ q ∈ maskPorts (fld w 8 0), ∀ x, portAt a q = some x → x.cross = false) :
    Completes (.linkRetrain p) s (beginRetrain c (maskPorts (fld w 8 0)) (reply a c p.via stPending [])) := by
  refine answers_post (h := linkRetrainRule) (u := a) (st := stPending) (post := beginRetrain c (maskPorts (fld w 8 0))) H rfl
    ((linkRetrainRule_of_payload hp).trans ((if_neg ?_).trans (if_neg ?_)))
  · simpa using hexists
  · simp only [List.any_eq_true, not_exists, not_and]
    intro q hq
    cases hx : portAt a q with
    | none => simp
    | some x => simp [hcross q hq x hx]

end Sys2Proof.Machine

namespace Sys2Proof.Proofs

open Sys2Proof.Machine Sys2Proof.Safety

/-- Settles O5: each rule on its payload, with what Sluice and the flash queue answer. -/
theorem parameterCommands : Obligations.ParameterCommands := by
  unfold Obligations.ParameterCommands
  refine ⟨⟨fun p s a c w H hp i n hi hn => ⟨fun hbad => ?_, fun h1 h256 hend => ⟨fun l hl hroom => ?_, fun hrows hroom => ?_⟩⟩,
      fun p s a c w l H hp hl hn hmax set => ⟨fun st x k href hst => ⟨?_, ?_, ?_⟩, fun hnone now_ hnow =>
        ⟨fun hnil => ⟨?_, ?_, ?_⟩, fun hsome r hr => ⟨fun hst hroom => ⟨?_, ?_, ?_⟩, fun hst t ht => ⟨?_, ?_, ?_⟩⟩⟩⟩⟩,
    fun p s a c H hp => ⟨fun hbusy => ?_, fun hfree t st hask => ⟨fun hst => ?_, fun hst => ?_⟩⟩,
    fun p s a c w H hp hexists hcross => ?_, fun n s c d hheld htrain up hup => ?_⟩
  · subst hi hn
    exact answers_no (h := paramReadRule) H rfl ((paramReadRule_of_payload hp).trans (if_pos hbad))
  · subst hi hn
    exact paramRead_completes H hp h1 h256 hend hl hroom
  · subst hi hn
    have hread : (List.range (fld w 15 0)).map (fun k => readOne a (fld w 31 16 + k))
        = (List.range (fld w 15 0)).map (fun k => (paramWord a (fld w 31 16 + k), stOk)) :=
      List.map_congr_left fun k hk => readOne_of_row (hrows k (List.mem_range.mp hk))
    have hdone := paramRead_completes H hp h1 h256 hend hread.symm (by simpa [Function.comp_def] using hroom)
    rw [foldl_max_status _ (by simp)] at hdone
    simpa [AnswersOk, Function.comp_def] using hdone
  · exact paramWrite_refused H hp hl hn hmax href hst (set := []) rfl
  · exact paramWrite_refused H hp hl hn hmax href hst (set := []) rfl
  · exact paramWrite_refused H hp hl hn hmax href hst (set := set) rfl
  · subst hnow
    exact paramWrite_now H hp hl hn hmax hnone hnil rfl
  · subst hnow
    exact paramWrite_now H hp hl hn hmax hnone hnil rfl
  · subst hnow
    exact paramWrite_now H hp hl hn hmax hnone hnil rfl
  · subst hnow
    exact (paramWrite_staged H hp hl hn hmax hnone hsome hr rfl).1 hst hroom
  · subst hnow
    exact (paramWrite_staged H hp hl hn hmax hnone hsome hr rfl).1 hst hroom
  · subst hnow
    exact (paramWrite_staged H hp hl hn hmax hnone hsome hr rfl).1 hst hroom
  · subst ht
    exact (paramWrite_staged H hp hl hn hmax hnone hsome hr (set := []) rfl).2 hst
  · subst ht
    exact (paramWrite_staged H hp hl hn hmax hnone hsome hr (set := []) rfl).2 hst
  · subst ht
    exact (paramWrite_staged H hp hl hn hmax hnone hsome hr (set := set) rfl).2 hst
  · exact answers_no (h := paramSaveRule) H rfl ((paramSaveRule_of_empty hp).trans (if_pos hbusy))
  · refine answers_pend (h := paramSaveRule) H ((paramSaveRule_of_empty hp).trans
      ((if_neg (ne_true_of_eq_false hfree)).trans ?_))
    rw [hask]
    exact if_pos hst
  · refine answers_no (h := paramSaveRule) H hst ((paramSaveRule_of_empty hp).trans
      ((if_neg (ne_true_of_eq_false hfree)).trans ?_))
    rw [hask]
    refine if_neg fun heq : st = stPending => ?_
    rw [heq] at hst
    exact absurd hst (by decide)
  · exact linkRetrain_completes H hp hexists hcross
  · subst hup
    refine completes_act (by unfold exec execPortRetrainComplete; rfl) hheld ?_
    simp only [htrain] <;> rfl

end Sys2Proof.Proofs
end

section
/-! Sessions, kept notifications, gathers and unknown opcodes (02 R35 to R37, R40, R49, R50). -/

namespace Sys2Proof.Machine

open Sys2Proof.Safety

/-! ### SESSION_OPEN (02 R35, R36) -/

theorem told_freeBuf (s : State) (p : Smb) : Told s (freeBuf s p) := by
  unfold freeBuf
  split <;> rfl

theorem told_handTwin (op : Nat) (s : State) (p : Smb) : Told s (handTwin op s p) := by
  unfold handTwin
  split
  · split
    · exact told_linkSend _ _ _
    · exact .refl s
  · exact .refl s

theorem told_of_policed {s t : State} {p : Smb} {cls : Nat} (h : policed s p cls = some t) : Told s t := by
  rw [policersOnly_policed h]
  rfl

theorem told_countNotime (s : State) (p : Smb) : Told s (countNotime s p) := by
  unfold countNotime
  split
  · exact told_bump _ _
  · exact .refl s

theorem told_of_roomFor {s t : State} {v : Via} {n : Nat} (h : roomFor s v = some (n, t)) : Told s t := by
  have hnet : ∀ {x : Option (Nat × State)}, x = some (n, t) → (x = none ∨ ∃ m u, x = some (m, u) ∧ Told s u) → Told s t := by
    rintro _ rfl (hx | ⟨m, u, hx, hu⟩)
    · cases hx
    · cases hx
      exact hu
  refine hnet h ?_
  unfold roomFor
  split
  · exact .inr ⟨_, _, rfl, told_closeSess _ _⟩
  · split
    · exact .inr ⟨_, _, rfl, .refl s⟩
    · split
      · split
        · exact .inr ⟨_, _, rfl, told_closeSess _ _⟩
        · exact .inl rfl
      · exact .inl rfl

/-- A SESSION_OPEN past its policer, its form, its key and its tag (02 R35). -/
theorem openPath_of_checked {p : Smb} {s a : State} {k : W256} (hvia : ∀ r, p.via ≠ .relay r)
    (hreach : reaches 0x0001 s p = true) (hpol : policed (freeBuf s p) p 2 = some a) (hshape : shapeOk p = true)
    (hlevel : levelOk a p = true) (hmode : hDmode p.hdr = 0) (hkey : openKey a (hKeyc p.hdr) = some k)
    (htag : tagOk (some k) p = true) : openPath p s =
      if !issueOk a p then refuseOpen a p k stReplay
      else if inRecovery (countNotime a p) && hKeyc p.hdr != keyUpdate then refuseOpen (countNotime a p) p k stAuthFail
      else if p.payload.length ≠ 4 then refuseOpen (countNotime a p) p k stBadLength
      else if (countNotime a p).smb.nhHist.contains (BitVec.ofNat 128 (natOfWords p.payload)) then
        refuseOpen (countNotime a p) p k stReplay
      else if !(countNotime a p).sec.entropyOk then refuseOpen (countNotime a p) p k stInternal
      else match roomFor (countNotime a p) p.via with
        | none => refuseOpen (countNotime a p) p k stBusy
        | some (n, t) => openSession t p k n := by
  unfold openPath
  simp only [hreach, hpol, hshape, hlevel, hmode, hkey, htag, Bool.not_true, Bool.and_self, bne_self_eq_false,
    Bool.or_self, Bool.false_eq_true, if_false] <;> rfl

theorem sessionOpen_completes {p : Smb} {s t : State} (hheld : s.boot.held = false) (hsess : hSess p.hdr = 15)
    (ht : openPath p s = t) : Completes (.sessionOpen p) s t := by
  refine completes_act (by unfold exec execSessionOpen; rfl) hheld ?_
  exact (if_pos hsess).trans ht

theorem linkCast_smb (s : State) (l : List Nat) (b : CtlBody) : (linkCast s l b).smb = s.smb := by
  unfold linkCast
  induction l generalizing s with
  | nil => rfl
  | cons q l ih => exact (ih _).trans (smb_linkSend s q b)

/-- The session that an open puts first: under `k`, with the nonce drawn next (02 R36). -/
def openedSession (s : State) (p : Smb) (k : W256) (n : Nat) : Session :=
  { ref := ⟨n, none⟩, serial := s.smb.opened + 1, keyc := hKeyc p.hdr
    key := if s.id.sender && hKeyc p.hdr == keySafety then none
      else some (sessionKey k n (naOr0 s) s.id.side (BitVec.ofNat 128 (natOfWords p.payload)) (Config.nonce s.free))
    level := hLevel p.hdr, lastAt := lt s, hi := 0, win := 0, dseq := 1, recent := [], queued := [], notes := []
    passed := [], src := p.via }

/-- What an open leaves: the new session at the head of the others (02 R36). -/
theorem openSession_opens (s : State) (p : Smb) (k : W256) (n : Nat) :
    (openSession s p k n).free = s.free + 1 ∧ ∃ x, (openSession s p k n).smb.sess = x :: s.smb.sess
      ∧ x.ref = ⟨n, none⟩ ∧ x.keyc = hKeyc p.hdr ∧ x.level = hLevel p.hdr ∧ x.hi = 0 ∧ x.dseq = 1
      ∧ x.key = if s.id.sender && hKeyc p.hdr == keySafety then none
          else some (sessionKey k n (naOr0 s) s.id.side (BitVec.ofNat 128 (natOfWords p.payload)) (Config.nonce s.free)) := by
  unfold openSession takeFree
  dsimp only
  refine ⟨?_, openedSession s p k n, ?_, rfl, rfl, rfl, rfl, rfl, rfl⟩
  · split
    · exact (told_linkCast _ _ _).free.trans (told_ship _ _).free
    · exact (told_ship _ _).free
  · split
    · rw [linkCast_smb, ship_sess]
      rfl
    · rw [ship_sess]
      rfl

/-! ### The end of a session (02 R36, R37) -/

theorem findSess_closeSess (s : State) (r : SRef) : findSess (closeSess s r) r = none := by
  unfold closeSess
  cases hx : findSess s r with
  | none => exact hx
  | some x =>
    dsimp only
    have hgone : ∀ t : State, t.smb.sess = s.smb.sess.filter (fun y => y.ref ≠ r) → findSess t r = none := by
      intro t ht
      unfold findSess
      rw [ht, List.find?_eq_none]
      intro y hy
      simpa using (List.mem_filter.mp hy).2
    split
    · exact hgone _ (by rw [linkCast_smb])
    · exact hgone _ rfl

theorem ref_of_findSess {s : State} {r : SRef} {x : Session} (h : findSess s r = some x) : x.ref = r := by
  simpa using List.find?_some h

/-- Sessions are closed in the time that has been reached. -/
theorem lt_closeSess_toLt (d : Nat) (s : State) (r : SRef) :
    lt (closeSess (toLt d s) r) = lt s + 4 * cdiv (d - lt s) 4 :=
  (congrArg Time.lt (told_closeSess _ _).time).trans (ticks_lt _ _)

theorem sessionCloseRule_of_empty {c : CmdRef} {p : Smb} {a : State} (hp : p.payload = []) : sessionCloseRule c p a =
    ⟨stOk, [], a, false, fun t => if c.sess.rail.isSome then t else closeSess t c.sess⟩ :=
  withLen_of_length_eq (by rw [hp]; rfl)

/-! ### Announcements (02 R37) -/

/-- The slot of a tile that an announcement opens, after the closing of what it held. -/
theorem sessionAnnounce_completes {s u : State} {rail : Side} {n keyc : Nat} {na : BitVec 16} {side : Side} {nh nd : W128}
    {w : Bool} (hheld : s.boot.held = false) (htile : s.id.sender = false)
    (hu : u = linkCast (closeSess s ⟨n, some rail⟩) [1, 2] (.announce rail n keyc na side nh nd w)) :
    Completes (.sessionAnnounce rail n keyc na side nh nd w) s (if w ∨ 8 ≤ n then u else { u with smb := { u.smb with
      sess := { ref := ⟨n, some rail⟩, serial := u.smb.opened + 1, keyc := keyc
                key := (loadedKey s keyc).map (fun k => sessionKey k n na side nh nd)
                level := smbHigh s, lastAt := lt s, hi := 0, win := 0, dseq := 0, recent := []
                queued := [], notes := [], passed := [], src := .relay rail } :: u.smb.sess
      opened := u.smb.opened + 1 } }) := by
  subst hu
  refine completes_act (by unfold exec execSessionAnnounce; rfl) hheld ?_
  exact if_neg (by simp [htile])

/-! ### Kept notifications (02 R49) -/

theorem noticeFetchRule_of_payload {c : CmdRef} {p : Smb} {a : State} {e : Word} (hp : p.payload = [e]) :
    noticeFetchRule c p a = match (findSess a c.sess).bind (fun x => look e x.notes) with
      | none => .no a stNotInState
      | some q => ⟨stOk, [], a, false, sendAgain c q⟩ := by
  unfold noticeFetchRule
  rw [withLen_of_length_eq (by rw [hp]; rfl)]
  simp only [pw, hp]
  rfl

end Sys2Proof.Machine

namespace Sys2Proof.Proofs

open Sys2Proof.Machine Sys2Proof.Safety

/-- Settles O2: the way of an open through its checks, and the ends of sessions and gathers. -/
theorem sessionCommands : Obligations.SessionCommands := by
  unfold Obligations.SessionCommands
  refine ⟨⟨fun p s a k hheld hsess hvia hreach hpol hshape hlevel hmode hkey htag => ?_,
      fun p s a c H hp => ⟨fun hrail => ?_, fun hrail => ?_⟩,
      fun n s hheld => ⟨fun x hx => ?_, fun hnone => ?_⟩,
      fun rail n keyc na side nh nd w s hheld => ⟨fun hs => ⟨fun hown => ?_, fun hother => ?_⟩,
        fun htile => ⟨fun hw hn => ?_, fun hw => ?_⟩⟩⟩,
    fun p s a c e H hp q hq => ⟨fun hnone => ?_, fun n hn => ?_⟩, fun n s g hheld hg => ?_, fun n s hheld hnone => ?_,
    fun p s b x hheld hop hreach hshape hlevel hsess hmatch hnear hpol htag hwin hissue => ?_⟩
  · have hpath := openPath_of_checked hvia hreach hpol hshape hlevel hmode hkey htag
    have htold : Told s a := (told_freeBuf s p).trans (told_of_policed hpol)
    refine ⟨fun hissue => ?_, fun hissue t ht hrec => ?_⟩
    · exact sessionOpen_completes hheld hsess (hpath.trans (if_pos (by simp [hissue])))
    · have hat : Told a t := ht ▸ told_countNotime a p
      subst ht
      replace hpath := (hpath.trans (if_neg (by simp [hissue]))).trans (if_neg (by
        unfold inRecovery at hrec ⊢
        rw [hat.boot]
        obtain h | h := hrec <;> simp [h]))
      refine ⟨fun hlen => ?_, fun hlen nh hnh => ⟨fun hknown => ?_, fun hnew hent => ⟨fun hfull => ?_, fun n b hroom => ?_⟩⟩⟩
      · exact sessionOpen_completes hheld hsess (hpath.trans (if_pos hlen))
      · subst hnh
        exact sessionOpen_completes hheld hsess (hpath.trans ((if_neg (not_not.mpr hlen)).trans (if_pos hknown)))
      all_goals
        subst hnh
        replace hpath := (hpath.trans (if_neg (not_not.mpr hlen))).trans ((if_neg (ne_true_of_eq_false hnew)).trans
          (if_neg (by simp [hat.sec, hent])))
      · exact sessionOpen_completes hheld hsess (hpath.trans (by rw [hfull]))
      · have hsb : Told s b := (htold.trans hat).trans (told_of_roomFor hroom)
        obtain ⟨hfree, x, hcons, href, hkeyc, hlev, hhi, hdseq, hxkey⟩ := openSession_opens b p k n
        refine ⟨openSession b p k n, sessionOpen_completes hheld hsess (hpath.trans (by rw [hroom])),
          hfree.trans (by rw [hsb.free]), x, hcons, href, hkeyc, hlev, hhi, hdseq, hxkey.trans ?_⟩
        unfold naOr0
        rw [hsb.id, hsb.free]
        simp only [Bool.and_eq_true, beq_iff_eq]
  · refine answers_post (h := sessionCloseRule) (u := a) (st := stOk)
      (post := fun t => if c.sess.rail.isSome then t else closeSess t c.sess) H rfl (sessionCloseRule_of_empty hp) |>.trans ?_
    rw [if_neg (by simp [hrail])]
  · refine answers_post (h := sessionCloseRule) (u := a) (st := stOk)
      (post := fun t => if c.sess.rail.isSome then t else closeSess t c.sess) H rfl (sessionCloseRule_of_empty hp) |>.trans ?_
    rw [if_pos hrail]
  · refine ⟨closeSess (toLt (x.lastAt + idleNs s + 4) s) ⟨n, none⟩, ?_, findSess_closeSess _ _,
      lt_closeSess_toLt _ s _⟩
    refine completes_act (by unfold exec execSessionIdleClose; rfl) hheld ?_
    simp only [hx, ref_of_findSess hx]
  · refine completes_act (by unfold exec execSessionIdleClose; rfl) hheld ?_
    simp only [hnone]
  · refine completes_act (by unfold exec execSessionAnnounce; rfl) hheld ?_
    exact (if_pos hs).trans (if_pos hown)
  · refine completes_act (by unfold exec execSessionAnnounce; rfl) hheld ?_
    exact (if_pos hs).trans (if_neg hother)
  · have hdone := sessionAnnounce_completes (keyc := keyc) (na := na) (side := side) (nh := nh) (nd := nd) (w := w)
      (n := n) (rail := rail) hheld htile rfl
    rw [if_neg (by simp [hw, hn])] at hdone
    exact ⟨_, hdone, _, List.find?_cons_of_pos (by simp), rfl, rfl⟩
  · have hdone := sessionAnnounce_completes (keyc := keyc) (na := na) (side := side) (nh := nh) (nd := nd) (w := w)
      (n := n) (rail := rail) hheld htile rfl
    rw [if_pos (.inl hw)] at hdone
    refine ⟨_, hdone, ?_⟩
    unfold findSess
    rw [linkCast_smb]
    exact findSess_closeSess s _
  · subst hq
    exact answers_no (h := noticeFetchRule) H rfl ((noticeFetchRule_of_payload hp).trans (by rw [hnone]))
  · subst hq
    exact answers_post (h := noticeFetchRule) (u := a) (st := stOk) (post := sendAgain c n) H rfl
      ((noticeFetchRule_of_payload hp).trans (by rw [hn]))
  · refine completes_act (by unfold exec execSummaryGatherTimeout; rfl) hheld ?_
    simp only [hg]
  · refine completes_act (by unfold exec execSummaryGatherTimeout; rfl) hheld ?_
    simp only [hnone]
  · refine completes_act (by unfold exec execUnknownOpcode; rfl) hheld ?_
    refine (if_neg (by simp [hop])).trans (hostCommand_done ?_)
    refine (checkSteps_of_policed hreach rfl hshape hlevel hsess hmatch ?_ hpol).trans
      ((if_neg (by simp [htag])).trans ((if_neg (by simp [hwin])).trans (checks69_unknown hissue hop)))
    rwa [(told_freeBuf _ p).id, (told_handTwin _ s p).id]

end Sys2Proof.Proofs
end

section
/-! The routing of packets by their turns and the repetition of control packets (06 R118, R128 to R136). -/

namespace Sys2Proof.Machine

open Sys2Proof.Safety

/-! ### Flume packets that are handed on (05 R112; 06 R128, R136) -/

/-- A guest of the other rail within the levels of the device goes the way that the crossings give it. -/
theorem guestFlume_of_way {s : State} {port : Nat} {k : LinkPkt} {h : FlumeHdr} {l : List Nat} (hk : flumeHdr k = some h)
    (hlow : ownLow s ≤ h.level) (hhigh : h.level ≤ ownHigh s) (hrail : k.rail ≠ s.id.side)
    (hl : guestWay s port (decide (4 ≤ h.typ)) h.bcast h.route = some l) :
    guestFlume port k s = l.foldl (fun t p => flumeOut t p (relayed k)) s := by
  unfold guestFlume
  simp only [hk]
  rw [if_neg (by omega), if_neg hrail, hl]

theorem guestFlume_of_level {s : State} {port : Nat} {k : LinkPkt} {h : FlumeHdr} (hk : flumeHdr k = some h)
    (hlevel : h.level < ownLow s ∨ ownHigh s < h.level) : guestFlume port k s = levelDrop s h.level := by
  unfold guestFlume
  simp only [hk]
  exact if_pos hlevel

/-- An upstream packet of a tile, judged by its level and its rail. -/
theorem upstreamForward_completes {s t : State} {fromBr : Bool} {k : LinkPkt} {h : FlumeHdr} (hheld : s.boot.held = false)
    (htile : s.id.sender = false) (hk : flumeHdr k = some h)
    (ht : (if h.level < ownLow s ∨ ownHigh s < h.level then levelDrop s h.level
      else if ownRail s k then sendUp s (if fromBr then 2 else 1) (relayed k)
      else guestFlume (if fromBr then 2 else 1) k s) = t) :
    Completes (.upstreamFlumeForward fromBr true k.toLinkStart k.data k.early k.toLinkEnd) s
      (countBad t (if fromBr then 2 else 1) k) := by
  subst ht
  refine completes_act (by unfold exec execUpstreamFlumeForward; rfl) hheld ?_
  have hk' : flumeHdr (LinkPkt.of k.toLinkStart k.data ⟨k.toLinkEnd, k.early⟩) = some h := hk
  exact (if_neg (by simp [htile])).trans (by simp only [hk']; rfl)

theorem sendUp_of_room {s : State} {rank : Nat} {k : LinkPkt}
    (h : (s.link.upQueue.map (fun e => e.2.len)).sum + k.len ≤ 32768) : sendUp s rank k
      = upDrain { s with link := { s.link with upQueue := s.link.upQueue ++ [(rank, k)] } } := if_pos h

theorem sendUp_of_full {s : State} {rank : Nat} {k : LinkPkt}
    (h : 32768 < (s.link.upQueue.map (fun e => e.2.len)).sum + k.len) : sendUp s rank k = rxDrop s := if_neg (by omega)

/-! ### The ARQ (06 R129 to R131) -/

/-- A packet taken before, or more than 32 ahead, is only acknowledged. -/
theorem takeCtl_of_known {s : State} {x : Port} {q : CtlPkt} (h : cdiff q.cseq x.lastIn ≤ 0 ∨ 32 < cdiff q.cseq x.lastIn
    ∨ x.gotAhead.any (fun e => e.1 == q.cseq) = true) : takeCtl s x q = sendAck s x.p := by
  refine if_pos ?_
  obtain h | h | h := h <;> simp [h]

/-- A packet that is new is held, and those in turn with it are handed on. -/
theorem takeCtl_of_ahead {s : State} {x : Port} {q : CtlPkt} (hahead : 0 < cdiff q.cseq x.lastIn)
    (hwin : cdiff q.cseq x.lastIn ≤ 32) (hnew : x.gotAhead.any (fun e => e.1 == q.cseq) = false) :
    takeCtl s x q =
      (inTurn (x.gotAhead ++ [(q.cseq, q)]) 33 x.lastIn).foldl (fun t e => handOn x.p t e.2) (sendAck (setPort s { x with
        lastIn := ((inTurn (x.gotAhead ++ [(q.cseq, q)]) 33 x.lastIn).map (·.1)).foldl (fun _ c => c) x.lastIn
        gotAhead := (x.gotAhead ++ [(q.cseq, q)]).filter (fun e =>
          !(inTurn (x.gotAhead ++ [(q.cseq, q)]) 33 x.lastIn).any (fun f => f.1 == e.1)) }) x.p) := by
  refine if_neg ?_
  simp only [hnew, Bool.or_false, Bool.or_eq_true, decide_eq_true_eq]
  omega

/-- A control packet of a port that can take it: its CRC, its form, and then its place in the order. -/
theorem controlPacketReceived_completes {s t : State} {p : Nat} {k : LinkPkt} {x : Port} (hheld : s.boot.held = false)
    (hx : upPort s p = some x) (ht : (if !linkGood k then bump s (clnAt clnPortCrcerr p)
      else match readCtl k with | some q => takeCtl s x q | none => s) = t) :
    Completes (.controlPacketReceived p k) s t := by
  refine completes_act (by unfold exec execControlPacketReceived; rfl) hheld ?_
  simp only [hx]
  exact ht

end Sys2Proof.Machine

namespace Sys2Proof.Proofs

open Sys2Proof.Machine Sys2Proof.Safety

/-- Settles O29: where each packet goes, and what the ARQ holds and repeats. -/
theorem routingAndArq : Obligations.RoutingAndArq := by
  unfold Obligations.RoutingAndArq
  refine ⟨fun s hheld => ⟨fun k htile hplace => ?_, fun k hno => ?_, fun port k => ?_, fun port k h hk =>
      ⟨fun hlow hhigh hrail l hl => ?_, fun hlevel => ?_⟩, fun fromBr k h port htile hport hk =>
      ⟨fun hlow hhigh => ?_, fun hlevel => ?_⟩, fun rank k used hused => ⟨fun hroom => ?_, fun hfull => ?_⟩,
      fun fromBr a data early e htile => ?_⟩,
    fun s p x hheld hx => ⟨fun cum sack acked hacked late hlate => ?_, fun cseq a ha => ?_, fun cseq hnone => ?_,
      fun k hp hup => ⟨fun hbad => ?_, fun hgood hnone => ?_, fun q hgood hq =>
        ⟨fun hdup => ?_, fun hahead hwin hnew got l hgot hl => ?_⟩⟩⟩⟩
  · refine completes_act (by unfold exec execFlumePacketForward; rfl) hheld ?_
    exact if_neg (by simp [htile, hplace])
  · refine completes_act (by unfold exec execFlumePacketForward; rfl) hheld ?_
    refine if_pos ?_
    obtain h | h := hno <;> simp [h]
  · exact completes_act (by unfold exec execGuestPacketReceived; rfl) hheld rfl
  · exact guestFlume_of_way hk hlow hhigh hrail hl
  · exact guestFlume_of_level hk hlevel
  · subst hport
    exact upstreamForward_completes hheld htile hk (if_neg (by omega))
  · subst hport
    exact upstreamForward_completes hheld htile hk (if_pos hlevel)
  · subst hused
    exact sendUp_of_room hroom
  · subst hused
    exact sendUp_of_full hfull
  · refine completes_act (by unfold exec execUpstreamFlumeForward; rfl) hheld ?_
    exact (if_neg (by simp [htile])).trans (if_pos rfl)
  · subst hacked hlate
    refine completes_act (by unfold exec execAckReceived; rfl) hheld ?_
    simp only [hx]
  · refine completes_act (by unfold exec execArqRetransmitTimeout; rfl) hheld ?_
    simp only [hx, ha]
  · refine completes_act (by unfold exec execArqRetransmitTimeout; rfl) hheld ?_
    simp only [hx, hnone]
  · exact controlPacketReceived_completes hheld hup (if_pos (by simp [hbad]))
  · exact controlPacketReceived_completes hheld hup ((if_neg (by simp [hgood])).trans (by rw [hnone]))
  · refine controlPacketReceived_completes hheld hup ((if_neg (by simp [hgood])).trans ?_)
    rw [hq]
    exact (takeCtl_of_known hdup).trans (by rw [hp])
  · refine controlPacketReceived_completes hheld hup ((if_neg (by simp [hgood])).trans ?_)
    rw [hq]
    subst hp hgot hl
    exact takeCtl_of_ahead hahead hwin hnew

end Sys2Proof.Proofs
end

section
/-! The ports of CorsinLink from their signal to their full rate (06 R115 to R127, R140). -/

namespace Sys2Proof.Machine

open Sys2Proof.Safety

/-! ### Signals, lock and time-outs (06 R121, R125, R133) -/

theorem signalDetect_completes {s t : State} {p : Nat} {two : Bool} {x : Port} (hheld : s.boot.held = false)
    (hx : portAt s p = some x) (ht : (if 1 < x.st then s
      else trainStart (if p = 0 ∧ !s.id.sender then setPort s { x with lanes2 := two } else s) p 0) = t) :
    Completes (.signalDetect ⟨p, two⟩) s t := by
  refine completes_act (by unfold exec execSignalDetect; rfl) hheld ?_
  simp only [hx]
  exact ht

theorem brSignalSample_completes {s s1 : State} {p : Nat} {signal : Bool} {x : Port} (hheld : s.boot.held = false)
    (hx : portAt s p = some x) (htile : s.id.sender = false) (hp : p = 1 ∨ p = 2) (hst : x.st ≤ 1)
    (hs1 : s1 = toLt (x.since + 10 ^ 9) s) : Completes (.brSignalSample p signal) s (
      if signal then trainStart s1 p 0 else setPort s1 { x with st := 0, detector := true, since := lt s1 }) := by
  subst hs1
  refine completes_act (by unfold exec execBrSignalSample; rfl) hheld ?_
  simp only [hx]
  exact if_neg (by rcases hp with rfl | rfl <;> simp [htile] <;> omega)

theorem linkDown_completes {s t : State} {p : Nat} {x : Port} (hheld : s.boot.held = false) (hx : portAt s p = some x)
    (ht : (match x.lockLost with | some t => linkDown (toLt (t + 2000) s) p true | none => s) = t) :
    Completes (.linkDown p) s t := by
  refine completes_act (by unfold exec execLinkDown; rfl) hheld ?_
  simp only [hx]
  exact ht

/-- An invalid sync header of a lane that has lock: the sixteenth within 64 blocks loses it (06 R125). -/
theorem syncHeaderError_completes {s : State} {p lane block : Nat} {x : Port} {near : List (Nat × Nat)} {lost : Bool}
    (hheld : s.boot.held = false) (hx : portAt s p = some x)
    (hnear : near = x.headers.filter (fun e => e.1 != lane || decide (block < e.2 + 64)))
    (hlost : lost = ((x.st == 3 || x.st == 5) && decide (15 ≤ (near.filter (fun e => e.1 == lane)).length))) :
    Completes (.syncHeaderError ⟨p, lane, block, false⟩) s (setPort (bump s (clnAt clnPortShe p)) { x with
      stableSince := lt s, headers := (lane, block) :: near
      lockLost := if lost && x.lockLost.isNone then some (lt s) else x.lockLost }) := by
  subst hnear hlost
  refine completes_act (by unfold exec execSyncHeaderError; rfl) hheld ?_
  simp only [hx, Bool.false_and, Bool.false_eq_true, if_false, List.filter_cons, beq_self_eq_true, if_true,
    List.length_cons, Nat.reduceLeDiff]

/-- A regained lock too late for its link takes it down, one in time starts the count afresh (06 R125). -/
theorem syncHeaderRegained_completes {s : State} {p lane block : Nat} {x : Port} {late : Bool} (hheld : s.boot.held = false)
    (hx : portAt s p = some x)
    (hlate : late = match x.lockLost with | some t => decide (t + 2000 ≤ lt s) | none => false) :
    Completes (.syncHeaderError ⟨p, lane, block, true⟩) s (if late then
      linkDown (setPort (bump s (clnAt clnPortShe p)) { x with stableSince := lt s }) p true
      else setPort (bump s (clnAt clnPortShe p)) { x with
        stableSince := lt s, headers := [(lane, block)], lockLost := none }) := by
  refine completes_act (by unfold exec execSyncHeaderError; rfl) hheld ?_
  subst hlate
  simp only [hx]
  refine if_congr Iff.rfl rfl ?_
  simp only [if_true, List.filter_nil, List.filter_cons, beq_self_eq_true, List.length_cons, List.length_nil,
    Option.isNone_none, Nat.reduceLeDiff, decide_false, Bool.and_false, Bool.false_and, Bool.false_eq_true, if_false]

theorem trainingRetry_completes {s t : State} {p : Nat} {x : Port} (hheld : s.boot.held = false) (hx : portAt s p = some x)
    (ht : (if x.st = 7 then retrainsDone (trainStart (toLt (x.since + 10 ^ 9) s) p 3) else s) = t) :
    Completes (.trainingRetryTimer p) s t := by
  refine completes_act (by unfold exec execTrainingRetryTimer; rfl) hheld ?_
  simp only [hx]
  exact ht

theorem trainingStep_completes {s t : State} {p step : Nat} {x : Port} (hheld : s.boot.held = false)
    (hx : portAt s p = some x) (ht : (if x.st = 2 ∧ stepMs x step ≠ 0 then
        retrainsDone (trainAgain (toLt (x.since + stepMs x step * 10 ^ 6) s) x)
      else if x.st = 4 ∧ step = 7 then staysSlow (toLt (x.since + 150 * 10 ^ 6) s) x else s) = t) :
    Completes (.trainingStepTimeout ⟨p, step⟩) s t := by
  refine completes_act (by unfold exec execTrainingStepTimeout; rfl) hheld ?_
  simp only [hx]
  exact ht

/-- The time of a step that a port in training is at (06 R121). -/
theorem stepMs_of_training {x : Port} {step ms : Nat}
    (h : x.step < 5 ∧ (step, ms) ∈ [(2, 2), (3, 20), (4, 22)] ∨ 5 ≤ x.step ∧ (step, ms) = (5, 25)) :
    stepMs x step = ms ∧ ms ≠ 0 := by
  unfold stepMs
  obtain ⟨hlow, hmem⟩ | ⟨hhigh, heq⟩ := h
  · rw [if_pos hlow]
    simp only [List.mem_cons, Prod.mk.injEq, List.not_mem_nil, or_false] at hmem
    obtain ⟨rfl, rfl⟩ | ⟨rfl, rfl⟩ | ⟨rfl, rfl⟩ := hmem <;> decide
  · rw [if_neg (by omega)]
    cases heq
    decide

/-! ### The exchange of training words (06 R115, R122) -/

theorem trainingWord_completes {s t : State} {p skew : Nat} {w : TrainWords} {scans : List Eye} {x : Port} {two : Bool}
    (hheld : s.boot.held = false) (hx : portAt s p = some x)
    (htwo : two = (if p = 0 ∧ s.id.sender = false then w.lanes2 else lanes2Of s p))
    (ht : (if x.st ≠ 2 ∨ 5 ≤ x.step then s
      else if two && decide (64 < skew) then trainAgain s x
      else match scanResult two scans with
        | none => s
        | some (eye, impl) =>
          if (!impl && eyeFails false false two eye) || !rolesMatch (portRole s p) w.role then s
          else if w.lanes2 != two || ((!s.id.sender && p == 0) && w.place == 0xFFFFFFFFFF)
            || ((!s.id.sender && (p == 1 || p == 2)) && !s.id.placeOk) then s
          else if (offerOf s p).isNone then refuseBelow s x
          else exchangePass s x w eye impl) = t) :
    Completes (.trainingWordExchange p w ⟨scans, skew⟩) s t := by
  have htwo' : (if (!s.id.sender && p == 0) = true then w.lanes2 else lanes2Of s p) = two := by
    rw [htwo]
    exact if_congr (by simp [and_comm]) rfl rfl
  refine completes_act (by unfold exec execTrainingWordExchange; rfl) hheld ?_
  simp only [hx, htwo']
  exact ht

/-- The words of a partner that fits and that this end has a place for, or one from above that names the place. -/
theorem trainingWord_fits {s : State} {p : Nat} {w : TrainWords} {two : Bool} (hlanes : w.lanes2 = two)
    (hplace : s.id.sender = true ∨ p = 8 ∨ (p = 0 ∧ w.place ≠ 0xFFFFFFFFFF) ∨ (p ≠ 0 ∧ s.id.placeOk = true)) :
    (w.lanes2 != two || ((!s.id.sender && p == 0) && w.place == 0xFFFFFFFFFF)
      || ((!s.id.sender && (p == 1 || p == 2)) && !s.id.placeOk)) = false := by
  rw [bne_eq_false_iff_eq.mpr hlanes, Bool.false_or, Bool.or_eq_false_iff]
  obtain hs | rfl | ⟨rfl, hw⟩ | ⟨hp, hok⟩ := hplace
  · rw [hs]
    exact ⟨rfl, rfl⟩
  · exact ⟨by simp, by simp⟩
  · exact ⟨by rw [beq_eq_false_iff_ne.mpr hw, Bool.and_false], by simp⟩
  · exact ⟨by rw [beq_eq_false_iff_ne.mpr hp, Bool.and_false, Bool.false_and], by rw [hok]; exact Bool.and_false _⟩

/-- Words with a usable eye from a partner that fits: there is a place to offer, or the port below is refused. -/
theorem trainingWord_taken {s : State} {p skew : Nat} {w : TrainWords} {scans : List Eye} {x : Port} {two impl : Bool}
    {eye : Eye} (hheld : s.boot.held = false) (hx : portAt s p = some x) (hst : x.st = 2) (hstep : x.step < 5)
    (htwo : two = (if p = 0 ∧ s.id.sender = false then w.lanes2 else lanes2Of s p)) (hskew : two = true → skew ≤ 64)
    (hscan : scanResult two scans = some (eye, impl)) (heye : (impl || !eyeFails false false two eye) = true)
    (hroles : rolesMatch (portRole s p) w.role = true) (hlanes : w.lanes2 = two)
    (hplace : s.id.sender = true ∨ p = 8 ∨ (p = 0 ∧ w.place ≠ 0xFFFFFFFFFF) ∨ (p ≠ 0 ∧ s.id.placeOk = true)) :
    Completes (.trainingWordExchange p w ⟨scans, skew⟩) s (
      if (offerOf s p).isNone then refuseBelow s x else exchangePass s x w eye impl) := by
  refine trainingWord_completes hheld hx htwo ((if_neg (by omega)).trans ((if_neg (by simpa using hskew)).trans ?_))
  rw [hscan]
  refine (if_neg ?_).trans (if_neg (ne_true_of_eq_false (trainingWord_fits hlanes hplace)))
  rw [hroles]
  cases impl with
  | true => exact Bool.false_ne_true
  | false => simpa using heye

/-! ### Eye scans and the full rate (06 R120, R121, R123, R124) -/

theorem eyeScan_completes {s s1 : State} {p : Nat} {eye : Eye} {x z : Port} (hheld : s.boot.held = false)
    (hx : portAt s p = some x) (hst : x.st = 3 ∨ x.st = 5) (hthrottle : throttleStep s < 2)
    (hs1 : s1 = toLt (x.scanAt + 10 ^ 10) s)
    (hz : z = { x with scanAt := lt s1, eye := eyeShown x.lanes2 eye, qf := eyeQf x.lanes2 eye }) :
    Completes (.eyeScanTimer p eye) s (
      if eyeImplausible x.lanes2 eye then bumpF (setPort s1 { x with scanAt := lt s1 }) (clnAt clnPortSts p) 23 16
      else if eyeFails (x.st == 5) x.fecOn x.lanes2 eye then
        if x.failRun + 1 = 3 then linkDown (setPort s1 { z with failRun := x.failRun + 1 }) p true
        else setPort s1 { z with failRun := x.failRun + 1 }
      else setPort s1 { z with failRun := 0 }) := by
  subst hz hs1
  refine completes_act (by unfold exec execEyeScanTimer; rfl) hheld ?_
  simp only [hx]
  refine if_neg ?_
  rcases hst with h | h <;> simp [h, hthrottle]

theorem rateSwitch_completes {s t : State} {p : Nat} {first : Option Eye} {more : List Eye} {fec2 : Bool} {x y : Port}
    (hheld : s.boot.held = false) (hx : portAt s p = some x)
    (hy : x.st = 4 ∧ y = x ∨ mayStep s x = true ∧ y = { x with st := 4, step := 6, since := lt s })
    (ht : (match scanResult x.lanes2 (first.toList ++ more) with
      | none => setPort s y
      | some (e, impl) =>
        if impl || eyeFails true (linkFec x e fec2) x.lanes2 e then staysSlow s y
        else sendLoop (setPort s { y with
          step := 7, sumX := [], fecOn := linkFec x e fec2, eye := eyeShown x.lanes2 e, qf := eyeQf x.lanes2 e }) p 0) = t) :
    Completes (.rateSwitch p first more fec2) s t := by
  refine completes_act (by unfold exec execRateSwitch; rfl) hheld ?_
  have hgo : (!(x.st == 4 || mayStep s x)) = false := by
    obtain ⟨h, -⟩ | ⟨h, -⟩ := hy <;> simp [h]
  have hsame : (if x.st = 4 then x else { x with st := 4, step := 6, since := lt s }) = y := by
    obtain ⟨h, rfl⟩ | ⟨h, rfl⟩ := hy
    · exact if_pos h
    · have hst : x.st = 3 := by
        simp only [mayStep, Bool.and_eq_true, beq_iff_eq] at h
        exact h.1.1.1.1
      exact if_neg (by omega)
  simp only [hx, hgo, Bool.false_eq_true, if_false, hsame]
  exact ht

/-! ### The latency loop (06 R127) -/

theorem loopRsp_completes {s t : State} {p : Nat} {id : Byte} {residence t1 t4 : Nat} {y : LoopSum} {x : Port}
    {l : List Nat} (hheld : s.boot.held = false) (hx : portAt s p = some x)
    (hst : x.st = 2 ∧ 5 ≤ x.step ∨ x.st = 4 ∧ 7 ≤ x.step) (hl : l = x.sumX ++ [(t4 - t1) - residence])
    (ht : t = emit s (.loopSum p l.sum (spreadOf l))) : Completes (.loopRspReceived p id residence t1 t4 y) s (
      if l.length < 64 then sendLoop (setPort s { x with sumX := l }) p l.length
      else match calibrated l y.sumY y.spreadY with
        | some lat => if x.st = 2 then portComesUp t { x with sumX := [] } lat else fullRate t { x with sumX := [] } lat
        | none =>
          if x.step = 5 ∨ x.step = 7 then sendLoop (setPort t { x with sumX := [], step := x.step + 1 }) p 0
          else if x.st = 2 then trainAgain t x else staysSlow t { x with sumX := [] }) := by
  subst hl ht
  refine completes_act (by unfold exec execLoopRspReceived; rfl) hheld ?_
  simp only [hx]
  obtain ⟨h2, hstep⟩ | ⟨h4, hstep⟩ := hst
  · simp only [h2, hstep, beq_self_eq_true, decide_true, Bool.and_self, Bool.not_true, Bool.false_and,
      Bool.false_eq_true, if_false, if_true] <;> rfl
  · simp only [h4, hstep, show ((4 : Nat) == 2) = false from rfl, beq_self_eq_true, decide_true, Bool.and_self,
      Bool.false_and, Bool.not_true, Bool.and_false, Bool.false_eq_true, if_false,
      show ((4 : Nat) = 2) = False from by simp] <;> rfl

end Sys2Proof.Machine

namespace Sys2Proof.Proofs

open Sys2Proof.Machine Sys2Proof.Safety

/-- Settles O28: what each event does to a port in the state and at the step it stands in. -/
theorem portsTrain : Obligations.PortsTrain := by
  unfold Obligations.PortsTrain
  refine ⟨⟨fun s p x hheld hx => ⟨fun two => ⟨fun hst => ?_, fun hst hp htile => ?_, fun hst hother => ?_⟩,
        fun htile hp hst s1 hs1 => ⟨?_, ?_⟩, fun t hlock => ?_, fun hlock => ?_,
        fun lane block s1 hs1 near hnear lost hlost => ?_, fun lane block t hlock hlate => ?_, fun lane block hlock => ?_,
        fun hst => ?_, fun hst => ?_, fun step ms hst hstep => ?_, fun hst => ?_⟩,
      fun p s a c w H hp => ⟨fun hexists => ⟨fun hcross => ?_, fun hcross => ?_⟩, fun hmissing => ?_⟩⟩,
    fun s p x hheld hx => ⟨fun w scans skew hno => ?_, fun w scans skew two hst hstep htwo => ⟨fun h2 hskew => ?_, fun hskew =>
        ⟨fun hnone => ?_, fun eye impl hscan heye hroles hlanes hplace => ⟨fun hoffer => ?_, fun hoffer => ?_⟩⟩⟩,
      fun eye hst hthrottle s1 hs1 => ⟨fun himpl => ?_, fun himpl z hz =>
        ⟨fun hgood => ?_, fun hbad hrun => ?_, fun hbad hrun => ?_⟩⟩,
      fun first more fec2 hst hmay => ?_, fun first more fec2 y hy => ⟨fun hnone => ?_, fun e impl hscan =>
        ⟨fun hbad => ?_, fun hgood => ?_⟩⟩⟩,
    fun s p id residence hheld => ⟨fun hlow hhigh => ?_, fun hno => ?_, fun x t1 t4 sumY spreadY l hx hst hl t ht =>
      ⟨fun hlen => ?_, fun hlen lat hlat => ⟨fun h2 => ?_, fun h4 => ?_⟩, fun hlen hnone =>
        ⟨fun hstep => ?_, fun h2 hstep => ?_, fun h4 hstep => ?_⟩⟩⟩⟩
  · exact signalDetect_completes hheld hx (if_pos hst)
  · exact signalDetect_completes hheld hx ((if_neg (by omega)).trans (by rw [if_pos ⟨hp, by simp [htile]⟩]))
  · refine signalDetect_completes hheld hx ((if_neg (by omega)).trans ?_)
    rw [if_neg (by obtain h | h := hother <;> simp [h])]
  · exact brSignalSample_completes hheld hx htile hp hst hs1
  · exact brSignalSample_completes hheld hx htile hp hst hs1
  · exact linkDown_completes hheld hx (by rw [hlock])
  · exact linkDown_completes hheld hx (by rw [hlock])
  · subst hs1
    exact syncHeaderError_completes hheld hx hnear hlost
  · have hdone := syncHeaderRegained_completes (lane := lane) (block := block) (late := true) hheld hx
      (by simp only [hlock, hlate, decide_true])
    exact hdone
  · refine syncHeaderRegained_completes (late := false) hheld hx ?_
    cases hl : x.lockLost with
    | none => rfl
    | some t => exact (decide_eq_false (by have := hlock t hl; omega)).symm
  · exact trainingRetry_completes hheld hx (if_pos hst)
  · exact trainingRetry_completes hheld hx (if_neg hst)
  · obtain ⟨hms, hne⟩ := stepMs_of_training hstep
    refine trainingStep_completes hheld hx ((if_pos ⟨hst, by rwa [hms]⟩).trans ?_)
    rw [hms]
  · exact trainingStep_completes hheld hx ((if_neg (by omega)).trans (if_pos ⟨hst, rfl⟩))
  · refine answers_post (h := linkRetrainRule) (u := a) (st := stPending)
      (post := beginRetrain c (maskPorts (fld w 8 0))) H rfl ((linkRetrainRule_of_payload hp).trans
        ((if_neg (ne_true_of_eq_false hexists)).trans (if_neg (ne_true_of_eq_false hcross))))
  · exact answers_no (h := linkRetrainRule) H rfl ((linkRetrainRule_of_payload hp).trans
      ((if_neg (ne_true_of_eq_false hexists)).trans (if_pos hcross)))
  · exact answers_no (h := linkRetrainRule) H rfl ((linkRetrainRule_of_payload hp).trans (if_pos hmissing))
  · refine trainingWord_completes hheld hx rfl ?_
    obtain h | h | ⟨hp2, hw2, hroles⟩ := hno
    · exact if_pos (.inl h)
    · exact if_pos (.inr h)
    · refine ite_eq_left_iff.mpr fun _ => (if_neg (by simp [hp2, hw2])).trans ?_
      generalize scanResult _ scans = r
      cases r with
      | none => rfl
      | some e => exact if_pos (by simp [hroles])
  · exact trainingWord_completes hheld hx htwo ((if_neg (by omega)).trans (if_pos (by simp [h2, hskew])))
  · refine trainingWord_completes hheld hx htwo ((if_neg (by omega)).trans ((if_neg ?_).trans (by rw [hnone])))
    simpa using hskew
  · have hdone := trainingWord_taken hheld hx hst hstep htwo hskew hscan heye hroles hlanes hplace
    rwa [if_neg (by rw [Option.isNone_eq_false_iff.mpr hoffer]; exact Bool.false_ne_true)] at hdone
  · have hdone := trainingWord_taken hheld hx hst hstep htwo hskew hscan heye hroles hlanes hplace
    rwa [if_pos (by rw [hoffer]; rfl)] at hdone
  · have hdone := eyeScan_completes (eye := eye) hheld hx hst hthrottle hs1 rfl
    rwa [if_pos himpl] at hdone
  · have hdone := eyeScan_completes hheld hx hst hthrottle hs1 hz
    rwa [if_neg (ne_true_of_eq_false himpl), if_neg (ne_true_of_eq_false hgood)] at hdone
  · have hdone := eyeScan_completes hheld hx hst hthrottle hs1 hz
    rwa [if_neg (ne_true_of_eq_false himpl), if_pos hbad, if_neg (by omega)] at hdone
  · have hdone := eyeScan_completes hheld hx hst hthrottle hs1 hz
    rwa [if_neg (ne_true_of_eq_false himpl), if_pos hbad, hrun, if_pos rfl] at hdone
  · refine completes_act (by unfold exec execRateSwitch; rfl) hheld ?_
    simp only [hx]
    exact if_pos (by simp [hst, hmay])
  · exact rateSwitch_completes hheld hx hy (by rw [hnone])
  · exact rateSwitch_completes hheld hx hy (by rw [hscan]; exact if_pos hbad)
  · exact rateSwitch_completes hheld hx hy (by rw [hscan]; exact if_neg (ne_true_of_eq_false hgood))
  · refine completes_act (by unfold exec execLoopReqReceived; rfl) hheld ?_
    exact if_pos ⟨hlow, hhigh⟩
  · refine completes_act (by unfold exec execLoopReqReceived; rfl) hheld ?_
    exact if_neg (by omega)
  · have hdone := loopRsp_completes (id := id) (y := ⟨sumY, spreadY⟩) hheld hx hst hl ht
    rwa [if_pos hlen] at hdone
  · have hdone := loopRsp_completes (id := id) (y := ⟨sumY, spreadY⟩) hheld hx hst hl ht
    rw [if_neg (by omega)] at hdone
    simpa only [hlat, h2, if_true] using hdone
  · have hdone := loopRsp_completes (id := id) (y := ⟨sumY, spreadY⟩) hheld hx hst hl ht
    rw [if_neg (by omega)] at hdone
    simp only [hlat] at hdone
    rwa [if_neg (by omega)] at hdone
  · have hdone := loopRsp_completes (id := id) (y := ⟨sumY, spreadY⟩) hheld hx hst hl ht
    rw [if_neg (by omega)] at hdone
    simp only [hnone] at hdone
    rwa [if_pos hstep] at hdone
  · have hdone := loopRsp_completes (id := id) (y := ⟨sumY, spreadY⟩) hheld hx hst hl ht
    rw [if_neg (by omega)] at hdone
    simp only [hnone] at hdone
    rwa [if_neg (by omega), if_pos h2] at hdone
  · have hdone := loopRsp_completes (id := id) (y := ⟨sumY, spreadY⟩) hheld hx hst hl ht
    rw [if_neg (by omega)] at hdone
    simp only [hnone] at hdone
    rwa [if_neg (by omega), if_neg (by omega)] at hdone

end Sys2Proof.Proofs
end

section
/-! PTP messages and the timers of a slot (11 R243 to R246). -/

namespace Sys2Proof.Machine

open Sys2Proof.Safety

section
variable {s b t : State} {rx : PtpIn} {i : Instr} {f : State → State} (hheld : s.boot.held = false)
  (hs : s.id.sender = true) (hon : bit (rd s (netIfCtrl + 16 * rx.at_.iface)) 31 = true)
  (hvlan : vlanOk s rx.at_.iface rx.at_.vlan = true) (hexec : exec i s = act s fun s => ptpIn s rx f)
include hheld hs hon hvlan hexec

/-- A PTP message past its interface that finds no token (03 R58). -/
theorem ptpIn_dropped (hb : netToken s rx.at_.iface 9 = none) : Completes i s (dropFrame s 9) := by
  refine completes_act hexec hheld ?_
  unfold ptpIn
  simp only [hs, hon, hvlan, hb, Bool.not_true, Bool.or_self, Bool.false_eq_true, if_false]

/-- A PTP message past its interface and its policer. -/
theorem ptpIn_taken (hb : netToken s rx.at_.iface 9 = some b) (ht : f b = t) : Completes i s t := by
  subst ht
  refine completes_act hexec hheld ?_
  unfold ptpIn
  simp only [hs, hon, hvlan, hb, Bool.not_true, Bool.or_self, Bool.false_eq_true, if_false]

end

/-! ### Delay_Req (11 R243, R245) -/

/-- The state at the instant of a Delay_Req, after the random delay of its interval. -/
def delayReqAt (d : Nat) (s : State) : State :=
  match (ptp s d).reqAt with
  | some t => toLt (t + Config.delay s.free (2 * reqMean (ptp s d).logMin) % max 1 (2 * reqMean (ptp s d).logMin))
    (takeFree s).2
  | none => (takeFree s).2

/-- Only the time and the count of free values move. -/
theorem delayReqAt_keeps (d : Nat) (s : State) : (delayReqAt d s).id = s.id ∧ (delayReqAt d s).par = s.par
    ∧ (delayReqAt d s).net = s.net ∧ (delayReqAt d s).out = s.out ∧ (delayReqAt d s).time.slots = s.time.slots
    ∧ (delayReqAt d s).time.tsq = s.time.tsq := by
  unfold delayReqAt
  split <;> exact ⟨rfl, rfl, rfl, rfl, rfl, rfl⟩

theorem delayReqAt_reached {d t : Nat} {s : State} (h : (ptp s d).reqAt = some t) : t ≤ lt (delayReqAt d s) := by
  unfold delayReqAt
  rw [h]
  exact (Nat.le_add_right _ _).trans (toLt_reached _ _)

/-- What a Delay_Req of slot `d` sends and puts in the queue, from the instant it leaves. -/
def delayReqSent (d : Nat) (m : Master) (s : State) : State :=
  setF (emitNet s m.iface (.delayReq d (BitVec.ofNat 8 (getF s (timTsq + m.iface / 4) 15 8)) (m.iface / 4)
    (bit (ptpCfg s d) 29))) (timTsq + m.iface / 4) 15 8
    ((BitVec.ofNat 8 (getF s (timTsq + m.iface / 4) 15 8)).toNat + 1)

theorem delayReqSent_out (d : Nat) (m : Master) (s : State) : (delayReqSent d m s).out = s.out ++ [.net m.iface
    (txTag s m.iface) (.delayReq d (BitVec.ofNat 8 (getF s (timTsq + m.iface / 4) 15 8)) (m.iface / 4)
      (bit (ptpCfg s d) 29))] := rfl

/-- The entry of the queue for a Delay_Req that leaves at this instant, stamped with the free value `k`. -/
def delayReqEntry (d : Nat) (m : Master) (k : Nat) (s : State) : TsqEnt :=
  { id := BitVec.ofNat 8 (getF s (timTsq + m.iface / 4) 15 8), slot := d
    t3 := Int.ofNat (Config.txStamp k (now s)), at_ := lt s }

/-- A Delay_Req of slot `d` at its instant: without an address, with a full queue, or with its entry. -/
def delayReqDone (d : Nat) (x : PtpSlot) (m : Master) (k : Nat) (s : State) : State :=
  if !hasAddr s m.iface (bit (ptpCfg s d) 28) then
    selectSlot (setPtp s d { x with st := if x.st = 3 then 2 else x.st, lockRun := 0, lockedAt := none })
  else if 16 ≤ (tsq s (m.iface / 4)).length then
    setPtp (setF (delayReqSent d m s) (timTsq + m.iface / 4) 31 31 1) d { x with req := none, reqAt := some (lt s) }
  else
    setPtp (setTsq (delayReqSent d m s) (m.iface / 4) (tsq s (m.iface / 4) ++ [delayReqEntry d m k s])) d
      { x with req := some ((delayReqEntry d m k s).id, m.iface), reqAt := some (lt s) }

theorem delayReqTimer_completes {s : State} {d : Nat} {m : Master} (hheld : s.boot.held = false)
    (hon : ptpOn s d = true) (hm : (ptp s d).master = some m) :
    Completes (.delayReqTimer d) s (delayReqDone d (ptp s d) m s.free (delayReqAt d s)) := by
  refine completes_act (f := fun s => match (ptp s d).master with
    | none => delayReqAt d s
    | some m => if !ptpOn (delayReqAt d s) d then delayReqAt d s
      else delayReqDone d (ptp s d) m s.free (delayReqAt d s)) (by unfold exec execDelayReqTimer; rfl) hheld ?_
  obtain ⟨hid, hpar, -⟩ := delayReqAt_keeps d s
  have hon' : ptpOn (delayReqAt d s) d = true := by
    unfold ptpOn ptpCfg rd
    rw [hid, hpar]
    exact hon
  simp only [hm, hon', Bool.not_true, Bool.false_eq_true, if_false]

/-- What of the state a Delay_Req is judged by stands at its instant as before. -/
theorem delayReqAt_judged (d : Nat) (m : Master) (s : State) :
    hasAddr (delayReqAt d s) m.iface (bit (ptpCfg (delayReqAt d s) d) 28) = hasAddr s m.iface (bit (ptpCfg s d) 28)
      ∧ (∀ p, tsq (delayReqAt d s) p = tsq s p) ∧ (∀ e, ptp (delayReqAt d s) e = ptp s e) := by
  obtain ⟨hid, hpar, hnet, -, hslots, htsq⟩ := delayReqAt_keeps d s
  refine ⟨?_, fun p => ?_, fun e => ?_⟩
  · unfold hasAddr ptpCfg rd
    rw [hid, hpar, hnet]
  · unfold tsq
    rw [htsq]
  · unfold ptp
    rw [hslots]

theorem delayReqDone_of_room {s : State} {d k : Nat} {x : PtpSlot} {m : Master}
    (haddr : hasAddr s m.iface (bit (ptpCfg s d) 28) = true) (hroom : (tsq s (m.iface / 4)).length < 16) :
    delayReqDone d x m k s =
      setPtp (setTsq (delayReqSent d m s) (m.iface / 4) (tsq s (m.iface / 4) ++ [delayReqEntry d m k s])) d
        { x with req := some ((delayReqEntry d m k s).id, m.iface), reqAt := some (lt s) } := by
  unfold delayReqDone
  rw [if_neg (by simp [haddr]), if_neg (by omega)]

theorem delayReqDone_of_full {s : State} {d k : Nat} {x : PtpSlot} {m : Master}
    (haddr : hasAddr s m.iface (bit (ptpCfg s d) 28) = true) (hfull : 16 ≤ (tsq s (m.iface / 4)).length) :
    delayReqDone d x m k s = setPtp (setF (delayReqSent d m s) (timTsq + m.iface / 4) 31 31 1) d
      { x with req := none, reqAt := some (lt s) } := by
  unfold delayReqDone
  rw [if_neg (by simp [haddr]), if_pos hfull]

theorem delayReqDone_of_noAddr {s : State} {d k : Nat} {x : PtpSlot} {m : Master}
    (haddr : hasAddr s m.iface (bit (ptpCfg s d) 28) = false) : delayReqDone d x m k s =
      selectSlot (setPtp s d { x with st := if x.st = 3 then 2 else x.st, lockRun := 0, lockedAt := none }) :=
  if_pos (by simp [haddr])

end Sys2Proof.Machine

namespace Sys2Proof.Proofs

open Sys2Proof.Machine Sys2Proof.Safety

/-- Settles O8: each message past its policer, and each timer of a slot. -/
theorem ptpSlots : Obligations.PtpSlots := by
  unfold Obligations.PtpSlots
  refine ⟨fun s rx hheld hs hon hvlan => ⟨fun hb => ⟨?_, ?_, ?_, ?_⟩, fun b hb =>
      ⟨fun set steps gm src interval hslot hmask m hm => ⟨fun hnone => ?_, fun o ho =>
          ⟨fun hsame => ?_, fun hother hbetter => ?_, fun hother hworse => ?_⟩⟩,
        fun set steps gm src interval hno => ?_,
        fun hno => ⟨fun seq two t1 t2 corr logSync => ?_, fun seq t1 corr => ?_, fun id t4 corr logMin => ?_⟩,
        fun hyes => ⟨fun seq t1 t2 corr logSync hlow hhigh => ⟨?_, ?_⟩, fun seq t1 t2 c corr hsync => ?_,
          fun id t4 corr logMin iface t1 t2 e hreq hpair he => ?_⟩⟩⟩,
    fun s d m hheld hon hm haddr hroom => ?_, fun s d m hheld hon hm => ?_,
    fun s p id hheld => ⟨fun e he => ?_, fun hnone => ?_⟩, fun s d hheld hon hm => ?_, fun s d hheld hno => ?_,
    fun s d hheld => ⟨fun t ht => ?_, fun hnone => ?_⟩⟩
  · intro set steps gm src interval
    exact ptpIn_dropped hheld hs hon hvlan rfl hb
  · intro seq two t1 t2 corr logSync
    exact ptpIn_dropped hheld hs hon hvlan rfl hb
  · intro seq t1 corr
    exact ptpIn_dropped hheld hs hon hvlan rfl hb
  · intro id t4 corr logMin
    exact ptpIn_dropped hheld hs hon hvlan rfl hb
  · subst hm
    refine ptpIn_taken hheld hs hon hvlan rfl hb ((if_pos (by simp [hslot, hmask])).trans ?_)
    simp only [hnone]
  · subst hm
    refine ptpIn_taken hheld hs hon hvlan rfl hb ((if_pos (by simp [hslot, hmask])).trans ?_)
    simp only [ho]
    exact if_pos hsame
  · subst hm
    refine ptpIn_taken hheld hs hon hvlan rfl hb ((if_pos (by simp [hslot, hmask])).trans ?_)
    simp only [ho]
    exact (if_neg hother).trans (if_pos hbetter)
  · subst hm
    refine ptpIn_taken hheld hs hon hvlan rfl hb ((if_pos (by simp [hslot, hmask])).trans ?_)
    simp only [ho]
    exact (if_neg hother).trans (if_neg (ne_true_of_eq_false hworse))
  · refine ptpIn_taken hheld hs hon hvlan rfl hb (if_neg ?_)
    obtain h | h := hno <;> simp [h]
  · exact ptpIn_taken hheld hs hon hvlan rfl hb (if_neg (by simp [hno]))
  · refine ptpIn_taken hheld hs hon hvlan rfl hb ?_
    dsimp only
    cases (ptp b rx.slot).sync with
    | none => rfl
    | some e => exact if_neg (by simp [hno])
  · refine ptpIn_taken hheld hs hon hvlan rfl hb ?_
    dsimp only
    cases (ptp b rx.slot).req with
    | none => rfl
    | some e => exact if_neg (by simp [hno])
  · exact ptpIn_taken hheld hs hon hvlan rfl hb (if_pos (by simp [hyes, hlow, hhigh]))
  · exact ptpIn_taken hheld hs hon hvlan rfl hb (if_pos (by simp [hyes, hlow, hhigh]))
  · refine ptpIn_taken hheld hs hon hvlan rfl hb ?_
    simp only [hsync]
    exact if_pos (by simp [hyes])
  · refine ptpIn_taken hheld hs hon hvlan rfl hb ?_
    simp only [hreq, he, hpair]
    exact if_pos (by simp [hyes])
  · obtain ⟨hid, hpar, -, hout, -, htsq⟩ := delayReqAt_keeps d s
    obtain ⟨hjudged, hq, -⟩ := delayReqAt_judged d m s
    have hdone := delayReqTimer_completes hheld hon hm
    rw [delayReqDone_of_room (hjudged.trans haddr) (by rw [hq]; exact hroom), hq] at hdone
    have hgetF : getF (delayReqAt d s) (timTsq + m.iface / 4) 15 8 = getF s (timTsq + m.iface / 4) 15 8 := by
      unfold getF rd
      rw [hid, hpar]
    refine ⟨_, delayReqEntry d m s.free (delayReqAt d s), hdone, ?_, ?_, rfl, rfl, fun t ht => delayReqAt_reached ht, ?_⟩
    · rw [← htsq]
      rfl
    · exact congrArg (BitVec.ofNat 8) hgetF
    · have htag : txTag (delayReqAt d s) m.iface = txTag s m.iface := by
        unfold txTag rd
        rw [hid, hpar]
      have hcfg : ptpCfg (delayReqAt d s) d = ptpCfg s d := by
        unfold ptpCfg rd
        rw [hid, hpar]
      refine (delayReqSent_out d m (delayReqAt d s)).trans ?_
      rw [hout, htag, hcfg]
      rfl
  · obtain ⟨hjudged, hq, hslots⟩ := delayReqAt_judged d m s
    have hdone := delayReqTimer_completes hheld hon hm
    by_cases hfull : hasAddr s m.iface (bit (ptpCfg s d) 28) = true ∧ 16 ≤ (tsq s (m.iface / 4)).length
    · refine ⟨delayReqSent d m (delayReqAt d s), fun t ht => delayReqAt_reached ht, hslots, fun hno => ?_, fun _ _ => ?_⟩
      · exact absurd hfull.1 (ne_true_of_eq_false hno)
      · rwa [delayReqDone_of_full (hjudged.trans hfull.1) (by rw [hq]; exact hfull.2)] at hdone
    · refine ⟨delayReqAt d s, fun t ht => delayReqAt_reached ht, hslots, fun hno => ?_, fun hyes h16 => ?_⟩
      · rwa [delayReqDone_of_noAddr (hjudged.trans hno)] at hdone
      · exact absurd ⟨hyes, h16⟩ hfull
  · refine completes_act (by unfold exec execTsqEntryExpire; rfl) hheld ?_
    simp only [he]
  · refine completes_act (by unfold exec execTsqEntryExpire; rfl) hheld ?_
    simp only [hnone]
  · refine completes_act (by unfold exec execAnnounceTimeout; rfl) hheld ?_
    exact if_pos (by simp [hon, hm])
  · refine completes_act (by unfold exec execAnnounceTimeout; rfl) hheld ?_
    refine if_neg ?_
    obtain h | h := hno <;> simp [h]
  · refine completes_act (by unfold exec execQuarantineEnd; rfl) hheld ?_
    simp only [ht]
  · refine completes_act (by unfold exec execQuarantineEnd; rfl) hheld ?_
    simp only [hnone]

end Sys2Proof.Proofs
end

section
/-! Frames of the network ports, addresses, memberships and the paths of streams (03 R53 to R63). -/

namespace Sys2Proof.Machine

open Sys2Proof.Safety

/-! ### Frame classes (03 R58) -/

section
variable {s : State} {i : Nat} (hheld : s.boot.held = false) (hs : s.id.sender = true) (hi : i < 8)
  (hon : bit (rd s (netIfCtrl + 16 * i)) 31 = true)
include hheld hs hi hon

/-- A frame at an active interface is sorted into its class. -/
theorem netFrameDrop_completes {vlan : Option Nat} {f : EthFrame} {t : State} (ht : sortFrame s ⟨i, vlan⟩ f = t) :
    Completes (.netFrameDrop ⟨i, vlan⟩ f) s t := by
  refine completes_act (by unfold exec execNetFrameDrop; rfl) hheld ?_
  exact (if_pos (by simp [hs, hi, hon])).trans ht

end

section
variable {s : State} {i : Nat} {vlan : Option Nat} {f : EthFrame}

theorem sortFrame_of_bad (h : f.fcsOk = false ∨ vlanOk s i vlan = false) : sortFrame s ⟨i, vlan⟩ f = dropFrame s 0 :=
  if_pos (by obtain h | h := h <;> simp [h])

variable (hfcs : f.fcsOk = true) (hvlan : vlanOk s i vlan = true)
include hfcs hvlan

theorem sortFrame_of_pause (hk : f.kind = .pause) : sortFrame s ⟨i, vlan⟩ f = dropFrame s 8 := by
  refine (if_neg (by simp [hfcs, hvlan])).trans ?_
  rw [hk]

theorem sortFrame_of_arp (hk : f.kind = .arp) : sortFrame s ⟨i, vlan⟩ f =
    if !f.dst.getLsbD 40 && f.dst != ifMac s i then dropFrame s 0 else policedFrame s i 3 := by
  refine (if_neg (by simp [hfcs, hvlan])).trans ?_
  rw [hk]

/-- Broadcast and foreign frames other than ARP drop whatever they hold. -/
theorem sortFrame_of_group (hpause : f.kind ≠ .pause) (harp : f.kind ≠ .arp) (hdst : f.dst = BitVec.allOnes 48) :
    sortFrame s ⟨i, vlan⟩ f = dropFrame s 2 := by
  refine (if_neg (by simp [hfcs, hvlan])).trans ?_
  cases hk : f.kind with
  | pause => exact absurd hk hpause
  | arp => exact absurd hk harp
  | _ => exact if_pos hdst

theorem sortFrame_of_foreign (hpause : f.kind ≠ .pause) (harp : f.kind ≠ .arp) (hdst : f.dst ≠ BitVec.allOnes 48)
    (hforeign : (!f.dst.getLsbD 40 && f.dst != ifMac s i) = true) : sortFrame s ⟨i, vlan⟩ f = dropFrame s 0 := by
  refine (if_neg (by simp [hfcs, hvlan])).trans ?_
  cases hk : f.kind with
  | pause => exact absurd hk hpause
  | arp => exact absurd hk harp
  | _ => exact (if_neg hdst).trans (if_pos hforeign)

/-- What a frame for this device holds decides its class. -/
theorem sortFrame_of_own {t : State} (hdst : f.dst ≠ BitVec.allOnes 48)
    (hown : (!f.dst.getLsbD 40 && f.dst != ifMac s i) = false)
    (ht : match f.kind with
      | .tcp => dropFrame s 6 = t
      | .nd => policedFrame s i 3 = t
      | .igmp | .mld => policedFrame s i 4 = t
      | .echo => policedFrame s i 5 = t
      | .otherIcmp => dropFrame s 5 = t
      | .udp dst port frag => (if f.dst.getLsbD 40 then (if knownGroup f.dst then s else dropFrame s 1)
          else if !holdsAddr s i dst then s
          else if port = 319 ∨ port = 320 then policedFrame s i 9
          else if port ≠ getF s sysSmbPort 15 0 then dropFrame s 6
          else if frag then smbDrop s 4 else s) = t
      | _ => False) : sortFrame s ⟨i, vlan⟩ f = t := by
  refine (if_neg (by simp [hfcs, hvlan])).trans ?_
  cases hk : f.kind <;> rw [hk] at ht
  case udp dst port frag => exact (if_neg hdst).trans ((if_neg (ne_true_of_eq_false hown)).trans ht)
  case pause => exact ht.elim
  case arp => exact ht.elim
  case ptp => exact ht.elim
  case other => exact ht.elim
  all_goals exact (if_neg hdst).trans ((if_neg (ne_true_of_eq_false hown)).trans ht)

end

/-! ### Messages at an active interface (03 R54 to R58) -/

section
variable {s b t : State} {i : Nat} {vlan : Option Nat} (hheld : s.boot.held = false) (hs : s.id.sender = true)
  (hon : bit (rd s (netIfCtrl + 16 * i)) 31 = true) (hvlan : vlanOk s i vlan = true)
include hheld hs hon hvlan

theorem icmpEcho_completes {src dst : BitVec 128} {body : List Byte} (ht : (if !holdsAddr s i (hostAddr dst) then s
    else match netToken s i 5 with
      | none => dropFrame s 5
      | some s => match nextHop s i (hostAddr src) with
        | some h => emitNet s i (.echoReply h src body)
        | none => s) = t) : Completes (.icmpEchoRequest ⟨i, vlan⟩ ⟨src, dst⟩ body) s t := by
  refine completes_act (by unfold exec execIcmpEchoRequest; rfl) hheld ?_
  simp only [hs, hon, hvlan, Bool.not_true, Bool.or_self, Bool.false_eq_true, if_false]
  exact ht

theorem arpNd_completes {f op : Nat} {mac : BitVec 48} {addr : BitVec 128} (hb : netToken s i 3 = some b)
    (ht : (match b.net.addrs.find? (fun a => a.iface == i && (a.fam == 0) == (f == 0) && addrOf b i a.fam == addr) with
      | none => b
      | some a =>
        if a.st = 1 then
          if op = 2 ∨ (op = 3 ∧ mac != ifMac b i) then recordX (addrConflict b a) xAddrConflict [w32 i, w32 a.fam] else b
        else if a.st ≠ 2 then b
        else if op = 2 ∧ mac != ifMac b i then
          if a.fam ≠ 0 then addrConflict b a
          else match a.defended with
            | some t =>
              if lt b - t < 10 ^ 10 then addrConflict b a
              else emitNet (setAddr b { a with defended := some (lt b) }) i (.arpAnnounce 0)
            | none => emitNet (setAddr b { a with defended := some (lt b) }) i (.arpAnnounce 0)
        else if op = 2 then b
        else emitNet b i (.arpReply a.fam addr)) = t) : Completes (.arpNdReceived ⟨i, vlan⟩ f op mac addr) s t := by
  refine completes_act (by unfold exec execArpNdReceived; rfl) hheld ?_
  simp only [hs, hon, hvlan, hb, Bool.not_true, Bool.or_self, Bool.false_eq_true, if_false]
  exact ht

end

/-! ### Queries (03 R57) -/

/-- Whether a query of interface `i` names a membership that stands. -/
def queryNames (i : Nat) (q : GroupQuery) (m : Member) : Bool :=
  decide (m.iface = i ∧ groupV6 m.group = q.v6 ∧ (!m.leave) = true
    ∧ (q.group == 0 || m.group == q.group && (q.sources.isEmpty || m.source == 0 || q.sources.contains m.source)) = true)

/-- A membership after a query: one that it names answers at `at_`, or before where it was to. -/
def queried (i : Nat) (q : GroupQuery) (at_ : Nat) (m : Member) : Member :=
  if queryNames i q m then { m with answer := some (match m.answer with | some t => min t at_ | none => at_) } else m

theorem queried_group (i : Nat) (q : GroupQuery) (at_ : Nat) (m : Member) : (queried i q at_ m).group = m.group := by
  unfold queried
  split <;> rfl

/-- A named membership answers by the end of the query's time. -/
theorem queried_answers {i : Nat} {q : GroupQuery} {at_ : Nat} {m : Member} (hi : (queried i q at_ m).iface = i)
    (hv6 : groupV6 (queried i q at_ m).group = q.v6) (hleave : (queried i q at_ m).leave = false)
    (hnamed : q.group = 0 ∨ ((queried i q at_ m).group = q.group ∧ (q.sources = [] ∨ (queried i q at_ m).source = 0
      ∨ q.sources.contains (queried i q at_ m).source = true))) : ∃ t, (queried i q at_ m).answer = some t ∧ t ≤ at_ := by
  have hnames : queryNames i q m = true := by
    by_contra hno
    unfold queried at hi hv6 hleave hnamed
    rw [if_neg hno] at hi hv6 hleave hnamed
    refine hno (decide_eq_true ⟨hi, hv6, by rw [hleave]; rfl, ?_⟩)
    obtain h | ⟨hg, h | h | h⟩ := hnamed
    · simp [h]
    · simp [hg, h]
    · simp [hg, h]
    · rw [h, hg]
      simp
  unfold queried
  rw [if_pos hnames]
  refine ⟨_, rfl, ?_⟩
  cases m.answer with
  | none => exact le_rfl
  | some t => exact Nat.min_le_right _ _

/-- What a query leaves on the state past its policer. -/
def afterQuery (i : Nat) (q : GroupQuery) (maxResp delay : Nat) (s : State) : State :=
  { s with net := { s.net with
    members := s.net.members.map (queried i q (lt s + min delay maxResp))
    compat := if q.compat = 1 ∨ (q.compat = 2 ∧ q.v6 = false) then
        put (compatKey i q.v6 q.compat) (lt s + compatNs maxResp) s.net.compat
      else s.net.compat } }

theorem igmpMldQuery_completes {s b : State} {i : Nat} {vlan : Option Nat} {q : GroupQuery} {maxResp delay : Nat}
    (hheld : s.boot.held = false) (hs : s.id.sender = true) (hon : bit (rd s (netIfCtrl + 16 * i)) 31 = true)
    (hvlan : vlanOk s i vlan = true) (hb : netToken s i 4 = some b) :
    Completes (.igmpMldQuery ⟨i, vlan⟩ q maxResp delay) s (afterQuery i q maxResp delay b) := by
  refine completes_act (by unfold exec execIgmpMldQuery; rfl) hheld ?_
  simp only [hs, hon, hvlan, hb, Bool.not_true, Bool.or_self, Bool.false_eq_true, if_false]
  unfold afterQuery queried queryNames
  simp only [decide_eq_true_eq, Bool.not_eq_true'] <;> rfl

/-! ### Addresses and memberships at their times (03 R56, R57) -/

theorem dadTimer_completes {s s1 t : State} {i f n d : Nat} {x : NetAddr} {k want : Nat} (hheld : s.boot.held = false)
    (hx : s.net.addrs.find? (fun a => a.iface == i && a.fam == f) = some x) (hd : x.next = some d)
    (hs1 : s1 = toLt d s) (hk : k = (if x.st = 3 then 0 else x.probes)) (hwant : want = (if f = 0 then 3 else 1))
    (ht : (if x.st = 2 then
          emit (setAddr s1 { x with announced := 2, next := none }) (.net i (txTag s i) (.arpAnnounce f))
        else if k < want then
          emit (setAddr s1 { x with st := 1, probes := k + 1, next := some (lt s1 +
            (if f ≠ 0 then 10 ^ 9 else if k + 1 < want then probeGap n else 2 * 10 ^ 9)) }) (.net i (txTag s i) (.arpProbe f))
        else if f = 0 then
          emit (setAddr s1 { x with st := 2, announced := 1, next := some (lt s1 + 2 * 10 ^ 9) })
            (.net i (txTag s i) (.arpAnnounce f))
        else setAddr s1 { x with st := 2, next := none }) = t) : Completes (.dadTimer i f n) s t := by
  subst hs1 hk hwant
  refine completes_act (by unfold exec execDadTimer; rfl) hheld ?_
  simp only [hx, hd]
  exact ht

theorem probeGap_within (n : Nat) : 10 ^ 9 ≤ probeGap n ∧ probeGap n ≤ 2 * 10 ^ 9 := by
  unfold probeGap
  omega

/-- A membership with its report gone, on the state of the instant. -/
def memberReported (s : State) (m : Member) (d : Nat) : State :=
  let left := if m.answer == some d then m.left else m.left - 1
  let m1 := if m.answer == some d then { m with answer := none }
    else { m with left := left, next := if left = 0 then none else some (lt s + 10 ^ 9) }
  let rest := s.net.members.filter (fun y => !(y == m))
  { s with net := { s.net with members := if m.leave && left == 0 then rest else m1 :: rest } }

/-- The report of a membership sent where it has one. -/
def memberSent (s : State) (i : Nat) (m : Member) : State :=
  match reportOf s m with | some n => emitNet s i n | none => s

theorem memberSent_net (s : State) (i : Nat) (m : Member) : (memberSent s i m).net = s.net := by
  unfold memberSent
  split <;> rfl

theorem memberSent_lt (s : State) (i : Nat) (m : Member) : lt (memberSent s i m) = lt s := by
  unfold memberSent
  split <;> rfl

theorem memberSent_out (s : State) (i : Nat) (m : Member) : (memberSent s i m).out =
    s.out ++ (reportOf s m).toList.map (fun n => .net i (txTag s i) n) := by
  unfold memberSent
  cases reportOf s m with
  | none => exact (List.append_nil _).symm
  | some n => rfl

/-- The membership list after a report of one that is left: with its last report it is gone. -/
theorem memberReported_leaving {s : State} {m : Member} {d : Nat} (hleave : m.leave = true)
    (hasked : (m.answer == some d) = false) : (memberReported s m d).net.members =
      if m.left - 1 = 0 then s.net.members.filter (fun y => !(y == m))
      else { m with left := m.left - 1, next := some (lt s + 10 ^ 9) } :: s.net.members.filter (fun y => !(y == m)) := by
  unfold memberReported
  simp only [hasked, hleave, Bool.false_eq_true, if_false, Bool.true_and, beq_iff_eq]
  split
  · rfl
  · rfl

theorem group_of_member {s : State} {i : Nat} {g src : BitVec 128} {m : Member}
    (hm : s.net.members.find? (fun m => m.iface == i && m.group == g && m.source == src) = some m) : m.group = g := by
  have h := List.find?_some hm
  simp only [Bool.and_eq_true, beq_iff_eq] at h
  exact h.1.2

theorem membershipReport_completes {s s2 : State} {i : Nat} {g src : BitVec 128} {m : Member} {d : Nat}
    (hheld : s.boot.held = false)
    (hm : s.net.members.find? (fun m => m.iface == i && m.group == g && m.source == src) = some m) (hd : m.due = some d)
    (hs2 : s2 = memberReported (toLt d s) m d) : Completes (.membershipReportTimer i ⟨g, src⟩) s (
      if m.leave then memberSent s2 i m
      else (defined (memberSent s2 i m)).foldl (fun t x => joinPaths t m x) (memberSent s2 i m)) := by
  subst hs2
  refine completes_act (by unfold exec execMembershipReportTimer; rfl) hheld ?_
  simp only [hm, hd]
  rfl

/-- Streams whose definition waits for nothing take a join without a word. -/
theorem joinPaths_of_noRef {s : State} {m : Member} {x : Stream} (hx : x.ref = none) :
    (joinPaths s m x).out = s.out ∧ (joinPaths s m x).time = s.time := by
  unfold joinPaths
  rw [hx]
  exact ⟨rfl, rfl⟩

theorem foldl_joinPaths {m : Member} (l : List Stream) (s : State) (h : ∀ x ∈ l, x.ref = none) :
    (l.foldl (fun t x => joinPaths t m x) s).out = s.out ∧ (l.foldl (fun t x => joinPaths t m x) s).time = s.time := by
  induction l generalizing s with
  | nil => exact ⟨rfl, rfl⟩
  | cons x l ih =>
    obtain ⟨hout, htime⟩ := ih (joinPaths s m x) fun y hy => h y (List.mem_cons_of_mem _ hy)
    obtain ⟨hxout, hxtime⟩ := joinPaths_of_noRef (s := s) (m := m) (h x List.mem_cons_self)
    exact ⟨hout.trans hxout, htime.trans hxtime⟩

/-- A membership that is joined always has a report. -/
theorem reportOf_of_joined {s : State} {m : Member} (h : m.leave = false) :
    ∃ ver only anon, reportOf s m = some (.member ver m.group only true anon) := by
  unfold reportOf
  simp only [h, Bool.false_and, Bool.false_eq_true, if_false, Bool.not_false]
  split <;> exact ⟨_, _, _, rfl⟩

/-! ### Links and paths (03 R53, R62, R63) -/

theorem testBit_bitTo_same (v k : Nat) (b : Bool) : (bitTo v k b).testBit k = b := by
  cases b <;> simp [bitTo, Nat.testBit_shiftLeft]

theorem testBit_bitTo_other {v k j : Nat} {b : Bool} (h : j ≠ k) : (bitTo v k b).testBit j = v.testBit j := by
  have hone : (1 <<< k).testBit j = false := by
    rw [Nat.one_shiftLeft]
    exact Nat.testBit_two_pow_of_ne (Ne.symm h)
  cases b <;> simp [bitTo, hone]

/-- A sub-port of the mode in effect gains or loses link (03 R53). -/
theorem netLinkChange_completes {s : State} {i : Nat} {link align : Bool} (hheld : s.boot.held = false)
    (hs : s.id.sender = true) (hi : i < 8) (hport : (subPorts (netPort s (i / 4)).mode).contains (i % 4) = true) :
    Completes (.netLinkChange i link align) s (setNetPort s (i / 4) { netPort s (i / 4) with
      link := bitTo (netPort s (i / 4)).link (i % 4) link
      align := bitTo (netPort s (i / 4)).align (i % 4) (align && fecUsed (netPort s (i / 4)) (i % 4)) }) := by
  refine completes_act (by unfold exec execNetLinkChange; rfl) hheld ?_
  exact if_pos (by rw [hs, hport, decide_eq_true hi]; rfl)

theorem pathDown_completes {s t : State} {id : Nat} {b : Bool} {x : Stream} {d : Nat} (hheld : s.boot.held = false)
    (hx : streamOf s id = some x) (hd : (if b then x.lastB else x.lastA) = some d)
    {y : Stream} (hy : y = if b then { x with upB := false } else { x with upA := false })
    {q : State × Stream} (hq : q = pathMisses (toLt (d + 10 ^ 8) s) y b)
    (ht : (if !(if b then x.upB else x.upA) then s
      else recEventX (setStream q.1 (if y.upA || y.upB then q.2
        else { q.2 with st := if x.st = 3 then 4 else x.st, upTo := none })) .wall xPathDown [w32 id, flagAt b 0]) = t) :
    Completes (.pathDown id b) s t := by
  have hst : y.st = x.st := by
    rw [hy]
    cases b <;> rfl
  refine completes_act (by unfold exec execPathDown; rfl) hheld ?_
  simp only [hx, hd, ← hy, hst, ← hq]
  exact ht

end Sys2Proof.Machine

namespace Sys2Proof.Proofs

open Sys2Proof.Machine Sys2Proof.Safety

/-- Settles O7: the class of each frame, what each message changes, and what each timer sends. -/
theorem networkFramesAndTimers : Obligations.NetworkFramesAndTimers := by
  unfold Obligations.NetworkFramesAndTimers
  refine ⟨fun s i hheld hs hi hon => ⟨fun f vlan => ⟨fun hbad => ?_, fun hfcs hvlan foreign hforeign =>
        ⟨fun hk => ?_, fun hk => ⟨fun hyes => ?_, fun hno => ?_⟩, fun hpause harp =>
          ⟨fun hdst => ?_, fun hdst hyes => ?_, fun hdst hno => ⟨fun hk => ?_, fun hk => ?_, fun hk => ?_, fun hk => ?_,
            fun hk => ?_, fun dst port frag hk => ⟨fun hmulti hgroup => ?_, fun huni hown h319 h320 hsmb => ?_⟩⟩⟩⟩⟩,
      ?_, fun vlan src dst body hvlan => ⟨fun hno => ?_, fun hown => ⟨fun hb => ?_, fun b hb =>
        ⟨fun h hhop => ?_, fun hhop => ?_⟩⟩⟩,
      fun vlan q maxResp delay hvlan => ⟨fun hb => ?_, fun b hb => ?_⟩,
      fun vlan f op mac addr hvlan => ⟨fun hb => ?_, fun b hb own hown => ⟨fun hnone => ?_, fun x hx foreign hforeign =>
        ⟨fun h1 hop => ?_, fun h2 hop => ?_, fun h2 hop hyes => ⟨fun hdef => ?_, fun hfam hdef => ?_⟩⟩⟩⟩⟩,
    fun i f n s x d hheld hx hd s1 k want hs1 hk hwant => ⟨fun h2 => ?_, fun h2 hlt => ?_, fun h2 hle =>
      ⟨fun hf => ?_, fun hf => ?_⟩⟩,
    fun i g src s m d hheld hm hd rest hrest => ⟨fun hleave hans => ?_, fun hleave hrefs => ?_⟩,
    fun i link align s hheld => ⟨fun hs hi hport => ?_, fun hno => ?_⟩,
    fun id b s x hheld hx => ⟨fun hlock => ?_, fun hlock => ?_⟩,
    fun id b s x t hheld hx ht => ⟨fun hdown => ?_, fun hup y hy q hq => ⟨fun hother => ?_, fun hother => ?_⟩⟩⟩
  · exact netFrameDrop_completes hheld hs hi hon (sortFrame_of_bad hbad)
  · exact netFrameDrop_completes hheld hs hi hon (sortFrame_of_pause hfcs hvlan hk)
  · subst hforeign
    exact netFrameDrop_completes hheld hs hi hon ((sortFrame_of_arp hfcs hvlan hk).trans (if_pos hyes))
  · subst hforeign
    exact netFrameDrop_completes hheld hs hi hon ((sortFrame_of_arp hfcs hvlan hk).trans (if_neg (ne_true_of_eq_false hno)))
  · exact netFrameDrop_completes hheld hs hi hon (sortFrame_of_group hfcs hvlan hpause harp hdst)
  · subst hforeign
    exact netFrameDrop_completes hheld hs hi hon (sortFrame_of_foreign hfcs hvlan hpause harp hdst hyes)
  · subst hforeign
    exact netFrameDrop_completes hheld hs hi hon (sortFrame_of_own hfcs hvlan hdst hno (by rw [hk]))
  · subst hforeign
    exact netFrameDrop_completes hheld hs hi hon (sortFrame_of_own hfcs hvlan hdst hno (by rw [hk]; rfl))
  · subst hforeign
    refine netFrameDrop_completes hheld hs hi hon (sortFrame_of_own hfcs hvlan hdst hno ?_)
    obtain hk | hk := hk <;> rw [hk] <;> rfl
  · subst hforeign
    exact netFrameDrop_completes hheld hs hi hon (sortFrame_of_own hfcs hvlan hdst hno (by rw [hk]; rfl))
  · subst hforeign
    exact netFrameDrop_completes hheld hs hi hon (sortFrame_of_own hfcs hvlan hdst hno (by rw [hk]))
  · subst hforeign
    refine netFrameDrop_completes hheld hs hi hon (sortFrame_of_own hfcs hvlan hdst hno ?_)
    rw [hk]
    exact (if_pos hmulti).trans (if_neg (ne_true_of_eq_false hgroup))
  · subst hforeign
    refine netFrameDrop_completes hheld hs hi hon (sortFrame_of_own hfcs hvlan hdst hno ?_)
    rw [hk]
    exact (if_neg (ne_true_of_eq_false huni)).trans ((if_neg (by simp [hown])).trans
      ((if_neg (by omega)).trans (if_pos hsmb)))
  · refine completes_act (by unfold exec execPauseFrame; rfl) hheld ?_
    exact if_pos (by simp [hs, hi])
  · exact icmpEcho_completes hheld hs hon hvlan (if_pos (by simp [hno]))
  · exact icmpEcho_completes hheld hs hon hvlan ((if_neg (by simp [hown])).trans (by rw [hb]))
  · exact icmpEcho_completes hheld hs hon hvlan ((if_neg (by simp [hown])).trans (by simp only [hb, hhop]))
  · exact icmpEcho_completes hheld hs hon hvlan ((if_neg (by simp [hown])).trans (by simp only [hb, hhop]))
  · refine completes_act (by unfold exec execIgmpMldQuery; rfl) hheld ?_
    simp only [hs, hon, hvlan, hb, Bool.not_true, Bool.or_self, Bool.false_eq_true, if_false]
  · refine ⟨afterQuery i q maxResp delay b, igmpMldQuery_completes hheld hs hon hvlan hb, ?_, ?_, ?_⟩
    all_goals obtain ⟨l, -, rfl⟩ := Option.map_eq_some_iff.mp hb
    · rfl
    · exact (List.map_map ..).trans (List.map_congr_left fun m _ => queried_group _ _ _ _)
    · intro m hm hiface hv6 hleave hnamed
      obtain ⟨o, -, rfl⟩ := List.mem_map.mp hm
      exact queried_answers hiface hv6 hleave hnamed
  · refine completes_act (by unfold exec execArpNdReceived; rfl) hheld ?_
    simp only [hs, hon, hvlan, hb, Bool.not_true, Bool.or_self, Bool.false_eq_true, if_false]
  · exact arpNd_completes hheld hs hon hvlan hb (by rw [← hown, hnone])
  · subst hforeign
    refine arpNd_completes hheld hs hon hvlan hb ?_
    rw [← hown, hx]
    exact (if_pos h1).trans (if_pos hop)
  · refine arpNd_completes hheld hs hon hvlan hb ?_
    rw [← hown, hx]
    exact (if_neg (by omega)).trans ((if_neg (not_not.mpr h2)).trans
      ((if_neg fun h => hop h.1).trans (if_neg hop)))
  · subst hforeign
    refine arpNd_completes hheld hs hon hvlan hb ?_
    rw [← hown, hx]
    refine (if_neg (by omega)).trans ((if_neg (not_not.mpr h2)).trans ((if_pos ⟨hop, hyes⟩).trans ?_))
    refine ite_eq_left_iff.mpr fun hfam => ?_
    obtain hne | ⟨t, ht, hlt⟩ := hdef
    · exact absurd hne hfam
    · rw [ht]
      exact if_pos hlt
  · subst hforeign
    refine arpNd_completes hheld hs hon hvlan hb ?_
    rw [← hown, hx]
    refine (if_neg (by omega)).trans ((if_neg (not_not.mpr h2)).trans ((if_pos ⟨hop, hyes⟩).trans
      ((if_neg (not_not.mpr hfam)).trans ?_)))
    cases ht : x.defended with
    | none => rfl
    | some t => exact if_neg (not_lt.mpr (hdef t ht))
  · exact dadTimer_completes hheld hx hd hs1 hk hwant (if_pos h2)
  · refine ⟨_, ?_, ?_, ?_, ?_, dadTimer_completes hheld hx hd hs1 hk hwant ((if_neg h2).trans (if_pos hlt))⟩
    · split
      · exact le_rfl
      · split
        · exact (probeGap_within n).1
        · omega
    · split
      · omega
      · split
        · exact (probeGap_within n).2
        · exact le_rfl
    · intro hf hk2
      rw [if_neg (not_not.mpr hf), if_neg (by rw [hwant, if_pos hf]; omega)]
    · intro hf
      rw [if_pos hf]
  · exact dadTimer_completes hheld hx hd hs1 hk hwant ((if_neg h2).trans ((if_neg (by omega)).trans (if_pos hf)))
  · exact dadTimer_completes hheld hx hd hs1 hk hwant ((if_neg h2).trans ((if_neg (by omega)).trans (if_neg hf)))
  · obtain ⟨s2, hs2⟩ : ∃ s2, s2 = memberReported (toLt d s) m d := ⟨_, rfl⟩
    have hasked : (m.answer == some d) = false := by rw [hans]; rfl
    have hdone := membershipReport_completes hheld hm hd hs2
    rw [if_pos hleave] at hdone
    refine ⟨_, hdone, ?_, ?_⟩
    · rw [memberSent_net, memberSent_lt, hs2, hrest]
      exact memberReported_leaving hleave hasked
    · intro t ht
      have hsame : t = s2 := by
        rw [ht, memberSent_net, hs2]
        rfl
      rw [hsame, memberSent_out, hs2]
      rfl
  · obtain ⟨s2, hs2⟩ : ∃ s2, s2 = memberReported (toLt d s) m d := ⟨_, rfl⟩
    have hdone := membershipReport_completes hheld hm hd hs2
    rw [if_neg (by simp [hleave])] at hdone
    obtain ⟨hout, htime⟩ := foldl_joinPaths (m := m) (defined (memberSent s2 i m)) (memberSent s2 i m) (by
      unfold defined
      rw [memberSent_net, hs2]
      exact hrefs)
    obtain ⟨ver, only, anon, hrep⟩ := reportOf_of_joined (s := s2) hleave
    refine ⟨_, hdone, ?_, ver, only, anon, ?_⟩
    · refine le_of_le_of_eq ?_ (congrArg Time.lt htime).symm
      show d ≤ lt (memberSent s2 i m)
      rw [memberSent_lt, hs2]
      exact toLt_reached d s
    · rw [hout, memberSent_out, hrep, hs2, ← group_of_member hm]
      rfl
  · refine ⟨_, netLinkChange_completes hheld hs hi hport, rfl, rfl, testBit_bitTo_same _ _ _,
      fun k hk => testBit_bitTo_other hk⟩
  · refine completes_act (by unfold exec execNetLinkChange; rfl) hheld ?_
    refine if_neg ?_
    obtain h | h | h := hno
    · simp [h]
    · simp [show ¬ i < 8 by omega]
    · rw [h]
      simp
  · refine completes_act (by unfold exec execSsrcLockRelease; rfl) hheld ?_
    simp only [hx]
    exact if_neg (by simpa using Option.isSome_iff_ne_none.mp hlock)
  · refine completes_act (by unfold exec execSsrcLockRelease; rfl) hheld ?_
    simp only [hx]
    exact if_pos (by simp [hlock])
  · exact pathDown_completes hheld hx ht rfl rfl (if_pos (by rw [hdown]; rfl))
  · refine pathDown_completes hheld hx ht hy hq ((if_neg (by rw [hup]; decide)).trans ?_)
    rw [if_pos hother]
  · refine pathDown_completes hheld hx ht hy hq ((if_neg (by rw [hup]; decide)).trans ?_)
    rw [if_neg (ne_true_of_eq_false hother)]

end Sys2Proof.Proofs
end

section
/-! The stream table, the mode of a port and the reception of stream packets (03 R53, R58 to R66). -/

namespace Sys2Proof.Machine

open Sys2Proof.Safety

/-! ### The stream table (03 R59, R60, R66) -/

theorem streamDefineRule_of_length {c : CmdRef} {p : Smb} {a : State} (hp : p.payload.length = 24) :
    streamDefineRule c p a = match streamRefusal a p.payload with
      | some w => .noW a stBadParam [w]
      | none => .pend (defineStream a p.payload c) := withLen_of_length_eq hp

/-- The state of a stream that is removed while slots of it are being read. -/
def streamGone (x : Stream) : Stream :=
  { x with st := 0, upA := false, upB := false, clash := false, tsusp := false, ref := none
           slots := (x.slots.filter (fun y => y.st == .reading)).map (fun y => { y with old := true, dies := true }) }

theorem streamRemoveRule_of_payload {c : CmdRef} {p : Smb} {a : State} {w : Word} (hp : p.payload = [w]) :
    streamRemoveRule c p a =
      if 64 ≤ fld w 31 24 then .no a stBadParam
      else match streamOf a (fld w 31 24) with
        | none => .ok a []
        | some x =>
          let s1 := notifyO (memberChange a (fld w 31 24) x.words true) x.ref stNotInState []
          let rest := s1.net.streams.filter (fun y => y.id != fld w 31 24)
          .ok { s1 with net := { s1.net with
            streams := if (streamGone x).slots = [] then rest else streamGone x :: rest } } [] := by
  unfold streamRemoveRule
  rw [withLen_of_length_eq (by rw [hp]; rfl)]
  simp only [pw, hp]
  rfl

/-- STREAM_REMOVE of a defined stream. -/
theorem streamRemoveRule_of_defined {c : CmdRef} {p : Smb} {a s1 : State} {w : Word} {x : Stream} {rest : List Stream}
    (hp : p.payload = [w]) (hid : fld w 31 24 < 64) (hx : streamOf a (fld w 31 24) = some x)
    (hs1 : s1 = notifyO (memberChange a (fld w 31 24) x.words true) x.ref stNotInState [])
    (hrest : rest = s1.net.streams.filter (fun y => y.id != fld w 31 24)) : streamRemoveRule c p a =
      .ok { s1 with net := { s1.net with
        streams := if (streamGone x).slots = [] then rest else streamGone x :: rest } } [] := by
  subst hrest hs1
  refine (streamRemoveRule_of_payload hp).trans ((if_neg (by omega)).trans ?_)
  simp only [hx]

theorem streamReadRule_of_payload {c : CmdRef} {p : Smb} {a : State} {w : Word} (hp : p.payload = [w]) :
    streamReadRule c p a = match streamOf a (fld w 31 24) with
      | some x => .ok a x.words
      | none => .no a stNotInState := by
  unfold streamReadRule
  rw [withLen_of_length_eq (by rw [hp]; rfl)]
  simp only [pw, hp]
  rfl

/-! ### PORT_MODE (03 R53) -/

theorem portModeRule_of_payload {c : CmdRef} {p : Smb} {a : State} {w : Word} {port mode fec need : Nat}
    (hp : p.payload = [w]) (hport : port = fld w 24 24) (hmode : mode = fld w 17 16) (hfec : fec = fld w 3 0)
    (hneed : need = standingWith a (pipesOn (rd a cmpCanvas)) ((a.net.ports.map (·.mode)).set port mode)
      (getF a lmpCfg 31 30)) : portModeRule c p a =
      if portChanging a port then .no a stBusy
      else if getF a pwrChip 31 16 < need then .noW a stConflict [conflictWord 0x08 1 need]
      else match sluiceAsk a (.portMode port mode fec c) 1 3 0 with
        | (t, .refused) => .no t stNoCredit
        | (t, .waiting _) => .pend t
        | (t, .granted _) => ⟨stPending, [], t, false, fun u => startPortMode u port mode fec c⟩ := by
  subst hneed hport hmode hfec
  unfold portModeRule
  rw [withLen_of_length_eq (by rw [hp]; rfl)]
  simp only [pw, hp]
  rfl

/-! ### Reception (03 R58, R62, R63) -/

section
variable {r : RtpPkt} {s t : State} (hheld : s.boot.held = false) (hs : s.id.sender = true)
  (hon : bit (rd s (netIfCtrl + 16 * r.iface)) 31 = true)
include hheld hs hon

theorem rtpPacket_untagged (hvlan : vlanOk s r.iface r.vlan = false) :
    Completes (.rtpPacketReceived r) s (dropFrame s 0) := by
  refine completes_act (by unfold exec execRtpPacketReceived; rfl) hheld ?_
  exact (if_neg (by simp [hs, hon])).trans (if_pos (by simp [hvlan]))

variable (hvlan : vlanOk s r.iface r.vlan = true)
include hvlan

theorem rtpPacket_unmatched (hnone : matchPath s r = none) (ht : (if isGroup r.group then dropFrame s 1
      else if holdsAddr s r.iface (hostAddr r.group) then dropFrame s 6 else s) = t) :
    Completes (.rtpPacketReceived r) s t := by
  refine completes_act (by unfold exec execRtpPacketReceived; rfl) hheld ?_
  refine (if_neg (by simp [hs, hon])).trans ((if_neg (by simp [hvlan])).trans ?_)
  simp only [hnone]
  exact ht

theorem rtpPacket_unbuffered {x : Stream} {b : Bool} (hmatch : matchPath s r = some (x, b)) (hfull : rxTake s r = none) :
    Completes (.rtpPacketReceived r) s (bump s (ingUnrec + 4 * x.id)) := by
  refine completes_act (by unfold exec execRtpPacketReceived; rfl) hheld ?_
  refine (if_neg (by simp [hs, hon])).trans ((if_neg (by simp [hvlan])).trans ?_)
  simp only [hmatch, hfull]

/-- A packet of a path, in the receiver buffer, through the checks of its form and of its SSRC. -/
theorem rtpPacket_buffered {x : Stream} {b : Bool} {a : State} (hmatch : matchPath s r = some (x, b))
    (hroom : rxTake s r = some a) {foreign : Bool} (hforeign : foreign = match (if sdSsrc x.words = 0 then x.lock
      else some (sdSsrc x.words)) with | some v => v != r.ssrc | none => false)
    (ht : (if r.version ≠ 2 ∨ r.ptype ≠ sdPt x.words ∨ !srdOk x.words r then
        dropFrame (setStream a { x with wrong := x.wrong + 1 }) 7
      else if foreign then dropFrame (setStream a { x with clash := true, wrong := x.wrong + 1 }) 7
      else
        let y := { x with
          lock := if sdSsrc x.words = 0 then some r.ssrc else x.lock
          lastA := if b then x.lastA else some (lt a), lastB := if b then some (lt a) else x.lastB
          upA := x.upA || !b, upB := x.upB || b
          st := if x.st = 4 then (if x.announced then 3 else 2) else x.st }
        let d := pathDiff a y b r.ts
        let q := passFrames d.1 d.2 b r.ts
        takePacket q.1 q.2 b r) = t) : Completes (.rtpPacketReceived r) s t := by
  subst hforeign
  refine completes_act (by unfold exec execRtpPacketReceived; rfl) hheld ?_
  refine (if_neg (by simp [hs, hon])).trans ((if_neg (by simp [hvlan])).trans ?_)
  simp only [hmatch, hroom]
  exact ht

end

/-- What an accepted packet does by what its stream holds of the frame of its timestamp. -/
theorem takePacket_of_frame {s : State} {x : Stream} {b : Bool} {r : RtpPkt} {f : SrcSlot}
    (hf : (ownFrames x).find? (fun y => y.ts == r.ts) = some f) : takePacket s x b r = landPacket s x f b r := by
  unfold takePacket
  simp only [hf]

section
variable {s : State} {x : Stream} {b : Bool} {r : RtpPkt}
  (hnone : (ownFrames x).find? (fun y => y.ts == r.ts) = none)
include hnone

theorem takePacket_of_refused (h : x.refused.contains r.ts = true) :
    takePacket s x b r = bump (setStream s (passedBy x r)) (ingUnrec + 4 * x.id) := by
  unfold takePacket
  simp only [hnone]
  exact if_pos h

variable (hrefused : x.refused.contains r.ts = false)
include hrefused

theorem takePacket_of_closed (h : x.closed.contains r.ts = true) : takePacket s x b r = setStream s x := by
  unfold takePacket
  simp only [hnone]
  exact (if_neg (ne_true_of_eq_false hrefused)).trans (if_pos h)

theorem takePacket_of_new (hclosed : x.closed.contains r.ts = false) : takePacket s x b r =
    match (((ownFrames x).filter (fun y => decide (0 < sdiff y.ts r.ts))).map (·.opened)).min? with
    | some o => if o + mergeNs x ≤ lt s then setStream s x else openFrame s x b r (some o)
    | none => if (x.closed ++ x.refused).any (fun t => decide (0 < sdiff t r.ts)) then setStream s x
      else openFrame s x b r none := by
  unfold takePacket
  simp only [hnone]
  exact (if_neg (ne_true_of_eq_false hrefused)).trans (if_neg (ne_true_of_eq_false hclosed))

end

/-! ### Merge windows (03 R63, R64) -/

theorem mergeWindowClose_completes {s s1 : State} {id : Nat} {ts : Word} {x : Stream} {f : SrcSlot} {w : Nat}
    (hheld : s.boot.held = false) (hx : streamOf s id = some x)
    (hf : x.slots.find? (fun y => !y.old && y.st == .filling && y.ts == ts) = some f) (hw : f.window = some w)
    (hs1 : s1 = toLt (w + mergeNs x) s) : Completes (.mergeWindowClose id ts) s
      (lossPolicy (bumpN (bumpF s1 (ingSts + 4 * id) 15 0) (ingUnrec + 4 * id) (neverCame x f (frameEnd x f)))
        (accounted x f (frameEnd x f)) f) := by
  subst hs1
  refine completes_act (by unfold exec execMergeWindowClose; rfl) hheld ?_
  simp only [hx, hf, hw]

end Sys2Proof.Machine

namespace Sys2Proof.Proofs

open Sys2Proof.Machine Sys2Proof.Safety

/-- Settles O6: each rule on its payload, and the way of a packet through its checks to its frame. -/
theorem streamsAndReception : Obligations.StreamsAndReception := by
  unfold Obligations.StreamsAndReception
  refine ⟨⟨fun p s a c H hp => ⟨fun hnone => ?_, fun v hv => ?_⟩,
      fun p s a c w H hp => ⟨fun hbad => ?_, fun hid => ⟨fun hnone => ?_, fun x hx s1 rest hs1 hrest =>
        ⟨fun hidle => ?_, fun hread z hz => ?_⟩⟩⟩,
      fun p s a c w H hp => ⟨fun x hx hroom => ?_, fun hnone => ?_⟩,
      fun p s a c w H hp port mode fec need hport hmode hfec hneed => ⟨fun hbusy => ?_, fun hfree =>
        ⟨fun hover => ?_, fun hfits => ⟨fun t n hask => ?_, fun t n hask => ?_, fun t hask => ?_⟩⟩⟩⟩,
    fun r s hheld hs hon => ⟨fun hvlan => ?_, fun hvlan => ⟨fun hnone => ⟨fun hgroup => ?_, fun hgroup hown => ?_⟩,
      fun x b hmatch => ⟨fun hfull => ?_, fun a hroom => ⟨fun hbad => ?_, fun hversion hptype hsrd =>
        ⟨fun v hv hne => ?_, fun hssrc => ?_⟩⟩⟩⟩⟩,
    fun s x b r own hown => ⟨fun f hf => ?_, fun hnone href => ?_, fun hnone href hclosed => ?_,
      fun hnone href hclosed first hfirst => ⟨fun o ho => ?_, fun ho => ?_⟩⟩,
    fun id ts s x f w hheld hx hf hw => ?_⟩
  · exact answers_pend (h := streamDefineRule) H ((streamDefineRule_of_length hp).trans (by rw [hnone]))
  · exact answers_noW (h := streamDefineRule) H rfl ((streamDefineRule_of_length hp).trans (by rw [hv]))
  · exact answers_no (h := streamRemoveRule) H rfl ((streamRemoveRule_of_payload hp).trans (if_pos hbad))
  · exact answers_ok_nil (h := streamRemoveRule) H ((streamRemoveRule_of_payload hp).trans
      ((if_neg (by omega)).trans (by rw [hnone])))
  · refine answers_ok_nil (h := streamRemoveRule) H ((streamRemoveRule_of_defined hp hid hx hs1 hrest).trans ?_)
    have hnil : (streamGone x).slots = [] :=
      List.map_eq_nil_iff.mpr (List.filter_eq_nil_iff.mpr fun y hy => ne_true_of_eq_false (hidle y hy))
    rw [if_pos hnil]
  · refine answers_ok_nil (h := streamRemoveRule) H ((streamRemoveRule_of_defined hp hid hx hs1 hrest).trans ?_)
    obtain ⟨y, hy, hst⟩ := hread
    have hne : (streamGone x).slots ≠ [] := fun h =>
      List.filter_eq_nil_iff.mp (List.map_eq_nil_iff.mp h) y hy (beq_iff_eq.mpr hst)
    rw [if_neg hne, hz]
    rfl
  · exact answers_ok (h := streamReadRule) H ((streamReadRule_of_payload hp).trans (by rw [hx])) hroom
  · exact answers_no (h := streamReadRule) H rfl ((streamReadRule_of_payload hp).trans (by rw [hnone]))
  · exact answers_no (h := portModeRule) H rfl ((portModeRule_of_payload hp hport hmode hfec hneed).trans (if_pos hbusy))
  · exact answers_noW (h := portModeRule) H rfl ((portModeRule_of_payload hp hport hmode hfec hneed).trans
      ((if_neg (ne_true_of_eq_false hfree)).trans (if_pos hover)))
  · exact answers_post (h := portModeRule) (u := t) (st := stPending) (post := fun u => startPortMode u port mode fec c) H rfl
      ((portModeRule_of_payload hp hport hmode hfec hneed).trans
        ((if_neg (ne_true_of_eq_false hfree)).trans ((if_neg (by omega)).trans (by rw [hask]))))
  · exact answers_pend (h := portModeRule) H ((portModeRule_of_payload hp hport hmode hfec hneed).trans
        ((if_neg (ne_true_of_eq_false hfree)).trans ((if_neg (by omega)).trans (by rw [hask]))))
  · exact answers_no (h := portModeRule) H rfl ((portModeRule_of_payload hp hport hmode hfec hneed).trans
        ((if_neg (ne_true_of_eq_false hfree)).trans ((if_neg (by omega)).trans (by rw [hask]))))
  · exact rtpPacket_untagged hheld hs hon hvlan
  · exact rtpPacket_unmatched hheld hs hon hvlan hnone (if_pos hgroup)
  · exact rtpPacket_unmatched hheld hs hon hvlan hnone ((if_neg (ne_true_of_eq_false hgroup)).trans (if_pos hown))
  · exact rtpPacket_unbuffered hheld hs hon hvlan hmatch hfull
  · refine rtpPacket_buffered hheld hs hon hvlan hmatch hroom rfl (if_pos ?_)
    simpa using hbad
  · refine rtpPacket_buffered hheld hs hon hvlan hmatch hroom (foreign := true) ?_ ((if_neg ?_).trans (if_pos rfl))
    · simp only [hv]
      exact (bne_iff_ne.mpr hne).symm
    · simp [hversion, hptype, hsrd]
  · refine rtpPacket_buffered hheld hs hon hvlan hmatch hroom (foreign := false) ?_
      ((if_neg ?_).trans (if_neg Bool.false_ne_true))
    · obtain ⟨hne, heq⟩ | ⟨hz, hlock | hlock⟩ := hssrc
      · rw [if_neg hne, heq]
        exact (bne_self_eq_false (a := r.ssrc)).symm
      · simp only [if_pos hz, hlock]
      · simp only [if_pos hz, hlock, bne_self_eq_false]
    · simp [hversion, hptype, hsrd]
  · exact takePacket_of_frame (hown.symm.trans hf)
  · exact takePacket_of_refused (hown.symm.trans hnone) href
  · exact takePacket_of_closed (hown.symm.trans hnone) href hclosed
  · rw [takePacket_of_new (hown.symm.trans hnone) href hclosed, ← hfirst, ho]
  · rw [takePacket_of_new (hown.symm.trans hnone) href hclosed, ← hfirst, ho]
  · exact mergeWindowClose_completes hheld hx hf hw rfl

end Sys2Proof.Proofs
end

section
/-! Deliveries: their start, what a chain sends next, what its tiles report, and their end (05 R97 to R111). -/

namespace Sys2Proof.Machine

open Sys2Proof.Safety

/-! ### The start of a delivery (05 R97, R99) -/

/-- `t` keeps the canvas and the deliveries of `s`, with the counts of FLM that a start writes. -/
def DelivKept (s t : State) : Prop :=
  t.canvas = s.canvas ∧ t.flume = s.flume ∧ rd t flmDeliv = rd s flmDeliv ∧ rd t flmFrame = rd s flmFrame

theorem DelivKept.refl (s : State) : DelivKept s s := ⟨rfl, rfl, rfl, rfl⟩

theorem DelivKept.trans {a b c : State} (h : DelivKept a b) (k : DelivKept b c) : DelivKept a c := by
  obtain ⟨h1, h2, h3, h4⟩ := h
  obtain ⟨k1, k2, k3, k4⟩ := k
  exact ⟨k1.trans h1, k2.trans h2, k3.trans h3, k4.trans h4⟩

theorem DelivKept.ite {s a b : State} {p : Prop} [Decidable p] (ha : DelivKept s a) (hb : DelivKept s b) :
    DelivKept s (if p then a else b) := by
  split
  · exact ha
  · exact hb

theorem delivKept_of_spoke {s t : State} (h : Spoke s t) : DelivKept s t :=
  ⟨h.told.canvas, h.told.flume, h.rd (by decide), h.rd (by decide)⟩

theorem delivKept_pair (s : State) (x : Pair) : DelivKept s { s with pair := x } := ⟨rfl, rfl, rfl, rfl⟩

theorem delivKept_bump {s : State} {i : Nat} (hd : i ≠ flmDeliv) (hf : i ≠ flmFrame) : DelivKept s (bump s i) :=
  ⟨rfl, rfl, (rd_bump _ _ _).trans (if_neg hd), (rd_bump _ _ _).trans (if_neg hf)⟩

theorem delivKept_startResolution (s : State) (l : List Nat) : DelivKept s (startResolution s l) := by
  unfold startResolution
  split
  · exact delivKept_pair s _
  · exact ((delivKept_pair s _).trans (delivKept_bump (by decide) (by decide))).trans
      (delivKept_of_spoke (spoke_twinSend _ _))

theorem delivKept_compareDsigs (s : State) (x : CoDeliv) : DelivKept s (compareDsigs s x) := by
  unfold compareDsigs
  split
  · extract_lets diff s1 s2
    have h1 : DelivKept s s1 := delivKept_pair s _
    have h2 : DelivKept s1 s2 := .ite (.refl s1) (delivKept_bump (by decide) (by decide))
    exact (h1.trans h2).trans (.ite (.refl s2) (delivKept_startResolution s2 diff))
  · exact delivKept_pair s _

theorem delivKept_tryDsigs (s : State) (x : CoDeliv) : DelivKept s (tryDsigs s x) := by
  have hnocmp : DelivKept s (bump (setCo s x.start none) pairNocmp) :=
    (delivKept_pair s _).trans (delivKept_bump (by decide) (by decide))
  unfold tryDsigs
  refine .ite (delivKept_compareDsigs s x) (.ite hnocmp ?_)
  split
  · exact hnocmp
  · exact (delivKept_of_spoke (spoke_twinSend _ _)).trans (delivKept_compareDsigs _ _)

theorem delivKept_sendCanvas (s : State) (f : CanvasFrame) : DelivKept s (sendCanvas s f) :=
  (delivKept_of_spoke (spoke_twinSend _ _)).trans (delivKept_tryDsigs _ _)

theorem clearPending_par (s : State) (f : CanvasFrame) (plans : List ChainPlan) :
    (clearPending s f plans).par = s.par ∧ (clearPending s f plans).id = s.id := by
  unfold clearPending
  extract_lets flags
  generalize s.canvas.rects = l
  have hfold (g : State → Rect → State) (hg : ∀ t r, (g t r).par = t.par ∧ (g t r).id = t.id) (t : State) :
      (l.foldl g t).par = t.par ∧ (l.foldl g t).id = t.id := by
    induction l generalizing t with
    | nil => exact ⟨rfl, rfl⟩
    | cons r l ih => exact ⟨(ih _).1.trans (hg t r).1, (ih _).2.trans (hg t r).2⟩
  refine hfold _ (fun t r => ?_) s
  exact ⟨rfl, rfl⟩

/-- What a start leaves: the frame is under way and counted, and numbered where a tile has something to send. -/
theorem startDelivery_starts (s : State) (f : CanvasFrame) :
    (startDelivery s f).canvas.undelivered = false ∧ rd (startDelivery s f) flmDeliv = satAdd (rd s flmDeliv) 1
      ∧ (chainPlans s ≠ [] → getF (startDelivery s f) flmFrame 15 0 = (getF s flmFrame 15 0 + 1) % 65536
        ∧ ∃ d, (startDelivery s f).flume.delivery = some d ∧ d.canvas = f ∧ d.chains = chainPlans s ∧ d.pt = none
          ∧ d.frame = lastFrame s + 1) := by
  obtain ⟨hpar, hid⟩ := clearPending_par s f (chainPlans s)
  have hrd (j : Nat) : rd (clearPending s f (chainPlans s)) j = rd s j := by
    unfold rd
    rw [hpar, hid]
  have hother (t : State) (v : Nat) : rd (setF (bump t flmDeliv) flmFrame 15 0 v) flmDeliv = satAdd (rd t flmDeliv) 1 := by
    rw [rd_setF, if_neg (by decide), rd_bump, if_pos rfl]
  have hframe (t : State) (v : Nat) : getF (setF (bump t flmDeliv) flmFrame 15 0 v) flmFrame 15 0 = v % 2 ^ 16 := by
    rw [getF, rd_setF, if_pos rfl, fld_setFld _ (by decide)]
  refine ⟨rfl, (hother _ _).trans (by rw [hrd]), fun hplans => ⟨?_, ?_⟩⟩
  · refine (hframe _ _).trans ?_
    rw [if_neg hplans, lastFrame, BitVec.toNat_add, BitVec.toNat_ofNat, show (1 : BitVec 16).toNat = 1 from rfl]
    omega
  · refine ⟨_, if_neg hplans, rfl, rfl, rfl, if_neg hplans⟩

/-- A start and what is told of it. -/
theorem deliveryStart_starts {s t u : State} {f : CanvasFrame} (hu : DelivKept (startDelivery t f) u)
    (hrd : rd t flmDeliv = rd s flmDeliv) (hframe : rd t flmFrame = rd s flmFrame) (hplans : chainPlans t = chainPlans s) :
    u.canvas.undelivered = false ∧ rd u flmDeliv = satAdd (rd s flmDeliv) 1
      ∧ (chainPlans s ≠ [] → getF u flmFrame 15 0 = (getF s flmFrame 15 0 + 1) % 65536
        ∧ ∃ d, u.flume.delivery = some d ∧ d.canvas = f ∧ d.chains = chainPlans s ∧ d.pt = none
          ∧ d.frame = lastFrame s + 1) := by
  obtain ⟨hcanvas, hflume, hdeliv, hfr⟩ := hu
  obtain ⟨hund, hcount, hrest⟩ := startDelivery_starts t f
  have hlast : getF t flmFrame 15 0 = getF s flmFrame 15 0 := by rw [getF, getF, hframe]
  refine ⟨(congrArg Canvas.undelivered hcanvas).trans hund, hdeliv.trans (hcount.trans (by rw [hrd])), fun hne => ?_⟩
  obtain ⟨hnum, d, hd, hcan, hchains, hpt, hfrd⟩ := hrest (by rwa [hplans])
  refine ⟨?_, d, (congrArg Flume.delivery hflume).trans hd, hcan, hchains.trans hplans, hpt, hfrd.trans ?_⟩
  · rw [getF, hfr, ← hlast]
    exact hnum
  · rw [lastFrame, lastFrame, hlast]

theorem deliveryStart_completes {s t : State} {f : CanvasFrame} (hheld : s.boot.held = false) (hs : s.id.sender = true)
    (hf : s.canvas.newest = some f) (hnone : s.flume.delivery = none) (hund : s.canvas.undelivered = true)
    (hpend : anyPending s = true) (ht : (if s.pair.mode ≠ 1 then startDelivery s f
      else if s.pair.holding then
        sendCanvas (twinSend (startDelivery s f) (.deliv (wt32 f.start) (lastFrame (startDelivery s f)))) f
      else match s.pair.deliv with
        | none => s
        | some (w, _) =>
          let s1 := { s with pair := { s.pair with deliv := none } }
          if wt32 f.start = w then sendCanvas (startDelivery s1 f) f
          else if decide (0 < sdiff (wt32 f.start) w) || abandoned s w then bump (startDelivery s1 f) pairNocmp
          else s) = t) : Completes .deliveryStart s t := by
  refine completes_act (by unfold exec execDeliveryStart; rfl) hheld ?_
  simp only [hf]
  exact (if_neg (by simp [hs, hnone, hund, hpend])).trans ht

/-! ### The end of a delivery (05 R105, R108) -/

theorem frameKept_resyncTile (s : State) (na f : BitVec 16) : FrameKept s (resyncTile s na f) := by
  unfold resyncTile
  extract_lets d s1 s2
  split
  · exact frameKept_flume s _
  · have h1 : FrameKept s s1 := frameKept_flume s _
    have h2 : FrameKept s1 s2 := by
      subst s2
      split
      · exact frameKept_of_told (told_bump _ _)
      · exact .refl s1
    refine (h1.trans h2).trans ?_
    split
    · exact frameKept_of_told (told_recordX _ _ _)
    · exact .refl s2

theorem frameKept_tileApplied (s : State) (d : Delivery) (t : TilePlan) : FrameKept s (tileApplied s d t) := by
  unfold tileApplied
  split
  · exact .refl s
  · exact ⟨rfl, rfl, rfl⟩

theorem frameKept_markCarried (s : State) (d : Delivery) : FrameKept s (markCarried s d) :=
  frameKept_foldl (fun s _ => frameKept_flume s _) _ s

theorem railYield_delivery (s : State) (on : Bool) : (railYield s on).flume.delivery = s.flume.delivery
    ∧ (railYield s on).flume.ek = s.flume.ek := by
  unfold railYield
  split
  · exact ⟨rfl, rfl⟩
  · have h : (yieldTo s (List.range 8) on).flume = { s.flume with yieldOn := on } := (told_linkCast _ _ _).flume
    exact ⟨by rw [h], by rw [h]⟩

/-- What the edge of a delivery leaves from the instant it is reached. -/
def deliveryEnded (s : State) (d : Delivery) : State :=
  let s2 := (d.chains.flatMap (·.tiles)).foldl (fun t x =>
    if x.received && !x.failed then tileApplied t d x else resyncTile t x.na d.frame) s
  let s3 := markCarried s2 d
  let s4 := { s3 with flume := { s3.flume with delivery := none, ek := none } }
  if s4.flume.yieldOn && s4.dram.state == 2 && s4.flume.dmg.all (fun t => !t.resync) then railYield s4 false else s4

theorem deliveryEnded_ends (s : State) (d : Delivery) : (deliveryEnded s d).flume.delivery = none
    ∧ (deliveryEnded s d).flume.ek = none ∧ (deliveryEnded s d).time = s.time := by
  unfold deliveryEnded
  extract_lets s2 s3 src s4
  have h2 : FrameKept s s2 := by
    refine frameKept_foldl (fun t x => ?_) _ s
    split
    · exact frameKept_tileApplied _ _ _
    · exact frameKept_resyncTile _ _ _
  have h4 : FrameKept s3 s4 := frameKept_flume s3 _
  have htime : s4.time = s.time := ((h2.trans (frameKept_markCarried s2 d)).trans h4).1
  split
  · obtain ⟨hd, hek⟩ := railYield_delivery s4 false
    exact ⟨hd, hek, (frameKept_railYield s4 false).1.trans htime⟩
  · exact ⟨rfl, rfl, htime⟩

theorem deliveryEdge_completes {s s1 : State} {d : Delivery} {e : Nat} (hheld : s.boot.held = false)
    (hd : s.flume.delivery = some d) (he : deliveryEdge s d = some e) (hs1 : s1 = toClk e s) :
    Completes .deliveryEdgeReached s (deliveryEnded s1 d) := by
  subst hs1
  refine completes_act (by unfold exec execDeliveryEdgeReached; rfl) hheld ?_
  simp only [hd, he]
  rfl

/-! ### What is learned of the chain (06 R119, R127, R135, R137) -/

theorem look_put {α β : Type} [DecidableEq α] (k : α) (v : β) (l : List (α × β)) : look k (put k v l) = some v := by
  simp [look, put]

/-- `t` keeps the latencies and the levels that `s` knows of its chains. -/
def HopsKept (s t : State) : Prop :=
  t.flume.hops = s.flume.hops ∧ t.flume.later = s.flume.later ∧ t.flume.levels = s.flume.levels

theorem HopsKept.refl (s : State) : HopsKept s s := ⟨rfl, rfl, rfl⟩

theorem HopsKept.trans {a b c : State} (h : HopsKept a b) (k : HopsKept b c) : HopsKept a c :=
  ⟨k.1.trans h.1, k.2.1.trans h.2.1, k.2.2.trans h.2.2⟩

theorem hopsKept_of_flume {s t : State} (h : t.flume = s.flume) : HopsKept s t := by
  unfold HopsKept
  rw [h]
  exact ⟨rfl, rfl, rfl⟩

theorem HopsKept.ite {s a b : State} {p : Prop} [Decidable p] (ha : HopsKept s a) (hb : HopsKept s b) :
    HopsKept s (if p then a else b) := by
  split
  · exact ha
  · exact hb

theorem hopsKept_foldl {α : Type} {f : State → α → State} (h : ∀ s x, HopsKept s (f s x)) (l : List α) (s : State) :
    HopsKept s (l.foldl f s) := by
  induction l generalizing s with
  | nil => exact .refl s
  | cons x r ih => exact (h s x).trans (ih (f s x))

theorem hopsKept_setDmg (s : State) (x : TileDmg) : HopsKept s (setDmg s x) := ⟨rfl, rfl, rfl⟩

theorem hopsKept_sendRegionSet (s : State) (pl : BitVec 64) (m : RegionSet) (c : Option CmdRef) :
    HopsKept s (sendRegionSet s pl m c) := by
  refine hopsKept_of_flume ?_
  unfold sendRegionSet linkSendFor
  split <;> exact (portsOnly_linkItem _ _ _).flume

theorem hopsKept_sendRegionChange (s : State) (r : Rect) (old new : Option (List Word)) (c : Option CmdRef) :
    HopsKept s (sendRegionChange s r old new c) := by
  unfold sendRegionChange
  split
  · exact .refl s
  · extract_lets before
    split
    · split
      · exact hopsKept_sendRegionSet _ _ _ _
      · exact .ite (hopsKept_sendRegionSet _ _ _ _) (.refl s)
    · split
      · exact .ite (hopsKept_sendRegionSet _ _ _ _) (.refl s)
      · exact .refl s

theorem hopsKept_sendRegions (s : State) (r : Rect) : HopsKept s (sendRegions s r) :=
  hopsKept_foldl (fun t _ => hopsKept_sendRegionChange t r _ _ _) _ s

theorem learnLevels_learns (s : State) (pl : BitVec 64) (hi lo : Nat) : (learnLevels s pl hi lo).flume.hops = s.flume.hops
    ∧ (learnLevels s pl hi lo).flume.later = s.flume.later
    ∧ look pl (learnLevels s pl hi lo).flume.levels = some (hi, lo) := by
  unfold learnLevels
  extract_lets src s0 s1
  have h1 : HopsKept s0 s1 := by
    refine hopsKept_foldl (fun t x => ?_) _ s0
    exact ⟨rfl, rfl, rfl⟩
  have hend : HopsKept s0 (if (levelTo s1 pl).isNone ∧ look pl s.flume.levels ≠ some (hi, lo) then
      recordX s1 xReach (wordsOfNat 2 pl.toNat) else s1) :=
    h1.trans (.ite (hopsKept_of_flume (told_recordX _ _ _).flume) (.refl s1))
  obtain ⟨hhops, hlater, hlevels⟩ := hend
  exact ⟨hhops, hlater, (congrArg (look pl) hlevels).trans (look_put _ _ _)⟩

/-- What a tile reports of itself is adopted, aside while its chain is bridged (06 R127). -/
theorem hopReport_learns (s : State) (pl : BitVec 64) (lat fwd hi lo : Nat) :
    (bridged s pl = false → look pl (hopReport s pl lat fwd hi lo).flume.hops = some (lat, fwd))
    ∧ (bridged s pl = true → look pl (hopReport s pl lat fwd hi lo).flume.later = some (lat, fwd))
    ∧ look pl (hopReport s pl lat fwd hi lo).flume.levels = some (hi, lo) := by
  unfold hopReport
  extract_lets new src s0 s1 near
  obtain ⟨hhops1, hlater1, hlevels1⟩ := learnLevels_learns s0 pl hi lo
  obtain ⟨hhops, hlater, hlevels⟩ : HopsKept s1 (((rectsBelow s1 pl).filter near).foldl (fun t r =>
      let here := placeOfNa t r.na == some pl
      let d := dmgOf t r.na
      let t1 := if !d.reachable || (here && new) then setDmg t { d with reachable := true, resync := true } else t
      if here || !d.reachable then sendRegions t1 r else t1) s1) := by
    refine hopsKept_foldl (fun t r => ?_) _ s1
    extract_lets here d t1
    have ht1 : HopsKept t t1 := .ite (hopsKept_setDmg _ _) (.refl t)
    exact .ite (ht1.trans (hopsKept_sendRegions _ _)) ht1
  refine ⟨fun h => ?_, fun h => ?_, (congrArg (look pl) hlevels).trans hlevels1⟩
  · have hs0 : look pl s0.flume.hops = some (lat, fwd) := by
      subst s0
      rw [if_neg (ne_true_of_eq_false h)]
      exact look_put _ _ _
    exact (congrArg (look pl) (hhops.trans hhops1)).trans hs0
  · have hs0 : look pl s0.flume.later = some (lat, fwd) := by
      subst s0
      rw [if_pos h]
      exact look_put _ _ _
    exact (congrArg (look pl) (hlater.trans hlater1)).trans hs0

/-- A crossing that is reported: its change and its chain are kept, and on this rail the tiles below are lost. -/
theorem crossKnown_knows (s : State) (e : LatChange) : (crossKnown s e).flume.changes = s.flume.changes ++ [e]
    ∧ (crossKnown s e).link.crossChains
      = (e.chain, e.rail) :: s.link.crossChains.filter (fun x => x != (e.chain, e.rail))
    ∧ (e.rail = s.id.side → e.below ∈ (crossKnown s e).flume.lost)
    ∧ (e.rail ≠ s.id.side → (crossKnown s e).flume.lost = s.flume.lost) := by
  unfold crossKnown
  by_cases h : e.rail = s.id.side
  · rw [if_pos h]
    exact ⟨rfl, rfl, fun _ => List.mem_cons_self, fun hne => absurd h hne⟩
  · rw [if_neg h]
    exact ⟨rfl, rfl, fun heq => absurd heq h, fun _ => rfl⟩

theorem latencyReport_completes {s t : State} {c : Nat} {pl : BitVec 64} {m : LatReport} (hheld : s.boot.held = false)
    (hs : s.id.sender = true) (ht : (match m with
      | .hop lat fwd hi lo => hopReport s pl lat fwd hi lo
      | .crossed rail change dn br =>
        crossKnown s { chain := c, rail := rail, below := pl, change := change, dn := dn, br := br }
      | .lost => lostBelow s pl) = t) : Completes (.latencyReportReceived c pl m) s t := by
  refine completes_act (by unfold exec execLatencyReportReceived; rfl) hheld ?_
  exact (if_neg (by simp [hs])).trans ht

/-! ### What a chain sends next (05 R98, R111) -/

theorem flumeEmit_completes {s t u : State} {c : Nat} (hheld : s.boot.held = false) (hs : s.id.sender = true) (hc : c < 8)
    (hopen : chainOpen s c = true) (hwaits : flumeWaits s c = true)
    (ht : t = toLt (max (portBusy s (if s.link.guests.contains c then 8 else c)) ((look c s.flume.pace).getD 0)) s)
    (hu : u = (if s.link.guests.contains c then t else ctlFirst 16 t c)) :
    Completes (.flumeEmit c) s (emitNext u c) := by
  have hport : (if (if s.link.guests.contains c then 8 else c) = 8 then t else ctlFirst 16 t c) = u := by
    rw [hu]
    split
    · rw [if_pos rfl]
    · rw [if_neg (by omega)]
  subst ht
  refine completes_act (by unfold exec execFlumeEmit; rfl) hheld ?_
  refine (if_neg (by simp [hs, hopen, hwaits])).trans ?_
  rw [← hport]

theorem emitNext_of_certs {s : State} {c : Nat} {e : CertEnt} {l : List CertEnt}
    (h : look c s.flume.certs = some (e :: l)) : emitNext s c = emitCerts s c (e :: l) := by
  unfold emitNext
  simp only [h]

theorem emitNext_of_noCerts {s : State} {c : Nat}
    (h : look c s.flume.certs = none ∨ look c s.flume.certs = some []) : emitNext s c =
      match s.flume.delivery with
      | none => s
      | some d =>
        match d.chains.find? (fun x => x.chain == c) with
        | none => s
        | some x =>
          match x.tiles.find? (fun t => t.repairs != []) with
          | some t => emitRepair s d x t (t.repairs.headD 0)
          | none =>
            match x.tiles.find? (fun t => decide (t.sent < t.pkts.length)) with
            | some t => emitRegion s d x t
            | none => if x.committed.isNone || x.again.isSome then emitCommit s d x else s := by
  unfold emitNext
  obtain h | h := h <;> rw [h] <;> rfl

/-- A chain without certificates to send goes by what its delivery has left. -/
theorem flumeEmit_delivery {s t u v : State} {c : Nat} (hheld : s.boot.held = false) (hs : s.id.sender = true) (hc : c < 8)
    (hopen : chainOpen s c = true) (hwaits : flumeWaits s c = true)
    (ht : t = toLt (max (portBusy s (if s.link.guests.contains c then 8 else c)) ((look c s.flume.pace).getD 0)) s)
    (hu : u = (if s.link.guests.contains c then t else ctlFirst 16 t c))
    (hcerts : look c u.flume.certs = none ∨ look c u.flume.certs = some [])
    (hv : (match u.flume.delivery with
      | none => u
      | some d =>
        match d.chains.find? (fun x => x.chain == c) with
        | none => u
        | some x =>
          match x.tiles.find? (fun t => t.repairs != []) with
          | some t => emitRepair u d x t (t.repairs.headD 0)
          | none =>
            match x.tiles.find? (fun t => decide (t.sent < t.pkts.length)) with
            | some t => emitRegion u d x t
            | none => if x.committed.isNone || x.again.isSome then emitCommit u d x else u) = v) :
    Completes (.flumeEmit c) s v := by
  have hdone := flumeEmit_completes hheld hs hc hopen hwaits ht hu
  rwa [(emitNext_of_noCerts hcerts).trans hv] at hdone

/-! ### What the sender learns of a delivery (05 R103, R105 to R108) -/

/-- A packet that fails its check goes nowhere (06 R118). -/
theorem upstreamIn_of_bad {s : State} {c t : Nat} {k : LinkPkt} {f : FlumeHdr → List Byte → State → State}
    (hbad : linkGood k = false) : upstreamIn c t k f s = s := by
  have hnone : flumeBody k t = none := by
    unfold flumeBody
    cases flumeHdr k with
    | none => rfl
    | some h => exact if_neg (by simp [hbad])
  unfold upstreamIn
  rw [hnone]
  exact ite_self s

theorem upstreamIn_of_tile {s : State} {c t : Nat} {k : LinkPkt} {h : FlumeHdr} {b : List Byte}
    {f : FlumeHdr → List Byte → State → State} (H : FromTile s c t k h b) : upstreamIn c t k f s = f h b s := by
  unfold upstreamIn
  simp only [H.body]
  have hlow := H.low
  have hhigh := H.high
  rw [if_neg (by simp [H.sender]), if_neg (by omega), if_neg (not_not.mpr H.chain)]

theorem nackReceived_completes {s t : State} {c : Nat} {k : LinkPkt} (hheld : s.boot.held = false)
    (hrail : ownRail s k = true) (ht : countBad (upstreamIn c 4 k (takeNack c) s) c k = t) :
    Completes (.nackReceived c k.toLinkStart k.data k.toLinkTerm) s t := by
  refine completes_act (by unfold exec execNackReceived; rfl) hheld ?_
  have hrail' : ownRail s (LinkPkt.of k.toLinkStart k.data k.toLinkTerm) = true := hrail
  simp only [hrail', if_true]
  exact ht

theorem reportReceived_completes {s t : State} {c : Nat} {k : LinkPkt} (hheld : s.boot.held = false)
    (hrail : ownRail s k = true) (ht : countBad (upstreamIn c 5 k (takeReport c) s) c k = t) :
    Completes (.reportReceived c k.toLinkStart k.toLinkRest) s t := by
  refine completes_act (by unfold exec execReportReceived; rfl) hheld ?_
  have hrail' : ownRail s ⟨k.toLinkStart, k.toLinkRest⟩ = true := hrail
  simp only [hrail', if_true]
  exact ht

section
variable {s : State} {d : Delivery} {c : Nat} {x : ChainPlan} {h : FlumeHdr} {b : List Byte} {t : TilePlan}
  (hd : s.flume.delivery = some d) (hx : d.chains.find? (fun x => x.chain == c) = some x)
include hd hx

theorem takeNack_of_other {ranges : List (Nat × Nat)} (hb : readNack b = some ranges) (hne : d.frame ≠ h.frame) :
    takeNack c h b s = s := by
  unfold takeNack
  simp only [hd, hb, hx, decide_eq_false hne]

variable (ht : x.tiles.find? (fun t => t.na == h.dna) = some t)
include ht

theorem takeNack_of_tile {ranges : List (Nat × Nat)} {want : List Nat} (hb : readNack b = some ranges)
    (heq : d.frame = h.frame) (hwant : want = (nackList ranges).filter (fun i =>
      decide (i < t.sent) && !t.repairs.contains i
        && (match t.pkts[i]? with | some p => decide (p.tries < getF s flmRepair 23 20) | none => false))) :
    takeNack c h b s = setChain s d (setTile x { t with
      repairs := t.repairs ++ want
      pkts := t.pkts.map (fun p => if want.contains p.pidx then { p with tries := p.tries + 1 } else p) }) := by
  subst hwant
  unfold takeNack
  simp only [hd, hb, hx, decide_eq_true heq, ht] <;> rfl

theorem takeReport_of_tile {r0 r : Report} (hb : readReport h.frame b = some r0) (hr : r = reportHere s r0)
    (hframe : r.frame = d.frame) : takeReport c h b s =
      if r.kind = 3 then resyncTile (setChain s d (setTile x { t with failed := true })) h.dna r.frame
      else if r.kind = 1 ∧ !t.received ∧ !t.failed then takeReceived s d x t r
      else s := by
  subst hr
  unfold takeReport
  simp only [hb, hd, hx, ht]
  exact if_neg (not_not.mpr hframe)

end

/-- The chain with one tile marked as received. -/
def tileReceived (x : ChainPlan) (t : TilePlan) (r : Report) : ChainPlan :=
  setTile x { t with received := true, edge := some r.edge }

/-- A RECEIVED report before its time is out is taken, and moves the edge to the latest. -/
def reportTaken (s : State) (d : Delivery) (x : ChainPlan) (t : TilePlan) (r : Report) : State :=
  { setChain s d (tileReceived x t r) with
    flume := { (setChain s d (tileReceived x t r)).flume with
      ek := some (match s.flume.ek with | some e => laterW e r.edge | none => r.edge) } }

/-- With it the tile of a FULL delivery is no longer to be sent afresh. -/
def reportKept (s : State) (d : Delivery) (x : ChainPlan) (t : TilePlan) (r : Report) : State :=
  if t.full then setDmg (reportTaken s d x t r) { dmgOf (reportTaken s d x t r) t.na with resync := false }
  else reportTaken s d x t r

theorem takeReceived_eq (s : State) (d : Delivery) (x : ChainPlan) (t : TilePlan) (r : Report) :
    takeReceived s d x t r = match placeOfNa s t.na, x.committed with
      | some pl, some tc =>
        if 4 * cdiv (reportDue s pl tc) 4 = now s then
          commitAgain (reportKept s d x t r)
            { d with chains := d.chains.map (fun z => if z.chain = x.chain then tileReceived x t r else z) }
            (tileReceived x t r) pl
        else reportKept s d x t r
      | _, _ => reportKept s d x t r := by
  unfold takeReceived
  rfl

theorem takeReceived_of_early {s : State} {d : Delivery} {x : ChainPlan} {t : TilePlan} {r : Report}
    (hfull : t.full = false) (hearly : ∀ pl tc, placeOfNa s t.na = some pl → x.committed = some tc →
      4 * cdiv (reportDue s pl tc) 4 ≠ now s) : takeReceived s d x t r = reportTaken s d x t r := by
  have hkept : reportKept s d x t r = reportTaken s d x t r := if_neg (ne_true_of_eq_false hfull)
  rw [takeReceived_eq, hkept]
  split
  · next pl tc hpl htc => exact if_neg (hearly pl tc hpl htc)
  · rfl

/-- Of the state a commit again is judged by, a taken report changes nothing. -/
theorem reportKept_judged (s : State) (d : Delivery) (x : ChainPlan) (t : TilePlan) (r : Report) (l : List ChainPlan)
    (c n : Nat) (pl : BitVec 64) : inTime (reportKept s d x t r) { d with chains := l } c n pl = inTime s d c n pl
      ∧ getF (reportKept s d x t r) flmRepair 23 20 = getF s flmRepair 23 20 := by
  unfold reportKept
  split <;> exact ⟨rfl, rfl⟩

theorem commitAgain_of_due {s : State} {d : Delivery} {x : ChainPlan} {pl : BitVec 64} (hagain : x.again = none)
    (hrep : x.repeats < getF s flmRepair 23 20) (htime : inTime s d x.chain (commitBytes x.tiles.length) pl = true) :
    commitAgain s d x pl = setChain s d { x with repeats := x.repeats + 1, again := some pl } :=
  if_pos (by simp [hagain, hrep, htime])

/-- In the tick of its time-out a report is late, and the commit of its chain goes again. -/
theorem takeReceived_of_due {s : State} {d : Delivery} {x : ChainPlan} {t : TilePlan} {r : Report} {pl : BitVec 64}
    {tc : Nat} (hpl : placeOfNa s t.na = some pl) (htc : x.committed = some tc)
    (hdue : 4 * cdiv (reportDue s pl tc) 4 = now s) (hagain : x.again = none)
    (hrep : x.repeats < getF s flmRepair 23 20) (htime : inTime s d x.chain (commitBytes x.tiles.length) pl = true) :
    takeReceived s d x t r = setChain (reportKept s d x t r)
      { d with chains := d.chains.map (fun z => if z.chain = x.chain then tileReceived x t r else z) }
      { tileReceived x t r with repeats := x.repeats + 1, again := some pl } := by
  have hlen : (tileReceived x t r).tiles.length = x.tiles.length := List.length_map _
  rw [takeReceived_eq, hpl, htc]
  refine (if_pos hdue).trans (commitAgain_of_due hagain ?_ ?_)
  · rw [(reportKept_judged s d x t r [] 0 0 pl).2]
    exact hrep
  · rw [(reportKept_judged s d x t r _ _ _ pl).1, hlen]
    exact htime

/-- A chain put into a delivery that has one of its number stands there. -/
theorem mem_setChain {d : Delivery} {x y : ChainPlan} (hx : x ∈ d.chains) (hc : x.chain = y.chain) :
    y ∈ d.chains.map (fun z => if z.chain = y.chain then y else z) :=
  List.mem_map.mpr ⟨x, hx, if_pos hc⟩

theorem getF_toClk (c : Nat) (s : State) (i hi lo : Nat) : getF (toClk c s) i hi lo = getF s i hi lo := by
  unfold getF
  rw [rd_toClk]

theorem repairTimeout_completes {s s1 : State} {d : Delivery} {c : Nat} {na : BitVec 16} {x : ChainPlan} {t : TilePlan}
    {pl : BitVec 64} {tc : Nat} (hheld : s.boot.held = false) (hd : s.flume.delivery = some d)
    (hx : d.chains.find? (fun x => x.chain == c) = some x) (ht : x.tiles.find? (fun t => t.na == na) = some t)
    (hpl : placeOfNa s na = some pl) (htc : x.committed = some tc)
    (hs1 : s1 = toClk (tc + 2 * latTo s pl + 1000 + 1000 * getF s flmRepair 15 0) s) :
    Completes (.repairTimeout c na) s (if t.received || x.again.isSome then s else commitAgain s1 d x pl) := by
  have hdue : s1 = toClk (reportDue s pl tc) s := hs1
  rw [hdue]
  refine completes_act (by unfold exec execRepairTimeout; rfl) hheld ?_
  simp only [hd, hx, hpl, ht, htc]

theorem chain_of_find {d : Delivery} {c : Nat} {x : ChainPlan} (hx : d.chains.find? (fun x => x.chain == c) = some x) :
    x ∈ d.chains ∧ x.chain = c :=
  ⟨List.mem_of_find?_eq_some hx, by simpa using List.find?_some hx⟩

theorem commitAgain_of_late {s : State} {d : Delivery} {x : ChainPlan} {pl : BitVec 64}
    (h : getF s flmRepair 23 20 ≤ x.repeats ∨ inTime s d x.chain (commitBytes x.tiles.length) pl = false) :
    commitAgain s d x pl = s := by
  refine if_neg ?_
  obtain h | h := h
  · simp [Nat.not_lt.mpr h]
  · simp [h]

end Sys2Proof.Machine

namespace Sys2Proof.Proofs

open Sys2Proof.Machine Sys2Proof.Safety

/-- Settles O15: the start of a delivery, the order in which a chain sends, the reports of its tiles, and its end. -/
theorem deliveries : Obligations.Deliveries := by
  unfold Obligations.Deliveries
  refine ⟨fun s f hheld hs hf hnone hund hpend => ⟨fun hmode hhold hdeliv => ?_, fun hgo => ?_⟩,
    ⟨fun s d e hheld hd he => ?_, fun s na reason hheld hs => ⟨fun r hr => ?_, fun hno => ?_⟩,
      fun s c pl lat fwd hi lo hheld hs => ?_, fun s c rail below change dn br hheld hs => ?_,
      fun s c below hheld hs => ?_⟩,
    fun s c hheld hs hc => ⟨fun hno => ?_, fun hopen hwaits t ht u hu => ⟨fun e l hcerts => ?_, fun hcerts =>
      ⟨fun hidle => ?_, fun d x hd hx => ⟨fun t htile => ?_, fun hrepairs => ⟨fun t htile => ?_, fun hsent =>
        ⟨fun hcommit => ?_, fun hcommit => ?_⟩⟩⟩⟩⟩⟩,
    fun s c k hheld hrail hbad => ⟨?_, ?_⟩,
    fun s d c x k h b t hheld hd hx ht => ⟨fun ranges H hb => ⟨fun hne => ?_, fun heq want hwant => ?_⟩,
      fun r0 r H hb hr hframe => ⟨fun hkind => ?_, fun hkind hrec hfail => ⟨fun hfull hearly => ?_,
        fun pl tc hpl htc hdue hagain hrep htime => ?_⟩⟩,
      fun pl tc hpl htc => ⟨fun hdone' => ?_, fun hopen s1 hs1 => ⟨fun hrep htime => ?_, fun hlate => ?_⟩⟩⟩⟩
  · refine deliveryStart_completes hheld hs hf hnone hund hpend ((if_neg (not_not.mpr hmode)).trans
      ((if_neg (ne_true_of_eq_false hhold)).trans (by rw [hdeliv])))
  · by_cases hmode : s.pair.mode = 1
    · cases hhold : s.pair.holding with
      | true =>
        refine ⟨_, deliveryStart_completes hheld hs hf hnone hund hpend ((if_neg (not_not.mpr hmode)).trans (if_pos hhold)), ?_⟩
        exact deliveryStart_starts ((delivKept_of_spoke (spoke_twinSend _ _)).trans (delivKept_sendCanvas _ _)) rfl rfl rfl
      | false =>
        obtain h | h | ⟨n, hn⟩ := hgo
        · exact absurd hmode h
        · exact absurd h (by simp [hhold])
        · refine ⟨sendCanvas (startDelivery { s with pair := { s.pair with deliv := none } } f) f,
            deliveryStart_completes hheld hs hf hnone hund hpend ((if_neg (not_not.mpr hmode)).trans
              ((if_neg (by simp [hhold])).trans ?_)), deliveryStart_starts (delivKept_sendCanvas _ _) rfl rfl rfl⟩
          rw [hn]
          exact if_pos rfl
    · refine ⟨_, deliveryStart_completes hheld hs hf hnone hund hpend (if_pos hmode), ?_⟩
      exact deliveryStart_starts (.refl _) rfl rfl rfl
  · obtain ⟨s1, hs1⟩ : ∃ s1, s1 = toClk e s := ⟨_, rfl⟩
    obtain ⟨hnone, hek, htime⟩ := deliveryEnded_ends s1 d
    refine ⟨_, deliveryEdge_completes hheld hd he hs1, hnone, hek, ?_⟩
    rw [now, htime, hs1]
    exact toClk_reached e s
  · refine completes_act (by unfold exec execResyncReqReceived; rfl) hheld ?_
    refine (if_pos hs).trans ?_
    unfold resyncAll
    simp only [hr]
  · refine completes_act (by unfold exec execResyncReqReceived; rfl) hheld ?_
    refine (if_pos hs).trans ?_
    unfold resyncAll
    simp only [hno]
  · exact ⟨_, latencyReport_completes hheld hs rfl, hopReport_learns s pl lat fwd hi lo⟩
  · refine ⟨_, latencyReport_completes hheld hs rfl, ?_⟩
    exact crossKnown_knows s _
  · exact latencyReport_completes hheld hs rfl
  · refine completes_act (by unfold exec execFlumeEmit; rfl) hheld ?_
    refine if_pos ?_
    obtain h | h := hno <;> simp [h]
  · have hdone := flumeEmit_completes hheld hs hc hopen hwaits ht hu
    rwa [emitNext_of_certs hcerts] at hdone
  · refine flumeEmit_delivery hheld hs hc hopen hwaits ht hu hcerts ?_
    cases hd : u.flume.delivery with
    | none => rfl
    | some d => simp only [hidle d hd]
  · exact flumeEmit_delivery hheld hs hc hopen hwaits ht hu hcerts (by simp only [hd, hx, htile])
  · exact flumeEmit_delivery hheld hs hc hopen hwaits ht hu hcerts (by simp only [hd, hx, hrepairs, htile])
  · exact flumeEmit_delivery hheld hs hc hopen hwaits ht hu hcerts (by
      simp only [hd, hx, hrepairs, hsent, hcommit, if_true])
  · exact flumeEmit_delivery hheld hs hc hopen hwaits ht hu hcerts (by
      simp only [hd, hx, hrepairs, hsent, hcommit, Bool.false_eq_true, if_false])
  · refine nackReceived_completes hheld hrail ?_
    rw [upstreamIn_of_bad hbad]
    exact if_neg (ne_true_of_eq_false hbad)
  · refine reportReceived_completes hheld hrail ?_
    rw [upstreamIn_of_bad hbad]
    exact if_neg (ne_true_of_eq_false hbad)
  · refine nackReceived_completes hheld H.rail ((if_pos H.good).trans ?_)
    rw [upstreamIn_of_tile H, takeNack_of_other hd hx hb hne]
  · refine nackReceived_completes hheld H.rail ((if_pos H.good).trans ?_)
    rw [upstreamIn_of_tile H, takeNack_of_tile hd hx ht hb heq hwant]
  · refine reportReceived_completes hheld H.rail ((if_pos H.good).trans ?_)
    rw [upstreamIn_of_tile H, takeReport_of_tile hd hx ht hb hr hframe, if_pos hkind]
  · refine reportReceived_completes hheld H.rail ((if_pos H.good).trans ?_)
    rw [upstreamIn_of_tile H, takeReport_of_tile hd hx ht hb hr hframe, if_neg (by omega),
      if_pos ⟨hkind, by rw [hrec]; rfl, by rw [hfail]; rfl⟩, takeReceived_of_early hfull hearly]
    rfl
  · obtain ⟨hmem, hchain⟩ := chain_of_find hx
    have hdone : Completes (.reportReceived c k.toLinkStart k.toLinkRest) s (takeReceived s d x t r) := by
      refine reportReceived_completes hheld H.rail ((if_pos H.good).trans ?_)
      rw [upstreamIn_of_tile H, takeReport_of_tile hd hx ht hb hr hframe, if_neg (by omega),
        if_pos ⟨hkind, by rw [hrec]; rfl, by rw [hfail]; rfl⟩]
    rw [takeReceived_of_due hpl htc hdue hagain hrep (by rw [hchain]; exact htime)] at hdone
    exact ⟨_, _, _, hdone, rfl, mem_setChain (x := tileReceived x t r) (mem_setChain hmem rfl) rfl, hchain, rfl, rfl⟩
  · have hdone := repairTimeout_completes hheld hd hx ht hpl htc rfl
    rwa [if_pos hdone'] at hdone
  · have hdone := repairTimeout_completes hheld hd hx ht hpl htc hs1
    have htries : getF s1 flmRepair 23 20 = getF s flmRepair 23 20 := by rw [hs1, getF_toClk]
    obtain ⟨-, hagain⟩ : t.received = false ∧ x.again.isSome = false := Bool.or_eq_false_iff.mp hopen
    rwa [if_neg (ne_true_of_eq_false hopen), commitAgain_of_due (by simpa using hagain) (by rw [htries]; exact hrep)
      (by rw [(chain_of_find hx).2]; exact htime)] at hdone
  · have hdone := repairTimeout_completes hheld hd hx ht hpl htc hs1
    have htries : getF s1 flmRepair 23 20 = getF s flmRepair 23 20 := by rw [hs1, getF_toClk]
    rwa [if_neg (ne_true_of_eq_false hopen), commitAgain_of_late (by rw [htries, (chain_of_find hx).2]; exact hlate)]
      at hdone

end Sys2Proof.Proofs
end
